-- ==== Sys2Proof/Word.lean ====
section
/-!
DEFINITION. The word types of the Turuz 9 (00_scope R2): bytes, 32-bit words, 64-bit values held in register
pairs with the low half in the even register, and the widths of the spec's identifiers.
-/
namespace Sys2Proof

/-- Eight bits. -/
abbrev Byte := BitVec 8
/-- A 32-bit register or instruction word (R2). -/
abbrev Word := BitVec 32
/-- A 64-bit value (R2). -/
abbrev DWord := BitVec 64
/-- The PC and every virtual or physical address are 48 bits (R16, R242). -/
abbrev Addr := BitVec 48
/-- A 10-bit register number, `v0`-`v1023` (R135). -/
abbrev RegNo := BitVec 10
/-- A sparse table: the entries that differ from the table's default. -/
abbrev Table (α : Type) := List (Nat × α)

/-- A 64-bit value from the halves of a register pair: the low half is in the even register (R2). -/
def pairOf (lo hi : Word) : DWord := hi ++ lo
/-- The low word of a 64-bit value. -/
def loWord (x : DWord) : Word := x.extractLsb' 0 32
/-- The high word of a 64-bit value. -/
def hiWord (x : DWord) : Word := x.extractLsb' 32 32

/-- The entry of a sparse table at a key, if it is listed. -/
def Table.get? {α : Type} : Table α → Nat → Option α
  | [], _ => none
  | (k, v) :: t, n => if k = n then some v else Table.get? t n

/-- The entry of a sparse table at a key, or the default. -/
def Table.getD {α : Type} (t : Table α) (n : Nat) (d : α) : α := (Table.get? t n).getD d

/-- Removes a key from a sparse table. -/
def Table.erase {α : Type} : Table α → Nat → Table α
  | [], _ => []
  | (k, v) :: t, n => if k = n then Table.erase t n else (k, v) :: Table.erase t n

/-- Sets a key of a sparse table, keeping the keys in rising order. -/
def Table.set {α : Type} : Table α → Nat → α → Table α
  | [], n, x => [(n, x)]
  | (k, v) :: t, n, x =>
    if n < k then (n, x) :: (k, v) :: t
    else if k = n then (n, x) :: t
    else (k, v) :: Table.set t n x

theorem Table.get?_set_self {α : Type} (t : Table α) (n : Nat) (x : α) :
    Table.get? (Table.set t n x) n = some x := by
  induction t with
  | nil => simp [Table.set, Table.get?]
  | cons p t ih =>
    obtain ⟨k, v⟩ := p
    simp only [Table.set]
    split
    · simp [Table.get?]
    · split
      · simp [Table.get?]
      · rename_i h1 h2
        simp [Table.get?, h2, ih]

theorem Table.get?_set_other {α : Type} (t : Table α) (n m : Nat) (x : α) (h : m ≠ n) :
    Table.get? (Table.set t n x) m = Table.get? t m := by
  induction t with
  | nil => simp [Table.set, Table.get?, Ne.symm h]
  | cons p t ih =>
    obtain ⟨k, v⟩ := p
    simp only [Table.set]
    split
    · simp [Table.get?, Ne.symm h]
    · split
      · rename_i h1 h2
        subst h2
        simp [Table.get?, Ne.symm h]
      · by_cases hk : k = m <;> simp [Table.get?, hk, ih]

end Sys2Proof
end

