-- ==== Sys2Proof/Syntax.lean ====
section
/-!
DEFINITION. The operations of the Turuz 9, one constructor of `Instr` per row of the opcode table: the events and
commands of the module, and every form of every Wefen instruction (12_isa_encoding), with the fields of each format.
-/
namespace Sys2Proof

/-- Format S3 (Table 12.2): two sources and a destination in `v0`-`v127`; a literal replaces B (R253). -/
structure S3Form where
  gw : Bool
  b : BitVec 7
  a : BitVec 7
  d : BitVec 7
  lit : Option DWord
  deriving DecidableEq, Repr, Inhabited

/-- Format SI (Table 12.2): an immediate and two registers; a literal replaces IMM8, or the time of `sleep` (R253). -/
structure SiForm where
  imm8 : BitVec 8
  a : BitVec 7
  d : BitVec 7
  lit : Option DWord
  deriving DecidableEq, Repr, Inhabited

/-- Format SB (Table 12.2): a branch. -/
structure SbForm where
  off14 : BitVec 14
  prio : BitVec 8
  deriving DecidableEq, Repr, Inhabited

/-- Format SW (Table 12.2): the thresholds of `wait`. -/
structure SwForm where
  cl : BitVec 4
  mx : BitVec 4
  cp : BitVec 4
  st : BitVec 5
  ld : BitVec 5
  deriving DecidableEq, Repr, Inhabited

/-- The predicate fields P, PN and PE of an extended format (Table 12.4, R136). -/
structure Pred where
  pn : Bool
  pe : Bool
  p : RegNo
  deriving DecidableEq, Repr, Inhabited

/-- Format XR (Tables 12.4 and 12.5): three routed sources, a destination and the sub-operation FX:FY. -/
structure XrForm where
  gap : BitVec 2
  a : RegNo
  d : RegNo
  sub : BitVec 4
  gw : Bool
  ra : BitVec 9
  rb : BitVec 9
  rc : BitVec 9
  b : RegNo
  c : RegNo
  pred : Pred
  lit : Option DWord
  deriving DecidableEq, Repr, Inhabited

/-- Format XM (Tables 12.4 and 12.6): an address and a data operand. -/
structure XmForm where
  gap : BitVec 2
  a : RegNo
  d : RegNo
  sub : BitVec 4
  gw : Bool
  as : BitVec 3
  size : BitVec 3
  scope : BitVec 3
  ofs : BitVec 20
  aux : BitVec 8
  b : RegNo
  pred : Pred
  lit : Option DWord
  deriving DecidableEq, Repr, Inhabited

/-- Format XT (Tables 12.4 and 12.7): the tile engines. -/
structure XtForm where
  gap : BitVec 2
  a : RegNo
  d : RegNo
  sub : BitVec 4
  gw : Bool
  flags : BitVec 7
  fmt : BitVec 4
  h : BitVec 8
  b : RegNo
  aux : BitVec 8
  c : RegNo
  pred : Pred
  deriving DecidableEq, Repr, Inhabited

/-- Format XB (Tables 12.4 and 12.8): a branch with a 32-bit byte offset. -/
structure XbForm where
  gap : BitVec 2
  d : RegNo
  tgt : BitVec 32
  prio : BitVec 8
  pred : Pred
  deriving DecidableEq, Repr, Inhabited

/-- Who writes a device register: a control hart in a privilege mode, or a core (R24, R53, R61, R380). -/
inductive Writer
  | machine | supervisor | user | core
  deriving DecidableEq, Repr, Inhabited

/-- A write to the service range (R380): its address, its width in bytes, its data and who makes it. -/
structure RegWrite where
  addr : Addr
  bytes : Nat
  data : DWord
  by_ : Writer
  deriving DecidableEq, Repr, Inhabited

/-- A flit on a halyard port (Table 2.2). -/
structure Flit where
  kind : BitVec 4
  vc : BitVec 4
  lseq : BitVec 12
  lack : BitVec 12
  payload : List Byte
  crc : BitVec 32
  deriving DecidableEq, Repr, Inhabited

/-- A packet: the transport header of Table 2.3 and its data. -/
structure Packet where
  dst : BitVec 12
  src : BitVec 12
  hops : BitVec 4
  flow : BitVec 3
  ord : Bool
  seq : BitVec 32
  op : BitVec 8
  handle : BitVec 20
  midx : BitVec 12
  len : BitVec 9
  sctx : BitVec 12
  z1 : BitVec 3
  va : Addr
  z2 : BitVec 16
  aux : DWord
  data : List Byte
  deriving DecidableEq, Repr, Inhabited

/-- A DMA request of a PCI Express requester behind a root port (R59-R61), at an address that the port die's IOMMU translates:
data to write, or none for a read of `len` bytes. -/
structure DmaReq where
  port : Nat
  rid : BitVec 16
  addr : DWord
  write : Option (List Byte)
  len : Nat
  deriving DecidableEq, Repr, Inhabited

/-- The kind of a memory access, for the permission check of R199. -/
inductive Access
  | load | store | atomic | fetch
  deriving DecidableEq, Repr, Inhabited

/-- A request to an L2 slice (R184-R191): who asks (a group of a core, or an agent outside the cores), under which key ID and
seed and HOME, for which bytes, and with which data to write. -/
structure SliceReq where
  core : Option Nat
  slot : Nat
  ctx : Nat
  home : BitVec 4
  key : BitVec 12
  pa : Addr
  len : Nat
  write : Option (List Byte)
  deriving DecidableEq, Repr, Inhabited

/-- The operations of the opcode table, in its order but for events without operands, which stand last. -/
inductive Instr
  /-- BOOT_IMAGE_I3C (R54): When both flash slots have failed, a replacement image arrives over the I3C target interface and is accepted under R53. -/
  | bootImageI3c (image : List Byte)
  /-- SUPPLY_INPUT_CHANGE (R21): The DC input crosses a threshold; this starts or restarts the 1 ms low-input timer or an excursion into a tolerance band. -/
  | supplyInputChange (mv : Nat)
  /-- THERMAL_THROTTLE (R23): Junction temperature reaches 105 °C, so the matrix pass rate and the vector issue slots are reduced. -/
  | thermalThrottle (degC : Nat)
  /-- THERMAL_RELEASE (R23): Junction temperature falls below 100 °C, so the thermal reductions end. -/
  | thermalRelease (degC : Nat)
  /-- THERMAL_SHUTDOWN (R23): Junction temperature reaches 115 °C, so the module performs an orderly shutdown. -/
  | thermalShutdown (degC : Nat)
  /-- POWER_COMPARE (R24): Once every 1 ms, measured power is compared with CAP, and the capping reductions and CAPPED are applied or removed. -/
  | powerCompare (watts : Nat)
  /-- PWRCAP_WRITE (R24): A write to PWRCAP.CAP stores the cap, clamped to the range 800-2,600 W; it takes effect at the next comparison. -/
  | pwrcapWrite (w : RegWrite)
  /-- REGISTER_WRITE (R380): A write to a service-range register that has no behaviour of its own updates its RW fields, per 8-byte or 4-byte half. -/
  | registerWrite (w : RegWrite)
  /-- FUSEADV_WRITE (R53): A machine-mode write of 1 to FUSEADV schedules the next rollback-floor fuse bit to be blown at the next reset. -/
  | fuseadvWrite (w : RegWrite)
  /-- KEY_LOAD (R58): KEYCMD OP 1 installs KEYDATA under an EMPTY key ID, then clears KEYDATA. -/
  | keyLoad (w : RegWrite)
  /-- KEY_RETIRE (R58): KEYCMD OP 2 sets a LOADED key ID to RETIRING, so that new accesses under it are refused, and starts its write-back. -/
  | keyRetire (w : RegWrite)
  /-- KEY_QUERY (R58): KEYCMD OP 3 reports KSTATE of the key ID. -/
  | keyQuery (w : RegWrite)
  /-- UZBELL_WRITE (R72): A doorbell write for queue q makes Uzoman read the queue's descriptor if it is new, and take the commands that are available. -/
  | uzbellWrite (w : RegWrite)
  /-- LIVE_UPDATE (R63): Setting UZCTL.GO makes Uzoman copy the KIND 2 image at UZIMG into the staging half and verify it. -/
  | liveUpdate (w : RegWrite)
  /-- REPAIR_RETIRE (R69): REPCTL OP 1 retires a cluster, a slice or a halyard port. -/
  | repairRetire (w : RegWrite)
  /-- REPAIR_RESTORE (R69): REPCTL OP 2 restores a retired unit after it passes its built-in self-test. -/
  | repairRestore (w : RegWrite)
  /-- REPAIR_RETRAIN (R69): REPCTL OP 3 starts a retrain of a halyard port. -/
  | repairRetrain (w : RegWrite)
  /-- REPAIR_DONE (R68): A running repair finishes, writes RESULT and clears BUSY. -/
  | repairDone (selfTestPass : Bool)
  /-- HPSTAT_RETRAIN (R28): Writing 1 to HPSTAT.RETRAIN starts a retrain of the port. -/
  | hpstatRetrain (w : RegWrite)
  /-- HPSTAT_DISABLE (R28): Writing HPSTAT.DISABLE holds the port down and removes it from every routing mask, or releases it. -/
  | hpstatDisable (w : RegWrite)
  /-- PORT_TRAIN (R26): A halyard port trains to 8 lanes, to 4 lanes at half rate, or stays down. -/
  | portTrain (port goodLanes : Nat)
  /-- FLIT_RECEIVE (R30): A flit arrives; a bad CRC or an LSEQ gap discards it and every later flit and sends a negative acknowledge. -/
  | flitReceive (port : Nat) (f : Flit)
  /-- FLIT_NAK (R30): A negative acknowledge makes the sender resend every flit after the named LSEQ. -/
  | flitNak (port : Nat) (named : BitVec 12)
  /-- LINK_RETRAIN (R30): Eight consecutive replays that include one flit start a retrain of the link, keeping the replay buffer. -/
  | linkRetrain (port : Nat)
  /-- RETRAIN_DONE (R30): A retrain ends, with the port up again or counted as failed. -/
  | retrainDone (port goodLanes : Nat)
  /-- PACKET_RECEIVE (R39): A packet for this device is checked and then applied, held early, parked, or answered negatively. -/
  | packetReceive (k : Nat)
  /-- PACKET_TRANSIT (R27): A packet for another device decrements HOPS and is forwarded by the least-occupied port of its mask, or discarded. -/
  | packetTransit (k : Nat)
  /-- PACKET_ACK (R33): A cumulative acknowledgement completes the sender's packets, and the operations that they finish retire in cl. -/
  | packetAck (k : Nat)
  /-- PACKET_NAK (R45): A negative acknowledge completes the sender's packet negatively with its reason code. -/
  | packetNak (k : Nat)
  /-- PACKET_RESEND_TIMEOUT (R33): A packet not acknowledged within 20 µs is resent. -/
  | packetResendTimeout (id : Nat)
  /-- PACKET_UNREACHABLE_TIMEOUT (R34): A packet not acknowledged within 2 ms of its first transmission is recorded UNREACHABLE and no longer resent. -/
  | packetUnreachableTimeout (id : Nat)
  /-- OFFER_SEND (R47): An improved module value of a linked incumbent is sent as an offer packet to the group's members, at most once per 1 µs. -/
  | offerSend (ctx inc : Nat)
  /-- OFFER_RECEIVE (R47): An arriving incumbent offer is applied as a relaxed incx at the module value, or dropped. -/
  | offerReceive (k : Nat)
  /-- SWITCH_GROUP_REPORT (R367): A first-tier switch reports or withdraws a switch group ID on its port. -/
  | switchGroupReport (port : Nat) (sgid : BitVec 32) (present : Bool)
  /-- DMA_REQUEST (R61): A PCI Express DMA request takes its key ID from the device-key table, or completes with Unsupported Request. -/
  | dmaRequest (r : DmaReq)
  /-- NOP (R80): Command NOP has no effect and completes at once. -/
  | cmdNop (cmd : Nat)
  /-- CREATE (R88): Command CREATE reads a context descriptor and creates the context. -/
  | cmdCreate (cmd : Nat)
  /-- DESTROY (R82): Command DESTROY ends every grid of the context and releases its state. -/
  | cmdDestroy (cmd : Nat)
  /-- RESUME (R90): Command RESUME validates a resume image and queues the grid's hitches for placement. -/
  | cmdResume (cmd : Nat)
  /-- PREEMPT (R82): Command PREEMPT stops the named RESUME's grid into a full image. -/
  | cmdPreempt (cmd : Nat)
  /-- CALL (R85): Command CALL runs an indirect buffer of command records. -/
  | cmdCall (cmd : Nat)
  /-- REPLY (R95): Command REPLY writes a value into v0 of the lane holding the token and unparks that lane. -/
  | cmdReply (cmd : Nat)
  /-- STAMP (R80): Command STAMP writes TIME to a VA as a release at .sys. -/
  | cmdStamp (cmd : Nat)
  /-- COMMAND_SEMAPHORE_START (R84): A command waiting on its WS semaphore starts once an acquire reads the word as at least WVAL. -/
  | commandSemaphoreStart (cmd : Nat)
  /-- EVENT_QUEUE_RECHECK (R78): Uzoman rereads a full event queue's CONSUMED at a doorbell or every 10 µs, and resumes posting when it finds room. -/
  | eventQueueRecheck (q : Nat)
  /-- LANYARD_PLACE (R101): A leaf controller places a hitch's teams on free cores, with their slots, registers and scratchpad. -/
  | lanyardPlace (cl : Nat)
  /-- LANYARD_PLACED (R98): A PLACED message reports the cores that a hitch used. -/
  | lanyardPlaced (cl : Nat)
  /-- LANYARD_TEAMEND (R102): A TEAMEND message reports that a whole hitch has exited, and frees its cores. -/
  | lanyardTeamend (cl : Nat)
  /-- LANYARD_PREEMPT (R108): A PREEMPT message makes the leaf controller stop and save the resident teams of the grid or cluster. -/
  | lanyardPreempt (cl : Nat)
  /-- LANYARD_SAVED (R109): A SAVED message reports the team records written; once every cluster has answered, PREEMPT completes. -/
  | lanyardSaved (cl : Nat)
  /-- LANYARD_RETIRE (R111): A RETIRE message drains the cluster, pre-empting every resident hitch. -/
  | lanyardRetire (cl : Nat)
  /-- LANYARD_PERMIT (R98): A PERMIT message returns send permits. -/
  | lanyardPermit (cl : Nat) (up : Bool)
  /-- PERMIT_RETURN_TIMEOUT (R98): With no message to send within 1 µs of consuming one, the receiver sends a PERMIT message. -/
  | permitReturnTimeout (cl : Nat) (up : Bool)
  /-- GROUP_STOP (R108): A group reaches a pre-emption boundary, drains its engines and discards its registers. -/
  | groupStop (core slot : Nat)
  /-- REGISTER_GRANT (R103): The request at the head of the register queue is granted once free registers cover it. -/
  | registerGrant (core : Nat)
  /-- SLEEP_WAKE (R97): A sleeping group becomes eligible once TIME reaches its target. -/
  | sleepWake (core slot : Nat)
  /-- PRESENCE_WATCHDOG (R164): A load parked on an absent sector for longer than 2^24 ac raises trap 0x13. -/
  | presenceWatchdog (core slot : Nat)
  /-- INCUMBENT_PROPAGATE (R117): An incumbent value moves from one replica stage to the next within its stage bound. -/
  | incumbentPropagate (ctx inc stage idx : Nat)
  /-- MALFORMED_TASK_TRAP (R129): A malformed record handed to a lane parked in tnext raises trap 0x02 at the group's next instruction boundary. -/
  | malformedTaskTrap (core slot : Nat)
  /-- SYSCALL_REQUEST_POST (R94): Lanes whose syscall requests found the queue full post them as room frees, with a further interrupt. -/
  | syscallRequestPost (core slot : Nat)
  /-- LOAD_COMPLETE (R161): A load's data return and its destination is written, retiring in ld in issue order. -/
  | loadComplete (core slot k : Nat) (lanes : BitVec 64)
  /-- STORE_DRAIN (R207): A store or atomic leaves the group's store queue and performs. -/
  | storeDrain (core slot : Nat)
  /-- SLICE_REQUEST (R184): An L2 slice accepts a request and serves it, answers REMAP, or bypasses. -/
  | sliceRequest (r : SliceReq)
  /-- REMAP_RECEIVE (R188): A requester answered REMAP refreshes its slice map and reissues the request. -/
  | remapReceive (k : Nat)
  /-- PAGE_WALK (R199): A translation walk completes with a leaf, a permission failure or a translation fault. -/
  | pageWalk (core ctx : Nat) (va : Addr) (acc : Access)
  /-- FAULT_RECORD_ENQUEUE (R204): A fault record waiting for room in the fault queue is enqueued once room frees. -/
  | faultRecordEnqueue (slot : Nat)
  /-- FAULT_RETRY (R205): Response 1 RETRY releases the slot, and its requesters translate again. -/
  | faultRetry (slot : Nat)
  /-- FAULT_DELIVER (R205): Response 2 DELIVER raises trap 0x09 in groups, faults engines with 0x0A and answers halyard packets PERM. -/
  | faultDeliver (slot : Nat)
  /-- FAULT_END (R205): Response 3 END, or any other non-zero value, ends the context with a KIND 3 event. -/
  | faultEnd (slot : Nat)
  /-- COPY_SECTOR_DELIVER (R164): A copy finishes writing a sector: its pending count falls, presence may be set, and the barrier is credited. -/
  | copySectorDeliver (core op piece : Nat)
  /-- MATRIX_OP_COMPLETE (R171): A matrix or routine engine operation completes and retires in mx in issue order. -/
  | matrixOpComplete (core : Nat)
  /-- NOP_SZ (R291): Base-form nop has no effect. -/
  | nopSz
  /-- NOP_XR (R291): Extended-form nop carries GAP or GW and has no other effect. -/
  | nopXr (f : XrForm)
  /-- WAIT_SW (R291): wait holds the group until every counter is at or below its threshold, delivering covered faults. -/
  | waitSw (f : SwForm)
  /-- SEAL_SZ (R291): Base-form seal closes the open copy batch and adds 1 to cp. -/
  | sealSz
  /-- SEAL_XR (R291): Extended-form seal closes the open copy batch. -/
  | sealXr (f : XrForm)
  /-- RGN_SZ (R149): rgn opens a region, checkpointing its live-in registers, and closes the deferral window. -/
  | rgnSz (ranges : DWord)
  /-- GROW_SI (R294): Base-form grow raises the private-register count, granted at once or queued. -/
  | growSi (f : SiForm)
  /-- GROW_XR (R294): Extended-form grow takes the new register count from B. -/
  | growXr (f : XrForm)
  /-- SHRINK_SI (R294): Base-form shrink lowers the private-register count and frees the registers. -/
  | shrinkSi (f : SiForm)
  /-- SHRINK_XR (R294): Extended-form shrink takes the new register count from B. -/
  | shrinkXr (f : XrForm)
  /-- FENCE_SI (R292): Base-form fence acts as a release followed by an acquire at its scope. -/
  | fenceSi (f : SiForm)
  /-- FENCE_XR (R292): Extended-form fence takes its scope from B. -/
  | fenceXr (f : XrForm)
  /-- TRAP_SZ (R298): Base-form trap raises trap 0x10 with subcause n for the active lanes. -/
  | trapSz (f : SiForm)
  /-- TRAP_XR (R298): Extended-form trap takes its subcause from B. -/
  | trapXr (f : XrForm)
  /-- RTI_SZ (R299): Base-form rti reloads v0-v15 from the frame and continues at the frame's PC. -/
  | rtiSz
  /-- RTI_XR (R299): Extended rti with SUB 0 returns to the frame's PC. -/
  | rtiXr (f : XrForm)
  /-- RTI_NEXT_XR (R299): rti.next returns to the instruction after the frame's PC. -/
  | rtiNextXr (f : XrForm)
  /-- RTI_RGN_XR (R299): rti.rgn restarts the handler lanes at their region heads. -/
  | rtiRgnXr (f : XrForm)
  /-- SYSCALL_SI (R301): Base-form syscall posts one request per active lane and parks that lane for its reply. -/
  | syscallSi (f : SiForm)
  /-- SYSCALL_XR (R301): Extended-form syscall posts requests and parks the lanes. -/
  | syscallXr (f : XrForm)
  /-- IRQ_SI (R301): Base-form irq posts one KIND 2 event and interrupts the operating system. -/
  | irqSi (f : SiForm)
  /-- IRQ_XR (R301): Extended-form irq takes its code from B. -/
  | irqXr (f : XrForm)
  /-- BRK_SZ (R298): Base-form brk raises trap 0x11 for the active lanes. -/
  | brkSz
  /-- BRK_XR (R298): Extended-form brk raises trap 0x11. -/
  | brkXr (f : XrForm)
  /-- SID_SI (R303): Base-form sid writes the selected identity value to each active lane. -/
  | sidSi (f : SiForm)
  /-- SID_XR (R303): Extended-form sid takes its selector from B. -/
  | sidXr (f : XrForm)
  /-- EXIT_SZ (R305): Base-form exit ends each active lane. -/
  | exitSz
  /-- EXIT_XR (R305): Extended-form exit ends each active lane. -/
  | exitXr (f : XrForm)
  /-- GCTL_XR (R304): gctl reads, writes, sets or clears bits of the group control word. -/
  | gctlXr (f : XrForm)
  /-- SLEEP_SI (R302): Base-form sleep parks the group until an absolute or relative TIME target. -/
  | sleepSi (f : SiForm)
  /-- SLEEP_XR (R302): Extended-form sleep takes its mode from B and its time from the A pair. -/
  | sleepXr (f : XrForm)
  /-- ADD_S3 (R264): Base-form i32 add. -/
  | addS3 (f : S3Form)
  /-- ADD_XR (R264): Extended-form integer add, modulo 2^n. -/
  | addXr (f : XrForm)
  /-- SUB_S3 (R264): Base-form i32 subtract. -/
  | subS3 (f : S3Form)
  /-- SUB_XR (R264): Extended-form integer subtract. -/
  | subXr (f : XrForm)
  /-- MUL_S3 (R264): Base-form i32 multiply, low half. -/
  | mulS3 (f : S3Form)
  /-- MUL_XR (R264): Extended-form integer multiply, low half. -/
  | mulXr (f : XrForm)
  /-- MULH_XR (R264): mulh writes the high half of the integer product. -/
  | mulhXr (f : XrForm)
  /-- MAD_XR (R264): mad writes A x B + C modulo 2^n. -/
  | madXr (f : XrForm)
  /-- DIV_XR (R265): div writes the truncated quotient, flagging division by zero and overflow. -/
  | divXr (f : XrForm)
  /-- REM_XR (R265): rem writes the remainder, with the sign of the dividend. -/
  | remXr (f : XrForm)
  /-- MIN_S3 (R264): Base-form i32 minimum. -/
  | minS3 (f : S3Form)
  /-- MIN_XR (R264): Extended-form integer minimum. -/
  | minXr (f : XrForm)
  /-- MAX_S3 (R264): Base-form i32 maximum. -/
  | maxS3 (f : S3Form)
  /-- MAX_XR (R264): Extended-form integer maximum. -/
  | maxXr (f : XrForm)
  /-- ABS_XR (R264): abs writes the absolute value, modulo 2^n. -/
  | absXr (f : XrForm)
  /-- NEG_XR (R264): neg writes the negation, modulo 2^n. -/
  | negXr (f : XrForm)
  /-- CMP_XR (R266): cmp writes 1 or 0 for eq, ne, lt or le in the type. -/
  | cmpXr (f : XrForm)
  /-- SEL_XR (R264): sel selects A where C is non-zero, else B. -/
  | selXr (f : XrForm)
  /-- LOP3_XR (R267): lop3 updates D bitwise from D, A and C through an 8-bit table. -/
  | lop3Xr (f : XrForm)
  /-- SHL_SI (R263): Base-form shift left by an immediate count. -/
  | shlSi (f : SiForm)
  /-- SHL_XR (R264): Extended-form shift left by B. -/
  | shlXr (f : XrForm)
  /-- SHR_SI (R263): Base-form logical shift right by an immediate count. -/
  | shrSi (f : SiForm)
  /-- SHR_XR (R264): Extended-form logical shift right by B. -/
  | shrXr (f : XrForm)
  /-- SAR_SI (R263): Base-form arithmetic shift right by an immediate count. -/
  | sarSi (f : SiForm)
  /-- SAR_XR (R264): Extended-form arithmetic shift right by B. -/
  | sarXr (f : XrForm)
  /-- FSHL_XR (R264): fshl is a funnel shift left of A:B by C. -/
  | fshlXr (f : XrForm)
  /-- FSHR_XR (R264): fshr is a funnel shift right of A:B by C. -/
  | fshrXr (f : XrForm)
  /-- PCNT_XR (R264): pcnt counts the one bits. -/
  | pcntXr (f : XrForm)
  /-- CLZ_XR (R264): clz counts the leading zero bits. -/
  | clzXr (f : XrForm)
  /-- CTZ_XR (R264): ctz counts the trailing zero bits. -/
  | ctzXr (f : XrForm)
  /-- BREV_XR (R264): brev reverses the bit order. -/
  | brevXr (f : XrForm)
  /-- BFE_XR (R268): bfe extracts a bit field, zero- or sign-extended. -/
  | bfeXr (f : XrForm)
  /-- BFI_XR (R268): bfi inserts a bit field of A into D. -/
  | bfiXr (f : XrForm)
  /-- MOV_S3 (R264): Base-form mov copies B with its tag. -/
  | movS3 (f : S3Form)
  /-- MOV_XR (R264): Extended-form mov copies a register or a pair. -/
  | movXr (f : XrForm)
  /-- LEA_XR (R269): lea adds an extended, shifted index to a 64-bit base. -/
  | leaXr (f : XrForm)
  /-- PRMT_XR (R270): prmt assembles D from selected bytes of A:B. -/
  | prmtXr (f : XrForm)
  /-- FADD_S3 (R271): Base-form f32 add. -/
  | faddS3 (f : S3Form)
  /-- FADD_XR (R271): Extended-form float add. -/
  | faddXr (f : XrForm)
  /-- FSUB_S3 (R271): Base-form f32 subtract. -/
  | fsubS3 (f : S3Form)
  /-- FSUB_XR (R271): Extended-form float subtract. -/
  | fsubXr (f : XrForm)
  /-- FMUL_S3 (R271): Base-form f32 multiply. -/
  | fmulS3 (f : S3Form)
  /-- FMUL_XR (R271): Extended-form float multiply. -/
  | fmulXr (f : XrForm)
  /-- FFMA_XR (R271): ffma writes A x B + C, rounded once. -/
  | ffmaXr (f : XrForm)
  /-- FMIN_S3 (R273): Base-form f32 minimum. -/
  | fminS3 (f : S3Form)
  /-- FMIN_XR (R273): Extended-form float minimum, propagating NaN. -/
  | fminXr (f : XrForm)
  /-- FMAX_S3 (R273): Base-form f32 maximum. -/
  | fmaxS3 (f : S3Form)
  /-- FMAX_XR (R273): Extended-form float maximum, propagating NaN. -/
  | fmaxXr (f : XrForm)
  /-- FABS_XR (R273): fabs clears the sign. -/
  | fabsXr (f : XrForm)
  /-- FNEG_XR (R273): fneg inverts the sign. -/
  | fnegXr (f : XrForm)
  /-- FCMP_XR (R274): fcmp writes a float comparison result. -/
  | fcmpXr (f : XrForm)
  /-- FDIV_XR (R271): fdiv writes the quotient, rounded once. -/
  | fdivXr (f : XrForm)
  /-- FSQRT_XR (R271): fsqrt writes the square root. -/
  | fsqrtXr (f : XrForm)
  /-- FRCP_XR (R272): frcp writes the reciprocal. -/
  | frcpXr (f : XrForm)
  /-- FRSQ_XR (R272): frsq writes the reciprocal square root. -/
  | frsqXr (f : XrForm)
  /-- EX2S_XR (R272): ex2s writes 2^(A x B − C), rounded once. -/
  | ex2sXr (f : XrForm)
  /-- LG2_XR (R272): lg2 writes the base-2 logarithm. -/
  | lg2Xr (f : XrForm)
  /-- FCLS_XR (R275): fcls sets one bit for the float class of A. -/
  | fclsXr (f : XrForm)
  /-- FRND_XR (R276): frnd rounds to an integral value under a mode. -/
  | frndXr (f : XrForm)
  /-- CVT_XR (R277): cvt converts between integer and float formats. -/
  | cvtXr (f : XrForm)
  /-- ORDF_XR (R279): ordf maps floats to order-preserving integers, and back. -/
  | ordfXr (f : XrForm)
  /-- TAGSET_XR (R280): tagset writes A with a new tag. -/
  | tagsetXr (f : XrForm)
  /-- TAGQ_XR (R280): tagq writes the tag of A as n32. -/
  | tagqXr (f : XrForm)
  /-- KPACK_XR (R281): kpack converts 16 lanes into a knot block image. -/
  | kpackXr (f : XrForm)
  /-- KUNP_XR (R281): kunp converts a knot block image into 16 f32 lanes. -/
  | kunpXr (f : XrForm)
  /-- LSCAN_XR (R283): lscan writes a prefix scan over the active lanes. -/
  | lscanXr (f : XrForm)
  /-- LRED_XR (R284): lred writes a reduction over the active lanes to each active lane. -/
  | lredXr (f : XrForm)
  /-- VOTE_XR (R285): vote writes or, and, same or count of the predicate over the active lanes. -/
  | voteXr (f : XrForm)
  /-- BAL_XR (R285): bal writes the mask of active lanes whose A is non-zero. -/
  | balXr (f : XrForm)
  /-- MATCH_XR (R285): match writes the mask or the leader of lanes holding bit-identical values. -/
  | matchXr (f : XrForm)
  /-- JMP_SB (R286): Base-form jmp transfers to a PC-relative target with its priority. -/
  | jmpSb (f : SbForm)
  /-- JMP_XB (R286): Extended-form jmp transfers with a 32-bit offset. -/
  | jmpXb (f : XbForm)
  /-- CALL_XB (R288): call writes the link pair and transfers. -/
  | callXb (f : XbForm)
  /-- RET_XR (R288): ret transfers each lane to the target in its pair. -/
  | retXr (f : XrForm)
  /-- BNZ_XB (R286): bnz sends lanes whose D is non-zero to the target. -/
  | bnzXb (f : XbForm)
  /-- BZ_XB (R286): bz sends lanes whose D is zero to the target. -/
  | bzXb (f : XbForm)
  /-- BRX_XB (R288): brx transfers each lane to the 64-bit target in its pair. -/
  | brxXb (f : XbForm)
  /-- JENR_XR (R289): jenr enrols the active lanes in a rejoin mask. -/
  | jenrXr (f : XrForm)
  /-- JWAIT_XR (R289): jwait marks the active lanes arrived and parks them until the mask releases. -/
  | jwaitXr (f : XrForm)
  /-- JSTR_XR (R289): jstr strikes the active lanes from a rejoin mask. -/
  | jstrXr (f : XrForm)
  /-- JMOV_XR (R289): jmov reads a mask's enrolled bits into a register. -/
  | jmovXr (f : XrForm)
  /-- TSPAWN_XR (R295): tspawn enqueues one task record per active lane and counts it. -/
  | tspawnXr (f : XrForm)
  /-- TNEXT_XR (R296): tnext gives back the lane's task and installs the next record, parks, or falls through. -/
  | tnextXr (f : XrForm)
  /-- BND_XR (R297): bnd sets or clears each active lane's bound. -/
  | bndXr (f : XrForm)
  /-- INCX_XR (R297): incx offers the best active value to an incumbent. -/
  | incxXr (f : XrForm)
  /-- INCR_XR (R297): incr reads the core replica of an incumbent. -/
  | incrXr (f : XrForm)
  /-- LD_XM (R310): ld reads memory into registers with a tag. -/
  | ldXm (f : XmForm)
  /-- ST_XM (R311): st enters data into the store queue. -/
  | stXm (f : XmForm)
  /-- ATOM_XM (R312): atom performs a read-modify-write at the slice or bank. -/
  | atomXm (f : XmForm)
  /-- CAS_XM (R313): cas compares and swaps, returning the old value. -/
  | casXm (f : XmForm)
  /-- PF_XM (R314): pf prefetches a line as a hint. -/
  | pfXm (f : XmForm)
  /-- PIN_XM (R315): pin pins a line in its slice and reports success. -/
  | pinXm (f : XmForm)
  /-- UNPIN_XM (R315): unpin releases a pinned line. -/
  | unpinXm (f : XmForm)
  /-- CFL_XM (R316): cfl writes back and invalidates a line in L1, or in L1 and L2. -/
  | cflXm (f : XmForm)
  /-- CINV_XM (R316): cinv invalidates clean data sectors, an instruction line, or the whole instruction cache. -/
  | cinvXm (f : XmForm)
  /-- CPL_XM (R320): cpl copies 4, 8 or 16 bytes per lane into a scratchpad within the open batch. -/
  | cplXm (f : XmForm)
  /-- CPT_XT (R321): cpt copies, clips, converts or multicasts a tile into scratchpad. -/
  | cptXt (f : XtForm)
  /-- BARI_XM (R325): bari reinitialises a barrier. -/
  | bariXm (f : XmForm)
  /-- BARV_XM (R325): barv adds one arrival to a barrier. -/
  | barvXm (f : XmForm)
  /-- BARW_XM (R325): barw parks the active lanes until the barrier's phase differs from B[0]. -/
  | barwXm (f : XmForm)
  /-- BARX_XM (R325): barx adds expected bytes to a barrier. -/
  | barxXm (f : XmForm)
  /-- QENQ_XM (R327): qenq enqueues entries into a slice queue and writes a status per lane. -/
  | qenqXm (f : XmForm)
  /-- QDEQ_XM (R328): qdeq dequeues entries, or parks lanes on the waiter list. -/
  | qdeqXm (f : XmForm)
  /-- QPOLL_XM (R329): qpoll reads the number of entries in a slice queue. -/
  | qpollXm (f : XmForm)
  /-- PRES_XM (R330): pres queries, sets or clears the presence of a sector. -/
  | presXm (f : XmForm)
  /-- RWR_XM (R347): rwr writes data to a peer, optionally with a signal. -/
  | rwrXm (f : XmForm)
  /-- RRD_XM (R348): rrd reads data from a peer into registers. -/
  | rrdXm (f : XmForm)
  /-- RADD_XM (R349): radd adds to a remote word. -/
  | raddXm (f : XmForm)
  /-- RSIG_XM (R349): rsig adds to a remote signal word as a release. -/
  | rsigXm (f : XmForm)
  /-- SWAIT_XM (R350): swait parks lanes until a signal word reaches a threshold. -/
  | swaitXm (f : XmForm)
  /-- RMC_XM (R351): rmc multicasts one line to a multicast group. -/
  | rmcXm (f : XmForm)
  /-- RACC_XM (R352): racc sends a contribution to a reduction buffer. -/
  | raccXm (f : XmForm)
  /-- BLD_XT (R333): bld fills a B slot from a tile. -/
  | bldXt (f : XtForm)
  /-- MMA_XT (R335): mma forms block products into accumulator tiles, one operation per quarter. -/
  | mmaXt (f : XtForm)
  /-- MBIN_XT (R335): mbin forms binary XOR or AND popcount products. -/
  | mbinXt (f : XtForm)
  /-- MRET_XT (R336): mret converts and retires an accumulator tile through the epilogue. -/
  | mretXt (f : XtForm)
  /-- MRET_SEND_XT (R337): mret.send sends the retired tile to a peer, then a signal. -/
  | mretSendXt (f : XtForm)
  /-- MCLR_XT (R336): mclr zeroes an accumulator tile. -/
  | mclrXt (f : XtForm)
  /-- RDEF_XR (R340): rdef defines a routine under a handle. -/
  | rdefXr (f : XrForm)
  /-- RDEL_XR (R340): rdel removes a routine handle. -/
  | rdelXr (f : XrForm)
  /-- FOLD_XT (R342): fold folds a tile's rows, or the whole tile, through a routine. -/
  | foldXt (f : XtForm)
  /-- SCAN_XT (R342): scan writes prefix results along each row through a routine. -/
  | scanXt (f : XtForm)
  /-- ZIP_XT (R342): zip applies a routine elementwise to two tiles. -/
  | zipXt (f : XtForm)
  /-- ZIP_MERGE_XT (R343): zip.merge merges two sorted merge streams. -/
  | zipMergeXt (f : XtForm)
  /-- OUTR_XT (R342): outr applies a routine over an outer product of two vectors. -/
  | outrXt (f : XtForm)
  /-- REND_XR (R339): rend ends a routine body and names its output register. -/
  | rendXr (f : XrForm)
  /-- RDROP_XR (R339): rdrop drops the routine's element when its predicate passes. -/
  | rdropXr (f : XrForm)
  /-- ILLEGAL_OPCODE (R257): A core fetches a word whose OPC is 0x00 or unassigned and raises trap 0x01 for the whole frontier entry. -/
  | illegalOpcode (opc : BitVec 8)
  /-- COOLANT_FLOW_CHANGE (R23): Coolant flow falls below, or returns above, 1.0 L/min, which starts or cancels the 100 ms flow timer. -/
  | coolantFlowChange (mlPerMin : Nat)
  /-- SUPPLY_DROOP (R23): A droop of the supply is recorded as an event in the supply droop histogram of the lifetime record. -/
  | supplyDroop (mv : Nat)
  /-- ECC_EVENT (R70): A corrected or uncorrected ECC error is detected in a structure and counted in the lifetime record. -/
  | eccEvent (unit : Nat) (corrected : Bool)
  /-- POWERED_SECOND (R70): Each second of power adds to powered seconds and to the junction-temperature and replay histograms of seconds. -/
  | poweredSecond (degC : Nat)
  /-- ESCAPE_CHANNEL (R195): A die-ring packet that has waited 32 fc at a stop without a shared buffer enters the escape channel. -/
  | escapeChannel (k : Nat)
  /-- LANYARD_LINK_ERROR (R98): A lanyard message of unknown TYPE is discarded and counted as a lanyard link error, and its permit is returned. -/
  | lanyardLinkError (cl : Nat) (up : Bool)
  /-- MODULE_RESET (R54): Module reset releases hart 0 in the boot ROM, which checks the root key and boots signed images from slot A, then slot B. -/
  | moduleReset
  /-- SUPPLY_LOW_TIMEOUT (R21): Input has stayed below 47 V for 1 ms, so the module performs an orderly shutdown. -/
  | supplyLowTimeout
  /-- SUPPLY_OVERVOLTAGE (R21): Input above 56 V makes input protection remove power within 10 µs. -/
  | supplyOvervoltage
  /-- SUPPLY_EXCURSION_COUNT (R21): An excursion into a tolerance band reaches 1 ms and is counted in the lifetime record. -/
  | supplyExcursionCount
  /-- COOLANT_FLOW_TIMEOUT (R23): Coolant flow has stayed below 1.0 L/min for 100 ms, so the module performs an orderly shutdown. -/
  | coolantFlowTimeout
  /-- LIFETIME_FLUSH (R70): Every 600 s the lifetime record is written to module flash. -/
  | lifetimeFlush
  /-- KEY_RETIRE_DONE (R58): Once every line tagged with the key ID has been written back and invalidated, the key ID becomes EMPTY and BUSY clears. -/
  | keyRetireDone
  /-- UPDATE_PAUSE (R63): Once the image is accepted and no repair runs, intake pauses, the preserved-state table is written and control jumps to the new ENTRY. -/
  | updatePause
  /-- UPDATE_ALIVE (R63): The new kernel validates the preserved-state table, resumes intake and declares itself alive. -/
  | updateAlive
  /-- UPDATE_WATCHDOG (R65): If the new kernel refuses the table or is not alive within 150 µs, the old image restarts with the same table. -/
  | updateWatchdog
  /-- UZOMAN_WATCHDOG_RESTART (R77): The global scheduler core has not answered its watchdog for 10 ms, so Uzoman restarts, contexts end, unfinished commands abort and EPOCH advances. -/
  | uzomanWatchdogRestart
  /-- HITCH_PLACE (R100): The global scheduler places the earliest eligible hitch on the lowest-numbered cluster with enough free cores. -/
  | hitchPlace
  deriving DecidableEq, Repr, Inhabited

end Sys2Proof
end

