-- ==== Sys2Proof/WellFormed.lean ====
section
/-!
DEFINITION. What a well-formed instruction is (12_isa_encoding R242-R257): per opcode, the operands each format uses,
and the encoding checks that raise trap 0x02. The same operand tables drive the register and tag checks at issue.
-/
namespace Sys2Proof

/-- A core instruction by format: its opcode and its fields. `bad` is an opcode that names no instruction (R257). -/
inductive Enc
  | s3 (opc : BitVec 8) (f : S3Form)
  | si (opc : BitVec 8) (f : SiForm)
  | sb (opc : BitVec 8) (f : SbForm)
  | sw (f : SwForm)
  | sz (opc : BitVec 8)
  | rgn (ranges : DWord)
  | xr (opc : BitVec 8) (f : XrForm)
  | xm (opc : BitVec 8) (f : XmForm)
  | xt (opc : BitVec 8) (f : XtForm)
  | xb (opc : BitVec 8) (f : XbForm)
  | bad (opc : BitVec 8)
  deriving DecidableEq, Repr, Inhabited

/-- Why the decoder refuses a word pattern (Table 12.11). -/
inductive DecodeError
  /-- Fewer words than LEN names. -/
  | short
  /-- A LEN that Table 12.10 does not list for the opcode. -/
  | length
  /-- A non-zero zero, reserved or unused field (R252). -/
  | reserved
  /-- An undefined SUB (R251). -/
  | sub
  /-- A field value outside its stated range. -/
  | range
  /-- An odd register in a pair field, or a misaligned block field. -/
  | pair
  /-- Routing mode 0 with k not 0, or a routed literal (R142). -/
  | routing
  /-- P or PN non-zero with PE 0 (R136). -/
  | predicate
  /-- A literal where the format refuses it, or a 32-bit use with high bits set (R253). -/
  | literal
  deriving DecidableEq, Repr, Inhabited

/-- Families of the tag check (Table 7.3). -/
inductive Fam
  | int32 | int64 | f32 | h16x2 | b16x2 | f64 | any
  deriving DecidableEq, Repr, Inhabited

/-- How an instruction uses a source field: the number of registers it names, and its tag family. -/
structure Use where
  regs : Nat
  fam : Fam
  deriving DecidableEq, Repr, Inhabited

/-- How an instruction uses its destination field: nothing, a number of registers, or a lane mask (R282). -/
inductive DUse
  | none
  | regs (n : Nat)
  | mask
  deriving DecidableEq, Repr, Inhabited

/-- The operands of an XR instruction: sources, destination, D read as a source, and the bits a literal may use. -/
structure XrUse where
  a : Option Use
  b : Option Use
  c : Option Use
  d : DUse
  dSrc : Bool
  lit : Nat
  deriving DecidableEq, Repr, Inhabited

/-- One register of the 32-bit integer family. -/
def Use.i32 : Use := ⟨1, .int32⟩
/-- A pair of the 64-bit integer family. -/
def Use.i64 : Use := ⟨2, .int64⟩
/-- Registers of any tag. -/
def Use.any (n : Nat) : Use := ⟨n, .any⟩
/-- An integer operand of the type of SUB[1:0] (Table 13.1). -/
def Use.int (sub : Nat) : Use := if sub % 4 < 2 then .i32 else .i64
/-- A float operand of a format code 0-3 (R271). -/
def Use.flt (fmt : Nat) : Use :=
  match fmt % 4 with
  | 0 => ⟨1, .f32⟩ | 1 => ⟨1, .h16x2⟩ | 2 => ⟨1, .b16x2⟩ | _ => ⟨2, .f64⟩
/-- Operand of a conversion format code (Table 13.5). -/
def Use.cvt (code : Nat) : Use :=
  match code with
  | 0 => .i32 | 1 => .i32 | 2 => .i64 | 3 => .i64 | 4 => ⟨1, .f32⟩ | 5 => ⟨2, .f64⟩ | 6 => ⟨1, .h16x2⟩ | _ => ⟨1, .b16x2⟩
/-- Whether a conversion selector is defined (R277). -/
def cvtOk (cv : BitVec 10) : Bool :=
  let df := (cv.extractLsb' 0 4).toNat
  let sf := (cv.extractLsb' 4 4).toNat
  df < 8 && sf < 8 && df != sf && !(6 ≤ df && 6 ≤ sf) && !(cv.getLsbD 8 && sf < 6) && !cv.getLsbD 9

/-- No operands at all. -/
def XrUse.nil : XrUse := ⟨none, none, none, .none, false, 0⟩
/-- The operands of an XR form by opcode and SUB (chapters 13, 14 and 16); none for an undefined SUB. -/
def xrUse (opc : Nat) (f : XrForm) : Option XrUse :=
  let s := f.sub.toNat
  let only (n : Nat) (u : XrUse) : Option XrUse := if s ≤ n then some u else none
  let even02 (g : Nat → XrUse) : Option XrUse := if s = 0 then some (g 1) else if s = 2 then some (g 2) else none
  let wide (n : Nat) : Use := if n = 2 then .i64 else .i32
  let bin : XrUse := ⟨some (.int s), some (.int s), none, .regs (Use.int s).regs, false, 32 * (Use.int s).regs⟩
  let un (n : Nat) (d : Nat) : XrUse := ⟨some (wide n), none, none, .regs d, false, 0⟩
  let tri : XrUse := ⟨some .i32, some .i32, some .i32, .regs 1, false, 32⟩
  let fbin : XrUse := ⟨some (.flt s), some (.flt s), none, .regs (Use.flt s).regs, false, 32 * (Use.flt s).regs⟩
  let fun_ : XrUse := ⟨some (.flt s), none, none, .regs (Use.flt s).regs, false, 0⟩
  let bval : XrUse := ⟨none, some .i32, none, .none, false, 32⟩
  match opc with
  | 0x01 => only 0 .nil
  | 0x03 => only 0 .nil
  | 0x0C => only 0 .nil
  | 0x0E => only 0 .nil
  | 0x09 => only 2 .nil
  | 0x05 => only 0 bval
  | 0x06 => only 0 bval
  | 0x07 => only 0 bval
  | 0x08 => only 0 bval
  | 0x0A => only 0 bval
  | 0x0B => only 0 bval
  | 0x0D => only 0 { bval with d := .regs 1 }
  | 0x0F => if s = 0 then some { XrUse.nil with d := .regs 1 } else only 3 { bval with d := .regs 1 }
  | 0x10 => only 0 { bval with a := some .i64 }
  | 0x20 => only 3 bin
  | 0x21 => only 3 bin
  | 0x22 => only 3 bin
  | 0x23 => only 3 bin
  | 0x24 => only 3 { bin with c := some (.int s) }
  | 0x25 => only 3 bin
  | 0x26 => only 3 bin
  | 0x27 => only 3 bin
  | 0x28 => only 3 bin
  | 0x29 => even02 (fun n => un n n)
  | 0x2A => even02 (fun n => un n n)
  | 0x2B => let u := Use.int (s / 4); some ⟨some u, some u, none, .regs 1, false, 32 * u.regs⟩
  | 0x2C => even02 (fun n => ⟨some (.any n), some (.any n), some (.any 1), .regs n, false, 32 * n⟩)
  | 0x2D => only 0 ⟨some .i32, some .i32, some .i32, .regs 1, true, 8⟩
  | 0x2E => even02 (fun n => ⟨some (wide n), some .i32, none, .regs n, false, 32⟩)
  | 0x2F => even02 (fun n => ⟨some (wide n), some .i32, none, .regs n, false, 32⟩)
  | 0x30 => even02 (fun n => ⟨some (wide n), some .i32, none, .regs n, false, 32⟩)
  | 0x31 => only 0 tri
  | 0x32 => only 0 tri
  | 0x33 => even02 (fun n => un n 1)
  | 0x34 => even02 (fun n => un n 1)
  | 0x35 => even02 (fun n => un n 1)
  | 0x36 => even02 (fun n => un n n)
  | 0x37 => only 1 tri
  | 0x38 => only 0 { tri with dSrc := true }
  | 0x39 => even02 (fun n => ⟨none, some (.any n), none, .regs n, false, 32 * n⟩)
  | 0x3A => if s % 8 ≤ 4 then some ⟨some .i64, some .i32, none, .regs 2, false, 32⟩ else none
  | 0x3B => only 0 tri
  | 0x40 => only 3 fbin
  | 0x41 => only 3 fbin
  | 0x42 => only 3 fbin
  | 0x43 => only 3 { fbin with c := some (.flt s) }
  | 0x44 => only 3 fbin
  | 0x45 => only 3 fbin
  | 0x46 => only 3 fun_
  | 0x47 => only 3 fun_
  | 0x48 => let u := Use.flt (s / 4); some ⟨some u, some u, none, .regs 1, false, 32 * u.regs⟩
  | 0x49 => only 3 fbin
  | 0x4A => only 3 fun_
  | 0x4B => only 3 fun_
  | 0x4C => only 3 fun_
  | 0x4D => only 3 { fbin with c := some (.flt s) }
  | 0x4E => only 3 fun_
  | 0x4F => only 3 { fun_ with d := .regs 1 }
  | 0x50 => some ⟨some (.flt s), none, none, .regs (Use.flt s).regs, false, 0⟩
  | 0x58 =>
    let df := (f.b.extractLsb' 0 4).toNat
    let u := Use.cvt (f.b.extractLsb' 4 4).toNat
    only 3 ⟨some u, none, if 6 ≤ df then some u else none, .regs (Use.cvt df).regs, false, 0⟩
  | 0x59 => only 3 ⟨some (match s with | 0 => ⟨1, .f32⟩ | 1 => .i64 | 2 => ⟨2, .f64⟩ | _ => .i64), none, none,
      .regs (if s = 1 then 1 else 2), false, 0⟩
  | 0x5A => only 9 ⟨some (.any 1), none, none, .regs 1, false, 0⟩
  | 0x5B => only 0 ⟨some (.any 1), none, none, .regs 1, false, 0⟩
  | 0x5C => only 2 ⟨some (.any 1), none, none, .regs 1, false, 0⟩
  | 0x5D => only 2 ⟨some (.any 1), none, none, .regs 1, false, 0⟩
  | 0x60 => some ⟨some .i32, none, none, .regs 1, false, 0⟩
  | 0x61 => if s = 11 then some ⟨some .i64, none, none, .regs 2, false, 0⟩
      else only 10 ⟨some (if 8 ≤ s then ⟨1, .f32⟩ else .i32), none, none, .regs 1, false, 0⟩
  | 0x62 => only 3 ⟨some (.any 1), none, none, .regs 1, false, 0⟩
  | 0x63 => only 1 ⟨some (.any 1), none, none, .mask, false, 0⟩
  | 0x64 => only 3 ⟨some (.any (if s < 2 then 1 else 2)), none, none, if s % 2 = 0 then .mask else .regs 1, false, 0⟩
  | 0x6A => only 0 ⟨some .i64, none, none, .none, false, 0⟩
  | 0x6E => some .nil
  | 0x6F => some .nil
  | 0x70 => some .nil
  | 0x71 => some { XrUse.nil with d := .mask }
  | 0x74 => only 3 ⟨some (.any 16), none, none, .none, false, 0⟩
  | 0x75 => only 3 .nil
  | 0x76 => if f.c.getLsbD 0 then (if s = 0 then some .nil else none) else some ⟨none, some .i64, none, .none, false, 64⟩
  | 0x77 => some ⟨none, some .i64, none, .none, false, 64⟩
  | 0x78 => some { XrUse.nil with d := .regs 2 }
  | 0xC0 => only 0 { bval with a := some .i64 }
  | 0xC1 => only 0 bval
  | 0xC8 => only 0 ⟨some (.any 1), none, none, .none, false, 0⟩
  | 0xC9 => only 0 .nil
  | _ => none

/-- Whether B of an XR form is a conversion selector (R277). -/
def bSelects (opc : Nat) : Bool := opc == 0x58
/-- Whether C of an XR form is the control field K (R297). -/
def cControls (opc : Nat) : Bool := opc == 0x76 || opc == 0x77 || opc == 0x78

/-- The first failing condition of a list, if any. -/
def firstError : List (Bool × DecodeError) → Option DecodeError
  | [] => none
  | (bad, e) :: t => if bad then some e else firstError t

/-- Alignment of a register field that names `n` registers: pairs even, blocks a multiple of 4 (R135, R307, R326). -/
def fieldAlign (n : Nat) : Nat := if 4 ≤ n then 4 else n
/-- Alignment of a routed source field: the record image of `tspawn`, 16 registers, starts at an even one (R295). -/
def srcAlign (n : Nat) : Nat := if n = 16 then 2 else fieldAlign n

/-- Checks of one routed source field (R142, R252). -/
def srcBad (u : Option Use) (r : RegNo) (rt : BitVec 9) : List (Bool × DecodeError) :=
  match u with
  | none => [(r != 0 || rt != 0, .reserved)]
  | some u => [(r.toNat % srcAlign u.regs != 0, .pair),
      (rt.extractLsb' 6 3 == 0 && rt.extractLsb' 0 6 != 0, .routing)]

/-- Checks of a destination field (R252, R135). -/
def dstBad (u : DUse) (r : RegNo) : List (Bool × DecodeError) :=
  match u with
  | .none => [(r != 0, .reserved)]
  | .regs n => [(r.toNat % fieldAlign n != 0, .pair)]
  | .mask => []

/-- Checks of the predicate fields (R136). -/
def predBad (p : Pred) : List (Bool × DecodeError) := [(!p.pe && (p.pn || p.p != 0), .predicate)]

/-- Checks of a literal that uses `bits` bits (R253). -/
def litBad (bits : Nat) (l : DWord) : List (Bool × DecodeError) :=
  [(bits == 0, .literal), (decide (bits < 64) && decide (2 ^ bits ≤ l.toNat), .literal)]

/-- The opcodes that Table 12.9 assigns (R254). -/
def assigned (opc : Nat) : Bool :=
  (0x01 ≤ opc && opc ≤ 0x10) ||
  (0x20 ≤ opc && opc ≤ 0x3B) ||
  (0x40 ≤ opc && opc ≤ 0x50) ||
  (0x58 ≤ opc && opc ≤ 0x5D) ||
  (0x60 ≤ opc && opc ≤ 0x64) ||
  (0x68 ≤ opc && opc ≤ 0x71) ||
  (0x74 ≤ opc && opc ≤ 0x78) ||
  (0x80 ≤ opc && opc ≤ 0x92) ||
  (0xA0 ≤ opc && opc ≤ 0xA6) ||
  (0xB0 ≤ opc && opc ≤ 0xB4) ||
  (0xC0 ≤ opc && opc ≤ 0xC5) ||
  (0xC8 ≤ opc && opc ≤ 0xC9)

/-- Opcodes that accept a literal in XR (LEN 0b11, Table 12.10). -/
def xrLitLen (opc : Nat) : Bool :=
  !(opc == 0x01 || opc == 0x03 || opc == 0x09 || opc == 0x0C || opc == 0x0E || opc == 0xC8 || opc == 0xC9)
/-- Opcodes that XR carries on a core or in a routine (Table 12.10). -/
def xrOpc (opc : Nat) : Bool :=
  assigned opc && !(opc == 0x02 || opc == 0x04 || opc == 0x68 || opc == 0x69 || (0x6B ≤ opc && opc ≤ 0x6D) ||
    (0x80 ≤ opc && opc ≤ 0xB4) || (0xC2 ≤ opc && opc ≤ 0xC5))

/-- The encoding checks of an XR form. -/
def xrError (opc : Nat) (f : XrForm) : Option DecodeError :=
  if !xrOpc opc then some .length
  else if f.lit.isSome && !xrLitLen opc then some .length
  else match xrUse opc f with
    | none => some .sub
    | some u =>
      let bu := if bSelects opc then [(f.rb != 0, .routing), (f.lit.isSome, .literal), (!cvtOk f.b, .range)]
        else match f.lit with
          | none => srcBad u.b f.b f.rb
          | some l => [(u.b.isNone, .literal), (f.b != 0, .reserved), (f.rb != 0, .routing)] ++ litBad u.lit l
      let cu := if cControls opc then [(f.rc != 0, .reserved), (decide (2 ≤ f.c.toNat), .reserved)] else srcBad u.c f.c f.rc
      let blk := if opc == 0x74 then [(decide (1016 ≤ f.a.toNat + 15), .range), (f.ra != 0, .reserved)] else []
      firstError (predBad f.pred ++ srcBad u.a f.a f.ra ++ bu ++ cu ++ dstBad u.d f.d ++ blk)

/-- The S3 opcodes (Table 12.10). -/
def s3Opc (opc : Nat) : Bool :=
  opc == 0x20 || opc == 0x21 || opc == 0x22 || opc == 0x27 || opc == 0x28 || opc == 0x39 || opc == 0x40 ||
    opc == 0x41 || opc == 0x42 || opc == 0x44 || opc == 0x45
/-- The encoding checks of an S3 form (R243, R253). -/
def s3Error (opc : Nat) (f : S3Form) : Option DecodeError :=
  firstError ([(!s3Opc opc, .length), (opc == 0x39 && f.a != 0, .reserved)] ++
    (match f.lit with | none => [] | some l => (f.b != 0, .reserved) :: litBad 32 l))

/-- The SI opcodes (Table 12.10). -/
def siOpc (opc : Nat) : Bool :=
  opc == 0x05 || opc == 0x06 || opc == 0x07 || opc == 0x08 || opc == 0x0A || opc == 0x0B || opc == 0x0D || opc == 0x10 ||
    opc == 0x2E || opc == 0x2F || opc == 0x30
/-- Whether a value lies in the range of IMM8 for an SI opcode (Table 12.3). -/
def siRange (opc : Nat) (v : Nat) : Bool :=
  match opc with
  | 0x05 => 1 ≤ v && v ≤ 127
  | 0x06 => 1 ≤ v && v ≤ 127
  | 0x07 => v ≤ 5
  | 0x08 => v ≤ 255
  | 0x0A => v == 0
  | 0x0B => v ≤ 255
  | 0x0D => v ≤ 13
  | 0x10 => v ≤ 1
  | _ => v ≤ 31
/-- The encoding checks of an SI form (R244, R253). -/
def siError (opc : Nat) (f : SiForm) : Option DecodeError :=
  let usesD := opc == 0x0D || opc == 0x2E || opc == 0x2F || opc == 0x30
  let usesA := opc == 0x10 || opc == 0x2E || opc == 0x2F || opc == 0x30
  let v := match f.lit with | none => f.imm8.toNat | some l => l.toNat
  firstError ([(!siOpc opc, .length), (!usesD && f.d != 0, .reserved), (!usesA && f.a != 0, .reserved)] ++
    (if opc == 0x10 then
      [(!siRange opc f.imm8.toNat, .range), (f.a.toNat % 2 != 0, .pair), (f.lit.isSome && f.a != 0, .reserved)]
    else [(f.lit.isSome && f.imm8 != 0, .reserved), (!siRange opc v, .range), (opc == 0x0D && v == 11 && f.d.toNat % 2 != 0, .pair)]))

/-- The operands of an XM form: registers of D, of D when it is read, of B, and whether an order or scope is taken. -/
structure XmUse where
  d : DUse
  dSrc : Option Use
  b : Option Use
  scope : Bool
  deriving DecidableEq, Repr, Inhabited

/-- Registers that hold `n` bytes. -/
def regsOf (size : Nat) : Nat := if size ≤ 2 then 1 else if size = 3 then 2 else 4
/-- Registers of an entry block by ESZ (R326). -/
def entryRegs (esz : Nat) : Nat := 4 * 2 ^ esz

/-- The operands of an XM form by opcode (Tables 15.1 and 16.3); none where a field is outside what the tables list. -/
def xmUse (opc : Nat) (f : XmForm) : Option XmUse :=
  let s := f.sub.toNat
  let as := f.as.toNat
  let sz := f.size.toNat
  let x := f.aux.toNat
  let n := regsOf sz
  let esz := x % 4
  let need (ok : Bool) (u : XmUse) : Option XmUse := if ok then some u else none
  match opc with
  | 0x80 => need (as ≤ 2 && sz ≤ 4 && s ≤ 1 && x < 32 && x % 16 ≤ 9 && !(16 ≤ x && 2 ≤ sz)) ⟨.regs n, none, none, true⟩
  | 0x81 => need (as ≤ 2 && sz ≤ 4 && s ≤ 1 && x == 0) ⟨.none, none, some (.any n), true⟩
  | 0x82 =>
    let op := x % 16
    let fam : Fam := if op == 8 then .any else if op == 9 then .f32 else if sz == 2 then .int32 else .int64
    need (as ≤ 2 && (sz == 2 || sz == 3) && s ≤ 3 && x < 32 && op ≤ 9 && !(op == 9 && sz == 3))
      ⟨if 16 ≤ x then .regs n else .none, none, some ⟨n, fam⟩, true⟩
  | 0x83 => need (as ≤ 2 && (sz == 2 || sz == 3) && s ≤ 3 && x == 0) ⟨.regs n, some (.any n), some (.any n), true⟩
  | 0x84 => need (as == 0 && sz == 0 && s ≤ 1 && x == 0) ⟨.none, none, none, false⟩
  | 0x85 => need (as == 0 && sz == 0 && s == 0 && x == 0) ⟨.regs 1, none, none, false⟩
  | 0x86 => need (as == 0 && sz == 0 && s == 0 && x == 0) ⟨.none, none, none, false⟩
  | 0x87 => need (as == 0 && sz == 0 && s ≤ 1 && x == 0) ⟨.none, none, none, false⟩
  | 0x88 => need (as == 0 && sz == 0 && s ≤ 2 && x == 0) ⟨.none, none, none, false⟩
  | 0x89 => need (as ≤ 2 && 2 ≤ sz && sz ≤ 4 && s == 0 && x ≤ 3)
      ⟨.none, if 2 ≤ x then some .i32 else none, some .i32, false⟩
  | 0x8B => need ((as == 1 || as == 2) && sz == 0 && s == 0 && x == 0) ⟨.none, none, some (.any 1), false⟩
  | 0x8C => need ((as == 1 || as == 2) && sz == 0 && s == 0 && x == 0) ⟨.none, none, none, false⟩
  | 0x8D => need ((as == 1 || as == 2) && sz == 0 && s == 0 && x == 0) ⟨.none, none, some (.any 1), false⟩
  | 0x8E => need ((as == 1 || as == 2) && sz == 0 && s == 0 && x == 0) ⟨.none, none, some (.any 1), false⟩
  | 0x8F => need (as == 0 && sz == 0 && s ≤ 3 && x ≤ 2) ⟨.regs 1, none, some (.any (entryRegs esz)), true⟩
  | 0x90 => need (as == 0 && sz == 0 && s ≤ 3 && x ≤ 2) ⟨.regs (entryRegs esz), none, none, true⟩
  | 0x91 => need (as == 0 && sz == 0 && s ≤ 1 && x == 0) ⟨.regs 1, none, none, true⟩
  | 0x92 => need ((as == 1 || as == 2) && sz == 0 && s ≤ 2 && x == 0) ⟨if s == 0 then .regs 1 else .none, none, none, false⟩
  | 0xA0 =>
    let mem := 2 ≤ s
    need (as == 3 && (if mem then sz ≤ 4 else 2 ≤ sz && sz ≤ 4) && s ≤ 3 && x ≤ 7)
      ⟨.none, if s % 2 == 1 then some .i64 else none, some (if mem then .i32 else .any n), false⟩
  | 0xA1 => need (as == 3 && 2 ≤ sz && sz ≤ 4 && s == 0 && x < 128 && x / 8 ≤ 9) ⟨.regs n, none, none, false⟩
  | 0xA2 => need (as == 3 && (sz == 2 || sz == 3) && s == 0 && x ≤ 7) ⟨.none, none, some (.any n), false⟩
  | 0xA3 => need (as == 3 && sz == 3 && s == 0 && x ≤ 7) ⟨.none, none, some (.any 2), false⟩
  | 0xA4 => need (as == 0 && sz == 3 && s == 0 && x == 0) ⟨.none, none, some (.any 2), false⟩
  | 0xA5 => need (as == 3 && sz ≤ 4) ⟨.none, some .i64, some (.any 4), false⟩
  | 0xA6 => need (as == 3 && sz ≤ 4 && s ≤ 1 && x ≤ 7) ⟨.none, some (.any 1), some .i32, false⟩
  | _ => none

/-- The XM opcodes. -/
def xmOpc (opc : Nat) : Bool := (0x80 ≤ opc && opc ≤ 0x92 && opc != 0x8A) || (0xA0 ≤ opc && opc ≤ 0xA6)
/-- Whether A names a pair: the spaces with 64-bit addresses (R248). -/
def xmWideA (f : XmForm) : Bool := f.as == 0 || f.as == 3
/-- Whether an XM form reads its A register: `cinv.iall` does not (R316). -/
def xmUsesA (opc : Nat) (f : XmForm) : Bool := !(opc == 0x88 && f.sub == 2)

/-- The encoding checks of an XM form (R248, R253, R307, R344). -/
def xmError (opc : Nat) (f : XmForm) : Option DecodeError :=
  if !xmOpc opc then some .length
  else match xmUse opc f with
    | none => some .range
    | some u =>
      firstError (predBad f.pred ++
        [(decide (6 ≤ f.scope.toNat), .range), (!u.scope && f.scope != 0, .range),
         (xmWideA f && f.a.toNat % 2 != 0, .pair),
         (!xmUsesA opc f && (f.a != 0 || f.ofs != 0 || f.lit.any (· != 0)), .reserved)] ++
        (match u.dSrc with | none => dstBad u.d f.d | some d => [(f.d.toNat % fieldAlign d.regs != 0, .pair)]) ++
        (match u.b with | none => [(f.b != 0, .reserved)] | some b => [(f.b.toNat % fieldAlign b.regs != 0, .pair)]) ++
        (match f.lit with | none => [] | some l => (f.ofs != 0, .reserved) :: litBad (if xmWideA f then 64 else 32) l))

/-- The XT opcodes. -/
def xtOpc (opc : Nat) : Bool := opc == 0x8A || (0xB0 ≤ opc && opc ≤ 0xB4) || (0xC2 ≤ opc && opc ≤ 0xC5)
/-- What an XT form uses (Table 16.1, R321): whether D, A, B, C are used, D as a block of four, whether H is a handle or
a slot, and whether FLAGS, SUB, FMT and AUX hold values the tables define. -/
structure XtUse where
  d : Nat
  b : Bool
  c : Bool
  a : Bool
  h : Bool
  ok : Bool
  deriving DecidableEq, Repr, Inhabited

/-- The use of fields by an XT form. -/
def xtUse (opc : Nat) (f : XtForm) : XtUse :=
  let s := f.sub.toNat
  let fl := f.flags.toNat
  let z := f.fmt == 0 && f.aux == 0
  let bar := fl % 2 == 1
  let mc := fl / 2 % 2 == 1
  let rm := fl / 4 % 4
  let zip := fl % 2 == 1
  let send := fl / 2 % 2 == 1
  let ovr := fl / 4 % 2 == 1
  match opc with
  | 0x8A => ⟨if bar then 1 else 0, true, false, true, rm != 0, fl < 16 && rm ≤ 2 && s ≤ 3 && f.fmt == 0 && (mc || f.aux == 0)⟩
  | 0xB0 => ⟨0, false, false, true, true, z && fl == 0 && s == 0 && f.h.toNat ≤ 7⟩
  | 0xB1 => ⟨1, false, false, true, true, z && fl == 0 && s == 0 && f.h.toNat ≤ 7⟩
  | 0xB2 => ⟨1, false, false, true, true, z && fl == 0 && s ≤ 1 && f.h.toNat ≤ 7⟩
  | 0xB3 => ⟨if send then 4 else 1, zip, false, true, zip, fl < 8 && s ≤ 3 && !(ovr && send) &&
      (if send then f.aux.toNat ≤ 7 && (f.fmt.toNat ≤ 3 || f.fmt == 6) else z)⟩
  | 0xB4 => ⟨1, false, false, false, false, z && fl == 0 && s == 0⟩
  | 0xC2 => ⟨1, false, false, true, true, z && fl == 0 && s ≤ 1⟩
  | 0xC3 => ⟨1, false, false, true, true, z && fl == 0 && s ≤ 1⟩
  | 0xC4 => ⟨1, true, s == 1, true, true, z && s ≤ 1 && (if s == 1 then fl < 8 else fl == 0)⟩
  | _ => ⟨1, true, false, true, true, z && fl == 0 && s == 0⟩

/-- The encoding checks of an XT form (R249, R321, R331). -/
def xtError (opc : Nat) (f : XtForm) : Option DecodeError :=
  let u := xtUse opc f
  firstError ([(!xtOpc opc, .length)] ++ predBad f.pred ++
    [(!u.ok, .range), (!u.a && f.a != 0, .reserved), (!u.b && f.b != 0, .reserved), (!u.c && f.c != 0, .reserved),
     (!u.h && f.h != 0, .reserved), (u.d == 0 && f.d != 0, .reserved), (u.d == 4 && f.d.toNat % 4 != 0, .pair)])

/-- The XB opcodes. -/
def xbOpc (opc : Nat) : Bool := opc == 0x68 || opc == 0x69 || opc == 0x6B || opc == 0x6C || opc == 0x6D
/-- The encoding checks of an XB form (R250, R287). -/
def xbError (opc : Nat) (f : XbForm) : Option DecodeError :=
  firstError ([(!xbOpc opc, .length)] ++ predBad f.pred ++
    [(f.tgt.extractLsb' 0 2 != 0, .range), (opc == 0x6D && f.tgt != 0, .reserved), (opc == 0x68 && f.d != 0, .reserved),
     ((opc == 0x69 || opc == 0x6D) && f.d.toNat % 2 != 0, .pair)])

/-- Range `i` of the live-in literal of `rgn`: start and count (R149). -/
def rgnRange (lit : DWord) (i : Nat) : Nat × Nat :=
  ((lit.extractLsb' (16 * i) 10).toNat, (lit.extractLsb' (16 * i + 10) 6).toNat)
/-- The encoding check of `rgn`: no range passes `v1023`. -/
def rgnError (lit : DWord) : Option DecodeError :=
  firstError ((List.range 4).map (fun i => (decide ((rgnRange lit i).2 ≠ 0 ∧ 1024 < (rgnRange lit i).1 + (rgnRange lit i).2), .range)))

/-- The SZ opcodes. -/
def szOpc (opc : Nat) : Bool := opc == 0x01 || opc == 0x03 || opc == 0x09 || opc == 0x0C || opc == 0x0E

/-- The first encoding check that fails (step 4 of R258), none for a well-formed encoding. -/
def Enc.error : Enc → Option DecodeError
  | .s3 opc f => s3Error opc.toNat f
  | .si opc f => siError opc.toNat f
  | .sb opc _ => if opc == 0x68 then none else some .length
  | .sw _ => none
  | .sz opc => if szOpc opc.toNat then none else some .length
  | .rgn l => rgnError l
  | .xr opc f => xrError opc.toNat f
  | .xm opc f => xmError opc.toNat f
  | .xt opc f => xtError opc.toNat f
  | .xb opc f => xbError opc.toNat f
  | .bad _ => none

/-- The encoding of a core instruction: its format, opcode and fields. Module events have none (12_isa_encoding). -/
def Instr.enc? : Instr → Option Enc
  | .moduleReset => none
  | .bootImageI3c _ => none
  | .supplyInputChange _ => none
  | .supplyLowTimeout => none
  | .supplyOvervoltage => none
  | .supplyExcursionCount => none
  | .thermalThrottle _ => none
  | .thermalRelease _ => none
  | .thermalShutdown _ => none
  | .coolantFlowTimeout => none
  | .powerCompare _ => none
  | .pwrcapWrite _ => none
  | .lifetimeFlush => none
  | .registerWrite _ => none
  | .fuseadvWrite _ => none
  | .keyLoad _ => none
  | .keyRetire _ => none
  | .keyRetireDone => none
  | .keyQuery _ => none
  | .uzbellWrite _ => none
  | .liveUpdate _ => none
  | .updatePause => none
  | .updateAlive => none
  | .updateWatchdog => none
  | .uzomanWatchdogRestart => none
  | .repairRetire _ => none
  | .repairRestore _ => none
  | .repairRetrain _ => none
  | .repairDone _ => none
  | .hpstatRetrain _ => none
  | .hpstatDisable _ => none
  | .portTrain _ _ => none
  | .flitReceive _ _ => none
  | .flitNak _ _ => none
  | .linkRetrain _ => none
  | .retrainDone _ _ => none
  | .packetReceive _ => none
  | .packetTransit _ => none
  | .packetAck _ => none
  | .packetNak _ => none
  | .packetResendTimeout _ => none
  | .packetUnreachableTimeout _ => none
  | .offerSend _ _ => none
  | .offerReceive _ => none
  | .switchGroupReport _ _ _ => none
  | .dmaRequest _ => none
  | .cmdNop _ => none
  | .cmdCreate _ => none
  | .cmdDestroy _ => none
  | .cmdResume _ => none
  | .cmdPreempt _ => none
  | .cmdCall _ => none
  | .cmdReply _ => none
  | .cmdStamp _ => none
  | .commandSemaphoreStart _ => none
  | .eventQueueRecheck _ => none
  | .hitchPlace => none
  | .lanyardPlace _ => none
  | .lanyardPlaced _ => none
  | .lanyardTeamend _ => none
  | .lanyardPreempt _ => none
  | .lanyardSaved _ => none
  | .lanyardRetire _ => none
  | .lanyardPermit _ _ => none
  | .permitReturnTimeout _ _ => none
  | .groupStop _ _ => none
  | .registerGrant _ => none
  | .sleepWake _ _ => none
  | .presenceWatchdog _ _ => none
  | .incumbentPropagate _ _ _ _ => none
  | .malformedTaskTrap _ _ => none
  | .syscallRequestPost _ _ => none
  | .loadComplete _ _ _ _ => none
  | .storeDrain _ _ => none
  | .sliceRequest _ => none
  | .remapReceive _ => none
  | .pageWalk _ _ _ _ => none
  | .faultRecordEnqueue _ => none
  | .faultRetry _ => none
  | .faultDeliver _ => none
  | .faultEnd _ => none
  | .copySectorDeliver _ _ _ => none
  | .matrixOpComplete _ => none
  | .nopSz => some (.sz 0x01)
  | .nopXr f => some (.xr 0x01 f)
  | .waitSw f => some (.sw f)
  | .sealSz => some (.sz 0x03)
  | .sealXr f => some (.xr 0x03 f)
  | .rgnSz ranges => some (.rgn ranges)
  | .growSi f => some (.si 0x05 f)
  | .growXr f => some (.xr 0x05 f)
  | .shrinkSi f => some (.si 0x06 f)
  | .shrinkXr f => some (.xr 0x06 f)
  | .fenceSi f => some (.si 0x07 f)
  | .fenceXr f => some (.xr 0x07 f)
  | .trapSz f => some (.si 0x08 f)
  | .trapXr f => some (.xr 0x08 f)
  | .rtiSz => some (.sz 0x09)
  | .rtiXr f => some (.xr 0x09 f)
  | .rtiNextXr f => some (.xr 0x09 f)
  | .rtiRgnXr f => some (.xr 0x09 f)
  | .syscallSi f => some (.si 0x0A f)
  | .syscallXr f => some (.xr 0x0A f)
  | .irqSi f => some (.si 0x0B f)
  | .irqXr f => some (.xr 0x0B f)
  | .brkSz => some (.sz 0x0C)
  | .brkXr f => some (.xr 0x0C f)
  | .sidSi f => some (.si 0x0D f)
  | .sidXr f => some (.xr 0x0D f)
  | .exitSz => some (.sz 0x0E)
  | .exitXr f => some (.xr 0x0E f)
  | .gctlXr f => some (.xr 0x0F f)
  | .sleepSi f => some (.si 0x10 f)
  | .sleepXr f => some (.xr 0x10 f)
  | .addS3 f => some (.s3 0x20 f)
  | .addXr f => some (.xr 0x20 f)
  | .subS3 f => some (.s3 0x21 f)
  | .subXr f => some (.xr 0x21 f)
  | .mulS3 f => some (.s3 0x22 f)
  | .mulXr f => some (.xr 0x22 f)
  | .mulhXr f => some (.xr 0x23 f)
  | .madXr f => some (.xr 0x24 f)
  | .divXr f => some (.xr 0x25 f)
  | .remXr f => some (.xr 0x26 f)
  | .minS3 f => some (.s3 0x27 f)
  | .minXr f => some (.xr 0x27 f)
  | .maxS3 f => some (.s3 0x28 f)
  | .maxXr f => some (.xr 0x28 f)
  | .absXr f => some (.xr 0x29 f)
  | .negXr f => some (.xr 0x2A f)
  | .cmpXr f => some (.xr 0x2B f)
  | .selXr f => some (.xr 0x2C f)
  | .lop3Xr f => some (.xr 0x2D f)
  | .shlSi f => some (.si 0x2E f)
  | .shlXr f => some (.xr 0x2E f)
  | .shrSi f => some (.si 0x2F f)
  | .shrXr f => some (.xr 0x2F f)
  | .sarSi f => some (.si 0x30 f)
  | .sarXr f => some (.xr 0x30 f)
  | .fshlXr f => some (.xr 0x31 f)
  | .fshrXr f => some (.xr 0x32 f)
  | .pcntXr f => some (.xr 0x33 f)
  | .clzXr f => some (.xr 0x34 f)
  | .ctzXr f => some (.xr 0x35 f)
  | .brevXr f => some (.xr 0x36 f)
  | .bfeXr f => some (.xr 0x37 f)
  | .bfiXr f => some (.xr 0x38 f)
  | .movS3 f => some (.s3 0x39 f)
  | .movXr f => some (.xr 0x39 f)
  | .leaXr f => some (.xr 0x3A f)
  | .prmtXr f => some (.xr 0x3B f)
  | .faddS3 f => some (.s3 0x40 f)
  | .faddXr f => some (.xr 0x40 f)
  | .fsubS3 f => some (.s3 0x41 f)
  | .fsubXr f => some (.xr 0x41 f)
  | .fmulS3 f => some (.s3 0x42 f)
  | .fmulXr f => some (.xr 0x42 f)
  | .ffmaXr f => some (.xr 0x43 f)
  | .fminS3 f => some (.s3 0x44 f)
  | .fminXr f => some (.xr 0x44 f)
  | .fmaxS3 f => some (.s3 0x45 f)
  | .fmaxXr f => some (.xr 0x45 f)
  | .fabsXr f => some (.xr 0x46 f)
  | .fnegXr f => some (.xr 0x47 f)
  | .fcmpXr f => some (.xr 0x48 f)
  | .fdivXr f => some (.xr 0x49 f)
  | .fsqrtXr f => some (.xr 0x4A f)
  | .frcpXr f => some (.xr 0x4B f)
  | .frsqXr f => some (.xr 0x4C f)
  | .ex2sXr f => some (.xr 0x4D f)
  | .lg2Xr f => some (.xr 0x4E f)
  | .fclsXr f => some (.xr 0x4F f)
  | .frndXr f => some (.xr 0x50 f)
  | .cvtXr f => some (.xr 0x58 f)
  | .ordfXr f => some (.xr 0x59 f)
  | .tagsetXr f => some (.xr 0x5A f)
  | .tagqXr f => some (.xr 0x5B f)
  | .kpackXr f => some (.xr 0x5C f)
  | .kunpXr f => some (.xr 0x5D f)
  | .lscanXr f => some (.xr 0x60 f)
  | .lredXr f => some (.xr 0x61 f)
  | .voteXr f => some (.xr 0x62 f)
  | .balXr f => some (.xr 0x63 f)
  | .matchXr f => some (.xr 0x64 f)
  | .jmpSb f => some (.sb 0x68 f)
  | .jmpXb f => some (.xb 0x68 f)
  | .callXb f => some (.xb 0x69 f)
  | .retXr f => some (.xr 0x6A f)
  | .bnzXb f => some (.xb 0x6B f)
  | .bzXb f => some (.xb 0x6C f)
  | .brxXb f => some (.xb 0x6D f)
  | .jenrXr f => some (.xr 0x6E f)
  | .jwaitXr f => some (.xr 0x6F f)
  | .jstrXr f => some (.xr 0x70 f)
  | .jmovXr f => some (.xr 0x71 f)
  | .tspawnXr f => some (.xr 0x74 f)
  | .tnextXr f => some (.xr 0x75 f)
  | .bndXr f => some (.xr 0x76 f)
  | .incxXr f => some (.xr 0x77 f)
  | .incrXr f => some (.xr 0x78 f)
  | .ldXm f => some (.xm 0x80 f)
  | .stXm f => some (.xm 0x81 f)
  | .atomXm f => some (.xm 0x82 f)
  | .casXm f => some (.xm 0x83 f)
  | .pfXm f => some (.xm 0x84 f)
  | .pinXm f => some (.xm 0x85 f)
  | .unpinXm f => some (.xm 0x86 f)
  | .cflXm f => some (.xm 0x87 f)
  | .cinvXm f => some (.xm 0x88 f)
  | .cplXm f => some (.xm 0x89 f)
  | .cptXt f => some (.xt 0x8A f)
  | .bariXm f => some (.xm 0x8B f)
  | .barvXm f => some (.xm 0x8C f)
  | .barwXm f => some (.xm 0x8D f)
  | .barxXm f => some (.xm 0x8E f)
  | .qenqXm f => some (.xm 0x8F f)
  | .qdeqXm f => some (.xm 0x90 f)
  | .qpollXm f => some (.xm 0x91 f)
  | .presXm f => some (.xm 0x92 f)
  | .rwrXm f => some (.xm 0xA0 f)
  | .rrdXm f => some (.xm 0xA1 f)
  | .raddXm f => some (.xm 0xA2 f)
  | .rsigXm f => some (.xm 0xA3 f)
  | .swaitXm f => some (.xm 0xA4 f)
  | .rmcXm f => some (.xm 0xA5 f)
  | .raccXm f => some (.xm 0xA6 f)
  | .bldXt f => some (.xt 0xB0 f)
  | .mmaXt f => some (.xt 0xB1 f)
  | .mbinXt f => some (.xt 0xB2 f)
  | .mretXt f => some (.xt 0xB3 f)
  | .mretSendXt f => some (.xt 0xB3 f)
  | .mclrXt f => some (.xt 0xB4 f)
  | .rdefXr f => some (.xr 0xC0 f)
  | .rdelXr f => some (.xr 0xC1 f)
  | .foldXt f => some (.xt 0xC2 f)
  | .scanXt f => some (.xt 0xC3 f)
  | .zipXt f => some (.xt 0xC4 f)
  | .zipMergeXt f => some (.xt 0xC4 f)
  | .outrXt f => some (.xt 0xC5 f)
  | .rendXr f => some (.xr 0xC8 f)
  | .rdropXr f => some (.xr 0xC9 f)
  | .illegalOpcode opc => some (.bad opc)
  | .coolantFlowChange _ => none
  | .supplyDroop _ => none
  | .eccEvent _ _ => none
  | .poweredSecond _ => none
  | .escapeChannel _ => none
  | .lanyardLinkError _ _ => none

/-- The instruction of format S3 with a given opcode (Table 12.9). -/
def ofS3 (opc : Nat) (f : S3Form) : Option Instr :=
  match opc with
  | 0x20 => some (.addS3 f)
  | 0x21 => some (.subS3 f)
  | 0x22 => some (.mulS3 f)
  | 0x27 => some (.minS3 f)
  | 0x28 => some (.maxS3 f)
  | 0x39 => some (.movS3 f)
  | 0x40 => some (.faddS3 f)
  | 0x41 => some (.fsubS3 f)
  | 0x42 => some (.fmulS3 f)
  | 0x44 => some (.fminS3 f)
  | 0x45 => some (.fmaxS3 f)
  | _ => none

/-- The instruction of format SI with a given opcode (Table 12.9). -/
def ofSi (opc : Nat) (f : SiForm) : Option Instr :=
  match opc with
  | 0x05 => some (.growSi f)
  | 0x06 => some (.shrinkSi f)
  | 0x07 => some (.fenceSi f)
  | 0x08 => some (.trapSz f)
  | 0x0A => some (.syscallSi f)
  | 0x0B => some (.irqSi f)
  | 0x0D => some (.sidSi f)
  | 0x10 => some (.sleepSi f)
  | 0x2E => some (.shlSi f)
  | 0x2F => some (.shrSi f)
  | 0x30 => some (.sarSi f)
  | _ => none

/-- The instruction of format SB with a given opcode (Table 12.9). -/
def ofSb (opc : Nat) (f : SbForm) : Option Instr :=
  match opc with
  | 0x68 => some (.jmpSb f)
  | _ => none

/-- The instruction of format SZ with a given opcode (Table 12.9). -/
def ofSz (opc : Nat) : Option Instr :=
  match opc with
  | 0x01 => some .nopSz
  | 0x03 => some .sealSz
  | 0x09 => some .rtiSz
  | 0x0C => some .brkSz
  | 0x0E => some .exitSz
  | _ => none

/-- The instruction of format XR with a given opcode (Table 12.9). -/
def ofXr (opc : Nat) (f : XrForm) : Option Instr :=
  match opc with
  | 0x01 => some (.nopXr f)
  | 0x03 => some (.sealXr f)
  | 0x05 => some (.growXr f)
  | 0x06 => some (.shrinkXr f)
  | 0x07 => some (.fenceXr f)
  | 0x08 => some (.trapXr f)
  | 0x09 => if f.sub = 0 then some (.rtiXr f) else if f.sub = 1 then some (.rtiNextXr f) else if f.sub = 2 then some (.rtiRgnXr f) else none
  | 0x0A => some (.syscallXr f)
  | 0x0B => some (.irqXr f)
  | 0x0C => some (.brkXr f)
  | 0x0D => some (.sidXr f)
  | 0x0E => some (.exitXr f)
  | 0x0F => some (.gctlXr f)
  | 0x10 => some (.sleepXr f)
  | 0x20 => some (.addXr f)
  | 0x21 => some (.subXr f)
  | 0x22 => some (.mulXr f)
  | 0x23 => some (.mulhXr f)
  | 0x24 => some (.madXr f)
  | 0x25 => some (.divXr f)
  | 0x26 => some (.remXr f)
  | 0x27 => some (.minXr f)
  | 0x28 => some (.maxXr f)
  | 0x29 => some (.absXr f)
  | 0x2A => some (.negXr f)
  | 0x2B => some (.cmpXr f)
  | 0x2C => some (.selXr f)
  | 0x2D => some (.lop3Xr f)
  | 0x2E => some (.shlXr f)
  | 0x2F => some (.shrXr f)
  | 0x30 => some (.sarXr f)
  | 0x31 => some (.fshlXr f)
  | 0x32 => some (.fshrXr f)
  | 0x33 => some (.pcntXr f)
  | 0x34 => some (.clzXr f)
  | 0x35 => some (.ctzXr f)
  | 0x36 => some (.brevXr f)
  | 0x37 => some (.bfeXr f)
  | 0x38 => some (.bfiXr f)
  | 0x39 => some (.movXr f)
  | 0x3A => some (.leaXr f)
  | 0x3B => some (.prmtXr f)
  | 0x40 => some (.faddXr f)
  | 0x41 => some (.fsubXr f)
  | 0x42 => some (.fmulXr f)
  | 0x43 => some (.ffmaXr f)
  | 0x44 => some (.fminXr f)
  | 0x45 => some (.fmaxXr f)
  | 0x46 => some (.fabsXr f)
  | 0x47 => some (.fnegXr f)
  | 0x48 => some (.fcmpXr f)
  | 0x49 => some (.fdivXr f)
  | 0x4A => some (.fsqrtXr f)
  | 0x4B => some (.frcpXr f)
  | 0x4C => some (.frsqXr f)
  | 0x4D => some (.ex2sXr f)
  | 0x4E => some (.lg2Xr f)
  | 0x4F => some (.fclsXr f)
  | 0x50 => some (.frndXr f)
  | 0x58 => some (.cvtXr f)
  | 0x59 => some (.ordfXr f)
  | 0x5A => some (.tagsetXr f)
  | 0x5B => some (.tagqXr f)
  | 0x5C => some (.kpackXr f)
  | 0x5D => some (.kunpXr f)
  | 0x60 => some (.lscanXr f)
  | 0x61 => some (.lredXr f)
  | 0x62 => some (.voteXr f)
  | 0x63 => some (.balXr f)
  | 0x64 => some (.matchXr f)
  | 0x6A => some (.retXr f)
  | 0x6E => some (.jenrXr f)
  | 0x6F => some (.jwaitXr f)
  | 0x70 => some (.jstrXr f)
  | 0x71 => some (.jmovXr f)
  | 0x74 => some (.tspawnXr f)
  | 0x75 => some (.tnextXr f)
  | 0x76 => some (.bndXr f)
  | 0x77 => some (.incxXr f)
  | 0x78 => some (.incrXr f)
  | 0xC0 => some (.rdefXr f)
  | 0xC1 => some (.rdelXr f)
  | 0xC8 => some (.rendXr f)
  | 0xC9 => some (.rdropXr f)
  | _ => none

/-- The instruction of format XM with a given opcode (Table 12.9). -/
def ofXm (opc : Nat) (f : XmForm) : Option Instr :=
  match opc with
  | 0x80 => some (.ldXm f)
  | 0x81 => some (.stXm f)
  | 0x82 => some (.atomXm f)
  | 0x83 => some (.casXm f)
  | 0x84 => some (.pfXm f)
  | 0x85 => some (.pinXm f)
  | 0x86 => some (.unpinXm f)
  | 0x87 => some (.cflXm f)
  | 0x88 => some (.cinvXm f)
  | 0x89 => some (.cplXm f)
  | 0x8B => some (.bariXm f)
  | 0x8C => some (.barvXm f)
  | 0x8D => some (.barwXm f)
  | 0x8E => some (.barxXm f)
  | 0x8F => some (.qenqXm f)
  | 0x90 => some (.qdeqXm f)
  | 0x91 => some (.qpollXm f)
  | 0x92 => some (.presXm f)
  | 0xA0 => some (.rwrXm f)
  | 0xA1 => some (.rrdXm f)
  | 0xA2 => some (.raddXm f)
  | 0xA3 => some (.rsigXm f)
  | 0xA4 => some (.swaitXm f)
  | 0xA5 => some (.rmcXm f)
  | 0xA6 => some (.raccXm f)
  | _ => none

/-- The instruction of format XT with a given opcode (Table 12.9). -/
def ofXt (opc : Nat) (f : XtForm) : Option Instr :=
  match opc with
  | 0x8A => some (.cptXt f)
  | 0xB0 => some (.bldXt f)
  | 0xB1 => some (.mmaXt f)
  | 0xB2 => some (.mbinXt f)
  | 0xB3 => if f.flags.getLsbD 1 then some (.mretSendXt f) else some (.mretXt f)
  | 0xB4 => some (.mclrXt f)
  | 0xC2 => some (.foldXt f)
  | 0xC3 => some (.scanXt f)
  | 0xC4 => if f.sub = 0 then some (.zipXt f) else if f.sub = 1 then some (.zipMergeXt f) else none
  | 0xC5 => some (.outrXt f)
  | _ => none

/-- The instruction of format XB with a given opcode (Table 12.9). -/
def ofXb (opc : Nat) (f : XbForm) : Option Instr :=
  match opc with
  | 0x68 => some (.jmpXb f)
  | 0x69 => some (.callXb f)
  | 0x6B => some (.bnzXb f)
  | 0x6C => some (.bzXb f)
  | 0x6D => some (.brxXb f)
  | _ => none

/-- Conditions that tell apart the rows of the opcode table that share an opcode and format: the SUB values of `rti` and
`zip`, the SEND flag of `mret`, and the opcodes that are unassigned (R254). -/
def Instr.rowOk : Instr → Bool
  | .rtiXr f => f.sub == 0
  | .rtiNextXr f => f.sub == 1
  | .rtiRgnXr f => f.sub == 2
  | .mretXt f => !f.flags.getLsbD 1
  | .mretSendXt f => f.flags.getLsbD 1
  | .zipXt f => f.sub == 0
  | .zipMergeXt f => f.sub == 1
  | .illegalOpcode opc => !assigned opc.toNat
  | _ => true

/-- A well-formed instruction: it has an encoding, none of the encoding checks fails, and it is its row's. -/
def Instr.wellFormed (i : Instr) : Bool :=
  match i.enc? with
  | none => false
  | some e => e.error.isNone && i.rowOk

end Sys2Proof
end

