-- ==== Sys2Proof/Decode.lean ====
section
/-!
DEFINITION. The decoder: total on any words, rejecting by name what is not an instruction (12_isa_encoding R241-R257),
and after it the encoder, from the same encoding tables.
-/
namespace Sys2Proof

/-- LEN of word 0 (Table 12.1). -/
def lenOf (w0 : Word) : BitVec 2 := w0.extractLsb' 0 2
/-- Major opcode of word 0. -/
def opcOf (w0 : Word) : BitVec 8 := w0.extractLsb' 2 8
/-- The words an instruction occupies, from its LEN (R241). -/
def lenWords (len : BitVec 2) : Nat := if len = 0 then 1 else if len = 3 then 5 else 3

/-- The fields of an S3 word. -/
def parseS3 (w : Word) (lit : Option DWord) : S3Form :=
  ⟨w.getLsbD 31, w.extractLsb' 24 7, w.extractLsb' 17 7, w.extractLsb' 10 7, lit⟩
/-- The fields of an SI word. -/
def parseSi (w : Word) (lit : Option DWord) : SiForm :=
  ⟨w.extractLsb' 24 8, w.extractLsb' 17 7, w.extractLsb' 10 7, lit⟩
/-- The fields of an SB word. -/
def parseSb (w : Word) : SbForm := ⟨w.extractLsb' 18 14, w.extractLsb' 10 8⟩
/-- The fields of an SW word. -/
def parseSw (w : Word) : SwForm :=
  ⟨w.extractLsb' 28 4, w.extractLsb' 24 4, w.extractLsb' 20 4, w.extractLsb' 15 5, w.extractLsb' 10 5⟩
/-- The predicate of word 2 (Table 12.4). -/
def parsePred (w2 : Word) : Pred := ⟨w2.getLsbD 29, w2.getLsbD 28, w2.extractLsb' 18 10⟩
/-- SUB from FX of word 1 and FY of word 2 (R251). -/
def parseSub (w1 w2 : Word) : BitVec 4 := w1.extractLsb' 30 2 ++ w2.extractLsb' 30 2
/-- The fields of an XR instruction (Table 12.5). -/
def parseXr (w0 w1 w2 : Word) (lit : Option DWord) : XrForm where
  gap := w0.extractLsb' 30 2
  a := w0.extractLsb' 20 10
  d := w0.extractLsb' 10 10
  sub := parseSub w1 w2
  gw := w1.getLsbD 29
  ra := w1.extractLsb' 20 9
  rb := w2.extractLsb' 0 9
  rc := w2.extractLsb' 9 9
  b := w1.extractLsb' 0 10
  c := w1.extractLsb' 10 10
  pred := parsePred w2
  lit := lit
/-- The fields of an XM instruction (Table 12.6). -/
def parseXm (w0 w1 w2 : Word) (lit : Option DWord) : XmForm where
  gap := w0.extractLsb' 30 2
  a := w0.extractLsb' 20 10
  d := w0.extractLsb' 10 10
  sub := parseSub w1 w2
  gw := w1.getLsbD 29
  as := w1.extractLsb' 26 3
  size := w1.extractLsb' 23 3
  scope := w1.extractLsb' 20 3
  ofs := w1.extractLsb' 0 20
  aux := w2.extractLsb' 10 8
  b := w2.extractLsb' 0 10
  pred := parsePred w2
  lit := lit
/-- The fields of an XT instruction (Table 12.7). -/
def parseXt (w0 w1 w2 : Word) : XtForm where
  gap := w0.extractLsb' 30 2
  a := w0.extractLsb' 20 10
  d := w0.extractLsb' 10 10
  sub := parseSub w1 w2
  gw := w1.getLsbD 29
  flags := w1.extractLsb' 22 7
  fmt := w1.extractLsb' 18 4
  h := w1.extractLsb' 10 8
  b := w1.extractLsb' 0 10
  aux := w2.extractLsb' 10 8
  c := w2.extractLsb' 0 10
  pred := parsePred w2
/-- The fields of an XB instruction (Table 12.8). -/
def parseXb (w0 w1 w2 : Word) : XbForm where
  gap := w0.extractLsb' 30 2
  d := w0.extractLsb' 10 10
  tgt := w1
  prio := w2.extractLsb' 0 8
  pred := parsePred w2

/-- The encoding that the words form, before the field checks. Zero fields that no form holds are checked here. -/
def parseWords : List Word → Except DecodeError Enc
  | [] => .error .short
  | w0 :: rest =>
    let opc := opcOf w0
    let n := opc.toNat
    if !assigned n then .ok (.bad opc)
    else if lenOf w0 = 0 then
      if s3Opc n then .ok (.s3 opc (parseS3 w0 none))
      else if siOpc n then .ok (.si opc (parseSi w0 none))
      else if n = 0x68 then .ok (.sb opc (parseSb w0))
      else if n = 0x02 then .ok (.sw (parseSw w0))
      else if szOpc n then (if w0.extractLsb' 10 22 = 0 then .ok (.sz opc) else .error .reserved)
      else if n = 0xC8 ∨ n = 0xC9 then .ok (.bad opc)
      else .error .length
    else if lenOf w0 = 2 then
      match rest with
      | lo :: hi :: _ =>
        if s3Opc n then .ok (.s3 opc (parseS3 w0 (some (pairOf lo hi))))
        else if siOpc n then .ok (.si opc (parseSi w0 (some (pairOf lo hi))))
        else if n = 0x04 then (if w0.extractLsb' 10 22 = 0 then .ok (.rgn (pairOf lo hi)) else .error .reserved)
        else if n = 0xC8 ∨ n = 0xC9 then .ok (.bad opc)
        else .error .length
      | _ => .error .short
    else if lenOf w0 = 1 then
      match rest with
      | w1 :: w2 :: _ =>
        if n = 0xC8 ∨ n = 0xC9 then
          (if (xrError n (parseXr w0 w1 w2 none)).isNone then .ok (.xr opc (parseXr w0 w1 w2 none)) else .ok (.bad opc))
        else if xmOpc n then .ok (.xm opc (parseXm w0 w1 w2 none))
        else if xtOpc n then .ok (.xt opc (parseXt w0 w1 w2))
        else if xbOpc n then
          (if w0.extractLsb' 20 10 ≠ 0 ∨ w2.extractLsb' 8 10 ≠ 0 then .error .reserved
           else if w2.extractLsb' 30 2 ≠ 0 then .error .sub
           else .ok (.xb opc (parseXb w0 w1 w2)))
        else if xrOpc n then .ok (.xr opc (parseXr w0 w1 w2 none))
        else .error .length
      | _ => .error .short
    else
      match rest with
      | w1 :: w2 :: lo :: hi :: _ =>
        if n = 0xC8 ∨ n = 0xC9 then .ok (.bad opc)
        else if xmOpc n then .ok (.xm opc (parseXm w0 w1 w2 (some (pairOf lo hi))))
        else if xrOpc n then .ok (.xr opc (parseXr w0 w1 w2 (some (pairOf lo hi))))
        else .error .length
      | _ => .error .short

/-- The instruction of an encoding. -/
def Enc.instr? : Enc → Option Instr
  | .s3 opc f => ofS3 opc.toNat f
  | .si opc f => ofSi opc.toNat f
  | .sb opc f => ofSb opc.toNat f
  | .sw f => some (.waitSw f)
  | .sz opc => ofSz opc.toNat
  | .rgn l => some (.rgnSz l)
  | .xr opc f => ofXr opc.toNat f
  | .xm opc f => ofXm opc.toNat f
  | .xt opc f => ofXt opc.toNat f
  | .xb opc f => ofXb opc.toNat f
  | .bad opc => some (.illegalOpcode opc)

/-- The decoder: the instruction that the words form, or the name of the check that fails. -/
def decode (ws : List Word) : Except DecodeError Instr :=
  match parseWords ws with
  | .error e => .error e
  | .ok enc =>
    match enc.error with
    | some e => .error e
    | none => match enc.instr? with
      | some i => .ok i
      | none => .error .sub

/-- Bytes of a number, least significant first. -/
def bytesOfNat : Nat → Nat → List Byte
  | 0, _ => []
  | n + 1, x => BitVec.ofNat 8 x :: bytesOfNat n (x / 256)
/-- Little-endian words of a byte list (R241); bytes that do not fill a word are dropped. -/
def wordsOfBytes : List Byte → List Word
  | b0 :: b1 :: b2 :: b3 :: t => (b3 ++ b2 ++ b1 ++ b0 : BitVec 32) :: wordsOfBytes t
  | _ => []

/-- The decoder on an instruction whose bits are numbered as the opcode table numbers them: words are 32 bits, stored
little-endian, the first at the lowest address, and the bits above `nbits` are zero. -/
def decodeTableWord (nbits w : Nat) : Option Instr :=
  match decode (wordsOfBytes (bytesOfNat 20 (w % 2 ^ nbits))) with
  | .ok i => some i
  | .error _ => none

/-! ## The encoder -/

/-- A one-bit field. -/
def bit (b : Bool) : BitVec 1 := BitVec.ofBool b
/-- The words of a literal, low word first (R241). -/
def encLit : Option DWord → List Word
  | none => []
  | some l => [loWord l, hiWord l]
/-- LEN of a form, from whether it is extended and has a literal. -/
def encLen (ext : Bool) (lit : Option DWord) : BitVec 2 := bit lit.isSome ++ bit ext
/-- Word 2 above bit 17 (Table 12.4). -/
def encTop (sub : BitVec 4) (p : Pred) : BitVec 14 := (sub.extractLsb' 0 2 ++ bit p.pn ++ bit p.pe ++ p.p : BitVec 14)

/-- The words of an encoding. -/
def Enc.words : Enc → List Word
  | .s3 opc f => (bit f.gw ++ f.b ++ f.a ++ f.d ++ opc ++ encLen false f.lit : BitVec 32) :: encLit f.lit
  | .si opc f => (f.imm8 ++ f.a ++ f.d ++ opc ++ encLen false f.lit : BitVec 32) :: encLit f.lit
  | .sb opc f => [(f.off14 ++ f.prio ++ opc ++ (0 : BitVec 2) : BitVec 32)]
  | .sw f => [(f.cl ++ f.mx ++ f.cp ++ f.st ++ f.ld ++ (0x02 : BitVec 8) ++ (0 : BitVec 2) : BitVec 32)]
  | .sz opc => [((0 : BitVec 22) ++ opc ++ (0 : BitVec 2) : BitVec 32)]
  | .rgn l => [0x12, loWord l, hiWord l]
  | .xr opc f =>
    [(f.gap ++ f.a ++ f.d ++ opc ++ encLen true f.lit : BitVec 32),
     (f.sub.extractLsb' 2 2 ++ bit f.gw ++ f.ra ++ f.c ++ f.b : BitVec 32),
     (encTop f.sub f.pred ++ f.rc ++ f.rb : BitVec 32)] ++ encLit f.lit
  | .xm opc f =>
    [(f.gap ++ f.a ++ f.d ++ opc ++ encLen true f.lit : BitVec 32),
     (f.sub.extractLsb' 2 2 ++ bit f.gw ++ f.as ++ f.size ++ f.scope ++ f.ofs : BitVec 32),
     (encTop f.sub f.pred ++ f.aux ++ f.b : BitVec 32)] ++ encLit f.lit
  | .xt opc f =>
    [(f.gap ++ f.a ++ f.d ++ opc ++ (1 : BitVec 2) : BitVec 32),
     (f.sub.extractLsb' 2 2 ++ bit f.gw ++ f.flags ++ f.fmt ++ f.h ++ f.b : BitVec 32),
     (encTop f.sub f.pred ++ f.aux ++ f.c : BitVec 32)]
  | .xb opc f =>
    [(f.gap ++ (0 : BitVec 10) ++ f.d ++ opc ++ (1 : BitVec 2) : BitVec 32), f.tgt,
     (encTop 0 f.pred ++ (0 : BitVec 10) ++ f.prio : BitVec 32)]
  | .bad opc => [((0 : BitVec 22) ++ opc ++ (0 : BitVec 2) : BitVec 32)]

/-- The words of an instruction; none for a module event. -/
def encode (i : Instr) : List Word :=
  match i.enc? with
  | none => []
  | some e => e.words

/-- The length in bytes of an instruction, from its LEN (R241). -/
def Enc.length : Enc → Nat
  | .s3 _ f => if f.lit.isSome then 12 else 4
  | .si _ f => if f.lit.isSome then 12 else 4
  | .sb _ _ => 4
  | .sw _ => 4
  | .sz _ => 4
  | .rgn _ => 12
  | .xr _ f => if f.lit.isSome then 20 else 12
  | .xm _ f => if f.lit.isSome then 20 else 12
  | .xt _ _ => 12
  | .xb _ _ => 12
  | .bad _ => 4

end Sys2Proof
end

