-- ==== Sys2Proof/Config.lean ====
section
/-!
DEFINITION. What the spec leaves open for each implementation or gives no value for: opaque constants, so that no
proof can lean on a value of them. The log entry that declares each is named beside it.
-/
namespace Sys2Proof.Config

/-- FREE VALUE (log 3): the content of private register `r` of lane `l` of group slot `g` on core `c` after the
restart numbered `e` (R150: every private register that is not live-in is undefined). -/
opaque freeReg : Nat → Nat → Nat → Nat → Nat → BitVec 32
/-- FREE VALUE (log 3): the tag of the same register, a code reduced modulo 10. -/
opaque freeTag : Nat → Nat → Nat → Nat → Nat → Nat
/-- FREE VALUE (log 8): whether the faulted operation numbered `n` had written element `i` (R175). -/
opaque faultWrote : Nat → Nat → Bool
/-- FREE VALUE (log 9): bits of a destination element the spec states no value for, by event number and element. -/
opaque freeBits : Nat → Nat → BitVec 64
/-- Log 10: the base of the tokens of `syscall` requests (R94 asks only that they be unique). -/
opaque tokenBase : BitVec 32
/-- Log 11: the set of an L2 slice that a 256-byte line falls in (R184 gives 512 sets and no index function). -/
opaque l2Set : Nat → Fin 512
/-- Log 12: SHA-256 (R53), a standard whose content the spec does not restate. -/
opaque sha256 : List (BitVec 8) → BitVec 256
/-- Log 12: LMS verification (R52), of a message and a signature under a public key. -/
opaque lmsVerify : List (BitVec 8) → List (BitVec 8) → List (BitVec 8) → Bool
/-- Log 2: AES-XTS (R55): the byte at an offset of a sector that was stored under one key and is read under another,
as a function of both keys, the sector number, the 64 stored bytes and the offset. -/
opaque xtsRecrypt : BitVec 512 → BitVec 512 → Nat → List (BitVec 8) → Nat → BitVec 8
/-- Log 2: the key that the entropy source gives key ID 0 at boot number `n` (R56). -/
opaque bootKey : Nat → BitVec 512
/-- Log 2: the key under which an access with an EMPTY key ID is decrypted (the spec states none). -/
opaque emptyKey : BitVec 12 → BitVec 512
/-- Log 13: MAGIC of the preserved-state table (R64 gives the field and no value). -/
opaque stateMagic : BitVec 32
/-- Log 13: FORMAT of the preserved-state table. -/
opaque stateFormat : BitVec 32
/-- Log 13: VERSION that the running Uzoman gives an entry of a type. -/
opaque stateVersion : Nat → Nat
/-- Log 13: ADDR of the entry of a type in the table numbered `n`. -/
opaque stateAddr : Nat → Nat → BitVec 64
/-- Log 13: LEN of that entry. -/
opaque stateLen : Nat → Nat → BitVec 64
/-- Log 14: whether the new kernel of the update numbered `n` knows a TYPE and VERSION. -/
opaque stateKnown : Nat → Nat → Nat → Bool
/-- Log 13: where in Uzoman's region the table is written. -/
opaque tableAt : Nat → Nat
/-- Log 14: whether the new kernel accepts a preserved-state table beyond the checks of R64. -/
opaque kernelAccepts : Nat → Bool
/-- Log 52: the eight bytes at word `n` of the boot ROM (R52-R54 give what it does, not its contents). -/
opaque romWord : Nat → BitVec 64
/-- FREE VALUE (log 57): the eight bytes that read number `n` of a window left to other standards returns, by address. -/
opaque windowWord : Nat → Nat → BitVec 64
/-- Log 57: the hart whose interrupt file is page `n` of the IMSIC window. -/
opaque imsicHart : Nat → Fin 16
/-- Log 57: which of the six interrupt files of that hart (R49) the page is. -/
opaque imsicFile : Nat → Fin 6
/-- Log 57: the answer of the IOMMU of a port die (R60: the RISC-V IOMMU specification, which the spec does not restate) to
access number `n` of a requester at an address, a write or a read: a physical address, or a fault. -/
opaque iommu : Nat → Nat → BitVec 16 → BitVec 64 → Bool → Option (BitVec 48)
/-- Log 57: whether that access names a device behind the other root port, and then its address there (R60). -/
opaque iommuPeer : Nat → Nat → BitVec 16 → BitVec 64 → Bool → Option (BitVec 64)
/-- Log 60: whether a shared buffer is free at an ac at a stop of the die ring on a virtual channel (R195 gives no count). -/
opaque ringBuffer : Nat → Nat → Nat → Bool
/-- Log 52: the eight bytes at word `n` of the fuse and identity window (Table 3.1), by the root-key digest and the count of
blown rollback fuses; the spec gives FUSEADV and PCKTAB alone an address there. -/
opaque fuseWord : BitVec 256 → Nat → Nat → BitVec 64

end Sys2Proof.Config
end

