-- ==== Sys2Proof/Machine/State.lean ====
section
/-!
DEFINITION. The state of the module as plain data: the control part (`Ctl`: supply, boot, keys, registers, ports,
repair, update) and the fabric part (`Fab`: memory, caches, cores, groups, lanes, contexts, Uzoman, transport), the
agenda of moves the environment has chosen, and the state right after reset.
-/
namespace Sys2Proof.Machine

/-- Format tags of registers (Table 7.2, R137). -/
inductive Tag
  | raw | i32 | n32 | f32 | h16x2 | b16x2 | f64 | i64 | n64 | bits
  deriving DecidableEq, Repr, Inhabited

/-- A register of one lane: its value and its format tag (R135, R137). -/
structure Reg where
  val : Word
  tag : Tag
  deriving DecidableEq, Repr, Inhabited

/-- Zero with tag raw (R92). -/
def Reg.zero : Reg := ⟨0, .raw⟩

/-- Byte-addressed memory in canonical form: addresses rise strictly and no listed byte is zero. -/
abbrev Memory := List Host.Cell

/-- What a byte that is not listed reads as (DESIGN CHOICE, log 1). -/
def Memory.unlisted : Byte := 0

/-- Whether every key of the list is above `n`, keys rise, and no entry equals the unlisted value. -/
def Memory.wfFrom : Option Nat → Memory → Bool
  | _, [] => true
  | lo, (a, b) :: m =>
    (match lo with | none => true | some l => decide (l < a)) && decide (b ≠ Memory.unlisted) && wfFrom (some a) m

/-- The canonical form of a memory. -/
def Memory.wf (m : Memory) : Bool := Memory.wfFrom none m

/-! ## Lanes and groups -/

/-- Whether a lane runs, has executed `exit`, or was cancelled (R121, R305). -/
inductive LaneStatus
  | live | exited | cancelled
  deriving DecidableEq, Repr, Inhabited

/-- Where an access lands: global memory at a translated address, or a scratchpad. -/
inductive Loc
  | glob (va pa : Addr) (key : BitVec 12) (home : BitVec 4) (cache : BitVec 2)
  | scr (core : Nat) (addr : Nat)
  deriving DecidableEq, Repr, Inhabited

/-- The instruction a lane is parked in (R145). -/
inductive Park
  | jwait (j : BitVec 4)
  | tnext (q : Nat) (desc : Loc)
  /-- A `qenq` or `qdeq` whose request has not been answered (R327, R328). -/
  | queue
  /-- A `qdeq` on the waiter list (R328): its number in the group, and the lower-numbered active lanes of it, whose value a
  team-shared destination takes before this lane's (R140). -/
  | qdeq (desc : Loc) (d : RegNo) (words : Nat) (acq : Option Nat) (seq : Nat) (lower : BitVec 64)
  /-- A `qdeq` to which the slice has handed an entry that has not reached the core yet (R328): as above, with the entry. -/
  | handed (desc : Loc) (d : RegNo) (acq : Option Nat) (seq : Nat) (lower : BitVec 64) (entry : List Byte)
  | syscall (token : Option Word) (request : List Byte)
  | barw (core : Nat) (addr : Nat) (phase : Bool)
  | swait (loc : Loc) (threshold : DWord)
  /-- A `swait` lane that its word has released: it unparks with its acquire at the end of the step (R217, R350). -/
  | released
  deriving DecidableEq, Repr, Inhabited

/-- A region checkpoint (R149): the live-in literal, the live-in registers in range order, the head, the priority and
the lane's bits in the rejoin masks. `idle` marks a head that is a `tnext` at which a restart finds the lane idle (R125). -/
structure Checkpoint where
  lit : DWord
  regs : List Reg
  head : Addr
  prio : Byte
  enrolled : BitVec 16
  arrived : BitVec 16
  idle : Option Nat
  deriving DecidableEq, Repr, Inhabited

/-- One lane of a group. -/
structure Lane where
  status : LaneStatus
  /-- Idle at its last `tnext` (R125). -/
  idle : Bool
  park : Option Park
  /-- Where a parked lane continues when it unparks (R145). -/
  parkNext : Addr
  pc : Addr
  prio : Byte
  /-- Private registers that differ from the lane's default. -/
  regs : Table Reg
  /-- Default of unlisted private registers: zero raw, or the free values of a restart (R150, log 3). -/
  epoch : Option Nat
  bound : Option (DWord × BitVec 4)
  task : Bool
  lastTnext : Option (Addr × Nat)
  /-- Instructions issued since the deferral window opened (R151). -/
  window : Option Nat
  enrolled : BitVec 16
  arrived : BitVec 16
  ck : Checkpoint
  deriving DecidableEq, Repr, Inhabited

/-- One lane's part of a store-queue entry: where, the bytes stored (or the operand), the bytes expected by `cas`. -/
structure Piece where
  lane : Nat
  loc : Loc
  data : List Byte
  expect : List Byte
  deriving DecidableEq, Repr, Inhabited

/-- What a store-queue entry does when it leaves the queue (R207). -/
inductive StoreKind
  | store (rel : Bool)
  | atom (op : Nat) (order : Nat) (ret : Bool)
  | cas (order : Nat)
  | bari (xarrv : BitVec 16)
  | barv
  | barx (bytes : Word)
  | presSet
  | presClr
  | unpin
  | cfl (l2 : Bool)
  | qenq (esz : Nat) (order : Nat) (d : RegNo)
  | qdeq (esz : Nat) (order : Nat) (d : RegNo)
  deriving DecidableEq, Repr, Inhabited

/-- An entry of a group's store queue (R207). -/
structure StoreOp where
  seq : Nat
  pc : Addr
  scope : Nat
  kind : StoreKind
  pieces : List Piece
  deriving DecidableEq, Repr, Inhabited

/-- What an outstanding load waits for. -/
inductive LoadKind
  | mem (acq : Bool)
  | ret
  | pin
  | presq
  | rrd
  deriving DecidableEq, Repr, Inhabited

/-- One lane's part of an outstanding load: its source, whether it has completed, and whether its destination is not to be
written when it does (R150). -/
structure LoadPiece where
  lane : Nat
  loc : Loc
  done : Bool
  dropped : Bool
  deriving DecidableEq, Repr, Inhabited

/-- An outstanding load (R160-R161). -/
structure LoadOp where
  seq : Nat
  pc : Addr
  scope : Nat
  kind : LoadKind
  d : RegNo
  bytes : Nat
  signed : Bool
  tag : Tag
  pieces : List LoadPiece
  deriving DecidableEq, Repr, Inhabited

/-- A routine of a context's routine store (R338): header fields and body instructions. -/
structure Routine where
  handle : Byte
  ident : DWord
  out : Nat
  inp : Nat
  comm : Bool
  assoc : Bool
  body : List Instr
  deriving DecidableEq, Repr, Inhabited

/-- A tile descriptor as read (Table 15.3), with the core whose scratchpads its addresses name. -/
structure Tile where
  core : Nat
  base : DWord
  scale : DWord
  meta_ : DWord
  rows : Nat
  cols : Nat
  fmt : Nat
  as : Nat
  nsp : Nat
  layout : Nat
  rstride : Nat
  vrows : Nat
  vcols : Nat
  orgrow : Int
  orgcol : Int
  fill : DWord
  deriving DecidableEq, Repr, Inhabited

/-- The parts of an engine fault record that the engine gives (Table 8.4). -/
structure EngRec where
  cause : Byte
  engine : Byte
  handle : Byte
  flags : Byte
  ridx : Byte
  cls : Byte
  row : Word
  col : Word
  pc : Addr
  addr : DWord
  deriving DecidableEq, Repr, Inhabited

/-- One lane's transfer of a `cpl` (R163, R320): source space and address, destination core and offset, barrier offset in
the destination's scratchpad. `dropped` marks a lane cancelled in the coalescer or whose source faulted. -/
structure CplPart where
  lane : Nat
  as : Nat
  src : Nat
  core : Nat
  dst : Nat
  bar : Option Nat
  dropped : Bool
  deriving DecidableEq, Repr, Inhabited

/-- Bits that a copy writes into one byte of a scratchpad: those of the mask take the value's. -/
structure ByteWrite where
  core : Nat
  addr : Nat
  mask : Byte
  val : Byte
  deriving DecidableEq, Repr, Inhabited

/-- A sector of a receiver's scratchpad that a copy has not delivered yet, and the bytes it credits there by barrier. -/
structure CopyPart where
  core : Nat
  sector : Nat
  credits : List (Nat × Nat)
  deriving DecidableEq, Repr, Inhabited

/-- What a copy moves (R320, R321). -/
inductive CopyKind
  | cpl (bytes : Nat) (parts : List CplPart)
  | cpt (src dst : Tile) (mode : Nat) (rmode : Nat) (routine : Option Routine)
  deriving DecidableEq, Repr, Inhabited

/-- A copy operation of a core's copy engine. `handed` marks one whose sources have been read; `writes` is then what it
writes; `pend` lists what is not yet delivered. Of a multicast, `lines` are the source lines read and still needed, with their bytes, and
`ready` the destination lines whose writes are known (R168). -/
structure CopyOp where
  id : Nat
  slot : Nat
  seq : Nat
  ord : Nat
  lanes : BitVec 64
  pc : Addr
  gcw : Word
  ctx : Nat
  kind : CopyKind
  receivers : List Nat
  pend : List CopyPart
  handed : Bool
  writes : List ByteWrite
  lines : List (Nat × List Byte)
  ready : List Nat
  /-- Pages whose translation fault was answered DELIVER (R205). -/
  denied : List Nat
  /-- It has made its engine fault record; and the number of a routine fault, which stops it (R175). -/
  faulted : Bool
  stopped : Option Nat
  deriving DecidableEq, Repr, Inhabited

/-- A matrix or higher-order operation (R160, class mx, or `mret.send` in cl). -/
inductive EngOp
  | bld (slot : Nat) (t : Tile)
  | mma (slot : Nat) (binary : Option Bool) (quarters : List (Nat × Tile × Tile))
  | mret (quarters : List (Nat × Tile × Tile × Option Tile)) (mode : Nat) (ovr : Bool)
  | mclr (quarters : List (Nat × Tile))
  | fold (all : Bool) (d a : Tile)
  | scan (ex : Bool) (d a : Tile)
  | zip (d a b : Tile)
  | merge (d a b : Tile) (ctl : Nat) (dz la lb : Bool)
  | outr (d a b : Tile)
  | send (quarters : List (Nat × Tile × Option Tile × DWord × DWord)) (fmt mode flow : Nat)
  deriving DecidableEq, Repr, Inhabited

/-- An operation of a core's matrix engine, in issue order (R171). Its quarters are worked through in order: `quarter` of them
are done, and `blocks` block updates of the next; `packed` holds what the done quarters of an `mret.send` are packed into. -/
structure MxOp where
  slot : Nat
  seq : Nat
  ord : Nat
  lanes : BitVec 64
  pc : Addr
  gcw : Word
  routine : Option Routine
  op : EngOp
  quarter : Nat
  blocks : Nat
  packed : List (Option (List Byte))
  /-- Pages whose translation fault was answered DELIVER (R205). -/
  denied : List Nat
  deriving DecidableEq, Repr, Inhabited

/-- One part (a lane, or a quarter of `mret.send`) of a remote operation. -/
structure RemPart where
  lane : Nat
  lanes : BitVec 64
  /-- Identifiers of its unanswered packets, lowest address first. -/
  packets : List Nat
  /-- Negative answers by packet identifier. -/
  negs : List (Nat × Nat)
  /-- Packets to send once the entry of the peer table has been read (R38). -/
  todo : List Packet
  /-- Signal packet to send once every write is acknowledged (R337). -/
  signal : Option Packet
  deriving DecidableEq, Repr, Inhabited

/-- A multicast in progress (R44): the group and the copy to send until its tables have been read, the record's address and its
answers so far, and the members, by index and device, for which each packet on its way still has to answer: one that goes to a member
alone, and one that switches replicate. -/
structure McastRec where
  start : Option (Nat × Packet)
  va : Addr
  pos : Nat
  neg : Nat
  /-- (MIDX, reason, device), lowest indices first. -/
  negs : List (Nat × Nat × Nat)
  waits : Table (List (Nat × Nat))
  planes : Table (List (Nat × Nat))
  deriving DecidableEq, Repr, Inhabited

/-- An operation of class cl (R160). -/
structure RemOp where
  seq : Nat
  ord : Nat
  pc : Addr
  lanes : BitVec 64
  parts : List RemPart
  mcast : Option McastRec
  flow : Nat
  /-- The load it also counts as (`rrd`). -/
  isRrd : Bool
  /-- Waiting for its matrix-engine part (`mret.send`). -/
  waitMx : Bool
  /-- Completed with an engine fault. -/
  faulted : Bool
  deriving DecidableEq, Repr, Inhabited

/-- A completion not yet delivered to a group (R177, R346): an engine fault record in the ring, or a negative remote
completion. `cls` is 2 cp, 3 mx, 4 cl; `ord` numbers the operation (or its batch) in its class; `k` numbers the record
in the ring; `lanes` are the lanes that issued it. -/
inductive Undel
  | record (seq cls ord k : Nat) (lanes : BitVec 64) (r : EngRec)
  | held (seq cls ord : Nat) (lanes : BitVec 64) (r : EngRec)
  | neg (seq ord : Nat) (reason : Byte) (lanes : BitVec 64)
  deriving DecidableEq, Repr, Inhabited

/-- Why a group as a whole does not issue its next instruction. -/
inductive Hold
  /-- A condition that an event may end: a counter limit, a `wait`, an absent sector, a store queue to empty. -/
  | retry
  /-- Parked on a translation fault (R152): the fault slot, whether a window was open, the lanes that issued, those that
  faulted, and the address. -/
  | fault (slot : Nat) (windowOpen : Bool) (entry lanes : BitVec 64) (va : Addr)
  /-- `irq` whose event finds the queue full (R78): the event waits at Uzoman. Its entry's lanes stand after it; `pc` is
  its own. -/
  | irq (entry active : BitVec 64) (pc : Addr)
  /-- `grow` waiting in the register queue (R103), with its entry, its active lanes, its PC and the count asked for. -/
  | grow (entry active : BitVec 64) (pc : Addr) (r : Nat)
  /-- `sleep` until TIME reaches the target (R302). -/
  | sleep (entry : BitVec 64) (pc : Addr) (target : Nat)
  /-- `wait` until every counter is at or below its threshold (R291): the lanes that issued it stand at its PC. -/
  | wait (entry : BitVec 64) (pc : Addr) (x : SwForm)
  deriving DecidableEq, Repr, Inhabited

/-- Trap mode (R154): the handler lanes still in it, the instructions the handler has issued, and the frame's VA. -/
structure TrapMode where
  handlers : BitVec 64
  issued : Nat
  frame : Addr
  deriving DecidableEq, Repr, Inhabited

/-- A trap whose entry has not been made yet (R153: its entry met a translation fault): cause, subcause, faulting
lanes, handler lanes, fault address, offset of the engine record in the frame area or 0, and PC. -/
structure PendTrap where
  cause : Nat
  sub : Byte
  lanes : BitVec 64
  handlers : BitVec 64
  faddr : DWord
  erec : DWord
  pc : Addr
  deriving DecidableEq, Repr, Inhabited

/-- Why a group is being stopped. -/
inductive Stop
  | preempt | registers
  deriving DecidableEq, Repr, Inhabited

/-- One group (R133). -/
structure Group where
  slot : Nat
  consumer : Bool
  /-- Private registers per lane, R (R135). -/
  r : Nat
  lanes : List Lane
  gcw : Word
  storeQ : List StoreOp
  loads : List LoadOp
  openBatch : List Nat
  batches : List (List Nat)
  rem : List RemOp
  undel : List Undel
  /-- Records written to the ring so far (R176). -/
  ringCount : Nat
  nextSeq : Nat
  /-- Batches sealed so far, and matrix and remote operations issued so far. -/
  sealedCp : Nat
  issuedMx : Nat
  issuedCl : Nat
  /-- Operations older than this number are no longer counted: the group has restarted since (R150). -/
  countFrom : Nat
  hold : Option Hold
  /-- A load parked on an absent sector (R164): since when, for which lanes, and the address of the lowest. -/
  absentSince : Option (Nat × BitVec 64 × DWord)
  trap : Option TrapMode
  pendTrap : Option PendTrap
  stop : Option Stop
  stopped : Bool
  /-- Lanes handed a malformed record since the last boundary (R129), and the first 8 bytes of their records, in the order in which they
  were handed. -/
  malformed : BitVec 64
  malformedWords : List (Nat × DWord)
  gapUntil : Nat
  gw : Bool
  /-- The ac of its last issue. -/
  lastIssue : Option Nat
  eligSince : Option Nat
  /-- The group waits for readmission in the register queue (R106). -/
  awaiting : Bool
  deriving DecidableEq, Repr, Inhabited

/-- B-slot state (Table 8.3) and contents. -/
structure BSlot where
  valid : Bool
  nsp : Nat
  fmt : Nat
  cols : Nat
  rows : Nat
  bytes : Memory
  deriving DecidableEq, Repr, Inhabited

/-- The issue view of a slot (R334): the state it will hold once every issued `bld` has completed. -/
structure SlotView where
  valid : Bool
  nsp : Nat
  fmt : Nat
  cols : Nat
  rows : Nat
  deriving DecidableEq, Repr, Inhabited

/-- Presence of a 64-byte sector (R164). -/
structure Sector where
  present : Bool
  pending : Nat
  deriving DecidableEq, Repr, Inhabited

/-- A team-shared register (R140): a value every group sees, and later writes, oldest first, as issue ac, group slot
and value, that some group may not see yet. -/
structure Shared where
  base : Reg
  writes : List (Nat × Nat × Reg)
  deriving DecidableEq, Repr, Inhabited

/-- A team resident on a core. -/
structure Team where
  grid : Nat
  ctx : Nat
  index : Nat
  hitch : Nat
  /-- Its index in the hitch (R101). -/
  j : Nat
  /-- The cores of its hitch, by hitch index. -/
  mates : List Nat
  scratchBytes : Nat
  scratch : Memory
  sectors : Table Sector
  slots : List BSlot
  views : List SlotView
  shared : List Shared
  groups : List Group
  exited : Bool
  /-- Every team of the hitch is resident (R101). -/
  started : Bool
  /-- The TEAMEND of its hitch has been sent (R98, R102). -/
  reported : Bool
  deriving DecidableEq, Repr, Inhabited

/-- A line of an L1 (R182): bytes held (by offset), valid bits per sector, the dirty mask per byte, the mask of the bytes that this core has
written since their sector was filled, and that of the bytes that another agent has written since (R183, R210). -/
structure L1Line where
  line : Nat
  key : BitVec 12
  home : BitVec 4
  ctx : Nat
  bytes : Memory
  filled : BitVec 4
  dirty : BitVec 256
  own : BitVec 256
  stale : BitVec 256
  deriving DecidableEq, Repr, Inhabited

/-- A word held by an instruction cache (R260), by the virtual address of the word. -/
structure IWord where
  ctx : Nat
  va : Nat
  word : Word
  deriving DecidableEq, Repr, Inhabited

/-- A TLB entry (R201): the context, the page and level, the leaf, and the table lines it was derived from. -/
structure TlbEntry where
  ctx : Nat
  level : Nat
  page : Nat
  pte : DWord
  pteAt : Nat
  lines : List Nat
  deriving DecidableEq, Repr, Inhabited

/-- A request in a core's register queue (R103). -/
structure RegReq where
  slot : Nat
  regs : Nat
  readmit : Bool
  deriving DecidableEq, Repr, Inhabited

/-- A core's copy of a context's slice map (R186): its generation, and the redirection table by the slices that it holds
out of service. -/
structure MapCopy where
  gen : BitVec 16
  out : BitVec 384
  deriving DecidableEq, Repr, Inhabited

/-- One core (R99, R159, R182). -/
structure Core where
  team : Option Team
  regQueue : List RegReq
  l1 : List L1Line
  icache : List IWord
  tlb : List TlbEntry
  /-- The core's copies of slice maps, by context (R187). -/
  maps : Table MapCopy
  copies : List CopyOp
  mxq : List MxOp
  /-- Core replicas of the incumbents, by 16 x context + index (R117). -/
  incs : Table DWord
  deriving DecidableEq, Repr, Inhabited

/-- A core that holds nothing. -/
def Core.empty : Core := ⟨none, [], [], [], [], [], [], [], []⟩

/-! ## Memory system -/

/-- A line of an L2 slice (R184): the context that pinned it (R189) and the time of its last use. -/
structure L2Line where
  line : Nat
  slice : Nat
  key : BitVec 12
  bytes : Memory
  filled : BitVec 4
  mask : BitVec 256
  pin : Option Nat
  used : Nat
  deriving DecidableEq, Repr, Inhabited

/-- A lane parked on a slice queue (R193): the descriptor's physical address, the lane, and the slice whose waiter list
holds it; none for a lane that waits at its core and resends its dequeue. -/
structure Waiter where
  desc : Nat
  core : Nat
  slot : Nat
  lane : Nat
  slice : Option Nat
  deriving DecidableEq, Repr, Inhabited

/-- Who waits on a fault slot (R204). -/
inductive Requester
  | group (core slot : Nat)
  | trapEntry (core slot : Nat)
  | copy (core op : Nat) (va : Addr)
  | matrix (core : Nat) (va : Addr)
  | remote (core slot seq : Nat)
  | halyard (ctx : Nat)
  /-- An idle lane that looks for a record (R125). -/
  | idle (core slot lane : Nat)
  deriving DecidableEq, Repr, Inhabited

/-- A fault slot (R204) and the record posted for it. -/
structure FaultSlot where
  ctx : Nat
  va : Addr
  access : BitVec 8
  source : Nat
  reason : Nat
  level : Nat
  merged : Nat
  core : Nat
  gslot : Nat
  srcdev : BitVec 12
  pc : Addr
  time : DWord
  enqueued : Bool
  who : List Requester
  deriving DecidableEq, Repr, Inhabited

/-- A record of an engine fault of a group with no live lane, waiting for room (R124, R204). -/
structure EngPost where
  ctx : Nat
  core : Nat
  slot : Nat
  r : EngRec
  deriving DecidableEq, Repr, Inhabited

/-! ## Contexts, grids and Uzoman -/

/-- A packet parked for a context (R46), in arrival order: its number among all parked packets, and the key ID of the import
entry that check 1 has read for it (R39, R40). -/
structure ParkedPacket where
  pk : Packet
  /-- Parked for a translation fault, by slot. -/
  slot : Option Nat
  order : Nat
  key : BitVec 12
  deriving DecidableEq, Repr, Inhabited

/-- A context (R88). -/
structure Ctx where
  id : Nat
  ended : Bool
  unord : BitVec 8
  evq : Nat
  sysId : Nat
  irqId : Nat
  sysHart : Nat
  irqHart : Nat
  ovfl : Nat
  ptroot : Nat
  seed : Word
  trapTab : DWord
  faultQ : DWord
  sysQ : DWord
  peerT : DWord
  mcastT : DWord
  ovflA : DWord
  incCfg : List Byte
  incLink : List (BitVec 16)
  /-- Values of the 16 incumbents at CREATE, which a replica holds until it is written (R88, R117). -/
  incInit : List DWord
  /-- Module values of the 16 incumbents (R117). -/
  incMod : List DWord
  /-- Improvements not yet offered to linked peers, and the time of the last offer (R47). -/
  offerDue : List Bool
  offerAt : List (Option Nat)
  gen : BitVec 16
  routines : List Routine
  parked : List ParkedPacket
  ovflUsed : Nat
  /-- Tokens of `syscall` requests whose lanes no longer wait (R95). -/
  stale : List Word
  deriving DecidableEq, Repr, Inhabited

/-- A grid: the image header (R90) and its progress. -/
structure Grid where
  id : Nat
  ctx : Nat
  /-- Running RESUME: its command, queue and SEQ (R87). -/
  cmd : Nat
  queue : Nat
  seq : Word
  /-- RESUME that first started the grid (R90). -/
  firstQueue : Nat
  firstSeq : Word
  full : Bool
  image : DWord
  code : Addr
  entry : Addr
  w : Nat
  gprod : Nat
  gcons : Nat
  rprod : Nat
  rcons : Nat
  hitch : Nat
  scratch : Nat
  nteams : Nat
  incidx : BitVec 4
  bounded : Bool
  ntq : Nat
  bound0 : DWord
  tqs : List DWord
  args : List Word
  tasks : DWord
  teamsVa : DWord
  records : Nat
  nextTeam : Nat
  disc : DWord
  canc : DWord
  /-- Teams whose whole hitch has exited. -/
  exitedTeams : Nat
  /-- Pre-empting command and image, and clusters that have yet to answer SAVED (R109). -/
  preempt : Option (Nat × DWord × List Nat)
  /-- Teams that have started and are not resident, by index: stopped, or read from the image (R93, R105, R111). -/
  saved : List (Nat × Team)
  ended : Bool
  /-- Stopped by a PREEMPT and not yet placed again (R46). -/
  preempted : Bool
  deriving DecidableEq, Repr, Inhabited

/-- A hitch in the placement queue (R100); `more` stands for every later hitch of its grid as well. -/
structure Hitch where
  grid : Nat
  index : Nat
  more : Bool
  deriving DecidableEq, Repr, Inhabited

/-- A command record (Table 4.3). -/
structure CmdRec where
  seq : Word
  op : Byte
  flags : Byte
  ctx : BitVec 16
  waddr : DWord
  wval : DWord
  saddr : DWord
  sval : DWord
  opnd : List Byte
  deriving DecidableEq, Repr, Inhabited

/-- A command taken and not completed. -/
structure Cmd where
  id : Nat
  queue : Nat
  /-- The SEQ of its top-level record. -/
  top : Word
  /-- Nesting depth, the CALL it belongs to, and its index in that buffer. -/
  depth : Nat
  parent : Option Nat
  index : Nat
  /-- Ranges of the buffers of its chain of calls. -/
  chain : List (Nat × Nat)
  rec_ : CmdRec
  started : Bool
  /-- The semaphore condition has been met (R84). -/
  semOk : Bool
  /-- Records of a CALL buffer still to take, and their count. -/
  next : Nat
  count : Nat
  failed : Option (Byte × List Nat)
  deriving DecidableEq, Repr, Inhabited

/-- A registered queue (R72): its descriptor as read, or refused. -/
structure UzQueue where
  valid : Bool
  event : Bool
  logn : Nat
  evq : Nat
  hart : Nat
  msiid : Nat
  ring : Nat
  state : Nat
  stopped : Bool
  /-- Last sequence number taken (command queue) or posted (event queue). -/
  last : Word
  /-- PRODUCED as read at the last doorbell (R74). -/
  avail : Word
  deriving DecidableEq, Repr, Inhabited

/-- An event record waiting to be posted (R78): its queue, its bytes from +0x04, and its interrupt. -/
structure EventPost where
  queue : Nat
  bytes : List Byte
  /-- A KIND 2 event: hart, identity, and the group held in `irq`. -/
  irq : Option (Nat × Nat × Nat × Nat)
  deriving DecidableEq, Repr, Inhabited

/-- A lanyard message (Tables 5.1 and 5.2): `seq` is its GRID field and `hitch` its HITCH field. `grid` tells which of the
grids of a context with that SEQ it concerns, which the message's fields do not (log 56). -/
structure LanyardMsg where
  type : Byte
  pret : Nat
  ctx : Nat
  seq : Word
  grid : Nat
  team : Nat
  hitch : Nat
  image : DWord
  coreMask : Byte
  clusterScope : Bool
  deriving DecidableEq, Repr, Inhabited

/-- A lanyard link (R98): messages and permits in both directions, permits owed with the time of the first, and the messages
that the leaf controller has consumed and not acted on for want of a permit (R66). -/
structure Lanyard where
  down : List LanyardMsg
  up : List LanyardMsg
  downPermits : Nat
  upPermits : Nat
  /-- Permits the cluster owes to Uzoman, and Uzoman to the cluster. -/
  owedUp : Nat
  owedDown : Nat
  owedUpAt : Nat
  owedDownAt : Nat
  held : List LanyardMsg
  deriving DecidableEq, Repr, Inhabited

/-- An idle lanyard link with all its permits. -/
def Lanyard.fresh : Lanyard := ⟨[], [], 16, 16, 0, 0, 0, 0, []⟩

/-! ## Halyard transport -/

/-- A packet sent and not yet answered (R33): its operation, first and last sending times. -/
structure SentPacket where
  id : Nat
  pk : Packet
  firstAt : Nat
  lastAt : Nat
  /-- (core, slot, operation seq, part index), or none for packets no operation waits for. -/
  owner : Option (Nat × Nat × Nat × Nat)
  /-- Waiting behind the window of 256 (R33). -/
  waiting : Bool
  /-- The port on whose plane it travels, where one is fixed (R44, R367). -/
  port : Option Nat
  deriving DecidableEq, Repr, Inhabited

/-- A sending flow (R33): context, device, flow number, next SEQ. -/
structure SendFlow where
  ctx : Nat
  dev : BitVec 12
  flow : BitVec 3
  next : BitVec 32
  deriving DecidableEq, Repr, Inhabited

/-- A packet that the module switch holds for sending: the port on whose plane it has to leave (R367), and the port by which it arrived, by
which it may not (R27). -/
structure OutPacket where
  only : Option Nat
  came : Option Nat
  pk : Packet
  deriving DecidableEq, Repr, Inhabited

/-- A receiving flow (R33, R36): next SEQ, early packets, sequence numbers decided ahead of it, and the rejected ones with
their reasons (log 61). -/
structure RecvFlow where
  src : BitVec 12
  sctx : BitVec 12
  flow : BitVec 3
  next : BitVec 32
  early : List Packet
  decided : List (BitVec 32)
  rejected : List (BitVec 32 × Nat)
  deriving DecidableEq, Repr, Inhabited

/-- A contribution held by a reduction round until it folds, and the core at which it has been accepted (R179, R352). -/
structure RedHeld where
  ctx : Nat
  desc : Nat
  pk : Packet
  core : Nat
  deriving DecidableEq, Repr, Inhabited

/-- A bight in use (R168): the multicast copy, by its core and number, and the source line that it holds, whose bytes the copy keeps. -/
structure Bight where
  core : Nat
  op : Nat
  line : Nat
  deriving DecidableEq, Repr, Inhabited

/-- A slice request answered REMAP (R188), with the generation of the map by which it was routed (R187). -/
structure Remap where
  req : SliceReq
  gen : BitVec 16
  deriving DecidableEq, Repr, Inhabited

/-- What a die-ring packet carries: a request to a slice with the generation of the map by which it was routed (R187), or the bytes that
answer one (R194-R196). -/
inductive RingLoad
  | request (r : SliceReq) (slice : Nat) (gen : BitVec 16)
  | reply (r : SliceReq) (b : List Byte)
  deriving DecidableEq, Repr, Inhabited

/-- A packet on the die ring (R10, R11, R195, R196): where it comes from and goes to, its flow and sequence number, the stop
it stands at and since when, its direction, its virtual channel or dateline class, and whether it is in the escape
channel. -/
structure RingPacket where
  src : Nat
  dst : Nat
  ctx : Nat
  flow : Nat
  ordered : Bool
  seq : BitVec 32
  load : RingLoad
  stop : Nat
  since : Nat
  up : Bool
  vc : Nat
  escape : Bool
  deriving DecidableEq, Repr, Inhabited

/-- A flow of the die ring (R196): stops, context and number, whether it is ordered, the next sequence number sent and the next
delivered. Replies, which travel unordered, have numbers of their own. -/
structure RingFlow where
  src : Nat
  dst : Nat
  ctx : Nat
  flow : Nat
  ordered : Bool
  sent : BitVec 32
  next : BitVec 32
  deriving DecidableEq, Repr, Inhabited

/-- An interrupt file of a hart's IMSIC (R49): machine level, supervisor level, or one of four guest files. -/
inductive ImsicFile
  | machine
  | supervisor
  | guest (n : Fin 4)
  deriving DecidableEq, Repr, Inhabited

/-- The counters and histograms of the lifetime record that have entries (Table 3.7), by byte offset. -/
abbrev Lifetime := Table DWord

/-- The fabric: everything that a group's instruction can read or change. -/
structure Fab where
  /-- TIME (R13): one counter, with no difference between the local copies (log 66). -/
  time : DWord
  ac : Nat
  /-- Issue slots available per core (R23). -/
  issueSlots : Nat
  mem : Memory
  /-- Key material under which each 64-byte sector is stored (R55). -/
  memKeys : Table (BitVec 512)
  l2 : List L2Line
  /-- Marked table lines (R202). -/
  marks : List Nat
  /-- The shared TLB of each core die (R201). -/
  dieTlb : Table (List TlbEntry)
  waiters : List Waiter
  cores : Table Core
  ctxs : List Ctx
  grids : List Grid
  /-- Cluster (0-47) and die (48-55) incumbent replicas, by context and index (R117). -/
  replicas : Table (Table DWord)
  faults : Table FaultSlot
  engPosts : List EngPost
  remaps : List Remap
  replies : List (SliceReq × List Byte)
  /-- Packets on the die ring, in the escape channel or not, and those that wait in the reorder buffer of their destination
  stop (R195, R196). -/
  ring : List RingPacket
  ringFlows : List RingFlow
  placement : List Hitch
  links : List Lanyard
  queues : Table UzQueue
  cmds : List Cmd
  posts : List EventPost
  /-- Message-signalled interrupts that have arrived and that no hart has taken: hart, interrupt file and identity (R49). The interrupt
  files are independent: a hart takes any of its own. -/
  msis : List (Nat × ImsicFile × Nat)
  sendFlows : List SendFlow
  sent : List SentPacket
  recvFlows : List RecvFlow
  /-- Packets that have arrived and wait to be received: port (18 for loopback) and packet. -/
  arrived : List (Nat × Packet)
  /-- Packets the switch holds for sending (R27). -/
  outbox : List OutPacket
  redHeld : List RedHeld
  bights : List Bight
  /-- Pin bypasses of each slice (R190). -/
  bypasses : Table Nat
  /-- Pages that count as refused for the engine operation now at work: their faults were answered DELIVER (R205). -/
  refused : List Nat
  /-- The source lines that bights hold for the copy now at work, whose reads travel on unordered flows (R168, R196); none while no copy engine
  reads. -/
  copying : Option (List (Nat × List Byte))
  life : Lifetime
  /-- Register writes made by cores or by DMA, to be performed as their own steps. -/
  regWrites : List RegWrite
  /-- Completions of DMA requests: the bytes read, or none for Unsupported Request (R61). -/
  dmaDone : List (DmaReq × Option (List Byte))
  /-- DMA requests that have left by a root port towards a peer device behind it (R60). -/
  peerOut : List (Nat × DmaReq)
  /-- Identifiers handed out so far. -/
  nextId : Nat
  /-- FREE: counter of restarts and faults that draw free values (log 3). -/
  epoch : Nat
  /-- The group now issuing: core and slot (log 7). -/
  issuer : Option (Nat × Nat)
  deriving DecidableEq, Repr, Inhabited

/-! ## The control part -/

/-- State of a memory-encryption key (R57). -/
inductive KeyState
  | empty | loaded | retiring
  deriving DecidableEq, Repr, Inhabited

/-- Where the boot stands (R54). -/
inductive BootPhase
  | off | rom | failed | running
  deriving DecidableEq, Repr, Inhabited

/-- Where a live update stands (R63). -/
inductive UpdatePhase
  | idle | verified | paused
  deriving DecidableEq, Repr, Inhabited

/-- A flit of a replay buffer (R30): the consecutive replays that included it, and the port by which its packet arrived, if that passes
through this module (R27). -/
structure SentFlit where
  flit : Flit
  replays : Nat
  came : Option Nat
  deriving DecidableEq, Repr, Inhabited

/-- A halyard port (R28, R30-R32). -/
structure Port where
  replays : BitVec 32
  lanes : Nat
  state : Nat
  retrain : Bool
  disable : Bool
  /-- Credits spent on each virtual channel (R31). -/
  spent : List Nat
  /-- Flits sent and not acknowledged (R30). -/
  sent : List SentFlit
  txSeq : BitVec 12
  rxSeq : BitVec 12
  failedRetrains : Nat
  /-- Payload bytes of the packet being received on each virtual channel (R31, R32). -/
  partials : Table (List Byte)
  /-- The receiver has discarded a flit and waits for its replay. -/
  awaitReplay : Bool
  /-- Flits put on the wire. -/
  wire : List Flit
  /-- Switch group IDs that its plane has reported (R367). -/
  groups : List (BitVec 32)
  deriving DecidableEq, Repr, Inhabited

/-- A port after reset (R28). -/
def Port.fresh : Port := ⟨0, 0, 0, false, false, [0, 0, 0, 0], [], 0, 0, 0, [], false, [], []⟩

/-- The control part: board, boot, keys, registers, ports, repair and live update. -/
structure Ctl where
  supply : Nat
  lowSince : Option Nat
  bandSince : Option Nat
  bandCounted : Bool
  shutdown : Bool
  powered : Bool
  temp : Nat
  thermal : Bool
  coolant : Nat
  coolantSince : Option Nat
  cap : Nat
  capped : Bool
  meas : Nat
  /-- When measured power was last compared with CAP (R24). -/
  comparedAt : Option Nat
  /-- Flit replays counted up to the last powered second (Table 3.7). -/
  replaySeen : Nat
  boot : BootPhase
  hart0 : Addr
  harts : Bool
  scheduler : Bool
  leaves : Bool
  flash : Memory
  fuseDigest : BitVec 256
  fuses : Nat
  fuseAdv : Bool
  keyData : BitVec 512
  kid : BitVec 12
  kstate : Nat
  kresult : Nat
  kbusy : Bool
  keys : Table (KeyState × BitVec 512)
  pcktab : DWord
  uzimg : DWord
  runver : Word
  uzResult : Nat
  uzBusy : Bool
  updPhase : UpdatePhase
  updAt : Nat
  updVer : Word
  tableNo : Nat
  /-- Which half of Uzoman's region is the running half (R62). -/
  uzHalf : Nat
  uzqroot : DWord
  belled : Bool
  /-- Doorbells received while Uzoman takes no commands (R66). -/
  bells : List Nat
  repBusy : Bool
  /-- The repair runs: it does not wait for a pause to end (R69). -/
  repStarted : Bool
  repResult : Nat
  repKind : Nat
  repIndex : BitVec 16
  repOp : Nat
  retClu : BitVec 48
  retSlc : BitVec 384
  retiringSlc : Option Nat
  retPorts : BitVec 18
  flashLife : Lifetime
  /-- When the lifetime record was last written to flash, in TIME of the present reset: below 0 where that was before it (R70). -/
  flushedAt : Int
  /-- When the last powered second was counted, in the same way (Table 3.7). -/
  secondAt : Int
  hdevid : BitVec 12
  himpbase : DWord
  routes : Table (BitVec 18)
  ports : List Port
  deriving DecidableEq, Repr, Inhabited

/-- A move chosen by the environment (log 6): an event of the opcode table, an issue by a chosen group, the passing of
time, a store by a control hart, or an eviction that a cache is free to make. -/
inductive Move
  | act (i : Instr)
  | issue (core slot : Nat)
  | elapse (acs : Nat)
  | hartStore (key : BitVec 12) (pa : Addr) (bytes : List Byte)
  | evictL1 (core line : Nat)
  | evictI (core va : Nat)
  | evictL2 (line : Nat)
  /-- The oldest operation of a core's matrix engine goes one piece further (R171). -/
  | mxPiece (core : Nat)
  /-- A hart takes one of the interrupts that have arrived. -/
  | takeMsi (n : Nat)
  deriving DecidableEq, Repr, Inhabited

/-- The state of the module. -/
structure State where
  ctl : Ctl
  fab : Fab
  agenda : List Move
  deriving DecidableEq, Repr, Inhabited

/-- The reasons a step can stop with a fault. -/
inductive Fault
  /-- Raised by every instruction of a group when no group is issuing, or when the issuing group has no lane to issue
  (log 7). Safe: the hardware never issues then. -/
  | noIssuer
  deriving DecidableEq, Repr, Inhabited

/-- The reasons a step can be refused. -/
inductive Refusal
  /-- Raised by an arm of `exec` whose instruction has no meaning yet. Safe: nothing runs. -/
  | notModelled (mnemonic : String)
  deriving DecidableEq, Repr, Inhabited

/-- The outcome of a step of this machine. -/
abbrev Out := Host.Outcome State Fault Refusal

/-- The fabric right after reset. -/
def Fab.reset : Fab where
  time := 0
  ac := 0
  issueSlots := 4
  mem := []
  memKeys := []
  l2 := []
  marks := []
  dieTlb := []
  waiters := []
  cores := []
  ctxs := []
  grids := []
  replicas := []
  faults := []
  engPosts := []
  remaps := []
  replies := []
  ring := []
  ringFlows := []
  placement := []
  links := List.replicate 48 Lanyard.fresh
  queues := []
  cmds := []
  posts := []
  msis := []
  sendFlows := []
  sent := []
  recvFlows := []
  arrived := []
  outbox := []
  redHeld := []
  bights := []
  bypasses := []
  refused := []
  copying := none
  life := []
  regWrites := []
  dmaDone := []
  peerOut := []
  nextId := 0
  epoch := 0
  issuer := none

/-- The control part right after reset: hart 0 alone is released, at the boot ROM (R54). -/
def Ctl.reset : Ctl where
  supply := 50000
  lowSince := none
  bandSince := none
  bandCounted := false
  shutdown := false
  powered := true
  temp := 40
  thermal := false
  coolant := 2500
  coolantSince := none
  cap := 0xA28
  capped := false
  meas := 0
  comparedAt := none
  replaySeen := 0
  boot := .rom
  hart0 := 0xF00000000000
  harts := false
  scheduler := false
  leaves := false
  flash := []
  fuseDigest := 0
  fuses := 0
  fuseAdv := false
  keyData := 0
  kid := 0
  kstate := 0
  kresult := 0
  kbusy := false
  keys := []
  pcktab := 0
  uzimg := 0
  runver := 0
  uzResult := 0
  uzBusy := false
  updPhase := .idle
  updAt := 0
  updVer := 0
  tableNo := 0
  uzHalf := 0
  uzqroot := 0
  belled := false
  bells := []
  repBusy := false
  repStarted := false
  repResult := 0
  repKind := 0
  repIndex := 0
  repOp := 0
  retClu := 0
  retSlc := 0
  retiringSlc := none
  retPorts := 0
  flashLife := []
  flushedAt := 0
  secondAt := 0
  hdevid := 0
  himpbase := 0
  routes := []
  ports := List.replicate 18 Port.fresh

/-- The module right after reset. -/
def State.reset : State := ⟨Ctl.reset, Fab.reset, []⟩

end Sys2Proof.Machine
end

