-- ==== Sys2Proof/Machine/Mem.lean ====
section
/-!
DEFINITION. The named operations over a sparse byte memory in canonical form (R2): one byte, runs of bytes, and
little-endian numbers. Used for physical memory, scratchpads, B slots, cache lines and flash.
-/
namespace Sys2Proof.Machine

/-- The byte at an address. -/
def Memory.read : Memory → Nat → Byte
  | [], _ => Memory.unlisted
  | (k, v) :: m, a => if k = a then v else if a < k then Memory.unlisted else Memory.read m a

/-- Writes one byte, keeping the canonical form: the unlisted value removes the entry. -/
def Memory.write : Memory → Nat → Byte → Memory
  | [], a, b => if b = Memory.unlisted then [] else [(a, b)]
  | (k, v) :: m, a, b =>
    if a < k then (if b = Memory.unlisted then (k, v) :: m else (a, b) :: (k, v) :: m)
    else if a = k then (if b = Memory.unlisted then m else (a, b) :: m)
    else (k, v) :: Memory.write m a b

/-- `n` bytes from an address upward. -/
def Memory.readBytes (m : Memory) (a : Nat) : Nat → List Byte
  | 0 => []
  | n + 1 => Memory.read m a :: Memory.readBytes m (a + 1) n

/-- Writes bytes from an address upward. -/
def Memory.writeBytes (m : Memory) (a : Nat) : List Byte → Memory
  | [] => m
  | b :: bs => Memory.writeBytes (Memory.write m a b) (a + 1) bs

/-- The number whose little-endian bytes are given (R2). -/
def leNat : List Byte → Nat
  | [] => 0
  | b :: t => b.toNat + 256 * leNat t

/-- The first `n` little-endian bytes of a number. -/
def leBytes : Nat → Nat → List Byte
  | 0, _ => []
  | n + 1, x => BitVec.ofNat 8 x :: leBytes n (x / 256)

/-- An `n`-byte little-endian number of a memory. -/
def Memory.readNat (m : Memory) (a n : Nat) : Nat := leNat (m.readBytes a n)

/-- Bytes `i` to `i + n - 1` of a list; missing bytes are zero. -/
def sliceBytes (l : List Byte) (i n : Nat) : List Byte := (List.range n).map (fun k => l.getD (i + k) 0)

/-- The `n`-byte little-endian number at an offset of a byte list. -/
def fieldAt (l : List Byte) (i n : Nat) : Nat := leNat (sliceBytes l i n)

/-- Sets bytes of a list from an offset. -/
def setBytes (l : List Byte) (i : Nat) (new : List Byte) : List Byte :=
  (List.range (max l.length (i + new.length))).map (fun k => if i ≤ k ∧ k < i + new.length then new.getD (k - i) 0 else l.getD k 0)

/-- Bits `h` down to `l` of a number. -/
def bitsOf (x h l : Nat) : Nat := x / 2 ^ l % 2 ^ (h + 1 - l)

/-- One bit of a number. -/
def bitAt (x i : Nat) : Bool := x / 2 ^ i % 2 == 1

/-- Serial-number order of two n-bit numbers (R379): `a` precedes `b`. -/
def serialLt {n : Nat} (a b : BitVec n) : Bool := 1 ≤ (b - a).toNat && (b - a).toNat < 2 ^ (n - 1)

/-- Serial-number order, or equal (R379). -/
def serialLe {n : Nat} (a b : BitVec n) : Bool := a == b || serialLt a b

/-- Replaces the element at an index. -/
def setAt {α : Type} (l : List α) (i : Nat) (x : α) : List α := l.set i x

/-- Applies a function at an index. -/
def modAt {α : Type} (l : List α) (i : Nat) (f : α → α) : List α := l.modify i f

/-- The numbers below `n` that satisfy a test. -/
def indicesWhere (n : Nat) (p : Nat → Bool) : List Nat := (List.range n).filter p

/-- The mask of the listed bit numbers. -/
def maskOf (l : List Nat) : BitVec 64 := l.foldl (fun m i => m ||| (BitVec.ofNat 64 1 <<< i)) 0

end Sys2Proof.Machine
end

