-- ==== Sys2Proof/Machine/Phys.lean ====
section
/-!
DEFINITION. Physical memory and the L2 slices (01_module R14-R17, 03_control_complex R55-R58, 09_memory_hierarchy
R184-R191): the address map, keys, sectors under their keys, lines held in slices, slice selection, recalls, bypasses.
-/
namespace Sys2Proof.Machine

/-- What a physical address names (Table 1.2). -/
inductive PaKind
  | mem | mmio | unmapped
  deriving DecidableEq, Repr, Inhabited

/-- The physical address map (R16). -/
def paKind (pa : Nat) : PaKind :=
  if pa < 0x8000000000 then .mem
  else if 0x10000000000 ≤ pa ∧ pa < 0x20000000000 then .mem
  else if 0xF00000000000 ≤ pa ∧ pa < 0x1000000000000 then .mmio
  else .unmapped

/-- The reserved region of Uzoman, which no context may map (R62). -/
def uzomanRegion (pa : Nat) : Bool := 0x10000000000 ≤ pa && pa < 0x10008000000

/-- State of a key ID (R56-R58). -/
def Ctl.keyState (c : Ctl) (k : BitVec 12) : KeyState := (Table.getD c.keys k.toNat (.empty, 0)).1
/-- Key material of a key ID; an EMPTY key ID has none the spec states (log 2). -/
def Ctl.keyMat (c : Ctl) (k : BitVec 12) : BitVec 512 :=
  match Table.get? c.keys k.toNat with
  | some (.empty, _) => Config.emptyKey k
  | some (_, m) => m
  | none => Config.emptyKey k
/-- Whether new accesses under a key ID are refused (R58). -/
def Ctl.keyRefused (c : Ctl) (k : BitVec 12) : Bool := c.keyState k == .retiring

/-- Whether the module runs: powered, and its outputs not in reset (R21). -/
def Ctl.runs (c : Ctl) : Bool := c.powered && !c.shutdown

/-- Adds to a counter of the lifetime record; counters saturate (R70). -/
def Lifetime.add (l : Lifetime) (off n : Nat) : Lifetime :=
  let v := (Table.getD l off 0).toNat + n
  Table.set l off (if 2 ^ 64 ≤ v then BitVec.allOnes 64 else BitVec.ofNat 64 v)
/-- Counts an event in the lifetime record. -/
def Fab.count (f : Fab) (off : Nat) : Fab := { f with life := f.life.add off 1 }

/-- A byte of memory as an access under key material `km` reads it (R55). -/
def Fab.memByte (f : Fab) (km : BitVec 512) (pa : Nat) : Byte :=
  match Table.get? f.memKeys (pa / 64) with
  | none => f.mem.read pa
  | some k => if k = km then f.mem.read pa
    else Config.xtsRecrypt k km (pa / 64) (f.mem.readBytes (pa / 64 * 64) 64) (pa % 64)
/-- Bytes of memory under a key. -/
def Fab.memBytes (f : Fab) (km : BitVec 512) (pa n : Nat) : List Byte := (List.range n).map (fun i => f.memByte km (pa + i))
/-- Writes one byte of memory under a key: a sector stored under another key is rewritten whole (R184). -/
def Fab.memPut (f : Fab) (km : BitVec 512) (pa : Nat) (b : Byte) : Fab :=
  let s := pa / 64
  match Table.get? f.memKeys s with
  | some k => if k = km then { f with mem := f.mem.write pa b }
    else
      let old := f.memBytes km (s * 64) 64
      { f with mem := (f.mem.writeBytes (s * 64) old).write pa b, memKeys := Table.set f.memKeys s km }
  | none => { f with mem := f.mem.write pa b, memKeys := Table.set f.memKeys s km }
/-- Writes bytes of memory under a key. -/
def Fab.memPutBytes (f : Fab) (km : BitVec 512) (pa : Nat) : List Byte → Fab
  | [] => f
  | b :: bs => Fab.memPutBytes (f.memPut km pa b) km (pa + 1) bs

/-! ## Lines of the L2 slices -/

/-- The L2 line of an address, if any slice holds it: the directory keeps one copy (R185). -/
def Fab.l2Find (f : Fab) (line : Nat) : Option L2Line := f.l2.find? (fun l => l.line == line)
/-- Whether a line holds the byte at an offset: its sector is filled, or the byte has been written (R184). -/
def L2Line.has (l : L2Line) (off : Nat) : Bool := l.filled.getLsbD (off / 64) || l.mask.getLsbD off
/-- Puts a line back. -/
def Fab.l2Keep (f : Fab) (l : L2Line) : Fab := { f with l2 := l :: f.l2.filter (fun x => x.line != l.line) }
/-- Returns the waiters whose descriptors lie in a line to their cores, which resend their dequeues (R193). -/
def Fab.returnWaiters (f : Fab) (line : Nat) : Fab :=
  { f with waiters := f.waiters.map (fun w => if w.desc / 256 == line then { w with slice := none } else w) }
/-- Writes a line's masked bytes to memory and removes it, its pin with it (R184, R185, R189), and returns its waiters. -/
def Fab.l2Evict (ctl : Ctl) (f : Fab) (line : Nat) : Fab :=
  match f.l2Find line with
  | none => f
  | some l =>
    let km := ctl.keyMat l.key
    let f := (List.range 256).foldl (fun f i => if l.mask.getLsbD i then f.memPut km (line * 256 + i) (l.bytes.read i) else f) f
    { f.returnWaiters line with l2 := f.l2.filter (fun x => x.line != line) }

/-- Whether a slice is out of service or going (R67, R187). -/
def Ctl.sliceOut (ctl : Ctl) (s : Nat) : Bool := ctl.retSlc.getLsbD s || ctl.retiringSlc == some s
/-- The slices out of service or going, as a redirection table keeps them. -/
def Ctl.outSlices (ctl : Ctl) : BitVec 384 :=
  match ctl.retiringSlc with | some s => ctl.retSlc ||| (1#384 <<< s) | none => ctl.retSlc
/-- The redirection entry of slice `s` of die `d` (R186): `s` in service, else the next above, cyclically, in service. -/
def rdir (out : BitVec 384) (d s : Nat) : Nat :=
  ((List.range 48).map (fun i => (s + i) % 48)).find? (fun i => !out.getLsbD (48 * d + i)) |>.getD s
/-- The hash of R186: die and slice within it, before redirection. -/
def sliceHash (seed : Word) (home : BitVec 4) (pa : Nat) : Nat × Nat :=
  let x := pa / 256
  let y := (BitVec.ofNat 32 (x % 2 ^ 32)) ^^^ (BitVec.ofNat 32 (x / 2 ^ 32)) ^^^ seed
  let h := (y.extractLsb' 16 16 ^^^ y.extractLsb' 0 16).toNat
  if home = 0 then (h % 8, h / 8 % 48) else (home.toNat - 8, h % 48)

/-- A context by ID. -/
def Fab.ctx? (f : Fab) (id : Nat) : Option Ctx := f.ctxs.find? (fun c => c.id == id)
/-- Seed of a context's slice map. -/
def Fab.seedOf (f : Fab) (ctx : Nat) : Word := match f.ctx? ctx with | some c => c.seed | none => 0

/-- A core's state. -/
def Fab.core (f : Fab) (c : Nat) : Core := Table.getD f.cores c Core.empty
/-- Replaces a core's state. -/
def Fab.setCore (f : Fab) (c : Nat) (k : Core) : Fab := { f with cores := Table.set f.cores c k }

/-- The slice to which a copy of a map sends a physical address (R186). -/
def sliceOf (seed : Word) (out : BitVec 384) (home : BitVec 4) (pa : Nat) : Nat :=
  let (d, s) := sliceHash seed home pa
  48 * d + rdir out d s
/-- Generation of a context's slice map. -/
def Fab.genOf (f : Fab) (ctx : Nat) : BitVec 16 := match f.ctx? ctx with | some x => x.gen | none => 0
/-- A core's copy of a context's slice map: the module's until the core holds one of its own. -/
def Fab.mapOf (ctl : Ctl) (f : Fab) (c ctx : Nat) : MapCopy := Table.getD (f.core c).maps ctx ⟨f.genOf ctx, ctl.outSlices⟩
/-- Refreshes a core's copy of a map, unless it is as recent as the module's (R187, R379). -/
def Fab.refreshMap (ctl : Ctl) (f : Fab) (c ctx : Nat) : Fab :=
  if serialLe (f.genOf ctx) (f.mapOf ctl c ctx).gen then f
  else
    let k := f.core c
    f.setCore c { k with maps := Table.set k.maps ctx ⟨f.genOf ctx, ctl.outSlices⟩ }
/-- The ring stop of a core die (Table 1.1). -/
def dieStop (d : Nat) : Nat := if d < 4 then d + 1 else d + 2
/-- A flow of the ring, ordered or not (R196). -/
def Fab.ringFlow (f : Fab) (src dst ctx flow : Nat) (ordered : Bool) : RingFlow :=
  (f.ringFlows.find? (fun x => x.src == src && x.dst == dst && x.ctx == ctx && x.flow == flow && x.ordered == ordered)).getD
    ⟨src, dst, ctx, flow, ordered, 0, 0⟩
/-- Puts a flow back. -/
def Fab.setFlow (f : Fab) (x : RingFlow) : Fab :=
  { f with ringFlows := x :: f.ringFlows.filter (fun y =>
      !(y.src == x.src && y.dst == x.dst && y.ctx == x.ctx && y.flow == x.flow && y.ordered == x.ordered)) }
/-- Whether a packet travels on a flow. -/
def RingPacket.on (p : RingPacket) (x : RingFlow) : Bool :=
  p.src == x.src && p.dst == x.dst && p.ctx == x.ctx && p.flow == x.flow && p.ordered == x.ordered
/-- A packet that crosses the ring within a step takes the next number of its flow and is delivered under it (R196). One that comes while
others of its flow are on their way is delivered before them, and they take the numbers that follow (log 60). -/
def Fab.crossRing (f : Fab) (src dst ctx flow : Nat) (ordered : Bool) : Fab :=
  if src = dst then f
  else
    let x := f.ringFlow src dst ctx flow ordered
    { f.setFlow { x with sent := x.sent + 1, next := x.next + 1 } with
      ring := f.ring.map (fun p => if p.on x then { p with seq := p.seq + 1 } else p) }
/-- A core's request to a slice, and its answer: the request on the flow numbered by PA[10:8], ordered but for a copy engine's read, and the
answer on the unordered flow back (R194, R196). -/
def Fab.crossTo (f : Fab) (c ctx pa slice : Nat) : Fab :=
  let (a, b) := (dieStop (c / 48), dieStop (slice / 48))
  (f.crossRing a b ctx (pa / 256 % 8) f.copying.isNone).crossRing b a ctx (pa / 256 % 8) false
/-- Routing of a core's request (R186-R188): to the slice that the core's copy of the map names. One that is out of service
answers REMAP, which is counted and refreshes the copy; the request is then reissued. -/
def Fab.route (ctl : Ctl) (f : Fab) (core : Option Nat) (ctx : Nat) (home : BitVec 4) (pa : Nat) : Nat × Fab :=
  match core with
  | none => (sliceOf (f.seedOf ctx) ctl.outSlices home pa, f)
  | some c =>
    let slice := sliceOf (f.seedOf ctx) (f.mapOf ctl c ctx).out home pa
    if ctl.sliceOut slice then
      let new := sliceOf (f.seedOf ctx) ctl.outSlices home pa
      (new, (((f.crossTo c ctx pa slice).count 0x718).refreshMap ctl c ctx).crossTo c ctx pa new)
    else (slice, f.crossTo c ctx pa slice)

/-- The capacity of a slice's waiter list (R193). -/
def waiterRoom : Nat := 2048
/-- Hands the waiters of a recalled line to the slice that takes it, oldest first; those that do not fit return to their
cores (R193). -/
def Fab.moveWaiters (f : Fab) (line slice : Nat) (old : List Waiter) : Fab :=
  { f with waiters := old.foldl (fun (ws : List Waiter) w =>
      if w.desc / 256 = line ∧ w.slice.isSome ∧ (ws.filter (fun x => x.slice == some slice)).length < waiterRoom then
        ws.map (fun x => if x.desc = w.desc ∧ x.core = w.core ∧ x.slot = w.slot ∧ x.lane = w.lane then { x with slice := some slice } else x)
      else ws) f.waiters }
/-- Counts a bypass: in the slice's count, and in the lifetime record, which totals them (R190). -/
def Fab.bypass (f : Fab) (slice : Nat) : Fab :=
  { f.count 0x708 with bypasses := Table.set f.bypasses slice (Table.getD f.bypasses slice 0 + 1) }
/-- The line of an address that its slice takes on a miss, or none where the request bypasses the slice (R184, R190): the
victim is the least recently used way that is not pinned; a set of 16 pinned ways bypasses. -/
def Fab.l2Take (ctl : Ctl) (f : Fab) (slice : Nat) (key : BitVec 12) (line stamp : Nat) : Option L2Line × Fab :=
  let new : L2Line := ⟨line, slice, key, [], 0, 0, none, stamp⟩
  let mine := f.l2.filter (fun l => l.slice == slice)
  if mine.length < 16 then (some new, f)
  else
    let ways := mine.filter (fun l => Config.l2Set l.line == Config.l2Set line)
    if ways.length < 16 then (some new, f)
    else
      match ways.filter (fun l => l.pin.isNone) with
      | [] => (none, f.bypass slice)
      | v :: vs =>
        let victim := vs.foldl (fun a b => if b.used < a.used then b else a) v
        (some new, f.l2Evict ctl victim.line)
/-- Brings the line of an address into its slice for a request, or answers that the request bypasses the slice (R184,
R185, R190): a line under another key or in another slice is written back first. Its waiters follow one that another slice takes by a
recall, and return to their cores otherwise (R193). -/
def Fab.l2Open (ctl : Ctl) (f : Fab) (core : Option Nat) (ctx : Nat) (key : BitVec 12) (home : BitVec 4) (pa : Nat) :
    Option L2Line × Fab :=
  let line := pa / 256
  let (slice, f) := f.route ctl core ctx home pa
  let stamp := f.nextId
  let f := { f with nextId := stamp + 1 }
  match f.l2Find line with
  | some l =>
    if l.key = key ∧ l.slice = slice then (some { l with used := stamp }, f)
    else
      let old := f.waiters
      let (r, f) := (f.l2Evict ctl line).l2Take ctl slice key line stamp
      (r, if l.slice ≠ slice ∧ r.isSome then f.moveWaiters line slice old else f)
  | none => f.l2Take ctl slice key line stamp

/-- Fetches a sector of a line from memory, merging under the write mask (R184). -/
def Fab.l2Fill (ctl : Ctl) (f : Fab) (l : L2Line) (sector : Nat) : L2Line :=
  if l.filled.getLsbD sector then l
  else
    let km := ctl.keyMat l.key
    let bytes := (List.range 64).foldl (fun m i =>
      let o := sector * 64 + i
      if l.mask.getLsbD o then m else m.write o (f.memByte km (l.line * 256 + o))) l.bytes
    { l with bytes := bytes, filled := l.filled ||| (1 <<< sector) }

/-- The sectors of a line that `n` bytes from an offset touch. -/
def sectorsOf (off n : Nat) : List Nat := (List.range 4).filter (fun s => off / 64 ≤ s && s ≤ (off + n - 1) / 64)

/-- A read at L2 of bytes of one line (R184, R190). -/
def Fab.l2ReadLine (ctl : Ctl) (f : Fab) (core : Option Nat) (ctx : Nat) (key : BitVec 12) (home : BitVec 4) (pa n : Nat) :
    List Byte × Fab :=
  match f.l2Open ctl core ctx key home pa with
  | (none, f) => (f.memBytes (ctl.keyMat key) pa n, f)
  | (some l, f) =>
    let off := pa % 256
    let l := (sectorsOf off n).foldl (fun l s => if (List.range n).all (fun i => (off + i) / 64 != s || l.mask.getLsbD (off + i)) then l else f.l2Fill ctl l s) l
    (l.bytes.readBytes off n, f.l2Keep l)

/-- The mask of `n` bits from an offset. -/
def runMask (off n : Nat) : BitVec 256 := BitVec.ofNat 256 ((2 ^ n - 1) * 2 ^ off)

/-- A write at L2 of bytes of one line, before its consequences (R184, R190). -/
def Fab.l2WriteLine (ctl : Ctl) (f : Fab) (core : Option Nat) (ctx : Nat) (key : BitVec 12) (home : BitVec 4) (pa : Nat)
    (bs : List Byte) : Fab :=
  match f.l2Open ctl core ctx key home pa with
  | (none, f) => f.memPutBytes (ctl.keyMat key) pa bs
  | (some l, f) =>
    let off := pa % 256
    f.l2Keep { l with bytes := l.bytes.writeBytes off bs, mask := l.mask ||| runMask off bs.length }

/-- Splits `n` bytes from an address at line boundaries: address and length of each part. -/
def lineParts (pa : Nat) : Nat → Nat → List (Nat × Nat)
  | 0, _ => []
  | fuel + 1, n =>
    if n = 0 then []
    else
      let k := min n (256 - pa % 256)
      (pa, k) :: lineParts (pa + k) fuel (n - k)
/-- The parts of a run of bytes. -/
def parts (pa n : Nat) : List (Nat × Nat) := lineParts pa (n / 256 + 2) n

/-- A coherent value of memory without a trace: the L2 copy under the same key, else memory (R185). Used where the
device reads tables and descriptors (log 17). -/
def Fab.peekByte (ctl : Ctl) (f : Fab) (key : BitVec 12) (pa : Nat) : Byte :=
  match f.l2Find (pa / 256) with
  | some l => if l.key = key ∧ l.has (pa % 256) then l.bytes.read (pa % 256)
    else if l.mask.getLsbD (pa % 256) then (f.l2Evict ctl (pa / 256)).memByte (ctl.keyMat key) pa
    else f.memByte (ctl.keyMat key) pa
  | none => f.memByte (ctl.keyMat key) pa
/-- Bytes of a coherent value. -/
def Fab.peek (ctl : Ctl) (f : Fab) (key : BitVec 12) (pa n : Nat) : List Byte :=
  (List.range n).map (fun i => f.peekByte ctl key (pa + i))
/-- A coherent little-endian number. -/
def Fab.peekNat (ctl : Ctl) (f : Fab) (key : BitVec 12) (pa n : Nat) : Nat := leNat (f.peek ctl key pa n)

/-- A word of memory that a parked `swait` lane watches, at a physical address and under its key (R350). -/
def Loc.watched : Loc → Nat × BitVec 12
  | .glob _ pa key _ _ => (pa.toNat, key)
  | .scr _ a => (a, 0)

/-- Unparks a lane at the PC after its instruction (R145). -/
def Lane.unpark (l : Lane) : Lane := { l with park := none, pc := l.parkNext }

/-- Applies a function to every lane of every group of every resident team. -/
def Fab.mapLanes (f : Fab) (g : Nat → Team → Group → Nat → Lane → Lane) : Fab :=
  { f with cores := f.cores.map (fun (c, k) => (c, { k with team := k.team.map (fun t =>
      { t with groups := t.groups.map (fun gr => { gr with lanes := gr.lanes.mapIdx (fun i l => g c t gr i l) }) }) })) }

/-- Releases the `swait` lanes whose word now reaches their threshold (R350). -/
def Fab.wakeWatchers (ctl : Ctl) (f : Fab) (pa n : Nat) : Fab :=
  f.mapLanes (fun _ _ _ _ l =>
    match l.park with
    | some (.swait loc thr) =>
      let (a, key) := loc.watched
      if a < pa + n ∧ pa < a + 8 ∧ thr.toNat ≤ f.peekNat ctl key a 8 then { l with park := some .released } else l
    | _ => l)

/-- Removes the TLB entries derived from a table line that a store has written (R202). -/
def Fab.shootdown (f : Fab) (line : Nat) : Fab :=
  if f.marks.contains line then
    { f with
      marks := f.marks.filter (fun x => x != line)
      dieTlb := f.dieTlb.map (fun (d, es) => (d, es.filter (fun e => !e.lines.contains line)))
      cores := f.cores.map (fun (c, k) => (c, { k with tlb := k.tlb.filter (fun e => !e.lines.contains line) })) }
  else f

/-- Notes the bytes of a line that another agent has written: an acquire must not leave them as they are (R210). -/
def L1Line.outdate (l : L1Line) (pa n : Nat) : L1Line :=
  (parts pa n).foldl (fun l p => if p.1 / 256 = l.line then { l with stale := l.stale ||| runMask (p.1 % 256) p.2 } else l) l
/-- What follows every write that reaches L2 or memory: shootdowns, other cores' copies, and wakes (R202, R210, R350). -/
def Fab.written (ctl : Ctl) (f : Fab) (core : Option Nat) (pa n : Nat) : Fab :=
  let f := (parts pa n).foldl (fun f p => f.shootdown (p.1 / 256)) f
  ({ f with cores := f.cores.map (fun (c, k) =>
      (c, if core = some c ∨ k.l1.isEmpty then k else { k with l1 := k.l1.map (fun l => l.outdate pa n) })) } : Fab).wakeWatchers ctl pa n

/-- A read at L2 of a run of bytes. -/
def Fab.l2Read (ctl : Ctl) (f : Fab) (core : Option Nat) (ctx : Nat) (key : BitVec 12) (home : BitVec 4) (pa n : Nat) :
    List Byte × Fab :=
  (parts pa n).foldl (fun (acc : List Byte × Fab) p =>
    let (bs, f) := acc.2.l2ReadLine ctl core ctx key home p.1 p.2
    (acc.1 ++ bs, f)) ([], f)
/-- A write at L2 of a run of bytes: by the map of `core`, and on behalf of `owner`, whose L1 keeps its own bytes. A slice that carries out
an operation of a core goes by that core's map and writes for no core (R191, R192). -/
def Fab.l2Put (ctl : Ctl) (f : Fab) (core owner : Option Nat) (ctx : Nat) (key : BitVec 12) (home : BitVec 4) (pa : Nat)
    (bs : List Byte) : Fab :=
  ((parts pa bs.length).foldl (fun (acc : Fab × Nat) p =>
    (acc.1.l2WriteLine ctl core ctx key home p.1 (sliceBytes bs acc.2 p.2), acc.2 + p.2)) (f, 0)).1.written ctl owner pa bs.length
/-- A write at L2 of a run of bytes by a core, or by none. -/
def Fab.l2Write (ctl : Ctl) (f : Fab) (core : Option Nat) (ctx : Nat) (key : BitVec 12) (home : BitVec 4) (pa : Nat)
    (bs : List Byte) : Fab := f.l2Put ctl core core ctx key home pa bs

/-- A further access of one operation to a line: its bypass was counted with the first, and adds nothing to the counts (R190), nor is it a
request of its own on the ring. -/
def Fab.again (f g : Fab) : Fab :=
  { g with bypasses := f.bypasses
           ring := f.ring
           ringFlows := f.ringFlows
           life := match Table.get? f.life 0x708 with | some v => Table.set g.life 0x708 v | none => Table.erase g.life 0x708 }

/-- A read by an agent outside the cores (hart, device, peer, Uzoman): a held line is recalled first (R185). -/
def Fab.agentRead (ctl : Ctl) (f : Fab) (key : BitVec 12) (pa n : Nat) : List Byte × Fab :=
  let f := (parts pa n).foldl (fun f p => f.l2Evict ctl (p.1 / 256)) f
  (f.memBytes (ctl.keyMat key) pa n, f)
/-- A write by an agent outside the cores. -/
def Fab.agentWrite (ctl : Ctl) (f : Fab) (key : BitVec 12) (pa : Nat) (bs : List Byte) : Fab :=
  let f := (parts pa bs.length).foldl (fun f p => f.l2Evict ctl (p.1 / 256)) f
  (f.memPutBytes (ctl.keyMat key) pa bs).written ctl none pa bs.length

/-- A request for bytes of a page with CACHE 2 reaches its slice as others do, which answers REMAP where it is out of service, and passes
the slice by: that is no pin bypass (R182, R187, R191). -/
def Fab.routeLines (ctl : Ctl) (f : Fab) (core : Option Nat) (ctx : Nat) (home : BitVec 4) (pa n : Nat) : Fab :=
  (parts pa n).foldl (fun f p => (f.route ctl core ctx home p.1).2) f
/-- A read of bytes of a page with CACHE 2. -/
def Fab.pastRead (ctl : Ctl) (f : Fab) (core : Option Nat) (ctx : Nat) (key : BitVec 12) (home : BitVec 4) (pa n : Nat) :
    List Byte × Fab := (f.routeLines ctl core ctx home pa n).agentRead ctl key pa n
/-- A write of bytes of a page with CACHE 2. -/
def Fab.pastWrite (ctl : Ctl) (f : Fab) (core : Option Nat) (ctx : Nat) (key : BitVec 12) (home : BitVec 4) (pa : Nat)
    (bs : List Byte) : Fab := (f.routeLines ctl core ctx home pa bs.length).agentWrite ctl key pa bs

/-- Whether every byte of a run lies in mapped memory. -/
def memRange (pa n : Nat) : Bool := paKind pa == .mem && (n == 0 || paKind (pa + n - 1) == .mem)

end Sys2Proof.Machine
end

