-- ==== Sys2Proof/Machine/Xlate.lean ====
section
/-!
DEFINITION. Translation, the L1 data cache and device registers (09_memory_hierarchy R181-R183, R197-R202; 03 R51,
R380): walks, TLBs, accessed and dirty bits, loads and stores through the L1, releases and acquires, register reads.
-/
namespace Sys2Proof.Machine

/-- Index shift of a translation level (Table 9.2): the bytes a leaf of the level maps are 2 to this power. -/
def levelShift (level : Nat) : Nat := match level with | 0 => 38 | 1 => 27 | _ => 16
/-- Index of a level's table for an address. -/
def levelIndex (level va : Nat) : Nat := match level with | 0 => va / 2 ^ 38 % 2 ^ 10 | 1 => va / 2 ^ 27 % 2 ^ 11 | _ => va / 2 ^ 16 % 2 ^ 11

/-- What a walk meets (R199): a leaf, a translation fault with its REASON (1 for V = 0, 2 malformed; 0 where no merging
entry is free, R201) and level, or a table that an access may not name (R17, R62). -/
inductive Walk
  | leaf (pte level pteAt : Nat) (lines : List Nat)
  | fault (reason level : Nat)
  | refused
  deriving DecidableEq, Repr, Inhabited

/-- Whether a valid PTE is a pointer: R, W and X all 0 (R198). -/
def ptePointer (pte : Nat) : Bool := !bitAt pte 1 && !bitAt pte 2 && !bitAt pte 3
/-- Whether a valid PTE is malformed (R199). -/
def pteMalformed (pte level : Nat) : Bool :=
  if ptePointer pte then bitsOf pte 63 48 != 0 || bitsOf pte 13 1 != 0 || 2 ≤ level
  else
    let home := bitsOf pte 63 60
    bitsOf pte 15 12 != 0 || bitsOf pte 9 7 != 0 || (1 ≤ home && home ≤ 7) || bitsOf pte 11 10 == 3 ||
      (bitAt pte 2 && !bitAt pte 1) || (level == 1 && bitsOf pte 26 16 != 0) || (level == 0 && bitsOf pte 37 16 != 0)

/-- A walk from a table (R197): `fuel` levels remain; tables are read through the slices under key ID 0. The spec says neither which HOME nor
which seed chooses the slice of a table line: the model takes HOME 0 and the seed of the context walked (log 74). -/
def Fab.walkFrom (ctl : Ctl) (f : Fab) (ctx va : Nat) : Nat → Nat → Nat → List Nat → Walk × Fab
  | 0, _, _, _ => (.fault 2 2, f)
  | fuel + 1, level, table, lines =>
    let at_ := table + 8 * levelIndex level va
    if !memRange at_ 8 || uzomanRegion at_ then (.refused, f)
    else
      let (b, f) := f.l2Read ctl none ctx 0 0 at_ 8
      let pte := leNat b
      let lines := (at_ / 256) :: lines
      if !bitAt pte 0 then (.fault 1 level, f)
      else if pteMalformed pte level then (.fault 2 level, f)
      else if ptePointer pte then Fab.walkFrom ctl f ctx va fuel (level + 1) (bitsOf pte 47 14 * 2 ^ 14) lines
      else (.leaf pte level at_ lines, f)
/-- The walk of a context's address. -/
def Fab.walk (ctl : Ctl) (f : Fab) (ctx ptroot va : Nat) : Walk × Fab := f.walkFrom ctl ctx va 3 0 ptroot []

/-- Physical address of a leaf's byte. -/
def leafPa (pte level va : Nat) : Nat :=
  let s := levelShift level
  bitsOf pte 47 s * 2 ^ s + va % 2 ^ s

/-- Whether a leaf permits an access (R199). -/
def ptePermits (pte : Nat) : Access → Bool
  | .load => bitAt pte 1
  | .store => bitAt pte 2
  | .atomic => bitAt pte 1 && bitAt pte 2
  | .fetch => bitAt pte 3
/-- Whether an access writes, for the dirty bit (R200). -/
def accWrites : Access → Bool | .store => true | .atomic => true | _ => false

/-- The answer of a translation (R199, R309 stages 4 and 5). -/
inductive Xlate
  | ok (loc : Loc) (pte : Nat)
  | fault (reason level : Nat)
  | perm
  deriving DecidableEq, Repr, Inhabited

/-- A TLB entry that covers an address. -/
def TlbEntry.covers (e : TlbEntry) (ctx va : Nat) : Bool := e.ctx == ctx && e.page == va / 2 ^ levelShift e.level

/-- The fault slot that a page of a context has on a die (R204). -/
def Fab.slotOf (f : Fab) (die ctx va : Nat) : Option (Nat × FaultSlot) :=
  f.faults.find? (fun p => p.1 / 1024 == die && p.2.ctx == ctx && p.2.va.toNat / 65536 == va / 65536)
/-- What a core's miss meets before it walks: the fault of the page's merging entry, or no free entry (R201). -/
def Fab.missMeets (f : Fab) (die ctx va : Nat) : Option Walk :=
  match f.slotOf die ctx va with
  | some (_, x) => some (.fault x.reason x.level)
  | none => if 1024 ≤ (f.faults.filter (fun p => p.1 / 1024 == die)).length then some (.fault 0 0) else none
/-- The leaf for an address from the core's TLB, its die's TLB, or a walk, which marks its table lines and enters the
leaf (R201, R202). -/
def Fab.lookup (ctl : Ctl) (f : Fab) (core : Option Nat) (ctx : Ctx) (va : Nat) : Walk × Fab :=
  match core with
  | none => f.walk ctl ctx.id ctx.ptroot va
  | some c =>
    let die := c / 48
    match ((f.core c).tlb.find? (fun e => e.covers ctx.id va)).or ((Table.getD f.dieTlb die []).find? (fun e => e.covers ctx.id va)) with
    | some e => (.leaf e.pte.toNat e.level e.pteAt e.lines, f)
    | none => match f.missMeets die ctx.id va with
      | some w => (w, f)
      | none => match f.walk ctl ctx.id ctx.ptroot va with
        | (.leaf pte level at_ lines, f) =>
          let e : TlbEntry := ⟨ctx.id, level, va / 2 ^ levelShift level, BitVec.ofNat 64 pte, at_, lines⟩
          let k := f.core c
          (.leaf pte level at_ lines, { f.setCore c { k with tlb := (e :: k.tlb).take 256 } with
            dieTlb := Table.set f.dieTlb die ((e :: Table.getD f.dieTlb die []).take 65536)
            marks := f.marks ++ lines.filter (fun x => !f.marks.contains x) })
        | x => x

/-- Sets A, or A and D, in a leaf by an atomic update of the PTE at its slice (R200), and in the TLB copies of it. -/
def Fab.setAD (ctl : Ctl) (f : Fab) (ctx pte at_ : Nat) (w : Bool) : Nat × Fab :=
  let new := if w then pte ||| 0x30 else pte ||| 0x10
  if new = pte then (pte, f)
  else
    let marks := f.marks
    let fix (e : TlbEntry) : TlbEntry := if e.pteAt == at_ then { e with pte := BitVec.ofNat 64 new } else e
    let f := { f with marks := marks.filter (fun x => x != at_ / 256) }
    let f := f.l2Write ctl none ctx 0 0 at_ (leBytes 8 new)
    (new, { f with marks := marks, dieTlb := f.dieTlb.map (fun p => (p.1, p.2.map fix)),
                   cores := f.cores.map (fun (c, k) => (c, { k with tlb := k.tlb.map fix })) })

/-- The location of a leaf's byte. -/
def leafLoc (pte level va : Nat) : Loc :=
  .glob (BitVec.ofNat 48 va) (BitVec.ofNat 48 (leafPa pte level va)) (BitVec.ofNat 12 (bitsOf pte 59 48))
    (BitVec.ofNat 4 (bitsOf pte 63 60)) (BitVec.ofNat 2 (bitsOf pte 11 10))

/-- Whether stage 5 of R309 refuses a physical address under a key ID: unmapped (R17), RETIRING (R58), or the reserved
region of Uzoman (R62). -/
def Ctl.refuses (ctl : Ctl) (pa : Nat) (key : BitVec 12) : Bool :=
  paKind pa == .unmapped || uzomanRegion pa || (paKind pa == .mem && ctl.keyRefused key)

/-- Translates an access of a context (R199-R202). Only a permitted access sets A or D. -/
def Fab.translate (ctl : Ctl) (f : Fab) (core : Option Nat) (ctx : Nat) (va : Nat) (acc : Access) : Xlate × Fab :=
  match f.ctx? ctx with
  | none => (.perm, f)
  | some x =>
    match f.lookup ctl core x va with
    | (.fault r l, f) => (.fault r l, f)
    | (.refused, f) => (.perm, f)
    | (.leaf pte level at_ _, f) =>
      if !ptePermits pte acc then (.perm, f)
      else
        let (pte, f) := f.setAD ctl x.id pte at_ (accWrites acc)
        if ctl.refuses (leafPa pte level va) (BitVec.ofNat 12 (bitsOf pte 59 48)) then (.perm, f)
        else (.ok (leafLoc pte level va) pte, f)

/-! ## Device registers -/

/-- HPSTAT of a port (Table 2.1). -/
def Port.status (p : Port) : Nat :=
  p.replays.toNat * 2 ^ 32 + p.lanes * 2 ^ 8 + p.state * 2 ^ 4 + (if p.retrain then 4 else 0) + (if p.disable then 2 else 0)

/-- What an address of the service range holds (Table 3.1): a register, a read-only area that is read as memory is (the
boot ROM with its contents, and the lifetime mirror), a word of the IMSIC, APLIC or ECAM windows, whose contents the spec
leaves to other standards (log 57), or nothing. -/
inductive Mmio
  | reg (value : DWord)
  | rom (value : DWord)
  | area
  | window
  | none
  deriving DecidableEq, Repr, Inhabited

/-- The eight bytes at an aligned address of the service range (R51, R380, R7). The contents of the boot ROM and of the
fuse window but for FUSEADV and PCKTAB are free values (log 52); an address of a listed window that names no register reads
zero (R5, log 53). -/
def Ctl.readReg (ctl : Ctl) (a : Nat) : Mmio :=
  if a < 0xF00000100000 then .rom (Config.romWord ((a - 0xF00000000000) / 8))
  else if a = 0xF00000100100 then .reg (if ctl.fuseAdv then 1 else 0)
  else if a = 0xF00000100200 then .reg ctl.pcktab
  else if a < 0xF00000110000 then .reg (Config.fuseWord ctl.fuseDigest ctl.fuses ((a - 0xF00000100000) / 8))
  else if a = 0xF00000200040 then
    .reg (BitVec.ofNat 64 ((if ctl.kbusy then 2 ^ 31 else 0) + ctl.kresult * 2 ^ 28 + ctl.kstate * 2 ^ 26 + ctl.kid.toNat))
  else if a = 0xF00000300000 then .reg ctl.uzimg
  else if a = 0xF00000300008 then
    .reg (BitVec.ofNat 64 (ctl.runver.toNat * 2 ^ 32 + ctl.uzResult * 16 + (if ctl.uzBusy then 3 else 0)))
  else if a = 0xF00000300010 then .reg ctl.uzqroot
  else if a = 0xF00000301000 then
    .reg (BitVec.ofNat 64 ((if ctl.repBusy then 2 ^ 31 else 0) + ctl.repResult * 2 ^ 28 + ctl.repKind * 2 ^ 26 + ctl.repIndex.toNat))
  else if a = 0xF00000301008 then .reg (ctl.retClu.zeroExtend 64)
  else if 0xF00000301040 ≤ a ∧ a < 0xF00000301070 then .reg (ctl.retSlc.extractLsb' (8 * (a - 0xF00000301040)) 64)
  else if a = 0xF00000302000 then
    .reg (BitVec.ofNat 64 (ctl.meas % 2 ^ 16 * 2 ^ 32 + (if ctl.capped then 2 ^ 16 else 0) + ctl.cap))
  else if 0xF00000310000 ≤ a ∧ a < 0xF00000320000 then .area
  else if a = 0xF00000400000 then .reg (ctl.hdevid.zeroExtend 64)
  else if a = 0xF00000400010 then .reg ctl.himpbase
  else if 0xF00000401000 ≤ a ∧ a < 0xF00000401120 ∧ a % 16 = 0 then
    (match ctl.ports[(a - 0xF00000401000) / 16]? with | some p => .reg (BitVec.ofNat 64 p.status) | Option.none => .reg 0)
  else if 0xF00000408000 ≤ a ∧ a < 0xF00000410000 then
    .reg ((Table.getD ctl.routes ((a - 0xF00000408000) / 8) 0).zeroExtend 64)
  else if (0xF00000200000 ≤ a ∧ a < 0xF00000201000) ∨ (0xF00000300000 ≤ a ∧ a < 0xF00000303000) ∨
      (0xF00000400000 ≤ a ∧ a < 0xF00000410000) then .reg 0
  else if 0xF00001000000 ≤ a ∧ a < 0xF00001110000 then .window
  else if 0xF80000000000 ≤ a ∧ a < 0xF80020000000 then .window
  else .none

/-- Whether the service range answers a read of `n` bytes (R380): aligned 8- or 4-byte reads of registers; the boot ROM and
the lifetime mirror by aligned reads of 1 to 8 bytes. -/
def Ctl.mmioReads (ctl : Ctl) (a n : Nat) : Bool :=
  match ctl.readReg (a / 8 * 8) with
  | .reg _ | .window => (n == 8 || n == 4) && a % n == 0
  | .rom _ | .area => (n == 1 || n == 2 || n == 4 || n == 8) && a % n == 0
  | .none => false
/-- Bytes at an address within an aligned 64-bit word. -/
def wordBytes (v : DWord) (a n : Nat) : List Byte := leBytes n (v.toNat / 2 ^ (8 * (a % 8)))
/-- A read of `n` bytes of the service range (R380), or none where it is refused as at an unmapped address. A word of a window
that the spec leaves to other standards reads as a free value (log 57). -/
def Ctl.mmioRead (ctl : Ctl) (f : Fab) (a n : Nat) : Option (List Byte) × Fab :=
  if !ctl.mmioReads a n then (none, f)
  else match ctl.readReg (a / 8 * 8) with
    | .reg v | .rom v => (some (wordBytes v a n), f)
    | .area => (some (wordBytes (Table.getD f.life (a / 8 * 8 - 0xF00000310000) 0) a n), f)
    | .window => (some (wordBytes (Config.windowWord f.epoch (a / 8 * 8)) a n), { f with epoch := f.epoch + 1 })
    | .none => (none, f)
/-- Whether a core or peer may write `n` bytes at an address of the service range (R380); what the write does follows
as a step of its own, and a write of what is read only has no effect (R7). -/
def Ctl.mmioWritable (ctl : Ctl) (a n : Nat) : Bool := ctl.readReg (a / 8 * 8) != .none && (n == 8 || n == 4) && a % n == 0

/-! ## The L1 data cache -/

/-- The L1 line of a core for an address. -/
def Core.l1Find (k : Core) (line : Nat) : Option L1Line := k.l1.find? (fun l => l.line == line)
/-- Puts an L1 line back; a line that holds nothing leaves. The line last used stands first. -/
def Fab.l1Put (f : Fab) (c : Nat) (l : L1Line) : Fab :=
  let k := f.core c
  let rest := k.l1.filter (fun x => x.line != l.line)
  f.setCore c { k with l1 := if l.filled = 0 ∧ l.dirty = 0 then rest else l :: rest }
/-- Changes an L1 line in its place. -/
def Fab.l1Keep (f : Fab) (c : Nat) (l : L1Line) : Fab :=
  let k := f.core c
  f.setCore c { k with l1 := k.l1.flatMap (fun x => if x.line != l.line then [x] else if l.filled = 0 ∧ l.dirty = 0 then [] else [l]) }
/-- The L1 line for an access, allocated if absent (R182). -/
def Fab.l1Open (f : Fab) (c ctx : Nat) (key : BitVec 12) (home : BitVec 4) (line : Nat) : L1Line :=
  match (f.core c).l1Find line with
  | some l => l
  | none => ⟨line, key, home, ctx, [], 0, 0, 0, 0⟩

/-- Fills a sector of an L1 line from L2; bytes that are dirty stay. -/
def Fab.l1Fill (ctl : Ctl) (f : Fab) (c : Nat) (l : L1Line) (s : Nat) : L1Line × Fab :=
  if l.filled.getLsbD s then (l, f)
  else
    let (bs, f) := f.l2ReadLine ctl (some c) l.ctx l.key l.home (l.line * 256 + s * 64) 64
    let bytes := (List.range 64).foldl (fun m i =>
      let o := s * 64 + i
      if l.dirty.getLsbD o then m else m.write o (bs.getD i 0)) l.bytes
    ({ l with bytes := bytes, filled := l.filled ||| (1#4 <<< s), own := l.own &&& ~~~runMask (s * 64) 64,
              stale := l.stale &&& ~~~runMask (s * 64) 64 }, f)

/-- The runs of bits that are set in a mask of a line, as offsets and lengths. -/
def bitRuns (m : BitVec 256) : List (Nat × Nat) :=
  (List.range 256).foldr (fun i rs =>
    if !m.getLsbD i then rs
    else match rs with
      | (a, n) :: t => if a = i + 1 then (i, n + 1) :: t else (i, 1) :: rs
      | [] => [(i, 1)]) []

/-- Writes back the dirty bytes of an L1 line to L2; they are then clean (R183). No other byte of the line is written (R184, R210). -/
def Fab.l1Clean (ctl : Ctl) (f : Fab) (c : Nat) (l : L1Line) : L1Line × Fab :=
  if l.dirty = 0 then (l, f)
  else
    let f := match f.l2Open ctl (some c) l.ctx l.key l.home (l.line * 256) with
      | (none, f) => (List.range 256).foldl (fun (f : Fab) i =>
          if l.dirty.getLsbD i then f.memPut (ctl.keyMat l.key) (l.line * 256 + i) (l.bytes.read i) else f) f
      | (some m, f) =>
        f.l2Keep { m with bytes := (List.range 256).foldl (fun b i => if l.dirty.getLsbD i then b.write i (l.bytes.read i) else b) m.bytes,
                          mask := m.mask ||| l.dirty }
    ({ l with dirty := 0 }, (bitRuns l.dirty).foldl (fun f r => f.written ctl (some c) (l.line * 256 + r.1) r.2) f)

/-- Writes back every dirty byte of a core's L1: the L1 part of a release at `.clu` or wider (R183). -/
def Fab.l1Release (ctl : Ctl) (f : Fab) (c scope : Nat) : Fab :=
  if scope < 2 then f
  else (f.core c).l1.foldl (fun f l => let (l, f) := f.l1Clean ctl c l; f.l1Keep c l) f

/-- Invalidates the sectors of a line that this core has not wholly written since they were filled (R183). -/
def L1Line.invalidate (l : L1Line) : L1Line :=
  (List.range 4).foldl (fun l s =>
    let m := runMask (s * 64) 64
    if l.filled.getLsbD s ∧ l.own &&& m = m then l
    else { l with filled := l.filled &&& ~~~(1#4 <<< s), own := l.own &&& ~~~m, stale := l.stale &&& ~~~m,
                  bytes := (List.range 64).foldl (fun b i => b.write (s * 64 + i) 0) l.bytes }) l

/-- Takes from L2 the bytes of a line that another agent has written since their sector was filled (R210, log 59). -/
def Fab.l1Refresh (ctl : Ctl) (f : Fab) (c : Nat) (l : L1Line) : L1Line × Fab :=
  let (l, f) := (List.range 4).foldl (fun (acc : L1Line × Fab) s =>
    if l.stale &&& runMask (s * 64) 64 = 0 then acc
    else
      let (bs, f) := acc.2.l2ReadLine ctl (some c) l.ctx l.key l.home (l.line * 256 + s * 64) 64
      ({ acc.1 with bytes := (List.range 64).foldl (fun m i =>
        if l.stale.getLsbD (s * 64 + i) then m.write (s * 64 + i) (bs.getD i 0) else m) acc.1.bytes }, f)) (l, f)
  ({ l with stale := 0 }, f)

/-- The L1 part of an acquire at a scope (R183): from `.clu` on, writes back, then invalidates; in the sectors that it keeps, the bytes of
other agents are taken anew. -/
def Fab.l1Acquire (ctl : Ctl) (f : Fab) (c scope : Nat) : Fab :=
  if scope < 2 then f
  else (f.core c).l1.foldl (fun f l =>
    let (l, f) := f.l1Clean ctl c l
    let (l, f) := f.l1Refresh ctl c l.invalidate
    f.l1Keep c l) f

/-- Writes back and drops one line of an L1 (`cfl.l1`, an atomic to the line, an eviction). -/
def Fab.l1Drop (ctl : Ctl) (f : Fab) (c line : Nat) : Fab :=
  match (f.core c).l1Find line with
  | none => f
  | some l =>
    let (l, f) := f.l1Clean ctl c l
    f.l1Put c { l with filled := 0, dirty := 0 }

/-- Lines that an L1 of 256 KiB holds (R182). -/
def l1Lines : Nat := 1024
/-- Brings an L1 back to its capacity: the least recently used line is written back and displaced (log 58). -/
def Fab.l1Trim (ctl : Ctl) (f : Fab) (c : Nat) : Fab :=
  match (f.core c).l1.drop l1Lines with
  | [] => f
  | l :: _ => f.l1Drop ctl c l.line
/-- Invalidates a core's L1 copy of the sectors of a run of bytes (R214), dirty bytes written back first. -/
def Fab.l1DropRange (ctl : Ctl) (f : Fab) (c pa n : Nat) : Fab := (parts pa n).foldl (fun f p => f.l1Drop ctl c (p.1 / 256)) f

/-- A load by a core of global bytes of one line: through the L1 for CACHE 0, else at L2, else from memory (R182). -/
def Fab.loadLine (ctl : Ctl) (f : Fab) (c ctx : Nat) (key : BitVec 12) (home : BitVec 4) (cache : BitVec 2) (pa n : Nat) :
    List Byte × Fab :=
  if cache = 0 then
    let l := f.l1Open c ctx key home (pa / 256)
    let off := pa % 256
    let (l, f) := (sectorsOf off n).foldl (fun (acc : L1Line × Fab) s =>
      if (List.range n).all (fun i => (off + i) / 64 != s || acc.1.dirty.getLsbD (off + i)) then acc
      else acc.2.l1Fill ctl c acc.1 s) (l, f)
    (l.bytes.readBytes off n, (f.l1Put c l).l1Trim ctl c)
  else if cache = 1 then f.l2Read ctl (some c) ctx key home pa n
  else f.pastRead ctl (some c) ctx key home pa n

/-- A load by a core of global bytes. -/
def Fab.load (ctl : Ctl) (f : Fab) (c ctx : Nat) (key : BitVec 12) (home : BitVec 4) (cache : BitVec 2) (pa n : Nat) :
    List Byte × Fab :=
  (parts pa n).foldl (fun (acc : List Byte × Fab) p =>
    let (bs, f) := acc.2.loadLine ctl c ctx key home cache p.1 p.2
    (acc.1 ++ bs, f)) ([], f)

/-- A store by a core of global bytes at a scope (R183): kept dirty in the L1, or written through to L2. -/
def Fab.store (ctl : Ctl) (f : Fab) (c ctx : Nat) (key : BitVec 12) (home : BitVec 4) (cache : BitVec 2) (scope pa : Nat)
    (bs : List Byte) : Fab :=
  if cache = 0 ∧ scope < 2 then
    ((parts pa bs.length).foldl (fun (acc : Fab × Nat) p =>
      let l := acc.1.l1Open c ctx key home (p.1 / 256)
      let m := runMask (p.1 % 256) p.2
      ((acc.1.l1Put c { l with bytes := l.bytes.writeBytes (p.1 % 256) (sliceBytes bs acc.2 p.2), dirty := l.dirty ||| m, own := l.own ||| m, stale := l.stale &&& ~~~m }).l1Trim ctl c,
       acc.2 + p.2)) (f, 0)).1
  else if cache = 2 then f.pastWrite ctl (some c) ctx key home pa bs
  else
    let f := f.l2Write ctl (some c) ctx key home pa bs
    ((parts pa bs.length).foldl (fun (acc : Fab × Nat) p =>
      match (acc.1.core c).l1Find (p.1 / 256) with
      | none => (acc.1, acc.2 + p.2)
      | some l =>
        let m := runMask (p.1 % 256) p.2
        (acc.1.l1Keep c { l with bytes := l.bytes.writeBytes (p.1 % 256) (sliceBytes bs acc.2 p.2), dirty := l.dirty &&& ~~~m, own := l.own ||| m, stale := l.stale &&& ~~~m },
         acc.2 + p.2)) (f, 0)).1

end Sys2Proof.Machine
end

