-- ==== Sys2Proof/Machine/Uz.lean ====
section
/-!
DEFINITION. What Uzoman does for others (04_command_interface R73-R87): accesses through a context's page tables,
event records and interrupts, and the completion of commands.
-/
namespace Sys2Proof.Machine

/-- A read by the device at a physical address: memory, or a device register by an aligned access (R380); none where it is
refused (R17). -/
def Fab.paRead (ctl : Ctl) (f : Fab) (key : BitVec 12) (pa n : Nat) : Option (List Byte) × Fab :=
  if memRange pa n then (let (b, f) := f.agentRead ctl key pa n; (some b, f))
  else if paKind pa = .mmio then ctl.mmioRead f pa n else (none, f)
/-- A write by the device at a physical address: memory, or a device register, whose write follows as a step of its own; false
where it is refused. -/
def Fab.paWrite (ctl : Ctl) (f : Fab) (key : BitVec 12) (who : Writer) (pa : Nat) (bs : List Byte) : Bool × Fab :=
  if memRange pa bs.length then (true, f.agentWrite ctl key pa bs)
  else if paKind pa = .mmio ∧ ctl.mmioWritable pa bs.length then
    (true, { f with regWrites := f.regWrites ++ [⟨BitVec.ofNat 48 pa, bs.length, BitVec.ofNat 64 (leNat bs), who⟩] })
  else (false, f)

/-- A part of an access: physical address, key ID and length. -/
abbrev PaPart := Nat × BitVec 12 × Nat
/-- Whether an access in parts reaches device registers by one access at most: one that is in several parts of which one is no memory is
refused as a whole (R380). -/
def wholeAccess (ps : List PaPart) : Bool := ps.length ≤ 1 || ps.all (fun p => paKind p.1 == .mem)
/-- Where the parts of an access of the device to a context's memory lie, through its page tables; none where one of them fails. -/
def Fab.ctxParts (ctl : Ctl) (f : Fab) (ctx : Nat) (vs : List (Nat × Nat)) (acc : Access) : Option (List PaPart) × Fab :=
  let r := vs.foldl (fun (r : Option (List PaPart) × Fab) p =>
    match r.1 with
    | none => r
    | some ps =>
      if 2 ^ 48 ≤ p.1 then (none, r.2)
      else match r.2.translate ctl none ctx p.1 acc with
        | (.ok (.glob _ pa key _ _) _, f) => (some (ps ++ [(pa.toNat, key, p.2)]), f)
        | (_, f) => (none, f)) (some [], f)
  (r.1.filter wholeAccess, r.2)
/-- Reads the parts of an access: none where one of them fails. -/
def Fab.readParts (ctl : Ctl) (f : Fab) (ctx : Nat) (vs : List (Nat × Nat)) : Option (List Byte) × Fab :=
  match f.ctxParts ctl ctx vs .load with
  | (none, f) => (none, f)
  | (some ps, f) => ps.foldl (fun (r : Option (List Byte) × Fab) p =>
      match r.1, r.2.paRead ctl p.2.1 p.1 p.2.2 with
      | some bs, (some b, f) => (some (bs ++ b), f)
      | _, _ => (none, r.2)) (some [], f)

/-- Writes the parts of an access: false where one of them fails. -/
def Fab.writeParts (ctl : Ctl) (f : Fab) (ctx : Nat) (vs : List (Nat × Nat)) (bs : List Byte) : Bool × Fab :=
  match f.ctxParts ctl ctx vs .store with
  | (none, f) => (false, f)
  | (some ps, f) =>
    let r := ps.foldl (fun (r : Bool × Fab × Nat) p =>
      let (ok, f) := r.2.1.paWrite ctl p.2.1 .core p.1 (sliceBytes bs r.2.2 p.2.2)
      (r.1 && ok, f, r.2.2 + p.2.2)) (true, f, 0)
    (r.1, r.2.1)
/-- A read by the device of a context's memory through its page tables: none where the access fails. -/
def Fab.ctxRead (ctl : Ctl) (f : Fab) (ctx va n : Nat) : Option (List Byte) × Fab := f.readParts ctl ctx (parts va n)
/-- A write by the device to a context's memory through its page tables: false where the access fails. -/
def Fab.ctxWrite (ctl : Ctl) (f : Fab) (ctx va : Nat) (bs : List Byte) : Bool × Fab := f.writeParts ctl ctx (parts va bs.length) bs

/-- A message-signalled interrupt arrives in an interrupt file of a hart; the file has identities 1 to 2,047, and a message of another
number names none (R49). An identity that is pending already stays so: one pending bit stands for each (log 42). -/
def Fab.msiAt (f : Fab) (hart : Nat) (file : ImsicFile) (identity : Nat) : Fab :=
  { f with msis := if 1 ≤ identity ∧ identity ≤ 2047 then f.msis.filter (fun m => m != (hart, file, identity)) ++ [(hart, file, identity)] else f.msis }
/-- Raises an interrupt of the device at a hart: in its supervisor file (R49, Table 4.2, log 42). -/
def Fab.msi (f : Fab) (hart identity : Nat) : Fab := f.msiAt hart .supervisor identity

/-- A group of a resident team: groups stand in slot order (R101). -/
def Fab.group? (f : Fab) (c s : Nat) : Option Group := (f.core c).team.bind (fun t => t.groups[s]?)
/-- Changes a group. -/
def Fab.modGroup (f : Fab) (c s : Nat) (h : Group → Group) : Fab :=
  let k := f.core c
  match k.team with
  | none => f
  | some t => f.setCore c { k with team := some { t with groups := modAt t.groups s h } }
/-- Changes a team. -/
def Fab.modTeam (f : Fab) (c : Nat) (h : Team → Team) : Fab :=
  let k := f.core c
  match k.team with
  | none => f
  | some t => f.setCore c { k with team := some (h t) }

/-- Whether a lane number is in a mask. -/
def inMask (m : BitVec 64) (l : Nat) : Bool := m.getLsbD l

/-- Opens the deferral window of a lane after a commit instruction (R151), outside trap mode. -/
def Lane.openWindow (l : Lane) : Lane := if l.window.isNone then { l with window := some 0 } else l

/-- An `irq` whose event has been posted retires: the group goes on, and the windows of its active lanes open (R78,
R151). -/
def Fab.irqRetire (f : Fab) (c s : Nat) : Fab :=
  f.modGroup c s (fun g =>
    match g.hold with
    | some (.irq _ active _) =>
      { g with hold := none, lanes := g.lanes.mapIdx (fun i l =>
          if l.status = .live ∧ !l.idle ∧ inMask active i ∧ g.trap.isNone then l.openWindow else l) }
    | _ => g)

/-- Writes one event record and raises its interrupt (R74, R87, R96). A record of a ring that lies at an unmapped address is lost, and
PRODUCED advances: the spec names no case of it (log 69). -/
def Fab.writeEvent (ctl : Ctl) (f : Fab) (q : UzQueue) (p : EventPost) : Fab :=
  let n := q.last + 1
  let at_ := q.ring + 64 * (n.toNat % 2 ^ q.logn)
  let f := (f.paWrite ctl 0 .core at_ (leBytes 4 n.toNat ++ sliceBytes p.bytes 0 60)).2
  let f := (f.paWrite ctl 0 .core q.state (leBytes 4 n.toNat)).2
  let f := { f with queues := Table.set f.queues p.queue { q with last := n } }
  match p.irq with
  | none => f.msi q.hart q.msiid
  | some (hart, ident, c, s) => (f.msi hart ident).irqRetire c s

/-- Whether an event queue has room: PRODUCED - CONSUMED below 2^LOGN (R74, R78). -/
def Fab.queueRoom (ctl : Ctl) (f : Fab) (q : UzQueue) : Bool :=
  (q.last - BitVec.ofNat 32 (f.peekNat ctl 0 (q.state + 4) 4)).toNat < 2 ^ q.logn

/-- Posts what waits for one event queue, in order, while there is room (R78). -/
def Fab.flushQueue (ctl : Ctl) (f : Fab) (qi : Nat) : Fab :=
  (f.posts.filter (fun p => p.queue == qi)).foldl (fun f p =>
    match Table.get? f.queues qi with
    | none => f
    | some q =>
      if f.posts.head?.isSome ∧ (f.posts.filter (fun x => x.queue == qi)).head? = some p ∧ f.queueRoom ctl q then
        { (f.writeEvent ctl q p) with posts := f.posts.erase p }
      else f) f

/-- Posts an event (R78): it waits where the queue is full. A queue that is not a valid event queue receives nothing. -/
def Fab.post (ctl : Ctl) (f : Fab) (p : EventPost) : Fab :=
  match Table.get? f.queues p.queue with
  | some q => if q.valid ∧ q.event then ({ f with posts := f.posts ++ [p] }).flushQueue ctl p.queue else f
  | none => f

/-- Bytes +0x04 onward of an event record (Table 4.6). -/
def eventBytes (kind status ctx : Nat) (cmdseq : Word) (queue : Nat) (data : List Byte) : List Byte :=
  leBytes 1 kind ++ leBytes 1 status ++ leBytes 2 ctx ++ leBytes 4 cmdseq.toNat ++ leBytes 1 queue ++ leBytes 3 0 ++ sliceBytes data 0 48

/-- A command in progress by its identifier. -/
def Fab.cmd? (f : Fab) (id : Nat) : Option Cmd := f.cmds.find? (fun c => c.id == id)
/-- Changes a command. -/
def Fab.modCmd (f : Fab) (id : Nat) (h : Cmd → Cmd) : Fab :=
  { f with cmds := f.cmds.map (fun c => if c.id == id then h c else c) }
/-- Command codes of Table 4.4. -/
def CmdRec.isCreate (r : CmdRec) : Bool := r.op == 0x02
/-- The context a record names. -/
def CmdRec.ctxId (r : CmdRec) : Nat := (r.ctx.extractLsb' 0 12).toNat

/-- A read or write of a semaphore: a context's virtual address, or a physical address for CREATE (R79, R80). -/
def Fab.semRead (ctl : Ctl) (f : Fab) (r : CmdRec) : Option Nat × Fab :=
  if r.isCreate then
    (match f.paRead ctl 0 r.waddr.toNat 8 with | (some b, f) => (some (leNat b), f) | (none, f) => (none, f))
  else match f.ctxRead ctl r.ctxId r.waddr.toNat 8 with
    | (some b, f) => (some (leNat b), f)
    | (none, f) => (none, f)
/-- Stores SVAL at SADDR (R84): false where the store cannot be made. -/
def Fab.semStore (ctl : Ctl) (f : Fab) (r : CmdRec) : Bool × Fab :=
  if r.isCreate then f.paWrite ctl 0 .core r.saddr.toNat (leBytes 8 r.sval.toNat)
  else f.ctxWrite ctl r.ctxId r.saddr.toNat (leBytes 8 r.sval.toNat)

/-- A record fails (R86): the CALL it belongs to and every enclosing one fail with it, unless they have failed before; each notes
the indices in hand from its own buffer down. -/
def Fab.failUp (status : Nat) : Nat → Option Nat → List Nat → Fab → Fab
  | 0, _, _, f => f
  | _, none, _, f => f
  | fuel + 1, some p, ix, f =>
    match f.cmd? p with
    | none => f
    | some x => Fab.failUp status fuel x.parent (x.index :: ix)
        (f.modCmd p (fun x => if x.failed.isSome then x else { x with failed := some (BitVec.ofNat 8 status, ix) }))
/-- Completes a command with a status (R76, R80, R84, R86, R87): the SS store where `ss`, the event where EV is set or
the command fails, and the failure passed to the CALL it belongs to. A record of an indirect buffer that fails without EV posts no event of its
own: its CALL reports it, the model's choice (log 69). -/
def Fab.complete (ctl : Ctl) (f : Fab) (id status : Nat) (ss : Bool) (data : List Byte) : Fab :=
  match f.cmd? id with
  | none => f
  | some c =>
    let f := { f with cmds := f.cmds.filter (fun x => x.id != id) }
    let (ok, f) := if ss && c.rec_.flags.getLsbD 2 then f.semStore ctl c.rec_ else (true, f)
    let status := if ok then status else 2
    let ev := c.rec_.flags.getLsbD 0 || (status != 0 && c.depth == 0)
    let f := match Table.get? f.queues c.queue with
      | some q => if ev then f.post ctl ⟨q.evq, eventBytes 1 status c.rec_.ctxId c.top c.queue data, none⟩ else f
      | none => f
    if status = 0 then f else Fab.failUp status 5 c.parent (c.index :: (match c.failed with | some (_, l) => l | none => [])) f

/-- A grid by its identifier. -/
def Fab.grid? (f : Fab) (id : Nat) : Option Grid := f.grids.find? (fun g => g.id == id)
/-- Changes a grid. -/
def Fab.modGrid (f : Fab) (id : Nat) (h : Grid → Grid) : Fab :=
  { f with grids := f.grids.map (fun g => if g.id == id then h g else g) }
/-- Changes a context. -/
def Fab.modCtx (f : Fab) (id : Nat) (h : Ctx → Ctx) : Fab :=
  { f with ctxs := f.ctxs.map (fun c => if c.id == id then h c else c) }

/-- The DISC and CANC bytes of a RESUME's event (R131). -/
def Grid.countBytes (g : Grid) : List Byte := leBytes 8 g.disc.toNat ++ leBytes 8 g.canc.toNat

/-- Tokens of the posted `syscall` requests of a context's resident lanes. -/
def Fab.openTokens (f : Fab) (ctx : Nat) : List Word :=
  f.cores.flatMap (fun k => match k.2.team with
    | none => []
    | some t => if t.ctx != ctx then [] else t.groups.flatMap (fun g => g.lanes.filterMap (fun l => match l.park with
      | some (.syscall tok _) => tok
      | _ => none)))
/-- Whether a core's team belongs to a context. -/
def Fab.holds (f : Fab) (c ctx : Nat) : Bool := match (f.core c).team with | some t => t.ctx == ctx | none => false
/-- Releases the cores of a context's teams, without images (R381, DESTROY); requests that their lanes have posted are answered
with status 9 from now on, and the events of `irq`s still held are never posted (R78). -/
def Fab.releaseTeams (f : Fab) (ctx : Nat) : Fab :=
  let toks := f.openTokens ctx
  { f with
    ctxs := f.ctxs.map (fun c => if c.id == ctx then { c with stale := c.stale ++ toks } else c)
    waiters := f.waiters.filter (fun w => !f.holds w.core ctx)
    posts := f.posts.filter (fun p => match p.irq with | some (_, _, c, _) => !f.holds c ctx | none => true)
    bights := f.bights.filter (fun b => !f.holds b.core ctx)
    cores := f.cores.map (fun (c, k) => match k.team with
      | some t => if t.ctx == ctx then (c, { k with team := none, regQueue := [], copies := [], mxq := [] }) else (c, k)
      | none => (c, k)) }

/-- PREEMPTs that have been taken and name a RESUME by its queue and SEQ, started or not (R82). -/
def Fab.preemptsOf (f : Fab) (queue : Nat) (seq : Word) : List Nat :=
  (f.cmds.filter (fun c => c.rec_.op == 0x05 && bitsOf (fieldAt c.rec_.opnd 0 4) 5 0 == queue &&
    fieldAt c.rec_.opnd 4 4 == seq.toNat)).map (·.id)

/-- Ends every grid of a context: its hitches leave the placement queue and its RESUMEs and the PREEMPTs that name them
complete with a status (R82, R381). -/
def Fab.endGrids (ctl : Ctl) (f : Fab) (ctx status : Nat) : Fab :=
  let mine := f.grids.filter (fun g => g.ctx == ctx && !g.ended)
  let named (id : Nat) (queue : Nat) (seq : Word) (f : Fab) : List Nat :=
    match f.cmd? id with | some c => if c.depth = 0 then f.preemptsOf queue seq else [] | none => []
  let f := { f with placement := f.placement.filter (fun h => !(mine.any (fun g => g.id == h.grid))) }
  let f := f.releaseTeams ctx
  let f := mine.foldl (fun f g =>
    let f := (named g.cmd g.queue g.seq f).foldl (fun f id => f.complete ctl id status true []) (f.complete ctl g.cmd status true g.countBytes)
    f.modGrid g.id (fun x => { x with ended := true, preempt := none, saved := [] })) f
  -- RESUMEs that have been taken and have not started
  (f.cmds.filter (fun c => c.rec_.op == 0x04 && c.rec_.ctxId == ctx)).foldl (fun f c =>
    (named c.id c.queue c.top f).foldl (fun f id => f.complete ctl id status true []) (f.complete ctl c.id status true [])) f

/-- A negative acknowledge for a packet (R39, R45): OP 0x0B, the reason in AUX[2:0]. -/
def nakFor (p : Packet) (reason : Nat) : Packet :=
  { p with dst := p.src, src := p.dst, hops := 8, op := 0x0B, len := 0, va := 0, aux := BitVec.ofNat 64 reason, data := [] }
/-- An acknowledge for a packet (R33): cumulative, naming the last sequence number that it covers; a count that is not 0 in AUX
says that it covers no more than so many (log 61). -/
def ackFor (p : Packet) (seq : BitVec 32) (count : Nat) : Packet :=
  { p with dst := p.src, src := p.dst, hops := 8, op := 0x0A, seq := seq, len := 0, va := 0, aux := BitVec.ofNat 64 count, data := [] }
/-- Hands a packet to the module switch (R27). -/
def Fab.emit (f : Fab) (p : Packet) : Fab := { f with outbox := f.outbox ++ [⟨none, none, p⟩] }

/-- Whether a receiving flow is a packet's. -/
def RecvFlow.is (x : RecvFlow) (p : Packet) : Bool := x.src == p.src && x.sctx == p.sctx && x.flow == p.flow
/-- The receiving flow of a packet. -/
def Fab.recvFlow (f : Fab) (p : Packet) : RecvFlow :=
  match f.recvFlows.find? (fun x => x.is p) with | some x => x | none => ⟨p.src, p.sctx, p.flow, 0, [], [], []⟩
/-- The rejections that a receiver remembers: those of numbers before the next one in the order of R379, or decided ahead of it. A sender's
window holds packets that have not been answered, however many it has sent since, so that no count of later packets ends one (R33). -/
def RecvFlow.kept (x : RecvFlow) : List (BitVec 32 × Nat) := x.rejected.filter (fun r => serialLt r.1 x.next || x.decided.contains r.1)
/-- Puts a receiving flow back, with the rejections that its next number leaves it: none outlives its number's turn to name a new packet. -/
def Fab.putFlow (f : Fab) (x : RecvFlow) : Fab :=
  { f with recvFlows := { x with rejected := x.kept } ::
      f.recvFlows.filter (fun y => !(y.src == x.src && y.sctx == x.sctx && y.flow == x.flow)) }
/-- Answers a packet negatively and remembers the rejection (R33, R45, log 61). -/
def Fab.reject (f : Fab) (p : Packet) (reason : Nat) : Fab :=
  let x := f.recvFlow p
  (f.putFlow { x with rejected := x.rejected.filter (fun r => r.1 != p.seq) ++ [(p.seq, reason)] }).emit (nakFor p reason)

/-- Ends a context (R381): no group issues, RESUMEs complete with status 8, parked packets are answered REVOKED. -/
def Fab.contextEnd (ctl : Ctl) (f : Fab) (ctx status : Nat) : Fab :=
  match f.ctx? ctx with
  | none => f
  | some x =>
    if x.ended then f
    else
      let f := f.modCtx ctx (fun c => { c with ended := true, parked := [], ovflUsed := 0 })
      let f := x.parked.foldl (fun f p => if p.pk.op = 9 then f.count 0x720 else f.reject p.pk 1) f
      let f := (f.redHeld.filter (fun h => h.ctx == ctx)).foldl (fun f h => f.reject h.pk 1) { f with redHeld := f.redHeld.filter (fun h => h.ctx != ctx) }
      let f := { f with faults := f.faults.filter (fun s => s.2.ctx != ctx), engPosts := f.engPosts.filter (fun e => e.ctx != ctx) }
      f.endGrids ctl ctx status

/-- The end of a context by a fatal fault (R157, R87): a KIND 3 event that names the failing grid's running RESUME, then
the end of the context. Its STATUS is 0, for which the spec states no value (log 84). -/
def Fab.fatal (ctl : Ctl) (f : Fab) (ctx : Nat) (grid : Option Grid) (cause : Nat) (pc : Addr) : Fab :=
  match f.ctx? ctx with
  | none => f
  | some x =>
    if x.ended then f
    else
      let (seq, q) := match grid with | some g => (g.seq, g.queue) | none => (0, 0)
      let data := leBytes 1 cause ++ leBytes 7 0 ++ leBytes 8 pc.toNat
      let f := f.post ctl ⟨x.evq, eventBytes 3 0 ctx seq q data, none⟩
      f.contextEnd ctl ctx 8

end Sys2Proof.Machine
end

