-- ==== Sys2Proof/Machine/Lanes.lean ====
section
/-!
DEFINITION. Registers, the frontier, rejoin masks, slice queues, tasks, incumbents and the end of lanes
(05_scheduler R98-R102, 06_incumbents_tasks, 07_core_execution R135-R148, 09_memory_hierarchy R192-R193).
-/
namespace Sys2Proof.Machine

/-! ## Registers -/

/-- A tag from its code; codes 10-15 are never held and read as raw (R137, R139). -/
def Tag.ofCode (n : Nat) : Tag :=
  match n with
  | 1 => .i32 | 2 => .n32 | 3 => .f32 | 4 => .h16x2 | 5 => .b16x2 | 6 => .f64 | 7 => .i64 | 8 => .n64 | 9 => .bits | _ => .raw
/-- The code of a tag (Table 7.2). -/
def Tag.code : Tag → Nat
  | .raw => 0 | .i32 => 1 | .n32 => 2 | .f32 => 3 | .h16x2 => 4 | .b16x2 => 5 | .f64 => 6 | .i64 => 7 | .n64 => 8 | .bits => 9

/-- The value of a team-shared register that a group sees at an ac (R140): its own writes at once, others' 3 ac later. -/
def Shared.seen (x : Shared) (slot ac : Nat) : Reg :=
  x.writes.foldl (fun r w => if w.2.1 = slot ∨ w.1 + 3 ≤ ac then w.2.2 else r) x.base
/-- Records a write: within one ac the higher slot lands last (R140). -/
def insertWrite (w : Nat × Nat × Reg) : List (Nat × Nat × Reg) → List (Nat × Nat × Reg)
  | [] => [w]
  | x :: t => if w.1 < x.1 ∨ (w.1 = x.1 ∧ w.2.1 < x.2.1) then w :: x :: t else x :: insertWrite w t
/-- A write to a team-shared register; writes that every group sees become the base. -/
def Shared.write (x : Shared) (slot ac : Nat) (r : Reg) : Shared :=
  let old := x.writes.takeWhile (fun w => w.1 + 3 ≤ ac)
  ⟨(old.getLast?.map (·.2.2)).getD x.base, insertWrite (ac, slot, r) (x.writes.drop old.length)⟩

/-- Private register `n` of lane `l` (R135): listed, or zero raw, or the free value of the lane's last restart (R150). -/
def Lane.priv (x : Lane) (core slot l n : Nat) : Reg :=
  match Table.get? x.regs n with
  | some r => r
  | none => match x.epoch with
    | none => .zero
    | some e => ⟨Config.freeReg e core slot l n, Tag.ofCode (Config.freeTag e core slot l n % 10)⟩

/-- A register as a live lane of a group holds it. -/
def Fab.reg (f : Fab) (core slot l n : Nat) : Reg :=
  match (f.core core).team with
  | none => .zero
  | some t =>
    if 1016 ≤ n then (match t.shared[n - 1016]? with | some x => x.seen slot f.ac | none => .zero)
    else match t.groups[slot]? with
      | none => .zero
      | some g => match g.lanes[l]? with
        | none => .zero
        | some x => if x.status = .live then x.priv core slot l n else .zero

/-- Sets a private register of a lane. -/
def Lane.setReg (x : Lane) (n : Nat) (r : Reg) : Lane := { x with regs := Table.set x.regs n r }

/-- Writes one register in the listed lanes, ascending: a private register in each live lane, a team-shared register
with the value of the first (R139, R140). -/
def Fab.writeReg (f : Fab) (core slot n : Nat) (vals : List (Nat × Reg)) : Fab :=
  if 1016 ≤ n then
    match vals with
    | [] => f
    | (_, r) :: _ => f.modTeam core (fun t => { t with shared := modAt t.shared (n - 1016) (fun x => x.write slot f.ac r) })
  else f.modGroup core slot (fun g => { g with lanes := vals.foldl (fun ls v =>
      modAt ls v.1 (fun x => if x.status = .live then x.setReg n v.2 else x)) g.lanes })

/-- Writes consecutive registers: for each lane, one value per register. -/
def Fab.writeRegs (f : Fab) (core slot n : Nat) (vals : List (Nat × List Reg)) : Fab :=
  let w := match vals with | [] => 0 | (_, rs) :: _ => rs.length
  (List.range w).foldl (fun f i => f.writeReg core slot (n + i) (vals.filterMap (fun v => (v.2[i]?).map (fun r => (v.1, r))))) f

/-! ## Frontier and rejoin masks -/

/-- Whether a lane waits in the frontier (R145). -/
def Lane.ready (x : Lane) : Bool := x.status == .live && x.park.isNone
/-- Whether a lane may issue now: in trap mode only handler lanes do (R154). -/
def Group.mayIssue (g : Group) (l : Nat) (x : Lane) : Bool :=
  x.ready && (match g.trap with | none => true | some t => inMask t.handlers l)
/-- Lanes with their numbers. -/
def Group.numbered (g : Group) : List (Nat × Lane) := g.lanes.mapIdx (fun i l => (i, l))
/-- The entry that issues next (R145): highest priority, then lowest PC; its lanes ascending. -/
def Group.entry (g : Group) : List Nat :=
  let rs := g.numbered.filter (fun p => g.mayIssue p.1 p.2)
  match rs with
  | [] => []
  | r :: _ =>
    let best := rs.foldl (fun (b : Nat × Lane) p =>
      if b.2.prio.toNat < p.2.prio.toNat ∨ (b.2.prio = p.2.prio ∧ p.2.pc.toNat < b.2.pc.toNat) then p else b) r
    (rs.filter (fun p => p.2.pc == best.2.pc)).map (·.1)
/-- Merges frontier entries with equal PC: every lane takes the largest priority (R145). In trap mode handler lanes and
waiting lanes merge among themselves. -/
def Group.merge (g : Group) : Group :=
  let side (i : Nat) : Bool := match g.trap with | none => true | some t => inMask t.handlers i
  { g with lanes := g.lanes.mapIdx (fun i l =>
      if l.ready then
        { l with prio := g.numbered.foldl (fun m p =>
            if p.2.ready ∧ p.2.pc = l.pc ∧ side p.1 = side i ∧ m.toNat < p.2.prio.toNat then p.2.prio else m) l.prio }
      else l) }

/-- Whether lane masks have a bit for rejoin mask `j`. -/
def jbit (m : BitVec 16) (j : Nat) : Bool := m.getLsbD j
/-- Clears or sets a bit. -/
def setJ (m : BitVec 16) (j : Nat) (v : Bool) : BitVec 16 := if v then m ||| (1#16 <<< j) else m &&& ~~~(1#16 <<< j)
/-- Releases rejoin mask `j` when every enrolled lane has arrived: arrived lanes unpark and the arrived bits clear
(R147). -/
def Group.releaseMask (g : Group) (j : Nat) : Group :=
  let live := g.lanes.filter (fun l => l.status == .live)
  if live.any (fun l => jbit l.arrived j) ∧ live.all (fun l => !jbit l.enrolled j || jbit l.arrived j) then
    { g with lanes := g.lanes.map (fun l =>
        if jbit l.arrived j then
          (let l := { l with arrived := setJ l.arrived j false }
           if l.park = some (.jwait (BitVec.ofNat 4 j)) then l.unpark else l)
        else l) }
  else g
/-- Releases whatever the 16 masks allow. -/
def Group.releaseAll (g : Group) : Group := (List.range 16).foldl (fun g j => g.releaseMask j) g

/-! ## Lanyard messages -/

/-- Sends a message up a lanyard link, with the permits that its sender owes (R98); its sender holds a permit. -/
def Lanyard.sendUp (k : Lanyard) (m : LanyardMsg) : Lanyard :=
  { k with up := k.up ++ [{ m with pret := k.owedUp }], upPermits := k.upPermits - 1, owedUp := 0 }
/-- Sends a message down a lanyard link. -/
def Lanyard.sendDown (k : Lanyard) (m : LanyardMsg) : Lanyard :=
  { k with down := k.down ++ [{ m with pret := k.owedDown }], downPermits := k.downPermits - 1, owedDown := 0 }
/-- Whether the leaf controller of a cluster holds a permit; without one it sends nothing yet (R98). -/
def Fab.upFree (f : Fab) (cl : Nat) : Bool := match f.links[cl]? with | some k => k.upPermits != 0 | none => false
/-- Whether Uzoman holds a permit of a cluster's link. -/
def Fab.downFree (f : Fab) (cl : Nat) : Bool := match f.links[cl]? with | some k => k.downPermits != 0 | none => false
/-- Sends a message from the leaf controller of a cluster. -/
def Fab.sendUp (f : Fab) (cl : Nat) (m : LanyardMsg) : Fab := { f with links := modAt f.links cl (fun k => k.sendUp m) }
/-- Sends a message to the leaf controller of a cluster. -/
def Fab.sendDown (f : Fab) (cl : Nat) (m : LanyardMsg) : Fab := { f with links := modAt f.links cl (fun k => k.sendDown m) }

/-! ## The end of groups and teams -/

/-- Whether a group has ended (R102). -/
def Group.ended (g : Group) : Bool := g.lanes.all (fun l => l.status != .live)
/-- Whether nothing of a group is outstanding: no store, load, batch or remote operation, and nothing in the engines of its
core, sealed or not. -/
def Core.drained (k : Core) (g : Group) : Bool :=
  g.storeQ.isEmpty && g.loads.isEmpty && g.batches.isEmpty && g.rem.isEmpty &&
    !k.copies.any (fun o => o.slot == g.slot) && !k.mxq.any (fun o => o.slot == g.slot)
/-- SEQ of the RESUME of a grid, as lanyard messages carry it (Table 5.1). -/
def Fab.gridSeq (f : Fab) (gid : Nat) : Word := match f.grids.find? (fun g => g.id == gid) with | some g => g.seq | none => 0
/-- Sends the TEAMEND of a core's hitch once all its teams have exited and a permit is free (R98, R102). -/
def Fab.reportHitch (f : Fab) (c : Nat) : Fab :=
  match (f.core c).team with
  | none => f
  | some t =>
    if t.exited ∧ !t.reported ∧ f.upFree (c / 8) ∧ t.mates.all (fun m => match (f.core m).team with | some x => x.exited | none => true) then
      (t.mates.foldl (fun f m => f.modTeam m (fun x => { x with reported := true })) f).sendUp (c / 8)
        ⟨0x03, 0, t.ctx, f.gridSeq t.grid, t.grid, t.index - t.j, 0, 0, 0, false⟩
    else f
/-- Marks a core's team exited once its groups have ended and their operations have drained, and reports the hitch when
all its teams have exited (R102, R305). -/
def Fab.reportEnd (f : Fab) (c : Nat) : Fab :=
  match (f.core c).team with
  | none => f
  | some t =>
    if t.exited ∨ !(t.groups.all (fun g => g.ended && (f.core c).drained g)) then f
    else (f.modTeam c (fun t => { t with exited := true })).reportHitch c

/-! ## Incumbents (06) -/

/-- Direction and strictness of an incumbent (R114). -/
def Ctx.incMax (x : Ctx) (i : Nat) : Bool := (x.incCfg.getD i 0).getLsbD 0
/-- Strict domination. -/
def Ctx.incStrict (x : Ctx) (i : Nat) : Bool := (x.incCfg.getD i 0).getLsbD 1
/-- Whether an offered value improves an incumbent's value (Table 6.1). -/
def Ctx.improves (x : Ctx) (i : Nat) (v cur : DWord) : Bool := if x.incMax i then cur.slt v else v.slt cur
/-- Whether a bound is dominated (Table 6.1). -/
def Ctx.dominated (x : Ctx) (i : Nat) (b cur : DWord) : Bool :=
  if x.incMax i then (if x.incStrict i then b.slt cur else !(cur.slt b)) else (if x.incStrict i then cur.slt b else !(b.slt cur))
/-- The better of two values. -/
def Ctx.better (x : Ctx) (i : Nat) (a b : DWord) : DWord := if x.improves i a b then a else b
/-- The value of a core's replica of an incumbent (R117); one not yet written holds the value at CREATE. -/
def Fab.coreInc (f : Fab) (c ctx i : Nat) : DWord :=
  match Table.get? (f.core c).incs (16 * ctx + i) with
  | some v => v
  | none => match f.ctx? ctx with | some x => x.incInit.getD i 0 | none => 0
/-- Sets a core's replica. -/
def Fab.setCoreInc (f : Fab) (c ctx i : Nat) (v : DWord) : Fab :=
  let k := f.core c
  f.setCore c { k with incs := Table.set k.incs (16 * ctx + i) v }
/-- Whether a lane's bound is dominated under its core's replica (R121). -/
def Fab.laneDominated (f : Fab) (c ctx : Nat) (l : Lane) : Bool :=
  match l.bound, f.ctx? ctx with
  | some (b, i), some x => l.status == .live && x.dominated i.toNat b (f.coreInc c ctx i.toNat)
  | _, _ => false

/-! ## Slice queues (R192, R193) -/

/-- A slice-queue descriptor (Table 9.1). -/
structure QDesc where
  ring : Nat
  logcap : Nat
  esize : Nat
  head : Word
  tail : Word
  disc : Word
  waiters : Word
  deriving DecidableEq, Repr, Inhabited

/-- Bytes of an entry by ESIZE. -/
def entryBytes (esize : Nat) : Nat := 16 * 2 ^ esize
/-- Parses a descriptor; none for a bad one (R192). -/
def QDesc.parse (b : List Byte) : Option QDesc :=
  let w1 := fieldAt b 8 8
  let lc := bitsOf w1 4 0
  let es := bitsOf w1 7 6
  let ring := fieldAt b 0 8
  if lc = 0 ∨ 20 < lc ∨ es = 3 ∨ bitAt w1 5 ∨ bitsOf w1 63 8 ≠ 0 ∨ fieldAt b 32 32 ≠ 0 ∨ ring % (entryBytes es * 2 ^ lc) ≠ 0 then none
  else some ⟨ring, lc, es, BitVec.ofNat 32 (fieldAt b 16 4), BitVec.ofNat 32 (fieldAt b 20 4),
    BitVec.ofNat 32 (fieldAt b 24 4), BitVec.ofNat 32 (fieldAt b 28 4)⟩
/-- Entries held. -/
def QDesc.held (q : QDesc) : Nat := (q.tail - q.head).toNat
/-- HEAD, TAIL, DISC and WAITERS as stored. -/
def QDesc.bytes (q : QDesc) : List Byte :=
  leBytes 4 q.head.toNat ++ leBytes 4 q.tail.toNat ++ leBytes 4 q.disc.toNat ++ leBytes 4 q.waiters.toNat

/-- Physical address and key of a location. -/
def Loc.phys : Loc → Nat × BitVec 12
  | .glob _ pa key _ _ => (pa.toNat, key)
  | .scr _ a => (a, 0)
/-- HOME of a location. -/
def Loc.home : Loc → BitVec 4 | .glob _ _ _ h _ => h | .scr .. => 0
/-- Virtual address of a location. -/
def Loc.va : Loc → Addr | .glob v .. => v | .scr _ a => BitVec.ofNat 48 a

/-- Whether a location's page bypasses the caches (CACHE 2, R182). -/
def Loc.bypasses : Loc → Bool | .glob _ _ _ _ k => k == 2 | .scr .. => false
/-- A read by the slice that owns a location, by the map of a core that requests it or by the module's (R187, R191): a page with CACHE 2
bypasses the slice. -/
def Fab.sliceRead (ctl : Ctl) (f : Fab) (core : Option Nat) (ctx : Nat) (loc : Loc) (n : Nat) : List Byte × Fab :=
  let (pa, key) := loc.phys
  if loc.bypasses then f.pastRead ctl core ctx key loc.home pa n else f.l2Read ctl core ctx key loc.home pa n
/-- A write by the slice that owns a location, by the map of a core that requests it or by the module's; no L1 takes it for its core's own. -/
def Fab.sliceWrite (ctl : Ctl) (f : Fab) (core : Option Nat) (ctx : Nat) (loc : Loc) (b : List Byte) : Fab :=
  let (pa, key) := loc.phys
  if loc.bypasses then f.pastWrite ctl core ctx key loc.home pa b else f.l2Put ctl core none ctx key loc.home pa b
/-- The location a number of bytes further on. -/
def Loc.plus (x : Loc) (k : Nat) : Loc :=
  match x with
  | .glob va pa key home cache => .glob va (pa + BitVec.ofNat 48 k) key home cache
  | .scr c a => .scr c (a + k)

/-- Reads a descriptor where its line is held, for a core's request (R185, R187, R192). -/
def Fab.queueGet (ctl : Ctl) (f : Fab) (core : Option Nat) (ctx : Nat) (desc : Loc) : Option QDesc × Fab :=
  let (b, f) := f.sliceRead ctl core ctx desc 64
  (QDesc.parse b, f)
/-- Stores the counters of a descriptor at the slice that has read it, in the same step. -/
def Fab.queuePut (ctl : Ctl) (f : Fab) (core : Option Nat) (ctx : Nat) (desc : Loc) (q : QDesc) : Fab :=
  f.again (f.sliceWrite ctl core ctx (desc.plus 16) q.bytes)
/-- Reads a descriptor again for an operation whose first access has been counted. -/
def Fab.queueSee (ctl : Ctl) (f : Fab) (core : Option Nat) (ctx : Nat) (desc : Loc) : Option QDesc × Fab :=
  let (q, g) := f.queueGet ctl core ctx desc
  (q, f.again g)

/-- The waiters that the slice of a queue holds for it, oldest first. -/
def Fab.waitersOf (f : Fab) (desc : Loc) : List Waiter := f.waiters.filter (fun w => w.desc == desc.phys.1 && w.slice.isSome)
/-- The slice that owns a queue: the one that holds the descriptor's line, else the one that the map of the requesting core names
(R192). -/
def Fab.ownerOf (ctl : Ctl) (f : Fab) (core ctx : Nat) (desc : Loc) : Nat :=
  match f.l2Find (desc.phys.1 / 256) with
  | some l => l.slice
  | none => sliceOf (f.seedOf ctx) (f.mapOf ctl core ctx).out desc.home desc.phys.1
/-- Whether the waiter list of a slice is full (R193). -/
def Fab.listFull (f : Fab) (slice : Nat) : Bool := waiterRoom ≤ (f.waiters.filter (fun w => w.slice == some slice)).length
/-- Adds a lane to the waiter list of a queue's slice; where the list is full, the lane waits at its core (R193). -/
def Fab.waiterAdd (ctl : Ctl) (f : Fab) (ctx : Nat) (desc : Loc) (q : QDesc) (c s l : Nat) : Fab :=
  let f := f.queuePut ctl (some c) ctx desc { q with waiters := q.waiters + 1 }
  let slice := f.ownerOf ctl c ctx desc
  { f with waiters := f.waiters ++ [⟨desc.phys.1, c, s, l, if f.listFull slice then none else some slice⟩] }
/-- Whether a waiter is the given lane on the given queue. -/
def Waiter.is (w : Waiter) (desc : Loc) (c s l : Nat) : Bool := w.desc == desc.phys.1 && w.core == c && w.slot == s && w.lane == l
/-- Withdraws a parked lane from its queue (R328). -/
def Fab.waiterDrop (ctl : Ctl) (f : Fab) (ctx : Nat) (desc : Loc) (c s l : Nat) : Fab :=
  if f.waiters.any (fun w => w.is desc c s l) then
    let f := { f with waiters := f.waiters.filter (fun w => !w.is desc c s l) }
    match f.queueGet ctl (some c) ctx desc with
    | (some q, f) => f.queuePut ctl (some c) ctx desc { q with waiters := q.waiters - 1 }
    | (none, f) => f
  else f

/-- Location of ring entry `i` (R192); none where its page does not translate. -/
def Fab.entryLoc (ctl : Ctl) (f : Fab) (ctx : Nat) (q : QDesc) (i : Word) : Option Loc × Fab :=
  let va := q.ring + entryBytes q.esize * (i.toNat % 2 ^ q.logcap)
  if 2 ^ 48 ≤ va then (none, f)
  else match f.translate ctl none ctx va .atomic with
    | (.ok loc _, f) => (some loc, f)
    | (_, f) => (none, f)

/-- The answer of a dequeue. -/
inductive Deq
  | entry (b : List Byte)
  | empty (q : QDesc)
  | bad
  deriving DecidableEq, Repr, Inhabited

/-- Dequeues one entry (R193). -/
def Fab.dequeue (ctl : Ctl) (f : Fab) (core : Option Nat) (ctx : Nat) (desc : Loc) : Deq × Fab :=
  match f.queueGet ctl core ctx desc with
  | (none, f) => (.bad, f)
  | (some q, f) =>
    if q.held = 0 then (.empty q, f)
    else match f.entryLoc ctl ctx q q.head with
      | (none, f) => (.bad, f)
      | (some loc, f) =>
        let (b, f) := f.sliceRead ctl none ctx loc (entryBytes q.esize)
        (.entry b, f.queuePut ctl core ctx desc { q with head := q.head + 1 })

/-- Counts a discard in a task queue's descriptor (Table 9.1 DISC), at the slice that has dequeued the record for a core. -/
def Fab.queueDisc (ctl : Ctl) (f : Fab) (core ctx : Nat) (desc : Loc) : Fab :=
  match f.queueSee ctl (some core) ctx desc with
  | (some q, f) => f.queuePut ctl (some core) ctx desc { q with disc := q.disc + 1 }
  | (none, f) => f

/-! ## Tasks (R126-R131) -/

/-- Changes a lane. -/
def Fab.modLane (f : Fab) (c s l : Nat) (h : Lane → Lane) : Fab :=
  f.modGroup c s (fun g => { g with lanes := modAt g.lanes l h })
/-- A lane. -/
def Fab.lane? (f : Fab) (c s l : Nat) : Option Lane := (f.group? c s).bind (fun g => g.lanes[l]?)

/-- Entry PC of a task record. -/
def recPc (b : List Byte) : Addr := BitVec.ofNat 48 (fieldAt b 0 6)
/-- Whether a task record is malformed (R129): a reserved bit, or a PC that is not 4-byte aligned. -/
def recMalformed (b : List Byte) : Bool := bitsOf (fieldAt b 0 8) 55 53 != 0 || bitsOf (fieldAt b 0 8) 1 0 != 0
/-- Bound and incumbent of a task record, if bounded. -/
def recBound (b : List Byte) : Option (DWord × BitVec 4) :=
  if bitAt (fieldAt b 0 8) 52 then some (BitVec.ofNat 64 (fieldAt b 8 8), BitVec.ofNat 4 (bitsOf (fieldAt b 0 8) 51 48)) else none

/-- Installs a task record in a lane at the `tnext` at `tpc` of queue `q` (R129 step 5). -/
def Lane.install (x : Lane) (tpc : Addr) (q : Nat) (b : List Byte) : Lane :=
  let x := if x.idle then { x with regs := [], epoch := none } else x
  let x := (List.range 12).foldl (fun x i => x.setReg i ⟨BitVec.ofNat 32 (fieldAt b (16 + 4 * i) 4), .raw⟩) x
  { x with
    idle := false
    park := none
    pc := if recMalformed b then tpc else recPc b
    prio := BitVec.ofNat 8 (bitsOf (fieldAt b 0 8) 63 56)
    bound := recBound b
    task := true
    lastTnext := some (tpc, q) }

/-- A lane becomes unbound and continues after its `tnext` with the done status (R296). -/
def Lane.tnextDone (x : Lane) (tpc : Addr) (q : Nat) : Lane :=
  { x with park := none, pc := tpc + 12, bound := none, task := false, lastTnext := some (tpc, q) }

/-- The checkpoint of a lane that stands at a `tnext` with an empty live-in set (R125, R296). -/
def Lane.tnextHead (x : Lane) (tpc : Addr) (q : Nat) : Checkpoint :=
  ⟨0, [], tpc, x.prio, x.enrolled, x.arrived, some q⟩

/-- A lane parks in `tnext` (R296). -/
def Lane.tnextPark (x : Lane) (tpc : Addr) (q : Nat) (desc : Loc) : Lane :=
  { x with park := some (.tnext q desc), pc := tpc, parkNext := tpc + 12, bound := none, task := false, window := none,
           ck := x.tnextHead tpc q }

/-- Whether the deferral window of a lane may open: it is no handler lane of a trap (R151). -/
def Group.opens (g : Group) (l : Nat) : Bool := match g.trap with | none => true | some t => !inMask t.handlers l
/-- Opens the deferral window of a lane whose commit instruction retires while it is parked (R151). -/
def Fab.openWindow (f : Fab) (c s l : Nat) : Fab :=
  f.modGroup c s (fun g => if g.opens l then { g with lanes := modAt g.lanes l Lane.openWindow } else g)

/-! ## What a lane that ends leaves of its group -/

/-- Strikes a lane from what holds a group. A fault that no other lane of its entry shares is over, and so is an `irq` or a `grow` without
an active lane; a `sleep` and a `wait` hold the group to their end (R97, R291). -/
def Hold.strike (l : Nat) : Hold → Option Hold
  | .retry => some .retry
  | .fault slot open_ entry lanes va =>
    if entry &&& ~~~(1#64 <<< l) = 0 then none else some (.fault slot open_ (entry &&& ~~~(1#64 <<< l)) (lanes &&& ~~~(1#64 <<< l)) va)
  | .irq entry active pc =>
    if active &&& ~~~(1#64 <<< l) = 0 then none else some (.irq (entry &&& ~~~(1#64 <<< l)) (active &&& ~~~(1#64 <<< l)) pc)
  | .grow entry active pc r =>
    if entry &&& ~~~(1#64 <<< l) = 0 then none else some (.grow (entry &&& ~~~(1#64 <<< l)) (active &&& ~~~(1#64 <<< l)) pc r)
  | .sleep entry pc target => some (.sleep (entry &&& ~~~(1#64 <<< l)) pc target)
  | .wait entry pc x => some (.wait (entry &&& ~~~(1#64 <<< l)) pc x)
/-- Whether a group takes a trap that waits for its next instruction boundary: it is held by nothing, or before an instruction. -/
def Group.atIssue (g : Group) : Bool :=
  match g.hold with | none => true | some .retry => true | some (.wait ..) => true | _ => false
/-- Strikes a lane from a trap whose entry has not been made; without a handler lane there is none. -/
def PendTrap.strike (p : PendTrap) (l : Nat) : Option PendTrap :=
  let h := p.handlers &&& ~~~(1#64 <<< l)
  if h = 0 then none else some { p with lanes := p.lanes &&& ~~~(1#64 <<< l), handlers := h }
/-- Strikes a lane from the group's masks and handler lanes; trap mode ends with its last handler lane (R122, R147, R156). -/
def Group.strike (g : Group) (l : Nat) : Group :=
  let g := { g with lanes := modAt g.lanes l (fun x => { x with enrolled := 0, arrived := 0 })
                    malformed := g.malformed &&& ~~~(1#64 <<< l)
                    malformedWords := g.malformedWords.filter (fun w => w.1 != l)
                    hold := g.hold.bind (Hold.strike l)
                    pendTrap := g.pendTrap.bind (fun p => p.strike l) }
  let g := match g.trap with
    | none => g
    | some t =>
      let h := t.handlers &&& ~~~(1#64 <<< l)
      { g with trap := if h = 0 then none else some { t with handlers := h } }
  g.releaseAll
/-- A lane ends: it is in no frontier entry, holds no task and no bound, and its registers are gone (R143, R305). -/
def Group.endLane (g : Group) (l : Nat) (st : LaneStatus) : Group :=
  { g with lanes := modAt g.lanes l (fun x =>
      { x with status := st, park := none, bound := none, task := false, regs := [], epoch := none, window := none }) }

/-- Ends the idle lanes of a group as `exit` ends a lane (R130, R305); a group that this ends is stopped no more. -/
def Group.endIdle (g : Group) : Group :=
  let g := (g.numbered.filter (fun p => p.2.status == .live && p.2.idle)).foldl (fun g p => (g.endLane p.1 .exited).strike p.1) g
  { g with stopped := g.stopped && !g.ended }
/-- Ends the idle lanes of a team. -/
def Team.endIdle (t : Team) : Team := { t with groups := t.groups.map Group.endIdle }
/-- Whether every team of a hitch has exited before (R102): it is not placed again. -/
def Grid.hitchOver (g : Grid) (h : Nat) : Bool :=
  (List.range g.hitch).all (fun j => g.saved.any (fun t => t.1 == h * g.hitch + j && t.2.exited))
/-- Teams that a grid keeps of hitches that are over. -/
def Grid.overTeams (g : Grid) : Nat := (g.saved.filter (fun t => g.hitchOver (t.1 / g.hitch))).length
/-- Ends the idle lanes of the teams that a grid keeps. A team whose lanes have all ended has exited, and counts with its hitch once that is
over (R102, R130). -/
def Grid.endIdle (g : Grid) : Grid :=
  let left (t : Team) : Team := { t.endIdle with exited := t.exited || t.endIdle.groups.all Group.ended }
  let g' : Grid := { g with saved := g.saved.map (fun p => (p.1, left p.2)) }
  { g' with exitedTeams := g.exitedTeams + (g'.overTeams - g.overTeams) }
/-- Ends the idle lanes of every group of a grid, of its resident teams and of those that it keeps (R130). -/
def Fab.endIdle (f : Fab) (gid : Nat) : Fab :=
  { f with cores := f.cores.map (fun (c, k) => (c, { k with team := k.team.map (fun t => if t.grid == gid then t.endIdle else t) }))
           grids := f.grids.map (fun g => if g.id == gid then g.endIdle else g) }

/-- When a grid's outstanding-task count is zero (R130): its lanes parked in `tnext` complete with the done status, and
its idle lanes end, those of groups that are stopped or wait for readmission too. -/
def Fab.tasksZero (ctl : Ctl) (f : Fab) (gid : Nat) : Fab :=
  let hit (c : Nat) : Bool := match (f.core c).team with | some t => t.grid == gid | none => false
  let out := f.waiters.filter (fun w => hit w.core && (match f.lane? w.core w.slot w.lane with
    | some l => (match l.park with | some (.tnext ..) => true | _ => false) | none => false))
  let f := out.foldl (fun f w => match f.lane? w.core w.slot w.lane, (f.core w.core).team with
    | some l, some t => (match l.park with | some (.tnext _ d) => f.waiterDrop ctl t.ctx d w.core w.slot w.lane | _ => f)
    | _, _ => f) f
  let f := f.mapLanes (fun _ t g i l =>
    if t.grid == gid then
      match l.park with
      | some (.tnext q _) =>
        if l.idle then l
        else if g.opens i then (l.tnextDone l.pc q).openWindow else l.tnextDone l.pc q
      | _ => l
    else l)
  let f := f.endIdle gid
  (f.cores.map (·.1)).foldl (fun f c => f.reportEnd c) f

/-- Removes 1 from a grid's outstanding-task count (R127). -/
def Fab.taskDone (ctl : Ctl) (f : Fab) (gid : Nat) : Fab :=
  match f.grid? gid with
  | none => f
  | some g =>
    if g.tasks = 0 then f
    else
      let f := f.modGrid gid (fun g => { g with tasks := g.tasks - 1 })
      if g.tasks = 1 then f.tasksZero ctl gid else f

/-- How `tnext` ends for a lane. -/
inductive Took
  | done | parked | installed | malformed (word : DWord) | bad
  deriving DecidableEq, Repr, Inhabited

/-- Steps 2 to 5 of R129 for a lane; `fuel` bounds the discards. -/
def Fab.takeTask (ctl : Ctl) (f : Fab) (ctx gid c s l : Nat) (tpc : Addr) (q : Nat) (desc : Loc) : Nat → Took × Fab
  | 0 => (.parked, f)
  | fuel + 1 =>
    if (match f.grid? gid with | some g => g.tasks.toNat | none => 0) = 0 then (.done, f.modLane c s l (fun x => x.tnextDone tpc q))
    else match f.dequeue ctl (some c) ctx desc with
      | (.bad, f) => (.bad, f)
      | (.empty qd, f) => (.parked, (f.modLane c s l (fun x => x.tnextPark tpc q desc)).waiterAdd ctl ctx desc qd c s l)
      | (.entry b, f) =>
        let dom := match recBound b, f.ctx? ctx with
          | some (bd, i), some x => x.dominated i.toNat bd (f.coreInc c ctx i.toNat)
          | _, _ => false
        if dom then
          let f := f.queueDisc ctl c ctx desc
          let f := f.modGrid gid (fun g => { g with disc := g.disc + 1 })
          (f.taskDone ctl gid).takeTask ctl ctx gid c s l tpc q desc fuel
        else
          let f := f.modLane c s l (fun x => x.install tpc q b)
          if recMalformed b then (.malformed (BitVec.ofNat 64 (fieldAt b 0 8)), f) else (.installed, f)

/-- Entries of a queue, as the bound on discards. -/
def Fab.takeFuel (ctl : Ctl) (f : Fab) (ctx : Nat) (desc : Loc) : Nat :=
  match f.queueGet ctl none ctx desc with | (some q, _) => q.held + 2 | (none, _) => 2

/-- What follows the installation of a record: an acquire at `.mod`, and the deferral window of the lane (R151, R212). -/
def Fab.installed (ctl : Ctl) (f : Fab) (c s l : Nat) : Fab := (f.openWindow c s l).l1Acquire ctl c 4

/-- Marks a lane to which a malformed record was handed (R129). Of several at once, FADDR holds the word of the lane that was handed its
record first, and the frame's PC is that of the lowest such lane: the spec names neither (log 72). -/
def Fab.markMalformed (f : Fab) (c s l : Nat) (word : DWord) : Fab :=
  f.modGroup c s (fun g => { g with
    malformed := g.malformed ||| (1#64 <<< l)
    malformedWords := g.malformedWords.filter (fun w => w.1 != l) ++ [(l, word)] })

/-- Hands an entry to a waiting lane (R193, R129, R328): a `qdeq` lane holds it until it reaches the core; a `tnext` lane installs the record or
discards it and goes on waiting. -/
def Fab.handOff (ctl : Ctl) (f : Fab) (w : Waiter) (b : List Byte) : Fab :=
  match (f.core w.core).team, f.lane? w.core w.slot w.lane with
  | some t, some l =>
    match l.park with
    | some (.qdeq desc d words acq seq lower) =>
      f.modLane w.core w.slot w.lane (fun x => { x with park := some (.handed desc d acq seq lower (b.take (4 * words))) })
    | some (.tnext q desc) =>
      let dom := match recBound b, f.ctx? t.ctx with
        | some (bd, i), some x => x.dominated i.toNat bd (f.coreInc w.core t.ctx i.toNat)
        | _, _ => false
      if dom then
        let f := f.queueDisc ctl w.core t.ctx desc
        let f := f.modGrid t.grid (fun g => { g with disc := g.disc + 1 })
        let f := f.taskDone ctl t.grid
        -- it goes on waiting, as the newest waiter (step 3 of R129)
        match f.lane? w.core w.slot w.lane with
        | some x => (match x.park, f.queueSee ctl (some w.core) t.ctx desc with
          | some (.tnext ..), (some qd, f) => f.waiterAdd ctl t.ctx desc qd w.core w.slot w.lane
          | _, (_, f) => f)
        | none => f
      else
        let f := (f.modLane w.core w.slot w.lane (fun x => x.install x.pc q b)).installed ctl w.core w.slot w.lane
        if recMalformed b then f.markMalformed w.core w.slot w.lane (BitVec.ofNat 64 (fieldAt b 0 8)) else f
    | _ => f
  | _, _ => f

/-- The answer of an enqueue. -/
inductive Enq
  | ok | full | bad
  deriving DecidableEq, Repr, Inhabited

/-- The registers that take an entry in a block from D on, in a lane: all of the block, with tag raw, where no lower lane has an entry; else its
private ones alone, since a team-shared one takes the value of the lowest active lane (R140, R328). -/
def entryRegsOf (d : RegNo) (lower : BitVec 64) (b : List Byte) : List Reg :=
  ((List.range (b.length / 4)).map (fun i => ⟨BitVec.ofNat 32 (fieldAt b (4 * i) 4), .raw⟩)).take
    (if lower = 0 then b.length / 4 else 1016 - d.toNat)
/-- An entry reaches the core of the `qdeq` lane to which it was handed, which unparks (R328). -/
def Fab.landEntry (ctl : Ctl) (f : Fab) (c s l : Nat) : Fab :=
  match (f.lane? c s l).bind (·.park) with
  | some (.handed _ d acq _ lower b) =>
    let f := ((f.writeRegs c s d.toNat [(l, entryRegsOf d lower b)]).modLane c s l (fun x => x.unpark)).openWindow c s l
    match acq with | none => f | some sc => f.l1Acquire ctl c sc
  | _ => f
/-- The entries that slices have handed to lanes reach them as time passes (R193, R328). -/
def Fab.landEntries (ctl : Ctl) (f : Fab) : Fab :=
  f.cores.foldl (fun f k => match k.2.team with
    | none => f
    | some t => (t.groups.mapIdx (fun s g => (s, g))).foldl (fun f p =>
        (List.range p.2.lanes.length).foldl (fun f l => f.landEntry ctl k.1 p.1 l) f) f) f
/-- The lanes that hold entries of a queue which have not reached their cores. -/
def Fab.holders (f : Fab) (desc : Loc) : List (Nat × Nat × Nat) :=
  f.cores.flatMap (fun k => match k.2.team with
    | none => []
    | some t => (t.groups.mapIdx (fun s g => (s, g))).flatMap (fun p => (List.range p.2.lanes.length).filterMap (fun l =>
        match (f.lane? k.1 p.1 l).bind (·.park) with
        | some (.handed d ..) => if d.phys.1 = desc.phys.1 then some (k.1, p.1, l) else none
        | _ => none)))
/-- Entries handed to lanes reach their cores before the ring has no place left that they could be returned to: nothing is lost (R328,
log 54). -/
def Fab.keepRoom (ctl : Ctl) (f : Fab) (desc : Loc) (q : QDesc) : Fab :=
  if 2 ^ q.logcap < q.held + (f.holders desc).length then (f.holders desc).foldl (fun f h => f.landEntry ctl h.1 h.2.1 h.2.2) f else f
/-- Enqueues one entry (R193): to the oldest waiter, or at TAIL, or full. -/
def Fab.enqueue (ctl : Ctl) (f : Fab) (core : Option Nat) (ctx : Nat) (desc : Loc) (b : List Byte) : Enq × Fab :=
  match f.queueGet ctl core ctx desc with
  | (none, f) => (.bad, f)
  | (some q, f) =>
    match f.waitersOf desc with
    | w :: _ =>
      let f := f.queuePut ctl core ctx desc { q with head := q.head + 1, tail := q.tail + 1, waiters := q.waiters - 1 }
      (.ok, (({ f with waiters := f.waiters.erase w } : Fab).handOff ctl w b).keepRoom ctl desc q)
    | [] =>
      if 2 ^ q.logcap ≤ q.held then (.full, f)
      else match f.entryLoc ctl ctx q q.tail with
        | (none, f) => (.bad, f)
        | (some loc, f) =>
          let f := f.sliceWrite ctl none ctx loc b
          (.ok, (f.queuePut ctl core ctx desc { q with tail := q.tail + 1 }).keepRoom ctl desc { q with tail := q.tail + 1 })

/-- The core of a lane that has ended returns its entry (R328): it stands at HEAD - 1 and is the next one dequeued, which the oldest waiter
of the queue, where there is one, does at once (log 54). -/
def Fab.giveBack (ctl : Ctl) (f : Fab) (c ctx : Nat) (desc : Loc) (b : List Byte) : Fab :=
  match f.queueGet ctl (some c) ctx desc with
  | (none, f) => f
  | (some q, f) =>
    match f.entryLoc ctl ctx q (q.head - 1) with
    | (none, f) => f
    | (some loc, f) =>
      let f := f.sliceWrite ctl none ctx loc b
      match f.waitersOf desc with
      | w :: _ => ({ f.queuePut ctl (some c) ctx desc { q with waiters := q.waiters - 1 } with waiters := f.waiters.erase w } : Fab).handOff ctl w b
      | [] => f.queuePut ctl (some c) ctx desc { q with head := q.head - 1 }

/-- Whether a descriptor passes the checks of R192 and R326 for an entry size, and the ring entries of the next `n`
enqueues or dequeues can be reached. Its read belongs to the operations that follow, each of which counts its own bypass (R190). -/
def Fab.queueCheck (ctl : Ctl) (f : Fab) (core : Option Nat) (ctx : Nat) (desc : Loc) (esz : Nat) (enq : Bool) (n : Nat) : Bool × Fab :=
  match f.queueGet ctl core ctx desc with
  | (none, f) => (false, f)
  | (some q, g) =>
    let f := f.again g
    if q.esize ≠ esz then (false, f)
    else
      let (first, n) := if enq then (q.tail, min n (2 ^ q.logcap - q.held)) else (q.head, min n q.held)
      (List.range n).foldl (fun (r : Bool × Fab) k =>
        match r.2.entryLoc ctl ctx q (first + BitVec.ofNat 32 k) with
        | (some _, f) => (r.1, f)
        | (none, f) => (false, f)) (true, f)

/-- Enqueues by a descriptor's virtual address, for records the device posts. -/
def Fab.enqueueVa (ctl : Ctl) (f : Fab) (ctx va : Nat) (b : List Byte) : Enq × Fab :=
  if 2 ^ 48 ≤ va then (.bad, f)
  else match f.translate ctl none ctx va .atomic with
    | (.ok loc _, f) => f.enqueue ctl none ctx loc b
    | (_, f) => (.bad, f)

/-! ## Fault slots (R204) -/

/-- The fault-queue descriptor (Table 9.4). -/
structure FaultQ where
  qdesc : Nat
  resp : Nat
  hart : Nat
  msiid : Nat
  deriving DecidableEq, Repr, Inhabited

/-- Reads a context's fault-queue descriptor. -/
def Fab.faultQ (ctl : Ctl) (f : Fab) (ctx : Nat) : Option FaultQ × Fab :=
  match f.ctx? ctx with
  | none => (none, f)
  | some x => match f.ctxRead ctl ctx x.faultQ.toNat 64 with
    | (some b, f) => (some ⟨fieldAt b 0 8, fieldAt b 8 8, bitsOf (fieldAt b 16 1) 3 0, fieldAt b 18 2⟩, f)
    | (none, f) => (none, f)

/-- ACCESS bit of an access kind (Table 9.5). -/
def accessBits : Access → BitVec 8 | .load => 1 | .store => 2 | .fetch => 4 | .atomic => 8

/-- Takes a fault slot for a requester of a die, or joins the one that its page already has; none while all 1,024 of the
die are busy (R201, R204). The record is enqueued as an event of its own, FAULT_RECORD_ENQUEUE: until then further faults of the page are
merged into it. -/
def Fab.faultTake (ctl : Ctl) (f : Fab) (die : Nat) (r : FaultSlot) : Option Nat × Fab :=
  match f.faults.find? (fun p => p.1 / 1024 == die && p.2.ctx == r.ctx && p.2.va.toNat / 65536 == r.va.toNat / 65536) with
  | some (n, s) =>
    let s := if s.enqueued then { s with who := s.who ++ r.who }
      else { s with who := s.who ++ r.who, merged := min 0xFFFF (s.merged + 1), access := s.access ||| r.access }
    (some n, { f with faults := Table.set f.faults n s })
  | none =>
    match ((List.range 1024).map (fun i => 1024 * die + i)).find? (fun n => (Table.get? f.faults n).isNone) with
    | none => (none, f)
    | some n =>
      let f := { f with faults := Table.set f.faults n { r with time := f.time, merged := 1, enqueued := false } }
      let f := match f.faultQ ctl r.ctx with
        | (some q, f) => (f.ctxWrite ctl r.ctx (q.resp + 8 * n) (leBytes 8 0)).2
        | (none, f) => f
      (some n, f)

/-! ## Exit and cancellation -/

/-- Whether a request in a core's register queue is void: its group no longer waits in `grow`, or for readmission, or has ended (R102,
R103). -/
def RegReq.void (q : RegReq) (g : Group) : Bool :=
  q.slot == g.slot && (g.ended || !(if q.readmit then g.awaiting else (match g.hold with | some (.grow ..) => true | _ => false)))
/-- Takes out of a core's register queue the requests of a group that are void, and drops the event of an `irq` that holds it no more:
nothing of it has been posted (R78, R103). -/
def Fab.pruneHeld (f : Fab) (c s : Nat) : Fab :=
  match f.group? c s with
  | none => f
  | some g =>
    let k := f.core c
    let inIrq : Bool := match g.hold with | some (.irq ..) => true | _ => false
    { f.setCore c { k with regQueue := k.regQueue.filter (fun q => !q.void g) } with
      posts := if inIrq then f.posts else f.posts.filter (fun p => match p.irq with | some (_, _, pc, ps) => !(pc == c && ps == s) | none => true) }

/-- Whether every part of a load has completed. -/
def LoadOp.finished (o : LoadOp) : Bool := o.pieces.all (fun p => p.done)
/-- Completed loads leave the class in issue order (R161). -/
def Group.pruneLoads (g : Group) : Group := { g with loads := g.loads.dropWhile (fun o => o.finished) }

/-- Whether the completion of a load writes its destination in a lane: its part stands, and of a team-shared register it is the lowest
such part (R140, R150). -/
def LoadOp.writes (o : LoadOp) (lane : Nat) : Bool :=
  let ps := o.pieces.filter (fun p => !p.dropped)
  if o.d.toNat < 1016 then ps.any (fun p => p.lane == lane) else ps.head?.any (fun p => p.lane == lane)

/-- Drops a lane's outstanding loads at a restart: they complete as they would, and their destinations are never written (R150). -/
def Group.dropLoads (g : Group) (l : Nat) : Group :=
  { g with loads := g.loads.map (fun o => { o with pieces := o.pieces.map (fun p => if p.lane == l then { p with dropped := true } else p) }) }
/-- Drops the outstanding loads of a lane that ends: its parts count as completed, and its destinations are never written (R122, R124,
R305). -/
def Group.endLoads (g : Group) (l : Nat) : Group :=
  ({ g with loads := g.loads.map (fun o => { o with pieces := o.pieces.map (fun p => if p.lane == l then { p with dropped := true, done := true } else p) }) }
    : Group).pruneLoads

/-- Ends a lane that executes `exit` (R305). -/
def Fab.exitLane (ctl : Ctl) (f : Fab) (c s l : Nat) : Fab :=
  match (f.core c).team, f.lane? c s l with
  | some t, some x =>
    let f := (f.modGroup c s (fun g => ((g.endLoads l).endLane l .exited).strike l)).pruneHeld c s
    let f := if x.task then f.taskDone ctl t.grid else f
    f.reportEnd c
  | _, _ => f

/-- Whether a store-queue part is dropped when its lane is cancelled (Table 6.3). The table names no `bari`, `pres`, `unpin` or `cfl`: entries
of those stand, the model's choice, as those of the barrier instructions do that it does name (log 70). -/
def StoreKind.dropped : StoreKind → Bool
  | .store _ => true | .atom .. => true | .cas _ => true | .qenq .. => true | .qdeq .. => true | _ => false
/-- Drops a lane's parts of the store-queue entries of some kinds; an entry left with no lane goes on counting until its turn
to leave comes (R124, R161). -/
def Group.dropStores (g : Group) (p : StoreKind → Bool) (l : Nat) : Group :=
  { g with storeQ := g.storeQ.map (fun o => if p o.kind then { o with pieces := o.pieces.filter (fun q => q.lane != l) } else o) }

/-- Drops a cancelled lane's transfers of the copies that are still in the coalescer: their sectors keep their contents and
their bytes are credited when they are delivered (Table 6.3). -/
def Fab.dropCopies (f : Fab) (c s l : Nat) : Fab :=
  let k := f.core c
  f.setCore c { k with copies := k.copies.map (fun o =>
    if o.slot == s && !o.handed then
      (match o.kind with
       | .cpl n parts => { o with kind := .cpl n (parts.map (fun p => if p.lane == l then { p with dropped := true } else p)) }
       | _ => o)
    else o) }

/-- A lane of a `qdeq` that holds no entry: the next lane's value goes to a team-shared destination (R140, R150). -/
def Fab.liftLower (f : Fab) (c s n l : Nat) : Fab :=
  f.modGroup c s (fun g => { g with lanes := g.lanes.map (fun x => match x.park with
    | some (.qdeq d r w a k m) => if k = n then { x with park := some (.qdeq d r w a k (m &&& ~~~(1#64 <<< l))) } else x
    | some (.handed d r a k m b) => if k = n then { x with park := some (.handed d r a k (m &&& ~~~(1#64 <<< l)) b) } else x
    | _ => x) })
/-- What tells the requests of one `syscall` from those of another: PC and TIME at issue (R94). -/
def callOf (b : List Byte) : Nat × Nat := (fieldAt b 8 6, fieldAt b 24 8)
/-- A lane whose `syscall` request has not been posted waits no more: once all requests of the other lanes of that `syscall` are posted,
its interrupt is raised for them (R94, R124). -/
def Fab.syscallRest (f : Fab) (ctx c s l : Nat) (b : List Byte) : Fab :=
  match f.ctx? ctx, f.group? c s with
  | some x, some g =>
    let others := (g.numbered.filter (fun p => p.1 != l)).filterMap (fun p => match p.2.park with
      | some (.syscall t b') => if callOf b' = callOf b then some t else none
      | _ => none)
    if !others.isEmpty ∧ others.all Option.isSome then f.msi x.sysHart x.sysId else f
  | _, _ => f
/-- A posted `syscall` request whose lane no longer waits (R95). -/
def Fab.staleToken (f : Fab) (ctx : Nat) (tok : Word) : Fab := f.modCtx ctx (fun x => { x with stale := x.stale ++ [tok] })

/-- Where a lane waits in `tnext` whose queue cannot be used (log 39). -/
def badQueue : Loc := .scr 0 0
/-- Where an idle lane waits for the page of its queue (R125, R204). -/
def awaitQueue : Loc := .scr 0 1
/-- What follows the steps of R129 for a lane parked in `tnext`: an idle lane with nothing left ends. -/
def Fab.took (ctl : Ctl) (f : Fab) (c s l : Nat) (tpc : Addr) (q : Nat) (idle : Bool) : Took → Fab
  | .done => if idle then f.exitLane ctl c s l else f.openWindow c s l
  | .malformed w => (f.installed ctl c s l).markMalformed c s l w
  | .installed => f.installed ctl c s l
  | .bad => f.modLane c s l (fun x => x.tnextPark tpc q badQueue)
  | .parked => f

/-- A lane that waits at its core resends its dequeue (R193): it takes an entry that its queue has meanwhile, or joins the list
of its slice as a new waiter where there is room. What counts a bypass is the dequeue alone (R190). -/
def Fab.resendWaiter (ctl : Ctl) (f : Fab) (w : Waiter) : Fab :=
  match (f.core w.core).team, f.lane? w.core w.slot w.lane with
  | some t, some x =>
    let again (d : Loc) (go : QDesc → Fab → Fab) : Fab :=
      match f.queueSee ctl (some w.core) t.ctx d with
      | (none, _) => f
      | (some q, g) => if q.held = 0 ∧ g.listFull (g.ownerOf ctl w.core t.ctx d) then f
          else go q (f.again (f.waiterDrop ctl t.ctx d w.core w.slot w.lane))
    (match x.park with
     | some (.qdeq d ..) => again d (fun _ f => match f.dequeue ctl (some w.core) t.ctx d with
       | (.entry b, f) => f.handOff ctl w b
       | (.empty q, f) => f.waiterAdd ctl t.ctx d q w.core w.slot w.lane
       | (.bad, f) => f)
     | some (.tnext q d) => again d (fun qd f =>
         let r := f.takeTask ctl t.ctx t.grid w.core w.slot w.lane x.pc q d (qd.held + 2)
         r.2.took ctl w.core w.slot w.lane x.pc q x.idle r.1)
     | _ => f)
  | _, _ => f
/-- Every lane that waits at its core resends. -/
def Fab.resendWaiters (ctl : Ctl) (f : Fab) : Fab := (f.waiters.filter (fun w => w.slice.isNone)).foldl (fun f w => f.resendWaiter ctl w) f

/-- An idle lane takes the next record as one does that waits in its `tnext` (R125, R129): it ends where no task is left, and takes a fault slot
where the page of its queue faults; with every slot of the die busy it looks again later (R204). -/
def Fab.idleTake (ctl : Ctl) (f : Fab) (c s l : Nat) (tpc : Addr) (q : Nat) : Fab :=
  match (f.core c).team with
  | none => f
  | some t =>
    let (tasks, va) := match f.grid? t.grid with | some g => (g.tasks, (g.tqs.getD q 0).toNat) | none => (0, 0)
    let wait (f : Fab) (at_ : Loc) : Fab := f.modLane c s l (fun x => x.tnextPark tpc q at_)
    if tasks = 0 then f.exitLane ctl c s l
    else if 2 ^ 48 ≤ va then wait f badQueue
    else match f.translate ctl (some c) t.ctx va .atomic with
      | (.ok loc _, f) =>
        if paKind loc.phys.1 ≠ .mem then wait f badQueue
        else
          let r := f.takeTask ctl t.ctx t.grid c s l tpc q loc (f.takeFuel ctl t.ctx loc)
          r.2.took ctl c s l tpc q true r.1
      | (.perm, f) => wait f badQueue
      | (.fault r lv, f) =>
        wait (f.faultTake ctl (c / 48) ⟨t.ctx, BitVec.ofNat 48 va, accessBits .atomic, 0, r, lv, 1, c, s, 0, tpc, f.time, false, [.idle c s l]⟩).2 awaitQueue
/-- A lane becomes idle at a `tnext` (R125). -/
def Fab.goIdle (ctl : Ctl) (f : Fab) (c s l : Nat) (tpc : Addr) (q : Nat) : Fab :=
  (f.modLane c s l (fun x =>
    let x := { x with status := .live, idle := true, prio := 0, pc := tpc, parkNext := tpc + 12, lastTnext := some (tpc, q) }
    { x with ck := x.tnextHead tpc q })).idleTake ctl c s l tpc q
/-- An idle lane whose queue's page has been serviced, or found no slot, looks again. -/
def Fab.idleAgain (ctl : Ctl) (f : Fab) (c s l : Nat) : Fab :=
  match f.lane? c s l with
  | some x => (match x.park with
    | some (.tnext q d) => if x.idle ∧ d = awaitQueue then f.idleTake ctl c s l x.pc q else f
    | _ => f)
  | none => f
/-- An idle lane whose queue's page has been refused waits as at a queue that cannot be used (R205, log 39). -/
def Fab.idleRefused (f : Fab) (c s l : Nat) : Fab :=
  f.modLane c s l (fun x => match x.park with
    | some (.tnext q d) => if x.idle ∧ d = awaitQueue then { x with park := some (.tnext q badQueue) } else x
    | _ => x)
/-- Idle lanes that no fault slot holds look again. -/
def Fab.idlesGo (ctl : Ctl) (f : Fab) : Fab :=
  f.cores.foldl (fun f k => match k.2.team with
    | none => f
    | some t => (t.groups.mapIdx (fun s g => (s, g))).foldl (fun f p =>
        (List.range p.2.lanes.length).foldl (fun f l =>
          if f.faults.any (fun x => x.2.who.contains (.idle k.1 p.1 l)) then f else f.idleAgain ctl k.1 p.1 l) f) f) f

/-- Cancels a lane (R121-R125): the residue of Table 6.3; a lane that has retired a `tnext` becomes idle there. -/
def Fab.cancelLane (ctl : Ctl) (f : Fab) (c s l : Nat) : Fab :=
  match (f.core c).team, f.lane? c s l with
  | some t, some x =>
    let f := match x.park with
      | some (.tnext _ d) => f.waiterDrop ctl t.ctx d c s l
      | some (.qdeq d _ _ _ n _) => (f.waiterDrop ctl t.ctx d c s l).liftLower c s n l
      | some (.handed d _ _ n _ b) => ((f.modLane c s l (fun x => { x with park := none })).giveBack ctl c t.ctx d b).liftLower c s n l
      | some (.syscall (some tok) _) => f.staleToken t.ctx tok
      | some (.syscall none b) => f.syscallRest t.ctx c s l b
      | _ => f
    let f := f.dropCopies c s l
    let f := (f.modGroup c s (fun g => (((g.endLoads l).dropStores StoreKind.dropped l).endLane l .cancelled).strike l)).pruneHeld c s
    let f := f.modGrid t.grid (fun g => { g with canc := g.canc + 1 })
    let f := f.count 0x710
    let f := if x.task then f.taskDone ctl t.grid else f
    match x.lastTnext, f.grid? t.grid with
    | some (tpc, q), some _ => f.goIdle ctl c s l tpc q
    | _, _ => f.reportEnd c
  | _, _ => f

/-- Whether a group stands on its core: neither stopped nor waiting for readmission (R110, R121). -/
def Group.resident (g : Group) : Bool := !g.stopped && !g.awaiting
/-- Cancels every lane of the resident groups of a core whose bound its replica dominates (R121). -/
def Fab.cancelCore (ctl : Ctl) (f : Fab) (c : Nat) : Fab :=
  match (f.core c).team with
  | none => f
  | some t => (List.range t.groups.length).foldl (fun f s =>
      match f.group? c s with
      | none => f
      | some g => if !g.resident then f else (List.range g.lanes.length).foldl (fun f l =>
          match f.lane? c s l with
          | some x => if f.laneDominated c t.ctx x then f.cancelLane ctl c s l else f
          | none => f) f) f

end Sys2Proof.Machine
end

