-- ==== Sys2Proof/Machine/Operands.lean ====
section
/-!
DEFINITION. Operand forms (07_core_execution R135-R143, 12_isa_encoding R243-R256): the issuing instruction, predicates,
routed sources, literals, the registers an instruction names, tag families, and the conversion of base forms.
-/
namespace Sys2Proof

/-- SUB as a number. -/
def XrForm.s (f : XrForm) : Nat := f.sub.toNat
/-- Width of a 32- or 64-bit form. -/
def XrForm.n (f : XrForm) : Nat := if f.s = 2 then 64 else 32
/-- Registers of a 32- or 64-bit form. -/
def XrForm.rn (f : XrForm) : Nat := if f.s = 2 then 2 else 1

/-! ## Base forms as extended forms (R256, R290) -/

/-- The predicate of a base form. -/
def Pred.none_ : Pred := ⟨false, false, 0⟩
/-- The extended form of an S3 form. -/
def S3Form.toXr (f : S3Form) : XrForm :=
  ⟨0, f.a.zeroExtend 10, f.d.zeroExtend 10, 0, f.gw, 0, 0, 0, f.b.zeroExtend 10, 0, Pred.none_, f.lit⟩
/-- The extended form of an SI form other than `sleep` with a literal: IMM8, or its literal, stands for B. -/
def SiForm.toXr (f : SiForm) : XrForm :=
  ⟨0, f.a.zeroExtend 10, f.d.zeroExtend 10, 0, false, 0, 0, 0, 0, 0, Pred.none_, some (f.lit.getD (f.imm8.zeroExtend 64))⟩
/-- The extended form of an SI `sleep`, whose literal is the time and not the mode. -/
def SiForm.sleepXr (f : SiForm) : XrForm :=
  ⟨0, f.a.zeroExtend 10, f.d.zeroExtend 10, 0, false, 0, 0, 0, 0, 0, Pred.none_, some (f.imm8.zeroExtend 64)⟩
/-- The extended form of an SZ form. -/
def szXr : XrForm := ⟨0, 0, 0, 0, false, 0, 0, 0, 0, 0, Pred.none_, none⟩
/-- The extended form of an SB form. -/
def SbForm.toXb (f : SbForm) : XbForm := ⟨0, 0, (f.off14.signExtend 32) <<< 2, f.prio, Pred.none_⟩

/-- The predicate of an encoding (R136). -/
def Enc.pred : Enc → Pred
  | .xr _ f => f.pred
  | .xm _ f => f.pred
  | .xt _ f => f.pred
  | .xb _ f => f.pred
  | _ => Pred.none_

/-- The active lanes that read an operand (R290, R307, R331): each, the lowest, or the lowest of each quarter. -/
inductive Readers
  | each | lowest | quarters
  deriving DecidableEq, Repr, Inhabited

/-- The active lanes that read an operand. -/
def Readers.lanes (r : Readers) (active : List Nat) : List Nat :=
  match r with
  | .each => active
  | .lowest => active.take 1
  | .quarters => (List.range 8).filterMap (fun q => active.find? (fun l => l / 8 == q))

/-- A source that the tag check reads: the subcause of its operand, its registers, its family, its routing and the lanes
that read it. -/
structure Src where
  code : Nat
  reg : Nat
  regs : Nat
  fam : Fam
  rt : BitVec 9
  readers : Readers
  deriving DecidableEq, Repr, Inhabited

/-- What an encoding names: registers by subcause for the allocation check, and the sources of the tag check. -/
structure Names where
  regs : List (Nat × Nat × Nat)
  srcs : List Src
  deriving DecidableEq, Repr, Inhabited

/-- An unrouted source that each lane reads. -/
def Src.plain (code reg : Nat) (u : Use) : Src := ⟨code, reg, u.regs, u.fam, 0, .each⟩
/-- The registers and checks of one source, with the index register of indexed routing (R142). -/
def srcNames (code : Nat) (u : Option Use) (r : RegNo) (rt : BitVec 9) : Names :=
  match u with
  | none => ⟨[], []⟩
  | some u =>
    let s : Src := ⟨code, r.toNat, u.regs, u.fam, rt, .each⟩
    if rt.extractLsb' 6 3 = 5 then ⟨[(code, r.toNat, u.regs), (4, (rt.extractLsb' 0 6).toNat, 1)], [s, ⟨4, (rt.extractLsb' 0 6).toNat, 1, .int32, 0, .each⟩]⟩
    else ⟨[(code, r.toNat, u.regs)], [s]⟩
/-- Names of two operands together. -/
def Names.add (a b : Names) : Names := ⟨a.regs ++ b.regs, a.srcs ++ b.srcs⟩
/-- Registers of a destination; a lane mask takes a pair for W = 64 (R285, R289). -/
def dstRegs (w : Nat) : DUse → Nat | .none => 0 | .regs n => n | .mask => if w = 64 then 2 else 1
/-- Names of a destination. -/
def dstNames (w : Nat) (u : DUse) (r : RegNo) : Names :=
  if dstRegs w u = 0 then ⟨[], []⟩ else ⟨[(5, r.toNat, dstRegs w u)], []⟩
/-- Names of a predicate. -/
def predNames (p : Pred) : Names := if p.pe then ⟨[(6, p.p.toNat, 1)], []⟩ else ⟨[], []⟩

/-- Names of an XR form. -/
def xrNames (w opc : Nat) (f : XrForm) : Names :=
  match xrUse opc f with
  | none => ⟨[], []⟩
  | some u =>
    let a := srcNames 1 u.a f.a f.ra
    let b := if f.lit.isSome ∨ bSelects opc then ⟨[], []⟩ else srcNames 2 u.b f.b f.rb
    let c := if cControls opc then ⟨[], []⟩ else srcNames 3 u.c f.c f.rc
    let d := dstNames w u.d f.d
    let d := if u.dSrc then d.add ⟨[], [Src.plain 5 f.d.toNat .i32]⟩ else d
    (((a.add b).add c).add d).add (predNames f.pred)
/-- Names of the block of four of `rmc` (R351): its first register is a scratch address, the second is ignored, and the
last two hold the signal address where SIG is set. -/
def rmcNames (f : XmForm) : Names :=
  ⟨[(2, f.b.toNat, 4)], Src.plain 2 f.b.toNat .i32 :: (if f.sub.getLsbD 0 then [Src.plain 2 (f.b.toNat + 2) .i64] else [])⟩
/-- Names of an XM form. -/
def xmNames (w opc : Nat) (f : XmForm) : Names :=
  match xmUse opc f with
  | none => ⟨[], []⟩
  | some u =>
    let a := if xmUsesA opc f then srcNames 1 (some (if xmWideA f then .i64 else .i32)) f.a 0 else ⟨[], []⟩
    let b := if opc = 0xA5 then rmcNames f else srcNames 2 u.b f.b 0
    let d := match u.dSrc with
      | some s => srcNames 5 (some s) f.d 0
      | none => dstNames w u.d f.d
    ((a.add b).add d).add (predNames f.pred)
/-- Names of an XT form: 32-bit addresses, and the two address pairs of a send block (R331, R337). -/
def xtNames (opc : Nat) (f : XtForm) : Names :=
  let u := xtUse opc f
  let one (code : Nat) (used : Bool) (r : RegNo) : Names := srcNames code (if used then some .i32 else none) r 0
  let d := if u.d = 4 then srcNames 5 (some ⟨4, .int64⟩) f.d 0 else one 5 (u.d == 1) f.d
  ((((one 1 u.a f.a).add (one 2 u.b f.b)).add (one 3 u.c f.c)).add d).add (predNames f.pred)
/-- Names of an XB form (Table 14.1). -/
def xbNames (opc : Nat) (f : XbForm) : Names :=
  (match opc with
   | 0x69 => dstNames 16 (.regs 2) f.d
   | 0x6B => srcNames 5 (some (.any 1)) f.d 0
   | 0x6C => srcNames 5 (some (.any 1)) f.d 0
   | 0x6D => srcNames 5 (some .i64) f.d 0
   | _ => ⟨[], []⟩).add (predNames f.pred)

/-- The lanes that read the operand with a subcause: the instructions for the whole group, `trap`, `syscall`, `irq`,
`sid` and `rdef` read in the lowest active lane (R290, R340), as those marked "once" do (R307, R331, R344); `qenq` and
`qdeq` so take their address (R326); the tile instructions of the matrix engine read per quarter (R331). -/
def Enc.readers (e : Enc) (code : Nat) : Readers :=
  let group (o : BitVec 8) : Readers :=
    if (5 ≤ o && o ≤ 8) || o == 0x0A || o == 0x0B || o == 0x0D || o == 0x0F || o == 0x10 || o == 0xC0 || o == 0xC1 then .lowest else .each
  match e with
  | .si o _ => group o
  | .xr o _ => group o
  | .xm o _ =>
    if (0x8B ≤ o && o ≤ 0x8E) || o == 0x91 || o == 0xA5 || o == 0xA6 || ((o == 0x8F || o == 0x90) && code == 1) then .lowest else .each
  | .xt o _ => if 0xB1 ≤ o && o ≤ 0xB4 then .quarters else .lowest
  | _ => .each

/-- The registers an encoding names, before it is said which lanes read them. -/
def Enc.operands (w : Nat) : Enc → Names
  | .s3 opc f => xrNames w opc.toNat f.toXr
  | .si opc f =>
    if opc = 0x10 then (if f.lit.isSome then ⟨[], []⟩ else xrNames w 0x10 f.sleepXr) else xrNames w opc.toNat f.toXr
  | .rgn ranges => ⟨(List.range 4).filterMap (fun i =>
      let (a, n) := rgnRange ranges i
      if n = 0 ∨ 1016 ≤ a then none else some (7, a, min n (1016 - a))), []⟩
  | .xr opc f => xrNames w opc.toNat f
  | .xm opc f => xmNames w opc.toNat f
  | .xt opc f => xtNames opc.toNat f
  | .xb opc f => xbNames opc.toNat f
  | _ => ⟨[], []⟩

/-- The registers an encoding names. -/
def Enc.names (w : Nat) (e : Enc) : Names :=
  let n := e.operands w
  ⟨n.regs, n.srcs.map (fun s => { s with readers := e.readers s.code })⟩

/-- Whether a lane-mask destination is odd in a group of 64 lanes (R285, R289). -/
def Enc.oddMask (w : Nat) : Enc → Bool
  | .xr opc f => w == 64 && f.d.toNat % 2 == 1 && (match xrUse opc.toNat f with | some u => u.d == .mask | none => false)
  | _ => false

/-- The give-way hint and the GAP of an encoding (R251). -/
def Enc.hints : Enc → Bool × Nat
  | .s3 _ f => (f.gw, 0)
  | .xr _ f => (f.gw, f.gap.toNat)
  | .xm _ f => (f.gw, f.gap.toNat)
  | .xt _ f => (f.gw, f.gap.toNat)
  | .xb _ f => (false, f.gap.toNat)
  | _ => (false, 0)

/-- The major opcode of an encoding. -/
def Enc.opc : Enc → Nat
  | .s3 o _ => o.toNat
  | .si o _ => o.toNat
  | .sb o _ => o.toNat
  | .sw _ => 0x02
  | .sz o => o.toNat
  | .rgn _ => 0x04
  | .xr o _ => o.toNat
  | .xm o _ => o.toNat
  | .xt o _ => o.toNat
  | .xb o _ => o.toNat
  | .bad o => o.toNat

end Sys2Proof

namespace Sys2Proof.Machine

/-- The instruction now issuing: its place, its group's width and register count, PC and length, the lanes of its
frontier entry and the active ones (R134, R136, R145). -/
structure Iss where
  core : Nat
  slot : Nat
  w : Nat
  r : Nat
  pc : Addr
  len : Nat
  entry : List Nat
  active : List Nat
  grid : Nat
  ctx : Nat
  gcw : Word
  trapMode : Bool
  deriving DecidableEq, Repr, Inhabited

/-- A trap of an instruction (R154, R155): cause, subcause, faulting lanes, the frame's FADDR, and the offset of the
engine record in the frame area, or 0. -/
structure Trap where
  cause : Nat
  sub : Nat
  lanes : BitVec 64
  faddr : DWord
  erec : DWord
  deriving DecidableEq, Repr, Inhabited

/-- A trap with no address and no record. -/
def Trap.plain (cause sub : Nat) (lanes : List Nat) : Trap := ⟨cause, sub, maskOf lanes, 0, 0⟩
/-- A trap with a fault address. -/
def Trap.addr (cause : Nat) (lanes : List Nat) (faddr : Nat) : Trap := ⟨cause, 0, maskOf lanes, BitVec.ofNat 64 faddr, 0⟩

/-- What the body of an instruction ends in. `done` retires it; `after` retires it and takes a trap; `trap` takes one with
nothing written (R155); `xlate` parks the group on a translation fault of the listed lanes (R152); `wait` leaves it
unissued for now (R107); `fault` stops the machine. -/
inductive Res
  | done (f : Fab)
  | after (f : Fab) (t : Trap)
  | trap (t : Trap)
  | xlate (lanes : List Nat) (va : Nat) (acc : Access) (reason level : Nat)
  | wait (h : Fab → Fab)
  | deferred (h : Fab → Fab) (t : Trap)
  | fault (e : Fault)
  deriving Inhabited

/-! ## Routing (R142, R143) -/

/-- The lane that lane `l` reads under a routing mode and amount; none for a shift out of the group (Table 7.4). `ix` is
the lane's value of the index register. -/
def routeLane (w mode k ix l : Nat) : Option Nat :=
  match mode with
  | 1 => some ((l + k) % w)
  | 2 => some (k % w)
  | 3 => some ((l ^^^ (k % w)) % w)
  | 4 => some ((l ^^^ (2 ^ min k 6 - 1)) % w)
  | 5 => some (ix % w)
  | 6 => if l < k then none else some (l - k)
  | 7 => if w - 1 < l + k then none else some (l + k)
  | _ => some l

/-- Routing mode of a routing field. -/
def rtMode (rt : BitVec 9) : Nat := (rt.extractLsb' 6 3).toNat
/-- Routing amount of a routing field. -/
def rtK (rt : BitVec 9) : Nat := (rt.extractLsb' 0 6).toNat

/-- A register that lane `l` reads through a routing field: zero raw from a lane outside the group or no longer live; a
team-shared register is the same through every pattern (R140, R143). -/
def Fab.routed (f : Fab) (i : Iss) (n : Nat) (rt : BitVec 9) (l : Nat) : Reg :=
  if 1016 ≤ n then f.reg i.core i.slot l n
  else match routeLane i.w (rtMode rt) (rtK rt) (f.reg i.core i.slot l (rtK rt)).val.toNat l with
    | none => .zero
    | some l' => f.reg i.core i.slot l' n

/-- The `n` registers of a source that lane `l` reads; a pair comes from one lane (R142). -/
def Fab.source (f : Fab) (i : Iss) (r : Nat) (n : Nat) (rt : BitVec 9) (l : Nat) : List Reg :=
  (List.range n).map (fun k => f.routed i (r + k) rt l)

/-- The number held by consecutive registers, the lowest word first (R2). -/
def regsNat : List Reg → Nat
  | [] => 0
  | r :: t => r.val.toNat + 2 ^ 32 * regsNat t
/-- The registers that hold a number, all with one tag (R139). -/
def natRegs (tag : Tag) : Nat → Nat → List Reg
  | 0, _ => []
  | n + 1, x => ⟨BitVec.ofNat 32 x, tag⟩ :: natRegs tag n (x / 2 ^ 32)

/-- Source A of an XR form in a lane, as a number of `n` registers. -/
def Iss.srcA (i : Iss) (f : Fab) (x : XrForm) (n l : Nat) : Nat := regsNat (f.source i x.a.toNat n x.ra l)
/-- Source B of an XR form: the literal where there is one (R253). -/
def Iss.srcB (i : Iss) (f : Fab) (x : XrForm) (n l : Nat) : Nat :=
  match x.lit with
  | some v => v.toNat % 2 ^ (32 * n)
  | none => regsNat (f.source i x.b.toNat n x.rb l)
/-- Source C of an XR form. -/
def Iss.srcC (i : Iss) (f : Fab) (x : XrForm) (n l : Nat) : Nat := regsNat (f.source i x.c.toNat n x.rc l)
/-- The registers of source B; a literal reads with tag raw. -/
def Iss.regsB (i : Iss) (f : Fab) (x : XrForm) (n l : Nat) : List Reg :=
  match x.lit with
  | some v => natRegs .raw n v.toNat
  | none => f.source i x.b.toNat n x.rb l
/-- An unrouted register of a lane. -/
def Iss.reg (i : Iss) (f : Fab) (r l : Nat) : Reg := f.reg i.core i.slot l r
/-- Unrouted consecutive registers of a lane as a number. -/
def Iss.regNat (i : Iss) (f : Fab) (r n l : Nat) : Nat := regsNat (f.source i r n 0 l)
/-- The lowest-numbered active lane (R290, R307). -/
def Iss.lowest (i : Iss) : Nat := i.active.headD 0
/-- Writes consecutive registers from `d` in the listed lanes. -/
def Iss.put (i : Iss) (f : Fab) (d : Nat) (vals : List (Nat × List Reg)) : Fab := f.writeRegs i.core i.slot d vals

/-! ## Predicates (R136) -/

/-- Whether a lane is active under a predicate. -/
def Fab.predicate (f : Fab) (core slot : Nat) (p : Pred) (l : Nat) : Bool :=
  !p.pe || ((f.reg core slot l p.p.toNat).val != 0) != p.pn

/-! ## The registers an instruction names (R135, R138) -/

/-- Tags that a family accepts (Table 7.3). -/
def famAccepts : Fam → Tag → Bool
  | .any, _ => true
  | .int32, t => t == .raw || t == .i32 || t == .n32 || t == .bits
  | .int64, t => t == .raw || t == .i64 || t == .n64
  | .f32, t => t == .raw || t == .f32
  | .h16x2, t => t == .raw || t == .h16x2
  | .b16x2, t => t == .raw || t == .b16x2
  | .f64, t => t == .raw || t == .f64

/-- Whether a run of registers names one that is unallocated (R135). -/
def unallocated (r first n : Nat) : Bool := (List.range n).any (fun k => r ≤ first + k && first + k < 1016)
/-- The subcause of the first operand that names an unallocated register. -/
def namesBadReg (n : Names) (r : Nat) : Option Nat :=
  ((List.range 8).filter (fun c => n.regs.any (fun x => x.1 == c && unallocated r x.2.1 x.2.2))).head?
/-- The active lanes that read a source and fail its tag check (R138). -/
def srcFails (s : Src) (f : Fab) (i : Iss) : List Nat :=
  (s.readers.lanes i.active).filter (fun l => !(f.source i s.reg s.regs s.rt l).all (fun x => famAccepts s.fam x.tag))
/-- The subcause and lanes of the first operand that fails the tag check. -/
def namesBadTag (n : Names) (f : Fab) (i : Iss) : Option (Nat × List Nat) :=
  (List.range 8).foldl (fun acc c => match acc with
    | some x => some x
    | none =>
      let ls := i.active.filter (fun l => n.srcs.any (fun s => s.code == c && (srcFails s f i).contains l))
      if ls.isEmpty then none else some (c, ls)) none

end Sys2Proof.Machine
end

