-- ==== Sys2Proof/Machine/Flags.lean ====
section
/-!
DEFINITION. Sticky flags and arithmetic traps (07_core_execution R155, R158): the conditions an instruction raises, the
group control word they set, and the one trap taken for those that are enabled.
-/
namespace Sys2Proof.Machine

/-- The conditions of Table 7.7: integer divide by zero or INT_MIN by -1, FP invalid, FP divide by zero, FP overflow, and
a tiny inexact FP result. -/
structure Conds where
  dz : Bool
  inv : Bool
  fdz : Bool
  ovf : Bool
  unf : Bool
  deriving DecidableEq, Repr, Inhabited

/-- No condition. -/
def Conds.none_ : Conds := ⟨false, false, false, false, false⟩
/-- Conditions of either. -/
def Conds.or (a b : Conds) : Conds := ⟨a.dz || b.dz, a.inv || b.inv, a.fdz || b.fdz, a.ovf || b.ovf, a.unf || b.unf⟩

/-- The sticky bits of conditions: SDZ [8], SINV [9], SFDZ [10], SOVF [11], SUNF [12]. -/
def Conds.sticky (c : Conds) : Word :=
  (if c.dz then 0x100 else 0) ||| (if c.inv then 0x200 else 0) ||| (if c.fdz then 0x400 else 0) |||
    (if c.ovf then 0x800 else 0) ||| (if c.unf then 0x1000 else 0)

/-- The conditions whose traps a control word enables, by cause: TDZ 0x05, TINV 0x06, TFDZ 0x07, TOVF 0x08. -/
def Conds.has (c : Conds) (cause : Nat) : Bool :=
  match cause with | 5 => c.dz | 6 => c.inv | 7 => c.fdz | 8 => c.ovf | _ => false
/-- Whether a control word enables a cause. -/
def gcwEnables (gcw : Word) (cause : Nat) : Bool := gcw.getLsbD (cause - 5)

/-- The writable bits of the control word (Table 7.7). -/
def gcwWritable : Word := 0x1F1F
/-- A write of the control word keeps its RO and reserved bits. -/
def gcwWrite (old new : Word) : Word := (old &&& ~~~gcwWritable) ||| (new &&& gcwWritable)

/-- Retires an instruction whose lanes raised conditions: every sticky flag is set; of the enabled conditions the lowest
cause traps, with the lanes that raised it (R155). -/
def Iss.finish (i : Iss) (f : Fab) (cs : List (Nat × Conds)) : Res :=
  let all := cs.foldl (fun a c => a.or c.2) Conds.none_
  let f := f.modGroup i.core i.slot (fun g => { g with gcw := g.gcw ||| all.sticky })
  match [5, 6, 7, 8].find? (fun c => gcwEnables i.gcw c && all.has c) with
  | none => .done f
  | some c => .after f (.plain c 0 ((cs.filter (fun x => x.2.has c)).map (·.1)))

/-- An instruction that computes registers and conditions lane by lane (R134, R139). -/
def Iss.lanewise (i : Iss) (f : Fab) (d : Nat) (g : Nat → List Reg × Conds) : Res :=
  let out := i.active.map (fun l => (l, g l))
  i.finish (i.put f d (out.map (fun x => (x.1, x.2.1)))) (out.map (fun x => (x.1, x.2.2)))

/-- An instruction that computes registers lane by lane and raises nothing. -/
def Iss.pure (i : Iss) (f : Fab) (d : Nat) (g : Nat → List Reg) : Res := .done (i.put f d (i.active.map (fun l => (l, g l))))

end Sys2Proof.Machine
end

