-- ==== Sys2Proof/Machine/Ops.lean ====
section
/-!
DEFINITION. The shared operations of execution: a core's accesses through page tables, fault slots (09_memory_hierarchy
R203-R205), region restarts (07_core_execution R150), taking an exception and returning from one (R153-R157), and the
order of checks that every instruction runs through (12_isa_encoding R258, R259).
-/
namespace Sys2Proof.Machine

/-! ## Accesses of a core to its context's memory -/

/-- The answer of an access: bytes, a translation fault, or a refusal. -/
inductive CoreAcc
  | ok (b : List Byte)
  | xlate (va reason level : Nat)
  | refused
  deriving DecidableEq, Repr, Inhabited

/-- A read by a core through its L1 (R153): of memory, or of a device register by one access (R380). -/
def Fab.coreRead (ctl : Ctl) (f : Fab) (core ctx va n : Nat) (acc : Access) : CoreAcc × Fab :=
  let whole := (parts va n).length ≤ 1
  (parts va n).foldl (fun (r : CoreAcc × Fab) p =>
    match r with
    | (.ok bs, f) =>
      if 2 ^ 48 ≤ p.1 then (.refused, f)
      else match f.translate ctl (some core) ctx p.1 acc with
        | (.ok (.glob _ pa key home cache) _, f) =>
          (match paKind pa.toNat with
           | .mem => let (b, f) := f.load ctl core ctx key home cache pa.toNat p.2; (.ok (bs ++ b), f)
           | .mmio => (match if whole then ctl.mmioRead f pa.toNat p.2 else (none, f) with
             | (some b, f) => (.ok (bs ++ b), f)
             | (none, f) => (.refused, f))
           | .unmapped => (.refused, f))
        | (.ok (.scr ..) _, f) => (.refused, f)
        | (.fault r l, f) => (.xlate p.1 r l, f)
        | (.perm, f) => (.refused, f)
    | x => x) (.ok [], f)

/-- A write by a core at a scope through its L1. A run of bytes within one page is translated once before any is
written. -/
def Fab.coreWrite (ctl : Ctl) (f : Fab) (core ctx va scope : Nat) (bs : List Byte) : CoreAcc × Fab :=
  let r := (parts va bs.length).foldl (fun (r : CoreAcc × Fab × Nat) p =>
    match r with
    | (.ok b, f, o) =>
      if 2 ^ 48 ≤ p.1 then (.refused, f, o)
      else match f.translate ctl (some core) ctx p.1 .store with
        | (.ok (.glob _ pa key home cache) _, f) =>
          if paKind pa.toNat = .mem then (.ok b, f.store ctl core ctx key home cache scope pa.toNat (sliceBytes bs o p.2), o + p.2)
          else (.refused, f, o)
        | (.ok (.scr ..) _, f) => (.refused, f, o)
        | (.fault r l, f) => (.xlate p.1 r l, f, o)
        | (.perm, f) => (.refused, f, o)
    | x => x) (.ok [], f, 0)
  (r.1, r.2.1)

/-- The answer of a fetch of one word. -/
inductive WordAcc
  | ok (w : Word)
  | xlate (va reason level : Nat)
  | refused
  deriving DecidableEq, Repr, Inhabited

/-- Words that an instruction cache of 128 KiB holds (R182); past it the word fetched longest ago leaves (log 58). -/
def icacheWords : Nat := 32768
/-- A word of memory through the instruction cache, which a word that it does not hold fills from L2 (R260). -/
def Fab.cachedWord (ctl : Ctl) (f : Fab) (core ctx va : Nat) (loc : Loc) : Word × Fab :=
  match (f.core core).icache.find? (fun x => x.ctx == ctx && x.va == va) with
  | some x => (x.word, f)
  | none =>
    let (b, f) := f.l2Read ctl (some core) ctx loc.phys.2 loc.home loc.phys.1 4
    let w := BitVec.ofNat 32 (leNat b)
    let k := f.core core
    (w, f.setCore core { k with icache := (⟨ctx, va, w⟩ :: k.icache).take icacheWords })
/-- Fetches a word: every fetch translates, so that a word that the instruction cache holds is refused with its page (R199, R202, R242), and
under a key that is RETIRING (R58). -/
def Fab.fetchWord (ctl : Ctl) (f : Fab) (core ctx va : Nat) : WordAcc × Fab :=
    match f.translate ctl (some core) ctx va .fetch with
    | (.fault r l, f) => (.xlate va r l, f)
    | (.perm, f) => (.refused, f)
    | (.ok loc _, f) =>
      let pa := loc.phys.1
      match paKind pa with
      | .mem => let (w, f) := f.cachedWord ctl core ctx va loc; (.ok w, f)
      | .mmio => (match ctl.mmioRead f pa 4 with
        | (some b, f) => (.ok (BitVec.ofNat 32 (leNat b)), f)
        | (none, f) => (.refused, f))
      | .unmapped => (.refused, f)

/-! ## Fault slots and fault records (R203-R205) -/

/-- Enqueues a record in the fault queue and raises its interrupt; false where it does not fit (R204). -/
def Fab.postRecord (ctl : Ctl) (f : Fab) (ctx : Nat) (b : List Byte) : Bool × Fab :=
  match f.faultQ ctl ctx with
  | (none, f) => (false, f)
  | (some q, f) => match f.enqueueVa ctl ctx q.qdesc b with
    | (.ok, f) => (true, f.msi q.hart q.msiid)
    | (_, f) => (false, f)

/-- The fault record of a slot (Table 9.5). -/
def FaultSlot.bytes (s : FaultSlot) (slot : Nat) : List Byte :=
  leBytes 8 s.va.toNat ++ leBytes 1 s.access.toNat ++ leBytes 1 s.source ++ leBytes 1 s.reason ++ leBytes 1 s.level ++
    leBytes 2 slot ++ leBytes 2 s.merged ++ leBytes 2 s.core ++ leBytes 1 s.gslot ++ leBytes 1 0 ++ leBytes 2 s.srcdev.toNat ++
    leBytes 2 s.ctx ++ leBytes 8 s.pc.toNat ++ leBytes 8 s.time.toNat ++ leBytes 24 0

/-- An engine fault record as bytes (Table 8.4). -/
def EngRec.bytes (r : EngRec) : List Byte :=
  [r.cause, r.engine, r.handle, r.flags, r.ridx, r.cls, 0, 0] ++ leBytes 4 r.row.toNat ++ leBytes 4 r.col.toNat ++
    leBytes 8 r.pc.toNat ++ leBytes 8 r.addr.toNat

/-- The fault record with SOURCE 3 of an engine record of a group with no live lane (Table 9.5). -/
def EngPost.bytes (p : EngPost) (time : DWord) : List Byte :=
  leBytes 8 p.r.addr.toNat ++ [0, 3, p.r.cause, 0] ++ leBytes 2 0xFFFF ++ leBytes 2 1 ++ leBytes 2 p.core ++ leBytes 1 p.slot ++
    leBytes 3 0 ++ leBytes 2 p.ctx ++ leBytes 8 p.r.pc.toNat ++ leBytes 8 time.toNat ++ sliceBytes p.r.bytes 0 16 ++ leBytes 8 0

/-- Posts an engine record to the fault queue; it waits in the engine where the queue is full (R204). -/
def Fab.postEng (ctl : Ctl) (f : Fab) (p : EngPost) : Fab :=
  match f.postRecord ctl p.ctx (p.bytes f.time) with
  | (true, f) => f
  | (false, f) => { f with engPosts := f.engPosts ++ [p] }

/-- Enqueues the record of a slot if it waits and room is free; its TIME is that of the enqueue (Table 9.5). -/
def Fab.faultEnqueue (ctl : Ctl) (f : Fab) (slot : Nat) : Fab :=
  match Table.get? f.faults slot with
  | none => f
  | some s =>
    let s := { s with time := f.time }
    if s.enqueued then f
    else match f.postRecord ctl s.ctx (s.bytes slot) with
      | (true, f) => { f with faults := Table.set f.faults slot { s with enqueued := true } }
      | (false, f) => f

/-! ## Restarts (R149, R150) -/

/-- The private registers that a live-in literal names, in range order (R149). -/
def liveIns (lit : DWord) : List Nat :=
  (List.range 4).flatMap (fun i => let (a, n) := rgnRange lit i; ((List.range n).map (a + ·)).filter (fun r => r < 1016))

/-- The live-in registers of a checkpoint as a register table. -/
def Checkpoint.table (c : Checkpoint) : Table Reg :=
  ((liveIns c.lit).zip c.regs).foldl (fun t p => Table.set t p.1 p.2) []

/-- A lane restarts at its region head (R148, R150); a lane parked in `tnext` becomes idle and goes on waiting (R125,
R296). `e` numbers the restart, for the values of its other registers (log 3). -/
def Lane.restart (x : Lane) (e : Nat) : Lane :=
  match x.park with
  | some (.tnext ..) => { x with idle := true, prio := 0, bound := none, regs := [], epoch := none,
                                 enrolled := x.ck.enrolled, arrived := x.ck.arrived }
  | _ => { x with
      park := none
      pc := x.ck.head
      prio := x.ck.prio
      regs := x.ck.table
      epoch := some e
      enrolled := x.ck.enrolled
      arrived := x.ck.arrived }

/-- Whether an entry of a store queue is a queue request. -/
def StoreKind.isQueue : StoreKind → Bool | .qenq .. => true | .qdeq .. => true | _ => false
/-- Withdraws a lane parked in `qenq` or `qdeq` from the request that has not left, or from its queue, before it restarts; the
request of one parked in `syscall` stays posted. -/
def Fab.unqueue (ctl : Ctl) (f : Fab) (c s l : Nat) : Fab :=
  match (f.core c).team, f.lane? c s l with
  | some t, some x => match x.park with
    | some (.qdeq d _ _ _ n _) => (f.waiterDrop ctl t.ctx d c s l).liftLower c s n l
    | some (.handed d _ _ n _ b) => (f.giveBack ctl c t.ctx d b).liftLower c s n l
    | some .queue => f.modGroup c s (fun g => g.dropStores StoreKind.isQueue l)
    | some (.syscall (some tok) _) => f.staleToken t.ctx tok
    | some (.syscall none b) => f.syscallRest t.ctx c s l b
    | _ => f
  | _, _ => f

/-- Restarts the listed lanes of a group: their outstanding loads are dropped for them (R150). -/
def Fab.restartLanes (ctl : Ctl) (f : Fab) (c s : Nat) (ls : List Nat) : Fab :=
  let f := ls.foldl (fun f l => f.unqueue ctl c s l) f
  let e := f.epoch
  let f := { f with epoch := e + 1 }
  f.modGroup c s (fun g =>
    let g := ls.foldl (fun g l => g.dropLoads l) g
    { g with lanes := g.lanes.mapIdx (fun i x => if ls.contains i ∧ x.status = .live then x.restart e else x) })

/-- Restarts every live lane of a group; its counters are zero afterwards (R150, R152). -/
def Fab.restartGroup (ctl : Ctl) (f : Fab) (c s : Nat) : Fab :=
  match f.group? c s with
  | none => f
  | some g =>
    let f := f.restartLanes ctl c s (List.range g.lanes.length)
    f.modGroup c s (fun g => { g with hold := none, loads := [], openBatch := [], batches := [], absentSince := none,
                                      countFrom := g.nextSeq })

/-! ## Taking an exception (R153-R157) -/

/-- The grid of a core's team. -/
def Fab.gridOf (f : Fab) (c : Nat) : Option Grid := (f.core c).team.bind (fun t => f.grid? t.grid)

/-- Parks a group on a translation fault (R152, R204): FADDR and the record name the address. All slots busy leaves the
group waiting. -/
def Fab.parkFault (ctl : Ctl) (f : Fab) (c s : Nat) (entry lanes : List Nat) (pc : Addr) (va : Nat) (acc : Access)
    (reason level : Nat) (who : Requester) : Fab :=
  match (f.core c).team with
  | none => f
  | some t =>
    let r : FaultSlot := ⟨t.ctx, BitVec.ofNat 48 va, accessBits acc, 0, reason, level, 1, c, s, 0, pc, f.time, false, [who]⟩
    match f.faultTake ctl (c / 48) r with
    | (none, f) => f.modGroup c s (fun g => { g with hold := some .retry })
    | (some n, f) => f.modGroup c s (fun g =>
        let open_ := g.trap.isSome || g.lanes.any (fun x => x.status == .live && x.window.isSome)
        { g with hold := some (.fault n open_ (maskOf entry) (maskOf lanes) (BitVec.ofNat 48 va)) })

/-- Posts the translation fault that the trap machinery of a group meets (R153): the group does not issue while the slot
is taken. With every slot busy the machinery tries again later. -/
def Fab.parkEntry (ctl : Ctl) (f : Fab) (c s : Nat) (pc : Addr) (va : Nat) (acc : Access) (reason level : Nat) : Fab :=
  match (f.core c).team with
  | none => f
  | some t => (f.faultTake ctl (c / 48)
      ⟨t.ctx, BitVec.ofNat 48 va, accessBits acc, 0, reason, level, 1, c, s, 0, pc, f.time, false, [.trapEntry c s]⟩).2

/-- Registers `v0`-`v15` of a lane as a trap frame holds them: zero for a lane that has ended. A register above the group's count has no
value that the spec states, nor a tag: its word is free, and its TAGS nibble is that of raw, the model's choice (log 9). -/
def Fab.frameReg (f : Fab) (c s r : Nat) (l n : Nat) : Reg :=
  match f.lane? c s l with
  | none => .zero
  | some x => if x.status != .live then .zero
    else if n < r then x.priv c s l n
    else ⟨Config.freeReg f.epoch c s l n, .raw⟩

/-- The trap frame (Table 7.5). -/
def Fab.frameBytes (f : Fab) (c s : Nat) (g : Group) (p : PendTrap) : List Byte :=
  let w := g.lanes.length
  leBytes 8 p.pc.toNat ++ leBytes 1 p.cause ++ leBytes 1 p.sub.toNat ++ leBytes 6 0 ++ leBytes 8 p.lanes.toNat ++
    leBytes 8 p.faddr.toNat ++ leBytes 8 p.erec.toNat ++ leBytes 4 g.gcw.toNat ++ leBytes 20 0 ++
    (List.range 16).flatMap (fun i => (List.range w).flatMap (fun l => leBytes 4 (f.frameReg c s g.r l i).val.toNat)) ++
    (List.range w).flatMap (fun l => leBytes 8
      ((List.range 16).foldl (fun a i => a + (f.frameReg c s g.r l i).tag.code * 2 ^ (4 * i)) 0))

/-- Address of a group's trap frame: FRAMES + (core x 32 + slot) x 8,192 (R153). -/
def frameAddr (frames c s : Nat) : Nat := frames + (c * 32 + s) * 8192

/-- Takes an exception (R153-R157): reads the entry of the cause and FRAMES, writes the frame at `.core` scope, and starts
the handler in trap mode on the entry's lanes. A translation fault there parks the group until it is serviced; any
other fault, an entry of zero, or a trap in trap mode ends the context. -/
def Fab.takeTrap (ctl : Ctl) (f : Fab) (c s : Nat) (p : PendTrap) : Fab :=
  match (f.core c).team, f.group? c s with
  | some t, some g =>
    let fatal (f : Fab) : Fab := f.fatal ctl t.ctx (f.grid? t.grid) p.cause p.pc
    let parked (f : Fab) (va : Nat) (acc : Access) (r l : Nat) : Fab :=
      (f.modGroup c s (fun g => { g with pendTrap := some p })).parkEntry ctl c s p.pc va acc r l
    if g.trap.isSome then fatal f
    else match f.ctx? t.ctx with
      | none => f
      | some x =>
        match f.coreRead ctl c t.ctx x.trapTab.toNat 8 .load with
        | (.xlate va r l, f) => parked f va .load r l
        | (.ok b0, f) =>
          (match f.coreRead ctl c t.ctx (x.trapTab.toNat + 16 * p.cause) 8 .load with
           | (.xlate va r l, f) => parked f va .load r l
           | (.ok b1, f) =>
             let pc := BitVec.ofNat 48 (leNat b1)
             if pc = 0 then fatal f
             else
               let frame := frameAddr (leNat b0 % 2 ^ 48) c s
               let p' := if p.erec = 0 then p else { p with erec := BitVec.ofNat 64 frame + p.erec }
               (match f.coreWrite ctl c t.ctx frame 1 (f.frameBytes c s g p') with
                | (.xlate va r l, f) => parked f va .store r l
                | (.ok _, f) => f.modGroup c s (fun g =>
                    let hs := g.numbered.filter (fun x => x.2.ready && inMask p.handlers x.1)
                    let g := { g with pendTrap := none, hold := none, absentSince := none }
                    if hs.isEmpty then g
                    else ({ g with
                      trap := some ⟨maskOf (hs.map (·.1)), 0, BitVec.ofNat 48 frame⟩
                      lanes := g.lanes.mapIdx (fun i l =>
                        if hs.any (fun h => h.1 == i) then
                          -- the count of trap 0x0F starts again for every handler lane with an open window (log 73)
                          { l with pc := pc, window := if p.cause = 0x0F ∧ l.window.isSome then some 0 else l.window }
                        else l) } : Group).merge)
                | (_, f) => fatal f)
           | (_, f) => fatal f)
        | (_, f) => fatal f
  | _, _ => f

/-! ## Engine fault records (R176, R177) -/

/-- Whether a completion is a record that is not in the ring yet. -/
def Undel.isHeld : Undel → Bool | .held .. => true | _ => false
/-- Whether a completion is a record in the ring. -/
def Undel.inRing : Undel → Bool | .record .. => true | _ => false
/-- Whether a group has a live lane. -/
def Group.anyLive (g : Group) : Bool := g.lanes.any (fun x => x.status == .live)
/-- Replaces the first element that satisfies a test. -/
def replaceFirst {α : Type} (p : α → Bool) (h : α → Option α) : List α → List α
  | [] => []
  | x :: t => if p x then (h x).toList ++ t else x :: replaceFirst p h t
/-- Address of ring slot `k` from the frame address (R176). -/
def ringOff (k : Nat) : Nat := 0x1800 + 32 * (k % 64)

/-- Retires the sealed batches at the front whose operations have delivered everything and hold no record (R161, R162,
R176). -/
def Fab.reapBatches (f : Fab) (c s : Nat) : Fab :=
  let busy (id : Nat) : Bool := (f.core c).copies.any (fun o => o.id == id)
  f.modGroup c s (fun g =>
    let first := g.sealedCp + 1 - g.batches.length
    let held (n : Nat) : Bool := g.undel.any (fun u => match u with | .held _ 2 ord _ _ => ord == n | _ => false)
    let n := ((g.batches.mapIdx (fun k b => (k, b))).takeWhile (fun p => !p.2.any busy && !held (first + p.1))).length
    { g with batches := g.batches.drop n })

/-- Whether nothing of a part is outstanding. -/
def RemPart.finished (p : RemPart) : Bool := p.packets.isEmpty && p.todo.isEmpty && p.signal.isNone
/-- Whether an operation has completed (R346). -/
def RemOp.finished (o : RemOp) : Bool := !o.waitMx && o.mcast.isNone && o.parts.all RemPart.finished
/-- The entry with the lowest key. -/
def lowestKey (l : List (Nat × Nat)) : Option (Nat × Nat) :=
  l.foldl (fun b x => match b with | none => some x | some y => if x.1 < y.1 then some x else b) none
/-- The reason of the lowest-numbered negative part, and the lanes of all negative parts (R346). -/
def RemOp.negative (o : RemOp) : Option (Nat × BitVec 64) :=
  match o.parts.filter (fun p => !p.negs.isEmpty) with
  | [] => none
  | p :: ps => some (((lowestKey p.negs).map (·.2)).getD 0, ((p :: ps).map (·.lanes)).foldl (· ||| ·) 0)
/-- Retires the completed operations at the front of cl; a negative one is recorded until a `wait` covers it (R346). -/
def Group.retireRem (g : Group) : Group :=
  let held (o : RemOp) : Bool := g.undel.any (fun u => match u with | .held n 4 _ _ _ => n == o.seq | _ => false)
  let out := g.rem.takeWhile (fun o => o.finished && !held o)
  let negs := out.filterMap (fun o => o.negative.map (fun n => Undel.neg o.seq o.ord (BitVec.ofNat 8 n.1) n.2))
  { g with rem := g.rem.drop out.length, undel := g.undel ++ negs }
/-- Retires what a group's remote operations allow, and reports the end of its team. -/
def Fab.retireRem (f : Fab) (c s : Nat) : Fab := (f.modGroup c s Group.retireRem).reportEnd c

/-- Retires from cp and cl what a group's records no longer hold there (R161, R176). -/
def Fab.retireHeld (f : Fab) (c s : Nat) : Fab := (f.reapBatches c s).retireRem c s

/-- Writes a group's oldest record that waits to the ring, if a slot is free; without a live lane it goes to the fault
queue (R124, R176). A translation fault leaves it to be written again; another fault ends the context (R157). -/
def Fab.flushOne (ctl : Ctl) (f : Fab) (c s : Nat) : Fab :=
  match (f.core c).team, f.group? c s with
  | some t, some g =>
    match g.undel.find? Undel.isHeld, f.ctx? t.ctx with
    | some (.held seq cls ord lanes r), some x =>
      if !g.anyLive then
        (f.modGroup c s (fun g => { g with undel := replaceFirst Undel.isHeld (fun _ => none) g.undel })).postEng ctl ⟨t.ctx, c, s, r⟩
      else if 64 ≤ (g.undel.filter Undel.inRing).length then f
      else
        let fatal (f : Fab) : Fab := f.fatal ctl t.ctx (f.grid? t.grid) 0x0D r.pc
        (match f.coreRead ctl c t.ctx x.trapTab.toNat 8 .load with
         | (.xlate va re l, f) => f.parkEntry ctl c s r.pc va .load re l
         | (.ok b, f) =>
           (match f.coreWrite ctl c t.ctx (frameAddr (leNat b % 2 ^ 48) c s + ringOff g.ringCount) 1 r.bytes with
            | (.xlate va re l, f) => f.parkEntry ctl c s r.pc va .store re l
            | (.ok _, f) => f.modGroup c s (fun g => { g with
                undel := replaceFirst Undel.isHeld (fun _ => some (.record seq cls ord g.ringCount lanes r)) g.undel
                ringCount := g.ringCount + 1 })
            | (_, f) => fatal f)
         | (_, f) => fatal f)
    | _, _ => f
  | _, _ => f
/-- Writes every record of a group that can be written. -/
def Fab.flushHeld (ctl : Ctl) (f : Fab) (c s : Nat) : Fab :=
  match f.group? c s with
  | none => f
  | some g =>
    if g.undel.any Undel.isHeld then ((g.undel.filter Undel.isHeld).foldl (fun f _ => f.flushOne ctl c s) f).retireHeld c s else f
/-- An operation of an engine faults: its record is written, waits for room in the ring, or goes to the fault queue. -/
def Fab.engFault (ctl : Ctl) (f : Fab) (c s seq cls ord : Nat) (lanes : BitVec 64) (r : EngRec) : Fab :=
  (f.modGroup c s (fun g => { g with undel := g.undel ++ [.held seq cls ord lanes r] })).flushHeld ctl c s
/-- Tries again what a translation fault stopped in the trap machinery of a group (R153). -/
def Fab.retryEntry (ctl : Ctl) (f : Fab) (c s : Nat) : Fab :=
  match f.group? c s with
  | none => f
  | some g =>
    let f := match g.pendTrap with | some p => f.takeTrap ctl c s p | none => f
    f.flushHeld ctl c s
/-- Whether the trap machinery of a group waits for a page. -/
def Fab.entryWaits (f : Fab) (c s : Nat) : Bool := f.faults.any (fun p => p.2.who.contains (.trapEntry c s))

/-- A trap with the lanes of its entry as handler lanes (R154). -/
def Trap.pend (t : Trap) (handlers : List Nat) (pc : Addr) : PendTrap :=
  ⟨t.cause, BitVec.ofNat 8 t.sub, t.lanes, maskOf handlers, t.faddr, t.erec, pc⟩

/-! ## Returning from an exception (R156, R299) -/

/-- Takes lanes out of trap mode, which ends with its last handler lane (R156). -/
def Group.leaveTrap (g : Group) (ls : List Nat) : Group :=
  match g.trap with
  | none => g
  | some t =>
    let h := t.handlers &&& ~~~maskOf ls
    { g with trap := if h = 0 then none else some { t with handlers := h } }

/-- A lane reloads `v0`-`v15` and their tags from the frame and continues at a PC. -/
def Lane.reload (x : Lane) (w r l : Nat) (frame : List Byte) (pc : Addr) : Lane :=
  let tags := fieldAt frame (0x40 + 64 * w + 8 * l) 8
  let x := (List.range (min 16 r)).foldl (fun x i =>
    x.setReg i ⟨BitVec.ofNat 32 (fieldAt frame (0x40 + 4 * (w * i + l)) 4), Tag.ofCode (bitsOf tags (4 * i + 3) (4 * i))⟩) x
  { x with pc := pc }

/-- Length in bytes that the LEN of a word names (R241). -/
def wordLength (w : Word) : Nat := match (w.extractLsb' 0 2).toNat with | 0 => 4 | 3 => 20 | _ => 12

/-- `rti` and `rti.next` (R156, R299) on the active handler lanes. -/
def Fab.trapReturn (ctl : Ctl) (f : Fab) (i : Iss) (next : Bool) : Res :=
  match (f.group? i.core i.slot).bind (fun g => g.trap) with
  | none => .trap (.plain 0x16 0 i.entry)
  | some t =>
    let n := 0x40 + 72 * i.w
    match f.coreRead ctl i.core i.ctx t.frame.toNat n .load with
    | (.xlate va r l, _) => .xlate i.active va .load r l
    | (.ok b, f) =>
      let pc := fieldAt b 0 8
      let go (f : Fab) (pc : Addr) : Res :=
        .done (f.modGroup i.core i.slot (fun g =>
          ({ g with lanes := g.lanes.mapIdx (fun l x => if i.active.contains l ∧ x.status = .live then x.reload i.w i.r l b pc else x) }
            : Group).leaveTrap i.active))
      if 2 ^ 48 ≤ pc then .trap (.addr 0x0A i.active pc)
      else if pc % 4 ≠ 0 then .trap (.addr 0x0B i.active pc)
      else if !next then go f (BitVec.ofNat 48 pc)
      else match f.fetchWord ctl i.core i.ctx pc with
        | (.xlate va r l, _) => .xlate i.active va .fetch r l
        | (.ok w, f) => go f (BitVec.ofNat 48 (pc + wordLength w))
        | (.refused, _) => .trap (.addr 0x0A i.active pc)
    | (.refused, _) => .trap (.addr 0x0A i.active t.frame.toNat)

/-- `rti.rgn` (R156): the active handler lanes leave trap mode and restart at their region heads. -/
def Fab.trapRestart (ctl : Ctl) (f : Fab) (i : Iss) : Res :=
  let f := f.restartLanes ctl i.core i.slot i.active
  .done (f.modGroup i.core i.slot (fun g => g.leaveTrap i.active))

/-! ## Counters and windows -/

/-- Outstanding operations that a class counts (Table 8.1). -/
def Group.ld (g : Group) : Nat := (g.loads.filter (fun o => g.countFrom ≤ o.seq)).length
/-- Stores and atomics that have not left the core. -/
def Group.st (g : Group) : Nat := (g.storeQ.filter (fun o => g.countFrom ≤ o.seq)).length
/-- Sealed copy batches. -/
def Group.cp (g : Group) : Nat := g.batches.length
/-- Remote operations. -/
def Group.cl (g : Group) : Nat := (g.rem.filter (fun o => g.countFrom ≤ o.seq)).length
/-- Whether an operation of the matrix engine counts in cl. -/
def EngOp.isSend : EngOp → Bool | .send .. => true | _ => false
/-- Matrix and higher-order operations of a group, which complete in issue order: the oldest that is in the engine or
holds its record, and all that follow it (R161, R176). -/
def Fab.mx (f : Fab) (c s : Nat) : Nat :=
  match f.group? c s with
  | none => 0
  | some g =>
    let out := ((f.core c).mxq.filter (fun o => o.slot == s && g.countFrom ≤ o.seq && !o.op.isSend)).map (·.ord) ++
      g.undel.filterMap (fun u => match u with | .held n 3 ord _ _ => if g.countFrom ≤ n then some ord else none | _ => none)
    match out with
    | [] => 0
    | o :: os => g.issuedMx + 1 - os.foldl min o

/-- Opens the deferral windows of lanes after a commit instruction retires (R151), outside trap mode. -/
def Fab.commit (f : Fab) (i : Iss) (ls : List Nat) : Fab :=
  if i.trapMode then f
  else f.modGroup i.core i.slot (fun g => { g with lanes := g.lanes.mapIdx (fun l x =>
    if ls.contains l ∧ x.status = .live then x.openWindow else x) })

/-- Closes the open batch of a group (R162). -/
def Group.seal (g : Group) : Group :=
  { g with batches := g.batches ++ [g.openBatch], openBatch := [], sealedCp := g.sealedCp + 1 }
/-- A fresh sequence number of a group. -/
def Fab.seqOf (f : Fab) (i : Iss) : Nat := match f.group? i.core i.slot with | some g => g.nextSeq | none => 0
/-- Changes the issuing group. -/
def Iss.mod (i : Iss) (f : Fab) (h : Group → Group) : Fab := f.modGroup i.core i.slot h

/-! ## The order of checks -/

/-- The instruction that the issuing group issues: its frontier entry, active lanes and place. -/
def Fab.iss (f : Fab) (p : Pred) (len : Nat) : Option Iss :=
  match f.issuer with
  | none => none
  | some (c, s) =>
    match (f.core c).team, f.group? c s with
    | some t, some g =>
      match g.entry with
      | [] => none
      | l :: ls =>
        let pc := match g.lanes[l]? with | some x => x.pc | none => 0
        some ⟨c, s, g.lanes.length, g.r, pc, len, l :: ls, (l :: ls).filter (fun l => f.predicate c s p l), t.grid, t.ctx,
          g.gcw, g.trap.isSome⟩
    | _, _ => none

/-- Lanes of the entry that have issued 64 instructions in their deferral window (R151). -/
def Fab.overdue (f : Fab) (i : Iss) : List Nat :=
  if i.trapMode then []
  else i.entry.filter (fun l => match f.lane? i.core i.slot l with
    | some x => (match x.window with | some n => 64 ≤ n | none => false)
    | none => false)

/-- Moves the entry past its instruction, as every retirement does before its own effects: PCs, window counts, the
handler's count, and the hints the picker uses (R107, R151, R242). The GAP of a group of 64 lanes counts from the end of the second of
its two ac, the model's reading (log 5). -/
def Fab.advance (f : Fab) (i : Iss) (hints : Bool × Nat) : Fab :=
  f.modGroup i.core i.slot (fun g => { g with
    lanes := g.lanes.mapIdx (fun l x => if i.entry.contains l then
      { x with pc := i.pc + BitVec.ofNat 48 i.len, window := if i.trapMode then x.window else x.window.map (· + 1) } else x)
    trap := g.trap.map (fun t => { t with issued := t.issued + 1 })
    gapUntil := f.ac + hints.2 + (if i.w = 64 then 2 else 1)
    gw := hints.1
    lastIssue := some f.ac
    eligSince := none
    absentSince := none })

/-- Takes a trap of the issuing instruction. -/
def Fab.trapHere (ctl : Ctl) (f : Fab) (i : Iss) (t : Trap) : Fab := f.takeTrap ctl i.core i.slot (t.pend i.entry i.pc)

/-- Merges the frontier of the issuing group (R145). -/
def Fab.mergeHere (f : Fab) (i : Iss) : Fab := f.modGroup i.core i.slot Group.merge

/-- What becomes of an instruction whose checks have passed, from what its body ends in (R152, R155). -/
def Res.settle (ctl : Ctl) (f : Fab) (i : Iss) : Res → Host.Outcome Fab Fault Refusal
  | .done g => .next (g.mergeHere i)
  | .after g t => .next ((g.mergeHere i).trapHere ctl i t)
  | .trap t => .next (f.trapHere ctl i t)
  | .xlate lanes va acc r l => .next (f.parkFault ctl i.core i.slot i.entry lanes i.pc va acc r l (.group i.core i.slot))
  | .wait h => .next ((h f).modGroup i.core i.slot (fun g => { g with hold := match g.hold with | none => some .retry | x => x }))
  | .deferred h t => .next (((h f).trapHere ctl i t).flushHeld ctl i.core i.slot)
  | .fault e => .fault e

/-- The checks of R258 from the deferral window on, in order: the first that fails names the trap. `gate` is the condition
under which the instruction does not issue yet (R107, R160). -/
def Fab.checked (f : Fab) (i : Iss) (e : Enc) (gate : Bool) : Option Res :=
  let late := f.overdue i
  if !late.isEmpty ∧ e.opc ≠ 0x04 then some (.trap (.plain 0x0F 0 late))
  else if e.error.isSome ∨ e.oddMask i.w then some (.trap (.plain 0x02 0 i.entry))
  else if e.opc = 0x09 ∧ !i.trapMode then some (.trap (.plain 0x16 0 i.entry))
  else if gate then some (.wait id)
  else match namesBadReg (e.names i.w) i.r with
    | some c => some (.trap (.plain 0x03 c i.entry))
    | none => match namesBadTag (e.names i.w) f i with
      | some (c, ls) => some (.trap (.plain 0x04 c ls))
      | none => none

/-- Whether a handler has issued 4,096 instructions while a pre-emption request waits (R157). -/
def Fab.handlerLate (f : Fab) (i : Iss) : Bool :=
  match f.group? i.core i.slot with
  | some g => g.stop.isSome && (match g.trap with | some t => 4096 ≤ t.issued | none => false)
  | none => false

/-- Issues one instruction on the fabric: its checks, then its body on the state in which the entry has moved past it. -/
def Fab.issue (ctl : Ctl) (f : Fab) (e : Enc) (gate : Iss → Fab → Bool) (body : Iss → Ctl → Fab → Res) :
    Host.Outcome Fab Fault Refusal :=
  match f.iss e.pred e.length with
  | none => .fault .noIssuer
  | some i =>
    if f.handlerLate i then .next (f.fatal ctl i.ctx (f.gridOf i.core) 0x0F i.pc)
    else match f.checked i e (gate i f) with
      | some r => r.settle ctl f i
      | none => (body i ctl (f.advance i e.hints)).settle ctl f i

/-- Lifts an outcome on the fabric to the whole state: no core instruction changes the control part or the agenda. -/
def State.lift (s : State) : Host.Outcome Fab Fault Refusal → Out
  | .next f => .next { s with fab := f }
  | .fault e => .fault e
  | .refused e => .refused e

/-- The meaning of a core instruction from its encoding, its issue gate and its body. -/
def run (e : Enc) (gate : Iss → Fab → Bool) (body : Iss → Ctl → Fab → Res) (s : State) : Out :=
  s.lift (s.fab.issue s.ctl e gate body)

/-- An instruction that no counter delays. -/
def noGate : Iss → Fab → Bool := fun _ _ => false

/-- A decoding failure of a fetched instruction, or an unassigned opcode: the deferral window first, then the trap for
every lane of the entry (R257-R259). -/
def Fab.illegal (ctl : Ctl) (f : Fab) (len opc cause : Nat) : Host.Outcome Fab Fault Refusal :=
  match f.iss Pred.none_ len with
  | none => .fault .noIssuer
  | some i =>
    if f.handlerLate i then .next (f.fatal ctl i.ctx (f.gridOf i.core) 0x0F i.pc)
    else
      let late := f.overdue i
      if !late.isEmpty ∧ opc ≠ 0x04 then .next (f.trapHere ctl i (.plain 0x0F 0 late))
      else .next (f.trapHere ctl i (.plain cause 0 i.entry))

end Sys2Proof.Machine
end

