-- ==== Sys2Proof/Machine/Fetch.lean ====
section
/-!
DEFINITION. Instruction fetch through the instruction cache (12_isa_encoding R242, R260), and the issue picker
(05_scheduler R107).
-/
namespace Sys2Proof.Machine

/-! ## Fetch -/

/-- The answer of a fetch of an instruction. -/
inductive Fetched
  | words (ws : List Word)
  | xlate (va reason level : Nat)
  | refused (va : Nat)
  deriving DecidableEq, Repr, Inhabited

/-- Fetches `n` words from an address, which wraps at 2^48. -/
def Fab.fetchWords (ctl : Ctl) (f : Fab) (core ctx va : Nat) : Nat → Fetched × Fab
  | 0 => (.words [], f)
  | n + 1 =>
    match f.fetchWord ctl core ctx (va % 2 ^ 48) with
    | (.xlate a r l, f) => (.xlate a r l, f)
    | (.refused, f) => (.refused (va % 2 ^ 48), f)
    | (.ok w, f) => match f.fetchWords ctl core ctx (va + 4) n with
      | (.words ws, f) => (.words (w :: ws), f)
      | x => x

/-- Fetches every word that LEN names (R242). -/
def Fab.fetch (ctl : Ctl) (f : Fab) (core ctx va : Nat) : Fetched × Fab :=
  match f.fetchWords ctl core ctx va 1 with
  | (.words [w], f) => f.fetchWords ctl core ctx va (lenWords (lenOf w))
  | x => x

/-! ## The issue picker -/

/-- Whether a group stands at a boundary at which a pre-emption stops it (R108 step 1). A lane whose queue request has not been
answered yet is waited for: the request drains and stands, and then opens the lane's window (log 54); so is one to which an entry has been
handed, whose `qdeq` completes (R328). -/
def Group.atBoundary (g : Group) : Bool :=
  g.trap.isNone && g.lanes.all (fun x => x.status != .live ||
    (x.window.isNone && (match x.park with | some (.syscall ..) => false | some .queue => false | some (.handed ..) => false | _ => true)))

/-- Whether a group could issue but for its GAP (R107). Operands are always ready, because results are written at retirement. -/
def Fab.ready (f : Fab) (c : Nat) (t : Team) (g : Group) : Bool :=
  t.started && !t.exited && g.hold.isNone && !g.stopped && !g.awaiting && g.pendTrap.isNone && g.malformed == 0 &&
    !f.entryWaits c g.slot && !(g.stop.isSome && g.atBoundary) && !g.entry.isEmpty
/-- Whether a group is eligible (R107). -/
def Fab.eligible (f : Fab) (c : Nat) (t : Team) (g : Group) : Bool := f.ready c t g && decide (g.gapUntil ≤ f.ac)
/-- Groups resident on a core (R107): those that have not ended, stopped, or left it to wait for readmission (R106). -/
def Team.residents (t : Team) : Nat := (t.groups.filter (fun g => g.resident && !g.ended)).length

/-- Slots of a core in use in this ac: a group of 64 lanes keeps its slot for two (R134). -/
def Fab.slotsUsed (f : Fab) (t : Team) : Nat :=
  (t.groups.filter (fun g => g.lastIssue == some f.ac || (g.lanes.length == 64 && g.lastIssue == some (f.ac - 1) && f.ac != 0))).length

/-- Preference of the picker: overdue groups, then groups without give-way, then the least recently issued, then the
lower slot (R107). -/
def prefer (n ac : Nat) (a b : Nat × Group) : Bool :=
  let od (g : Group) : Bool := match g.eligSince with | some t => t + 32 * n ≤ ac | none => false
  let last (g : Group) : Nat := match g.lastIssue with | some t => t + 1 | none => 0
  if od a.2 != od b.2 then od a.2
  else if a.2.gw != b.2.gw then b.2.gw
  else if last a.2 != last b.2 then last a.2 < last b.2
  else a.1 < b.1

/-- The group that a core's picker chooses next in this ac, if a slot is free and a group is eligible. -/
def Fab.pickOn (f : Fab) (c : Nat) : Option (Nat × Nat) :=
  match (f.core c).team with
  | none => none
  | some t =>
    if f.issueSlots ≤ f.slotsUsed t then none
    else
      match (t.groups.mapIdx (fun i g => (i, g))).filter (fun p => f.eligible c t p.2) with
      | [] => none
      | p :: ps => some (c, (ps.foldl (fun a b => if prefer t.residents f.ac b a then b else a) p).1)

/-- The first core, in ascending order, whose picker has a group to issue. -/
def Fab.pick (f : Fab) : Option (Nat × Nat) := (f.cores.map (·.1)).findSome? (fun c => f.pickOn c)

/-- Keeps the time since which each group has been eligible without issuing: one that has become so since `since` has been since then, or
since its GAP ended (R107). -/
def Fab.markEligible (f : Fab) (since : Nat) : Fab :=
  { f with cores := f.cores.map (fun (c, k) => (c, { k with team := k.team.map (fun t => { t with
      groups := t.groups.map (fun g => { g with eligSince := if f.eligible c t g then some (g.eligSince.getD (max since g.gapUntil)) else none }) }) })) }

/-- The nanoseconds of a number of cycles of the arithmetic clock, at 3.3 GHz (R12, R13). -/
def nsOf (acs : Nat) : Nat := acs * 10 / 33
/-- The most cycles from `ac` on that take no more than `ns` nanoseconds. -/
def cyclesIn (ac ns : Nat) : Nat := (33 * (nsOf ac + ns) + 32) / 10 - ac
/-- The cycles that may pass before a group has to be looked at again: one that is eligible waits for a slot, which the next cycle may free;
one that is held by its GAP may issue when that ends (R107); and TIME does not pass the target of a `sleep` by more than 1,000 ns
(R97). -/
def Fab.groupRoom (f : Fab) (c : Nat) (t : Team) (g : Group) (acs : Nat) : Nat :=
  let n := if !f.ready c t g then acs else if g.gapUntil ≤ f.ac then min acs 1 else min acs (g.gapUntil - f.ac)
  match g.hold with | some (.sleep _ _ target) => min n (cyclesIn f.ac (target + 1000 - f.time.toNat)) | _ => n
/-- The cycles that may pass: none while a picker has a free slot and an eligible group, so that each cycle's slots are filled (R107,
R113), and no more than every group allows. -/
def Fab.room (f : Fab) (acs : Nat) : Nat :=
  if f.pick.isSome then 0
  else f.cores.foldl (fun n k => match k.2.team with | none => n | some t => t.groups.foldl (fun n g => f.groupRoom k.1 t g n) n) acs
/-- Passes `acs` cycles, or as many of them as may pass, and the TIME that they take (R12, R13). -/
def Fab.elapse (f : Fab) (acs : Nat) : Fab :=
  let f := f.markEligible f.ac
  let n := f.room acs
  ({ f with ac := f.ac + n, time := f.time + BitVec.ofNat 64 (nsOf (f.ac + n) - nsOf f.ac) } : Fab).markEligible f.ac

/-- Frees the groups that wait for a condition to look again (R107), and tries again what the trap machinery could not do
for want of a fault slot. -/
def Fab.recheck (ctl : Ctl) (f : Fab) : Fab :=
  let f := f.cores.foldl (fun f k => match k.2.team with
    | none => f
    | some t => t.groups.foldl (fun f g =>
        if f.entryWaits k.1 g.slot then f
        else if g.pendTrap.isSome && g.atIssue then f.retryEntry ctl k.1 g.slot
        else if g.undel.any Undel.isHeld then f.flushHeld ctl k.1 g.slot else f) f) f
  { f with cores := f.cores.map (fun (c, k) => (c, { k with team := k.team.map (fun t => { t with
      groups := t.groups.map (fun g => if g.hold = some .retry then { g with hold := none } else g) }) })) }

/-- Merges every frontier (R145). -/
def Fab.mergeAll (f : Fab) : Fab :=
  { f with cores := f.cores.map (fun (c, k) => (c, { k with team := k.team.map (fun t => { t with
      groups := t.groups.map Group.merge }) })) }

/-! ## What surrounds an issue -/

/-- The issue of a group's next instruction, where the picker of its core chooses that group now (R23, R107). -/
def Fab.issuing (f : Fab) (c slot : Nat) : Option Iss :=
  if f.pickOn c = some (c, slot) then ({ f with issuer := some (c, slot) } : Fab).iss Pred.none_ 4 else none

/-- A translation fault on fetch (R242): the fault names the first word whose page faulted. -/
def Fab.fetchPark (ctl : Ctl) (f : Fab) (i : Iss) (va r l : Nat) : Fab :=
  f.parkFault ctl i.core i.slot i.entry i.entry i.pc va .fetch r l (.group i.core i.slot)
/-- A leaf without X, or a page that cannot be read (R199, R242). -/
def Fab.fetchTrap (ctl : Ctl) (f : Fab) (i : Iss) (va : Nat) : Fab := f.trapHere ctl i (.addr 0x0A i.entry va)
/-- Words that the decoder refuses raise trap 0x02 (R257). -/
def Fab.undecoded (ctl : Ctl) (f : Fab) (ws : List Word) : Host.Outcome Fab Fault Refusal :=
  f.illegal ctl (4 * ws.length) (opcOf (ws.headD 0)).toNat 0x02

/-- A store by a control hart (R50, R185), which other agents see at once; no hart stores while every output is in reset (R21). -/
def Fab.hartStore (ctl : Ctl) (f : Fab) (key : BitVec 12) (pa : Nat) (bytes : List Byte) : Fab :=
  if ctl.runs ∧ memRange pa bytes.length ∧ !ctl.keyRefused key then f.agentWrite ctl key pa bytes else f
/-- An instruction cache drops a word, as a cache may. -/
def Fab.evictI (f : Fab) (c va : Nat) : Fab :=
  let k := f.core c
  f.setCore c { k with icache := k.icache.filter (fun x => x.va != va) }
/-- A slice evicts a line, as a cache may; a pinned line stays (R189). -/
def Fab.evictL2 (ctl : Ctl) (f : Fab) (line : Nat) : Fab :=
  match f.l2Find line with | some l => if l.pin.isSome then f else f.l2Evict ctl line | none => f
/-- A hart takes an interrupt of one of its files, whatever waits in others (R49). -/
def Fab.takeMsi (f : Fab) (n : Nat) : Fab := { f with msis := f.msis.eraseIdx n }

/-- Lands the acquires of the `swait` lanes that their words have released, which then unpark (R217, R350). -/
def Fab.landReleased (ctl : Ctl) (f : Fab) : Fab :=
  let out := (f.cores.filter (fun k => match k.2.team with
    | some t => t.groups.any (fun g => g.lanes.any (fun l => l.park == some .released)) | none => false)).map (·.1)
  out.foldl (fun f c => (f.l1Acquire ctl c 5).mapLanes (fun k _ _ _ l => if k == c && l.park == some .released then l.unpark else l)) f

/-- The engine fault record of an undelivered completion. -/
def Undel.record? : Undel → Option EngRec | .record _ _ _ _ _ r => some r | .held _ _ _ _ r => some r | .neg .. => none
/-- The undelivered engine fault records of a group without a live lane go to the fault queue (R124, R177). -/
def Fab.orphan (ctl : Ctl) (f : Fab) (c s : Nat) : Fab :=
  match (f.core c).team, f.group? c s with
  | some t, some g =>
    if g.anyLive ∨ g.undel.isEmpty then f
    else (g.undel.filterMap Undel.record?).foldl (fun f r => f.postEng ctl ⟨t.ctx, c, s, r⟩) ((f.modGroup c s (fun g => { g with undel := [] })).retireHeld c s)
  | _, _ => f
/-- Posts the records of every such group. -/
def Fab.orphans (ctl : Ctl) (f : Fab) : Fab :=
  f.cores.foldl (fun f k => match k.2.team with
    | none => f
    | some t => t.groups.foldl (fun f g => f.orphan ctl k.1 g.slot) f) f

/-- Sends what hitches that have exited still have to report (R98, R102). -/
def Fab.reportHitches (f : Fab) : Fab := (f.cores.map (·.1)).foldl (fun f c => f.reportHitch c) f

/-- What every step ends with: entries that were handed to lanes reach them where time has passed, lanes that wait at their cores for a queue
resend, idle lanes look again, hitches report, released lanes unpark, records that
no lane can take go to the fault queue, frontiers merge, no group is issuing, and after any move but an issue the groups that wait
for a condition look again. -/
def Fab.settle (ctl : Ctl) (f : Fab) (m : Move) : Fab :=
  let f := match m with | .elapse _ => f.landEntries ctl | _ => f
  let f := { (((((f.resendWaiters ctl).idlesGo ctl).reportHitches).landReleased ctl).orphans ctl).mergeAll with issuer := none }
  match m with | .issue .. => f | _ => f.recheck ctl

end Sys2Proof.Machine
end

