-- ==== Sys2Proof/Machine/Access.lean ====
section
/-!
DEFINITION. Memory operands (15_isa_memory R307-R309, 07_core_execution R141): addresses, the stages of checks, where an
access lands, presence (08_engines R164), scratchpad reads and writes, and barriers (R165, R166).
-/
namespace Sys2Proof.Machine

/-! ## Scratchpads -/

/-- Scratchpad bytes. -/
def Fab.scrRead (f : Fab) (c a n : Nat) : List Byte :=
  match (f.core c).team with | some t => t.scratch.readBytes a n | none => List.replicate n 0
/-- Whether every sector of a run of scratchpad bytes is present (R164). -/
def Fab.present (f : Fab) (c a n : Nat) : Bool :=
  match (f.core c).team with
  | none => true
  | some t => (List.range ((a + n - 1) / 64 - a / 64 + 1)).all (fun k => (Table.getD t.sectors (a / 64 + k) ⟨true, 0⟩).present)
/-- Whether one more pending copy in each of the listed sectors would pass the limit of 15 (R164). -/
def Fab.pendFull (f : Fab) (locs : List Loc) : Bool :=
  locs.any (fun p => match p with
    | .scr c a =>
      let k := (locs.filter (fun q => match q with | .scr c' a' => c' == c && a' / 64 == a / 64 | .glob .. => false)).length
      (match (f.core c).team with | some t => 15 < (Table.getD t.sectors (a / 64) ⟨true, 0⟩).pending + k | none => false)
    | .glob .. => false)
/-- Adds 1 to the pending count of a sector and clears its presence bit (R164). -/
def Fab.sectorClear (f : Fab) (c sec : Nat) : Fab :=
  f.modTeam c (fun t => { t with sectors := Table.set t.sectors sec ⟨false, (Table.getD t.sectors sec ⟨true, 0⟩).pending + 1⟩ })
/-- Subtracts 1 from a non-zero pending count, and sets the presence bit when it reaches 0 (R164, R330). -/
def Fab.sectorSet (f : Fab) (c sec : Nat) : Fab :=
  f.modTeam c (fun t =>
    let x := Table.getD t.sectors sec ⟨true, 0⟩
    if x.pending = 0 then t
    else if x.pending = 1 then { t with sectors := Table.erase t.sectors sec }
    else { t with sectors := Table.set t.sectors sec { x with pending := x.pending - 1 } })
/-- PHASE of the barrier object at an address (Table 8.2). -/
def Fab.barPhase (f : Fab) (c a : Nat) : Bool := ((f.scrRead c (a + 12) 1).headD 0).getLsbD 0
/-- Releases the lanes parked in `barw` on barriers of a scratchpad whose phase has changed (R166); a group of another core
acquires at `.clu` (R215). -/
def Fab.wakeBarriers (ctl : Ctl) (f : Fab) (c : Nat) : Fab :=
  let freed (l : Lane) : Bool := match l.park with | some (.barw k a ph) => k == c && f.barPhase c a != ph | _ => false
  let cores := f.cores.filterMap (fun p => match p.2.team with
    | some t => if p.1 != c && t.groups.any (fun g => g.lanes.any freed) then some p.1 else none
    | none => none)
  let f := f.mapLanes (fun _ _ _ _ l => if freed l then l.unpark else l)
  cores.foldl (fun f k => f.l1Acquire ctl k 2) f
/-- Writes scratchpad bytes. -/
def Fab.scrWrite (ctl : Ctl) (f : Fab) (c a : Nat) (b : List Byte) : Fab :=
  (f.modTeam c (fun t => { t with scratch := t.scratch.writeBytes a b })).wakeBarriers ctl c

/-! ## Barriers -/

/-- A barrier object (Table 8.2). -/
structure Bar where
  xarrv : BitVec 16
  arrv : BitVec 16
  xbytes : Word
  abytes : Word
  phase : Bool
  deriving DecidableEq, Repr, Inhabited
/-- Reads a barrier object. -/
def Bar.ofBytes (b : List Byte) : Bar :=
  ⟨BitVec.ofNat 16 (fieldAt b 0 2), BitVec.ofNat 16 (fieldAt b 2 2), BitVec.ofNat 32 (fieldAt b 4 4), BitVec.ofNat 32 (fieldAt b 8 4),
   bitAt (fieldAt b 12 4) 0⟩
/-- The bytes of a barrier object, keeping its reserved bits. -/
def Bar.bytes (b : Bar) (old : List Byte) : List Byte :=
  leBytes 2 b.xarrv.toNat ++ leBytes 2 b.arrv.toNat ++ leBytes 4 b.xbytes.toNat ++ leBytes 4 b.abytes.toNat ++
    leBytes 4 (fieldAt old 12 4 / 2 * 2 + (if b.phase then 1 else 0))
/-- The completion test of an update (R166). -/
def Bar.settle (b : Bar) : Bar := if b.arrv = b.xarrv ∧ b.abytes = b.xbytes then ⟨b.xarrv, 0, 0, 0, !b.phase⟩ else b
/-- Updates a barrier at its bank (R166). -/
def Fab.barUpdate (ctl : Ctl) (f : Fab) (c a : Nat) (h : Bar → Bar) : Fab :=
  let b := f.scrRead c a 16
  f.scrWrite ctl c a ((h (Bar.ofBytes b)).bytes b)

/-! ## Addresses (R141, R308) -/

/-- Bytes of an access by SIZE (Table 12.6). -/
def sizeBytes (s : Nat) : Nat := 2 ^ s
/-- The offset of a memory operand: OFS sign-extended, or the literal. -/
def xmOff (x : XmForm) : Nat := match x.lit with | some v => v.toNat | none => (x.ofs.signExtend 64).toNat
/-- The address that a lane forms from A and an offset: modulo 2^64 for global and peer addresses, else 2^32. -/
def Iss.addr (i : Iss) (f : Fab) (as a off l : Nat) : Nat :=
  if as = 0 ∨ as = 3 then (i.regNat f a 2 l + off) % 2 ^ 64 else (i.regNat f a 1 l + off) % 2 ^ 32
/-- Whether a scratch or hitch-scratch address is valid (R141). -/
def Fab.scrValid (f : Fab) (c as x : Nat) : Bool :=
  match f.gridOf c with
  | none => false
  | some g => if as = 2 then x / 2 ^ 24 == 0 && x / 2 ^ 20 % 16 < g.hitch && x % 2 ^ 20 < g.scratch else x < 2 ^ 20 && x < g.scratch
/-- Where a valid scratch or hitch-scratch address lands: the core of the hitch member, and the offset. -/
def Fab.scrLoc (f : Fab) (c as x : Nat) : Loc :=
  if as = 2 then .scr (match (f.core c).team with | some t => t.mates.getD (x / 2 ^ 20 % 16) c | none => c) (x % 2 ^ 20)
  else .scr c x

/-- One lane's access before its checks: lane, space, address, alignment. -/
structure Want where
  lane : Nat
  as : Nat
  addr : Nat
  align : Nat
  deriving DecidableEq, Repr, Inhabited

/-- The outcome of the checks of a memory instruction: where each lane's access lands, or what stops the instruction. -/
inductive Reach
  | ok (locs : List (Nat × Loc)) (f : Fab)
  | stop (r : Res)
  deriving Inhabited

/-- Lanes of a list, without repeats. -/
def lanesOf (ws : List Want) : List Nat := (ws.map (·.lane)).eraseDups
/-- Stages 1 to 3 of R309: scratch range, global address bits [63:48], alignment. -/
def Fab.stages123 (f : Fab) (c : Nat) (ws : List Want) : Option Trap :=
  let fails (cause : Nat) (p : Want → Bool) : Option Trap :=
    match ws.filter p with
    | [] => none
    | w :: t => some (.addr cause (lanesOf (w :: t)) w.addr)
  (fails 0x0C (fun w => w.as != 0 && w.as != 3 && !f.scrValid c w.as w.addr)).orElse (fun _ =>
    (fails 0x0A (fun w => (w.as == 0 || w.as == 3) && 2 ^ 48 ≤ w.addr)).orElse (fun _ =>
      fails 0x0B (fun w => w.addr % w.align != 0)))

/-- Whether a device register accepts an access of a core (R380). The spec does not say what an `atom` or `cas` of a core to a
register does: the model refuses it as at an unmapped address (DESIGN CHOICE, log 63), while the atomic add or signal of a
peer is performed (R45). -/
def Ctl.mmioAccepts (ctl : Ctl) (pa n : Nat) : Access → Bool
  | .load => ctl.mmioReads pa n
  | .store => ctl.mmioWritable pa n
  | _ => false

/-- The answer of stages 4 and 5 for one lane. -/
inductive Lands
  | at_ (loc : Loc)
  | xlate (reason level : Nat)
  | perm
  deriving DecidableEq, Repr, Inhabited

/-- Stages 4 and 5 of R309 for one access of `n` bytes. `pin`, `unpin` and `cfl` pass as a load of one byte, so that one whose
address is a device register raises trap 0x0A as a load of that width does; the spec does not say (DESIGN CHOICE, log 63). -/
def Fab.lands (ctl : Ctl) (f : Fab) (c ctx : Nat) (w : Want) (n : Nat) (acc : Access) : Lands × Fab :=
  if w.as ≠ 0 then (.at_ (f.scrLoc c w.as w.addr), f)
  else match f.translate ctl (some c) ctx w.addr acc with
    | (.fault r l, f) => (.xlate r l, f)
    | (.perm, f) => (.perm, f)
    | (.ok loc _, f) =>
      if paKind loc.phys.1 = .mem then (.at_ loc, f)
      else if ctl.mmioAccepts loc.phys.1 n acc then (.at_ loc, f) else (.perm, f)

/-- The stages of R309 for the accesses of an instruction. -/
def Fab.reach (ctl : Ctl) (f : Fab) (i : Iss) (ws : List Want) (n : Nat) (acc : Access) : Reach :=
  match f.stages123 i.core ws with
  | some t => .stop (.trap t)
  | none =>
    let (out, f) := ws.foldl (fun (r : List (Want × Lands) × Fab) w =>
      let (x, f) := r.2.lands ctl i.core i.ctx w n acc
      (r.1 ++ [(w, x)], f)) ([], f)
    let faults := out.filterMap (fun p => match p.2 with | .xlate r l => some (p.1, r, l) | _ => none)
    let perms := (out.filter (fun p => p.2 == .perm)).map (·.1)
    match faults, perms with
    | (w, r, l) :: t, _ => .stop (.xlate (lanesOf (((w, r, l) :: t).map (·.1))) w.addr acc r l)
    | [], w :: t => .stop (.trap (.addr 0x0A (lanesOf (w :: t)) w.addr))
    | [], [] => .ok (out.filterMap (fun p => match p.2 with | .at_ loc => some (p.1.lane, loc) | _ => none)) f

/-- The accesses of the active lanes of an XM instruction. -/
def Iss.wants (i : Iss) (f : Fab) (x : XmForm) (align : Nat) : List Want :=
  i.active.map (fun l => ⟨l, x.as.toNat, i.addr f x.as.toNat x.a.toNat (xmOff x) l, align⟩)
/-- The stages of R309 for an instruction that acts once: the address of the lowest active lane, for every active lane
(R307). -/
def Fab.reachOnce (ctl : Ctl) (f : Fab) (i : Iss) (x : XmForm) (align n : Nat) (acc : Access) : Reach :=
  let a := i.addr f x.as.toNat x.a.toNat (xmOff x) i.lowest
  f.reach ctl i (i.active.map (fun l => ⟨l, x.as.toNat, a, align⟩)) n acc

/-- Lanes whose scratch access touches an absent sector, with their addresses. -/
def Fab.absentLanes (f : Fab) (ws : List Want) (locs : List (Nat × Loc)) (n : Nat) : List (Nat × Nat) :=
  (ws.zip locs).filterMap (fun p => match p.2.2 with
    | .scr c a => if f.present c a n then none else some (p.1.lane, p.1.addr)
    | .glob .. => none)
/-- Parks the group on absent sectors (R164); a load remembers since when. -/
def Iss.parkAbsent (i : Iss) (load : Bool) (absent : List (Nat × Nat)) : Res :=
  .wait (fun f => if load then i.mod f (fun g => { g with
      absentSince := some ((g.absentSince.map (·.1)).getD f.ac, maskOf (absent.map (·.1)), BitVec.ofNat 64 (absent.headD (0, 0)).2) }) else f)

/-- The low `n` bytes of consecutive registers. -/
def Iss.regBytes (i : Iss) (f : Fab) (r n l : Nat) : List Byte := leBytes n (i.regNat f r ((n + 3) / 4) l)

end Sys2Proof.Machine
end

