-- ==== Sys2Proof/Machine/Float.lean ====
section
/-!
DEFINITION. Float arithmetic (11_number_formats R222-R227, 13_isa_arithmetic R271-R279): values as exact dyadic
numbers, one rounding function for every format and mode, and the operations rounded once.
-/
namespace Sys2Proof.Machine

/-- A binary interchange format: exponent bits and fraction bits. -/
structure Fmt where
  eb : Nat
  fb : Nat
  deriving DecidableEq, Repr, Inhabited

/-- binary64 (R222). -/
def Fmt.f64 : Fmt := ⟨11, 52⟩
/-- binary32 (R222). -/
def Fmt.f32 : Fmt := ⟨8, 23⟩
/-- binary16 (R222). -/
def Fmt.h16 : Fmt := ⟨5, 10⟩
/-- bfloat16 (R222). -/
def Fmt.b16 : Fmt := ⟨8, 7⟩
/-- Width in bits. -/
def Fmt.width (f : Fmt) : Nat := 1 + f.eb + f.fb
/-- Exponent bias. -/
def Fmt.bias (f : Fmt) : Int := 2 ^ (f.eb - 1) - 1
/-- Exponent of the smallest normal number. -/
def Fmt.emin (f : Fmt) : Int := 1 - f.bias
/-- Exponent of the largest finite number. -/
def Fmt.emax (f : Fmt) : Int := f.bias
/-- Pattern of +infinity. -/
def Fmt.infBits (f : Fmt) : Nat := (2 ^ f.eb - 1) * 2 ^ f.fb
/-- The canonical quiet NaN (Table 11.2). -/
def Fmt.nanBits (f : Fmt) : Nat := f.infBits + 2 ^ (f.fb - 1)
/-- The sign bit of a pattern. -/
def Fmt.signBit (f : Fmt) (neg : Bool) : Nat := if neg then 2 ^ (f.eb + f.fb) else 0

/-- Conditions of R224: SINV, SFDZ, SOVF and SUNF. -/
structure FFlags where
  inv : Bool
  dz : Bool
  ovf : Bool
  unf : Bool
  deriving DecidableEq, Repr, Inhabited

/-- No condition. -/
def FFlags.none : FFlags := ⟨false, false, false, false⟩
/-- Invalid operation. -/
def FFlags.invalid : FFlags := ⟨true, false, false, false⟩
/-- Divide by zero. -/
def FFlags.divz : FFlags := ⟨false, true, false, false⟩
/-- Either. -/
def FFlags.or (x y : FFlags) : FFlags := ⟨x.inv || y.inv, x.dz || y.dz, x.ovf || y.ovf, x.unf || y.unf⟩

/-- A decoded value: NaN (signalling or not), infinity, or (-1)^neg m 2^e exactly; m = 0 is a zero of its sign. -/
inductive FVal
  | nan (signalling : Bool)
  | inf (neg : Bool)
  | num (neg : Bool) (m : Nat) (e : Int)
  deriving DecidableEq, Repr, Inhabited

/-- Decodes a pattern (R222). -/
def Fmt.unpack (f : Fmt) (x : Nat) : FVal :=
  let neg := bitAt x (f.eb + f.fb)
  let ex := bitsOf x (f.eb + f.fb - 1) f.fb
  let fr := x % 2 ^ f.fb
  if ex = 2 ^ f.eb - 1 then (if fr = 0 then .inf neg else .nan (fr < 2 ^ (f.fb - 1)))
  else if ex = 0 then .num neg fr (f.emin - f.fb)
  else .num neg (2 ^ f.fb + fr) ((ex : Int) - f.bias - f.fb)

/-- Rounding modes (Table 11.3). -/
inductive RMode
  | rne | rtz | rup | rdn
  deriving DecidableEq, Repr, Inhabited

/-- A mode from its code. -/
def RMode.ofCode (n : Nat) : RMode := match n % 4 with | 0 => .rne | 1 => .rtz | 2 => .rup | _ => .rdn

/-- Whether a magnitude k + rem / den rounds up under a mode. -/
def roundUp (mode : RMode) (neg : Bool) (k rem den : Nat) : Bool :=
  match mode with
  | .rne => den < 2 * rem || (2 * rem == den && k % 2 == 1)
  | .rtz => false
  | .rup => !neg && rem != 0
  | .rdn => neg && rem != 0

/-- The integer m 2^(-sh) rounded, and whether it was inexact; a negative `sh` scales up exactly. -/
def roundShift (mode : RMode) (neg : Bool) (m : Nat) (sh : Int) : Nat × Bool :=
  if sh ≤ 0 then (m * 2 ^ (-sh).toNat, false)
  else
    let den := 2 ^ sh.toNat
    let k := m / den
    let rem := m % den
    (if roundUp mode neg k rem den then k + 1 else k, rem != 0)

/-- Exponent of the leading bit of m 2^e, for m not 0. -/
def leadExp (m : Nat) (e : Int) : Int := e + Nat.log2 m

/-- What an overflow delivers (Table 11.3). -/
def Fmt.overflow (f : Fmt) (mode : RMode) (neg : Bool) : Nat :=
  let toInf := match mode with | .rne => true | .rtz => false | .rup => !neg | .rdn => neg
  f.signBit neg + (if toInf then f.infBits else f.infBits - 1)

/-- Rounds (-1)^neg m 2^e to a format (R223), with SOVF and SUNF (R224: tiny after rounding, and inexact).
DEDUCED (log 16): SUNF is raised for an exact result that is not zero, also where the rounded result is zero. -/
def Fmt.round (f : Fmt) (mode : RMode) (neg : Bool) (m : Nat) (e : Int) : Nat × FFlags :=
  if m = 0 then (f.signBit neg, .none)
  else
    let le := leadExp m e
    let qn := le - f.fb
    let q := max qn (f.emin - f.fb)
    let (k, inexact) := roundShift mode neg m (q - e)
    let (ku, _) := roundShift mode neg m (qn - e)
    let tiny := decide (ku ≠ 0) && decide (leadExp ku qn < f.emin)
    if k ≠ 0 ∧ f.emax < leadExp k q then (f.overflow mode neg, ⟨false, false, true, false⟩)
    else
      let bits := if k < 2 ^ f.fb then k
        else
          let (k', q') := if k = 2 ^ (f.fb + 1) then (2 ^ f.fb, q + 1) else (k, q)
          (q' + f.fb + f.bias).toNat * 2 ^ f.fb + (k' - 2 ^ f.fb)
      (f.signBit neg + bits, ⟨false, false, false, tiny && inexact⟩)

/-- Rounds a magnitude that lies strictly between m 2^e and (m + 1) 2^e when `sticky`, and is m 2^e otherwise. -/
def Fmt.roundSticky (f : Fmt) (mode : RMode) (neg : Bool) (m : Nat) (e : Int) (sticky : Bool) : Nat × FFlags :=
  if sticky then f.round mode neg (2 * m + 1) (e - 1) else f.round mode neg m e

/-- A NaN result: canonical, with SINV when an operand signals. -/
def Fmt.nanOf (f : Fmt) (vs : List FVal) : Nat × FFlags :=
  (f.nanBits, if vs.any (fun v => v == .nan true) then .invalid else .none)
/-- A NaN result of an invalid operation. -/
def Fmt.invalid (f : Fmt) : Nat × FFlags := (f.nanBits, .invalid)
/-- An infinity. -/
def Fmt.infinity (f : Fmt) (neg : Bool) : Nat × FFlags := (f.signBit neg + f.infBits, .none)

/-- Whether a value is a NaN. -/
def FVal.isNan : FVal → Bool | .nan _ => true | _ => false
/-- Whether a value is a zero. -/
def FVal.isZero : FVal → Bool | .num _ m _ => m == 0 | _ => false
/-- The sign of a value; a NaN has none. -/
def FVal.neg : FVal → Bool | .nan _ => false | .inf n => n | .num n _ _ => n
/-- The value with its sign inverted. -/
def FVal.negate : FVal → FVal | .nan s => .nan s | .inf n => .inf (!n) | .num n m e => .num (!n) m e

/-- The exact signed integer of a finite value at a common exponent not above its own. -/
def alignTo (neg : Bool) (m : Nat) (e lo : Int) : Int :=
  let v : Int := m * 2 ^ (e - lo).toNat
  if neg then -v else v

/-- The exact sum of two finite values; the sign of a zero sum follows R222. -/
def exactAdd (mode : RMode) (n1 : Bool) (m1 : Nat) (e1 : Int) (n2 : Bool) (m2 : Nat) (e2 : Int) : Bool × Nat × Int :=
  let lo := min e1 e2
  let s := alignTo n1 m1 e1 lo + alignTo n2 m2 e2 lo
  if s = 0 then ((if m1 = 0 ∧ m2 = 0 ∧ n1 = n2 then n1 else mode == .rdn), 0, 0)
  else (decide (s < 0), s.natAbs, lo)

/-- Sum (R271). -/
def Fmt.add (f : Fmt) (mode : RMode) (x y : FVal) : Nat × FFlags :=
  match x, y with
  | .nan a, y => f.nanOf [.nan a, y]
  | x, .nan b => f.nanOf [x, .nan b]
  | .inf a, .inf b => if a = b then f.infinity a else f.invalid
  | .inf a, .num .. => f.infinity a
  | .num .., .inf b => f.infinity b
  | .num n1 m1 e1, .num n2 m2 e2 =>
    let (n, m, e) := exactAdd mode n1 m1 e1 n2 m2 e2
    f.round mode n m e

/-- The exact product of two values that are not NaN; none for 0 x infinity. -/
def exactMul : FVal → FVal → Option FVal
  | .inf a, .inf b => some (.inf (a != b))
  | .inf a, .num b m _ => if m = 0 then none else some (.inf (a != b))
  | .num a m _, .inf b => if m = 0 then none else some (.inf (a != b))
  | .num n1 m1 e1, .num n2 m2 e2 => some (.num (n1 != n2) (m1 * m2) (e1 + e2))
  | v, _ => some v

/-- Rounds a decoded value. -/
def Fmt.ofVal (f : Fmt) (mode : RMode) : FVal → Nat × FFlags
  | .nan s => f.nanOf [.nan s]
  | .inf n => f.infinity n
  | .num n m e => f.round mode n m e

/-- Product (R271). -/
def Fmt.mul (f : Fmt) (x y : FVal) : Nat × FFlags :=
  if x.isNan || y.isNan then f.nanOf [x, y]
  else match exactMul x y with
    | none => f.invalid
    | some p => f.ofVal .rne p

/-- Product plus addend, rounded once; 0 x infinity is invalid whatever the addend (R272). -/
def Fmt.fma (f : Fmt) (x y z : FVal) : Nat × FFlags :=
  if x.isNan || y.isNan then f.nanOf [x, y, z]
  else match exactMul x y with
    | none => f.invalid
    | some p => f.add .rne p z

/-- Integer square root, by bits from the highest: `k` bits remain to be tried. -/
def isqrtFrom (n : Nat) : Nat → Nat → Nat
  | 0, r => r
  | k + 1, r => let t := r + 2 ^ k; isqrtFrom n k (if t * t ≤ n then t else r)
/-- The integer square root. -/
def isqrt (n : Nat) : Nat := isqrtFrom n (Nat.log2 n / 2 + 1) 0

/-- Bits of quotient and root precision used before rounding: past every format's precision and range of ties. -/
def extraBits : Nat := 120

/-- Quotient (R271, R272). -/
def Fmt.div (f : Fmt) (x y : FVal) : Nat × FFlags :=
  match x, y with
  | .nan a, y => f.nanOf [.nan a, y]
  | x, .nan b => f.nanOf [x, .nan b]
  | .inf _, .inf _ => f.invalid
  | .inf a, .num b _ _ => f.infinity (a != b)
  | .num a _ _, .inf b => (f.signBit (a != b), .none)
  | .num n1 m1 e1, .num n2 m2 e2 =>
    if m2 = 0 then (if m1 = 0 then f.invalid else (f.signBit (n1 != n2) + f.infBits, .divz))
    else
      let num := m1 * 2 ^ extraBits
      f.roundSticky .rne (n1 != n2) (num / m2) (e1 - e2 - extraBits) (num % m2 != 0)

/-- A finite magnitude rewritten with an even exponent and many bits. -/
def evenScale (m : Nat) (e : Int) : Nat × Int :=
  let m' := m * 2 ^ (2 * extraBits)
  let e' := e - 2 * extraBits
  if e' % 2 = 0 then (m', e') else (m' * 2, e' - 1)

/-- Square root (R271, R272). -/
def Fmt.sqrt (f : Fmt) (x : FVal) : Nat × FFlags :=
  match x with
  | .nan a => f.nanOf [.nan a]
  | .inf n => if n then f.invalid else f.infinity false
  | .num n m e =>
    if m = 0 then (f.signBit n, .none)
    else if n then f.invalid
    else
      let (m', e') := evenScale m e
      let r := isqrt m'
      f.roundSticky .rne false r (e' / 2) (r * r != m')

/-- Reciprocal (Table 13.4). -/
def Fmt.rcp (f : Fmt) (x : FVal) : Nat × FFlags := f.div (.num false 1 0) x

/-- Reciprocal square root (Table 13.4). -/
def Fmt.rsq (f : Fmt) (x : FVal) : Nat × FFlags :=
  match x with
  | .nan a => f.nanOf [.nan a]
  | .inf n => if n then f.invalid else (0, .none)
  | .num n m e =>
    if m = 0 then (f.signBit n + f.infBits, .divz)
    else if n then f.invalid
    else
      let (m', e') := if e % 2 = 0 then (m, e) else (2 * m, e - 1)
      let k := Nat.log2 m' + extraBits
      let q := isqrt (2 ^ (2 * k) / m')
      f.roundSticky .rne false q (-(e' / 2) - k) (q * q * m' != 2 ^ (2 * k))

/-- Products of the bounds of 2^(2^-i) over the set bits of the fraction `fr` (of `p` bits, from the highest):
fixed-point bounds with `p` bits after the point. `c` bounds 2^(2^-(i-1)). -/
def exp2Bounds (p fr : Nat) : Nat → Nat × Nat → Nat × Nat → Nat × Nat
  | 0, _, acc => acc
  | i + 1, c, acc =>
    let lo := isqrt (c.1 * 2 ^ p)
    let hi := isqrt (c.2 * 2 ^ p) + 1
    let acc' := if bitAt fr i then (acc.1 * lo / 2 ^ p, acc.2 * hi / 2 ^ p + 1) else acc
    exp2Bounds p fr i (lo, hi) acc'

/-- What a value that no precision tried has decided gives: a zero, which no such value is (log 75). -/
def undecided : Nat × FFlags := (0, .none)

/-- 2^x for x = n + f with 0 < f < 1 (never exact): tries `p` bits, doubling while the two bounds round apart.
`fm` 2^`fe` is f exactly. -/
def exp2Round (f : Fmt) (n : Int) (fm : Nat) (fe : Int) : Nat → Nat → Nat × FFlags
  | 0, _ => undecided
  | fuel + 1, p =>
    let sh := fe + p
    let fr := if 0 ≤ sh then fm * 2 ^ sh.toNat else fm / 2 ^ (-sh).toNat
    let (lo, hi) := exp2Bounds p fr p (2 ^ (p + 1), 2 ^ (p + 1)) (2 ^ p, 2 ^ p)
    let hi' := hi + hi / 2 ^ p + 2
    let a := f.roundSticky .rne false lo (n - p) true
    let b := f.roundSticky .rne false hi' (n - p) true
    if a = b then a else exp2Round f n fm fe fuel (2 * p)

/-- 2^x of an exact value (R271, Table 13.4). -/
def Fmt.exp2 (f : Fmt) (x : FVal) : Nat × FFlags :=
  match x with
  | .nan a => f.nanOf [.nan a]
  | .inf n => if n then (0, .none) else f.infinity false
  | .num neg m e =>
    let v : Int := if neg then -(m : Int) else m
    if 0 ≤ e ∨ m = 0 then
      let n := if m = 0 then 0 else if 20 < leadExp m e then (if neg then -2 ^ 20 else 2 ^ 20) else v * 2 ^ e.toNat
      f.round .rne false 1 n
    else if 20 < leadExp m e then f.round .rne false 1 (if neg then -2 ^ 20 else 2 ^ 20)
    else
      let den : Int := 2 ^ (-e).toNat
      let n := v / den
      let fm := (v % den).toNat
      if fm = 0 then f.round .rne false 1 n else exp2Round f n fm e 8 96

/-- 2^(A x B - C) with the exponent exact (R271, R272): 0 x infinity is invalid whatever C. -/
def Fmt.ex2s (f : Fmt) (x y z : FVal) : Nat × FFlags :=
  if x.isNan || y.isNan then f.nanOf [x, y, z]
  else match exactMul x y with
    | none => f.invalid
    | some p =>
      match p, z with
      | p, .nan s => f.nanOf [p, .nan s]
      | .inf a, .inf b => if a = b then f.invalid else f.exp2 (.inf a)
      | .inf a, _ => f.exp2 (.inf a)
      | _, .inf b => f.exp2 (.inf (!b))
      | .num n1 m1 e1, .num n2 m2 e2 =>
        let (n, m, e) := exactAdd .rne n1 m1 e1 (!n2) m2 e2
        f.exp2 (.num n m e)
      | p, _ => f.nanOf [p]

/-- Fraction bits of log2 of y in [1, 2) by repeated squaring, with bounds lo, hi of `w` fraction bits: `k` bits to
find; stops early (with the bits found and how many remain) when the bounds lie on both sides of 2. -/
def log2Bits (w : Nat) : Nat → Nat × Nat → Nat → Nat × Nat
  | 0, _, acc => (acc, 0)
  | k + 1, y, acc =>
    let lo := y.1 * y.1 / 2 ^ w
    let hi := y.2 * y.2 / 2 ^ w + 1
    if 2 ^ (w + 1) ≤ lo then log2Bits w k (lo / 2, hi / 2 + 1) (2 * acc + 1)
    else if hi < 2 ^ (w + 1) then log2Bits w k (lo, hi) (2 * acc)
    else (acc, k + 1)

/-- Rounds a value strictly between lo 2^-p and (lo + 1) 2^-p, where `lo` has bits enough to decide it. -/
def Fmt.roundCell (f : Fmt) (lo : Int) (p : Nat) : Option (Nat × FFlags) :=
  if 2 ^ (f.fb + 4) ≤ lo then some (f.roundSticky .rne false lo.toNat (-p) true)
  else if lo + 1 ≤ -2 ^ (f.fb + 4) then some (f.roundSticky .rne true (-(lo + 1)).toNat (-p) true)
  else none
/-- log2 of m 2^e, m not a power of two: tries `p` bits, doubling while the bounds round apart. Bounds that part at a bit tell that the value
lies beside the multiple of that bit, within 2^-p of it. -/
def log2Round (f : Fmt) (m : Nat) (e : Int) : Nat → Nat → Nat × FFlags
  | 0, _ => undecided
  | fuel + 1, p =>
    let w := 2 * p + 32
    let l := Nat.log2 m
    let y := m * 2 ^ w / 2 ^ l
    let (acc, left) := log2Bits w p (y, y + 1) 0
    let lo : Int := (e + l) * 2 ^ p + acc * 2 ^ left
    let r := if left = 0 then f.roundCell lo p
      else
        let mid := lo + 2 ^ (left - 1)
        if f.roundCell (mid - 1) p = f.roundCell mid p then f.roundCell mid p else none
    match r with | some r => r | none => log2Round f m e fuel (2 * p)

/-- Base-2 logarithm (R271, Table 13.4). -/
def Fmt.lg2 (f : Fmt) (x : FVal) : Nat × FFlags :=
  match x with
  | .nan a => f.nanOf [.nan a]
  | .inf n => if n then f.invalid else f.infinity false
  | .num n m e =>
    if m = 0 then (f.signBit true + f.infBits, .divz)
    else if n then f.invalid
    else if m = 2 ^ Nat.log2 m then
      let k := leadExp m e
      f.round .rne (decide (k < 0)) k.natAbs 0
    else log2Round f m e 10 80

/-- Order of two values that are not NaN, with -0 below +0 (R273). -/
def totalLt : FVal → FVal → Bool
  | .inf a, y => a && !(y == .inf true)
  | x, .inf b => !b && !(x == .inf false)
  | .num n1 m1 e1, .num n2 m2 e2 =>
    let lo := min e1 e2
    let a := alignTo n1 m1 e1 lo
    let b := alignTo n2 m2 e2 lo
    if a = 0 ∧ b = 0 then n1 && !n2 else decide (a < b)
  | _, _ => false

/-- Numerical order (R274): -0 equals +0. -/
def numLt (x y : FVal) : Bool := if x.isZero && y.isZero then false else totalLt x y
/-- Numerical equality. -/
def numEq (x y : FVal) : Bool := !x.isNan && !y.isNan && !numLt x y && !numLt y x

/-- Minimum or maximum of two patterns (R273). -/
def Fmt.minmax (f : Fmt) (isMax : Bool) (a b : Nat) : Nat × FFlags :=
  let x := f.unpack a
  let y := f.unpack b
  if x.isNan || y.isNan then f.nanOf [x, y]
  else (if isMax then (if totalLt x y then b else a) else (if totalLt y x then b else a), .none)

/-- `fabs` and `fneg` (R273): exact, without a flag; a NaN operand gives the canonical NaN. -/
def Fmt.setSign (f : Fmt) (negate : Bool) (a : Nat) : Nat × FFlags :=
  if (f.unpack a).isNan then (f.nanBits, .none)
  else (a % 2 ^ (f.eb + f.fb) + (if negate && !bitAt a (f.eb + f.fb) then 2 ^ (f.eb + f.fb) else 0), .none)

/-- Comparison conditions of `fcmp` (R274): 0 eq, 1 lt, 2 le, 3 un. -/
def Fmt.cmp (f : Fmt) (cond : Nat) (a b : Nat) : Bool × FFlags :=
  let x := f.unpack a
  let y := f.unpack b
  let nan := x.isNan || y.isNan
  let sig := x == .nan true || y == .nan true
  match cond % 4 with
  | 0 => (numEq x y, if sig then .invalid else .none)
  | 1 => (!nan && numLt x y, if nan then .invalid else .none)
  | 2 => (!nan && !numLt y x, if nan then .invalid else .none)
  | _ => (nan, if sig then .invalid else .none)

/-- Class bits (R275). -/
def Fmt.classOf (f : Fmt) (a : Nat) : Nat :=
  match f.unpack a with
  | .nan s => if s then 2 ^ 8 else 2 ^ 9
  | .inf n => if n then 2 ^ 0 else 2 ^ 7
  | .num n m _ =>
    if m = 0 then (if n then 2 ^ 3 else 2 ^ 4)
    else if m < 2 ^ f.fb then (if n then 2 ^ 2 else 2 ^ 5)
    else (if n then 2 ^ 1 else 2 ^ 6)

/-- The integer nearest a finite value under a mode, as sign and magnitude. -/
def roundInt (mode : RMode) (neg : Bool) (m : Nat) (e : Int) : Nat := (roundShift mode neg m (-e)).1

/-- Rounding to integral (R276). -/
def Fmt.rnd (f : Fmt) (mode : RMode) (a : Nat) : Nat × FFlags :=
  match f.unpack a with
  | .nan s => f.nanOf [.nan s]
  | .inf _ => (a, .none)
  | .num n m e => if m = 0 then (a, .none) else ((f.round .rne n (roundInt mode n m e) 0).1, .none)

/-- An integer format: signed or not, and its width. -/
structure IFmt where
  signed : Bool
  width : Nat
  deriving DecidableEq, Repr, Inhabited

/-- Lowest value. -/
def IFmt.lo (i : IFmt) : Int := if i.signed then -2 ^ (i.width - 1) else 0
/-- Highest value. -/
def IFmt.hi (i : IFmt) : Int := if i.signed then 2 ^ (i.width - 1) - 1 else 2 ^ i.width - 1
/-- A pattern as an integer. -/
def IFmt.val (i : IFmt) (x : Nat) : Int := if i.signed && bitAt x (i.width - 1) then (x % 2 ^ i.width : Nat) - 2 ^ i.width else (x % 2 ^ i.width : Nat)
/-- An integer as a pattern. -/
def IFmt.bits (i : IFmt) (v : Int) : Nat := (v % 2 ^ i.width).toNat
/-- Clamps to the range. -/
def IFmt.sat (i : IFmt) (v : Int) : Int := if v < i.lo then i.lo else if i.hi < v then i.hi else v

/-- Float to integer (R227, R278): rounds, saturates; a NaN gives 0; SINV for a NaN or a value outside the range. -/
def Fmt.toInt (f : Fmt) (mode : RMode) (i : IFmt) (a : Nat) : Nat × FFlags :=
  match f.unpack a with
  | .nan _ => (0, .invalid)
  | .inf n => (i.bits (if n then i.lo else i.hi), .invalid)
  | .num n m e =>
    let k := roundInt mode n m e
    let v : Int := if n then -(k : Int) else k
    (i.bits (i.sat v), if i.sat v = v then .none else .invalid)

/-- Integer to float (R227). -/
def Fmt.ofInt (f : Fmt) (mode : RMode) (v : Int) : Nat × FFlags := f.round mode (decide (v < 0)) v.natAbs 0

/-- Float to float (R278). -/
def Fmt.convert (src dst : Fmt) (mode : RMode) (a : Nat) : Nat × FFlags := dst.ofVal mode (src.unpack a)

/-- The order-preserving map of `ordf` (R279) on an n-bit pattern. -/
def ordMap (n x : Nat) : Nat := if bitAt x (n - 1) then x ^^^ (2 ^ (n - 1) - 1) else x

end Sys2Proof.Machine
end

