-- ==== Sys2Proof/Machine/AluOps.lean ====
section
/-!
DEFINITION. What each arithmetic instruction computes from the registers of one lane (13_isa_arithmetic R263-R281). The
same operations run in lanes and in routines (16_isa_tile_remote R341).
-/
namespace Sys2Proof.Machine

/-- An operation of one lane: from its form and the registers read for A, B, C and D to the registers written and the
conditions raised. -/
abbrev LaneOp := XrForm → List Reg → List Reg → List Reg → List Reg → List Reg × Conds

/-- A result with no condition. -/
def quiet (r : List Reg) : List Reg × Conds := (r, .none_)

/-! ## Integer types (Table 13.1) -/

/-- The integer format of a type code. -/
def tyFmt (code : Nat) : IFmt := ⟨code % 2 == 0, if code % 4 < 2 then 32 else 64⟩
/-- The tag of a type code. -/
def tyTag (code : Nat) : Tag := match code % 4 with | 0 => .i32 | 1 => .n32 | 2 => .i64 | _ => .n64
/-- Registers of a type code. -/
def tyRegs (code : Nat) : Nat := if code % 4 < 2 then 1 else 2

/-- A two-source integer operation modulo 2^n. -/
def intOp2 (g : IFmt → Int → Int → Int) : LaneOp := fun f a b _ _ =>
  let t := tyFmt f.s
  quiet (natRegs (tyTag f.s) (tyRegs f.s) (t.bits (g t (t.val (regsNat a)) (t.val (regsNat b)))))
/-- `add` (Table 13.2). -/
def opAdd : LaneOp := intOp2 (fun _ a b => a + b)
/-- `sub`. -/
def opSub : LaneOp := intOp2 (fun _ a b => a - b)
/-- `mul`. -/
def opMul : LaneOp := intOp2 (fun _ a b => a * b)
/-- `mulh`: the floor of A x B / 2^n. -/
def opMulh : LaneOp := intOp2 (fun t a b => (a * b) / 2 ^ t.width)
/-- `mad`. -/
def opMad : LaneOp := fun f a b c _ =>
  let t := tyFmt f.s
  quiet (natRegs (tyTag f.s) (tyRegs f.s) (t.bits (t.val (regsNat a) * t.val (regsNat b) + t.val (regsNat c))))
/-- `min`. -/
def opMin : LaneOp := intOp2 (fun _ a b => if b < a then b else a)
/-- `max`. -/
def opMax : LaneOp := intOp2 (fun _ a b => if a < b then b else a)

/-- Quotient, remainder and flag of R265. -/
def divide (t : IFmt) (a b : Int) : Nat × Nat × Bool :=
  if b = 0 then (2 ^ t.width - 1, t.bits a, true)
  else if t.signed ∧ a = t.lo ∧ b = -1 then (t.bits a, 0, true)
  else (t.bits (Int.tdiv a b), t.bits (a - b * Int.tdiv a b), false)
/-- `div` or `rem`. -/
def opDivide (rem : Bool) : LaneOp := fun f a b _ _ =>
  let t := tyFmt f.s
  let r := divide t (t.val (regsNat a)) (t.val (regsNat b))
  (natRegs (tyTag f.s) (tyRegs f.s) (if rem then r.2.1 else r.1), { Conds.none_ with dz := r.2.2 })

/-- `abs`. -/
def opAbs : LaneOp := fun f a _ _ _ =>
  let t := tyFmt f.s
  quiet (natRegs (tyTag f.s) (tyRegs f.s) (t.bits ((t.val (regsNat a)).natAbs : Int)))
/-- `neg`. -/
def opNeg : LaneOp := fun f a _ _ _ =>
  let t := tyFmt f.s
  quiet (natRegs (tyTag f.s) (tyRegs f.s) (t.bits (-(t.val (regsNat a)))))

/-- A truth value as an n32 register. -/
def boolReg (b : Bool) : Reg := ⟨if b then 1 else 0, .n32⟩
/-- `cmp` (R266): the type in SUB[3:2], the condition in SUB[1:0]. -/
def opCmp : LaneOp := fun f a b _ _ =>
  let t := tyFmt (f.s / 4)
  let x := t.val (regsNat a)
  let y := t.val (regsNat b)
  quiet [boolReg (match f.s % 4 with | 0 => decide (x = y) | 1 => decide (x ≠ y) | 2 => decide (x < y) | _ => decide (x ≤ y))]
/-- `sel`: moves A or B with its tags. -/
def opSel : LaneOp := fun _ a b c _ => quiet (if regsNat c ≠ 0 then a else b)
/-- `mov`: moves B with its tags. -/
def opMov : LaneOp := fun _ _ b _ _ => quiet b

/-- The bits of `lop3` (R267): bit i is T[x[i] + 2 y[i] + 4 z[i]]. -/
def lop3 (t x y z : Nat) : Word :=
  (List.range 32).foldl (fun acc i =>
    let k := (if bitAt x i then 1 else 0) + (if bitAt y i then 2 else 0) + (if bitAt z i then 4 else 0)
    if bitAt t k then acc ||| (1#32 <<< i) else acc) 0
/-- `lop3`. -/
def opLop3 : LaneOp := fun _ a b c d => quiet [⟨lop3 (regsNat b) (regsNat d) (regsNat a) (regsNat c), .bits⟩]

/-- `shl`. -/
def opShl : LaneOp := fun f a b _ _ => quiet (natRegs .bits f.rn (regsNat a * 2 ^ (regsNat b % f.n) % 2 ^ f.n))
/-- `shr`. -/
def opShr : LaneOp := fun f a b _ _ => quiet (natRegs .bits f.rn (regsNat a / 2 ^ (regsNat b % f.n)))
/-- `sar`. -/
def opSar : LaneOp := fun f a b _ _ =>
  let t : IFmt := ⟨true, f.n⟩
  quiet (natRegs (if f.n = 64 then .i64 else .i32) f.rn (t.bits (t.val (regsNat a) / 2 ^ (regsNat b % f.n))))
/-- `fshl`. -/
def opFshl : LaneOp := fun _ a b c _ =>
  quiet (natRegs .bits 1 ((regsNat a * 2 ^ 32 + regsNat b) * 2 ^ (regsNat c % 32) / 2 ^ 32))
/-- `fshr`. -/
def opFshr : LaneOp := fun _ a b c _ => quiet (natRegs .bits 1 ((regsNat a * 2 ^ 32 + regsNat b) / 2 ^ (regsNat c % 32)))

/-- Number of one bits below bit `n`. -/
def popBelow (x n : Nat) : Nat := ((List.range n).filter (fun i => bitAt x i)).length
/-- `pcnt`. -/
def opPcnt : LaneOp := fun f a _ _ _ => quiet (natRegs .n32 1 (popBelow (regsNat a) f.n))
/-- `clz`: n for zero. -/
def opClz : LaneOp := fun f a _ _ _ =>
  let x := regsNat a
  quiet (natRegs .n32 1 (if x = 0 then f.n else f.n - 1 - Nat.log2 x))
/-- `ctz`: n for zero. -/
def opCtz : LaneOp := fun f a _ _ _ =>
  quiet (natRegs .n32 1 (((List.range f.n).find? (fun i => bitAt (regsNat a) i)).getD f.n))
/-- `brev`. -/
def opBrev : LaneOp := fun f a _ _ _ =>
  quiet (natRegs .bits f.rn ((List.range f.n).foldl (fun acc i => if bitAt (regsNat a) (f.n - 1 - i) then acc + 2 ^ i else acc) 0))

/-- Position and length of a bit field (R268). -/
def fieldOf (b c : Nat) : Nat × Nat := let p := b % 32; (p, min (c % 64) (32 - p))
/-- `bfe`. -/
def opBfe : LaneOp := fun f a b c _ =>
  let (p, k) := fieldOf (regsNat b) (regsNat c)
  let x := regsNat a / 2 ^ p % 2 ^ k
  if f.s = 0 then quiet (natRegs .n32 1 x)
  else quiet (natRegs .i32 1 (if k ≠ 0 ∧ bitAt x (k - 1) then 2 ^ 32 - 2 ^ k + x else x))
/-- `bfi`. -/
def opBfi : LaneOp := fun _ a b c d =>
  let (p, k) := fieldOf (regsNat b) (regsNat c)
  let x := regsNat d
  quiet (natRegs .bits 1 (x / 2 ^ (p + k) * 2 ^ (p + k) + regsNat a % 2 ^ k * 2 ^ p + x % 2 ^ p))
/-- `lea` (R269): Z in SUB[3], the shift in SUB[2:0]. -/
def opLea : LaneOp := fun f a b _ _ =>
  let x := regsNat b
  let x := if f.s < 8 ∧ bitAt x 31 then 2 ^ 64 - 2 ^ 32 + x else x
  quiet (natRegs .n64 2 ((regsNat a + x * 2 ^ (f.s % 8)) % 2 ^ 64))
/-- `prmt` (R270). -/
def opPrmt : LaneOp := fun _ a b c _ =>
  let v := regsNat a * 2 ^ 32 + regsNat b
  let w := regsNat c
  let byte (i : Nat) : Nat :=
    let x := v / 2 ^ (8 * (w / 2 ^ (3 * i) % 8)) % 256
    if bitAt w (12 + i) then 0 else if bitAt w (16 + i) then (if bitAt x 7 then 255 else 0) else x
  quiet (natRegs .bits 1 (byte 0 + 256 * byte 1 + 65536 * byte 2 + 16777216 * byte 3))

/-! ## Floats (R271-R276) -/

/-- The conditions of float flags. -/
def FFlags.conds (f : FFlags) : Conds := ⟨false, f.inv, f.dz, f.ovf, f.unf⟩
/-- The format of a code: 0 f32, 1 h16x2, 2 b16x2, 3 f64. -/
def fltFmt (code : Nat) : Fmt := match code % 4 with | 0 => .f32 | 1 => .h16 | 2 => .b16 | _ => .f64
/-- The tag of a format code. -/
def fltTag (code : Nat) : Tag := match code % 4 with | 0 => .f32 | 1 => .h16x2 | 2 => .b16x2 | _ => .f64
/-- Whether a format code is packed. -/
def fltPacked (code : Nat) : Bool := code % 4 == 1 || code % 4 == 2
/-- Registers of a format code. -/
def fltRegs (code : Nat) : Nat := if code % 4 = 3 then 2 else 1

/-- Applies an operation to a value, or to each half of a packed one (R225). `shift` is where the high half's result goes. -/
def fltEach (code shift : Nat) (g : Fmt → Nat → Nat → Nat → Nat × FFlags) (a b c : Nat) : Nat × FFlags :=
  let f := fltFmt code
  if fltPacked code then
    let lo := g f (a % 65536) (b % 65536) (c % 65536)
    let hi := g f (a / 65536) (b / 65536) (c / 65536)
    (lo.1 + hi.1 * 2 ^ shift, lo.2.or hi.2)
  else g f a b c

/-- A float operation of Table 13.3. -/
def fltOp (code : XrForm → Nat) (g : XrForm → Fmt → Nat → Nat → Nat → Nat × FFlags) : LaneOp := fun f a b c _ =>
  let r := fltEach (code f) 16 (g f) (regsNat a) (regsNat b) (regsNat c)
  (natRegs (fltTag (code f)) (fltRegs (code f)) r.1, r.2.conds)
/-- `fadd`. -/
def opFadd : LaneOp := fltOp XrForm.s (fun _ f a b _ => f.add .rne (f.unpack a) (f.unpack b))
/-- `fsub`. -/
def opFsub : LaneOp := fltOp XrForm.s (fun _ f a b _ => f.add .rne (f.unpack a) (f.unpack b).negate)
/-- `fmul`. -/
def opFmul : LaneOp := fltOp XrForm.s (fun _ f a b _ => f.mul (f.unpack a) (f.unpack b))
/-- `ffma`. -/
def opFfma : LaneOp := fltOp XrForm.s (fun _ f a b c => f.fma (f.unpack a) (f.unpack b) (f.unpack c))
/-- `fmin`. -/
def opFmin : LaneOp := fltOp XrForm.s (fun _ f a b _ => f.minmax false a b)
/-- `fmax`. -/
def opFmax : LaneOp := fltOp XrForm.s (fun _ f a b _ => f.minmax true a b)
/-- `fabs`. -/
def opFabs : LaneOp := fltOp XrForm.s (fun _ f a _ _ => f.setSign false a)
/-- `fneg`. -/
def opFneg : LaneOp := fltOp XrForm.s (fun _ f a _ _ => f.setSign true a)
/-- `fdiv`. -/
def opFdiv : LaneOp := fltOp XrForm.s (fun _ f a b _ => f.div (f.unpack a) (f.unpack b))
/-- `fsqrt`. -/
def opFsqrt : LaneOp := fltOp XrForm.s (fun _ f a _ _ => f.sqrt (f.unpack a))
/-- `frcp`. -/
def opFrcp : LaneOp := fltOp XrForm.s (fun _ f a _ _ => f.rcp (f.unpack a))
/-- `frsq`. -/
def opFrsq : LaneOp := fltOp XrForm.s (fun _ f a _ _ => f.rsq (f.unpack a))
/-- `ex2s`. -/
def opEx2s : LaneOp := fltOp XrForm.s (fun _ f a b c => f.ex2s (f.unpack a) (f.unpack b) (f.unpack c))
/-- `lg2`. -/
def opLg2 : LaneOp := fltOp XrForm.s (fun _ f a _ _ => f.lg2 (f.unpack a))
/-- `frnd` (R276): the mode in SUB[3:2], the format in SUB[1:0]. -/
def opFrnd : LaneOp := fltOp (fun f => f.s % 4) (fun x f a _ _ => f.rnd (RMode.ofCode (x.s / 4)) a)
/-- `fcmp` (R274): the format in SUB[3:2], the condition in SUB[1:0]. -/
def opFcmp : LaneOp := fun x a b _ _ =>
  let r := fltEach (x.s / 4) 16 (fun f a b _ => let c := f.cmp x.s a b; (if c.1 then 1 else 0, c.2)) (regsNat a) (regsNat b) 0
  (natRegs .n32 1 r.1, r.2.conds)
/-- `fcls` (R275). -/
def opFcls : LaneOp := fun x a _ _ _ =>
  quiet (natRegs .n32 1 (fltEach x.s 16 (fun f a _ _ => (f.classOf a, .none)) (regsNat a) 0 0).1)

/-! ## Conversions and tags (R277-R280) -/

/-- The integer format of a conversion code below 4. -/
def cvtInt (code : Nat) : IFmt := tyFmt code
/-- The float format of a conversion code from 4. -/
def cvtFlt (code : Nat) : Fmt := match code with | 4 => .f32 | 5 => .f64 | 6 => .h16 | _ => .b16
/-- The tag of a conversion code. -/
def cvtTag (code : Nat) : Tag :=
  match code with | 0 => .i32 | 1 => .n32 | 2 => .i64 | 3 => .n64 | 4 => .f32 | 5 => .f64 | 6 => .h16x2 | _ => .b16x2
/-- Converts one value (R278). -/
def cvtOne (df sf : Nat) (m : RMode) (x : Nat) : Nat × FFlags :=
  if sf < 4 then
    let v := (cvtInt sf).val x
    if df < 4 then ((cvtInt df).bits ((cvtInt df).sat v), .none) else (cvtFlt df).ofInt m v
  else if df < 4 then (cvtFlt sf).toInt m (cvtInt df) x
  else (cvtFlt sf).convert (cvtFlt df) m x
/-- `cvt`: the selector in the B field: DF, SF and HALF. -/
def opCvt : LaneOp := fun x a _ c _ =>
  let df := (x.b.extractLsb' 0 4).toNat
  let sf := (x.b.extractLsb' 4 4).toNat
  let pick (v : Nat) : Nat := if sf < 6 then v else if x.b.getLsbD 8 then v / 65536 else v % 65536
  let m := RMode.ofCode x.s
  let lo := cvtOne df sf m (pick (regsNat a))
  if 6 ≤ df then
    let hi := cvtOne df sf m (pick (regsNat c))
    (natRegs (cvtTag df) 1 (lo.1 + 65536 * hi.1), (lo.2.or hi.2).conds)
  else (natRegs (cvtTag df) (if df = 2 ∨ df = 3 ∨ df = 5 then 2 else 1) lo.1, lo.2.conds)
/-- `ordf` (R279). -/
def opOrdf : LaneOp := fun x a _ _ _ =>
  let v := regsNat a
  match x.s with
  | 0 => let y := ordMap 32 v; quiet (natRegs .i64 2 (if bitAt y 31 then y + (2 ^ 64 - 2 ^ 32) else y))
  | 1 => quiet (natRegs .f32 1 (ordMap 32 (v % 2 ^ 32)))
  | 2 => quiet (natRegs .i64 2 (ordMap 64 v))
  | _ => quiet (natRegs .f64 2 (ordMap 64 v))
/-- `tagset` (R280). -/
def opTagset : LaneOp := fun x a _ _ _ => quiet (a.map (fun r => ⟨r.val, Tag.ofCode x.s⟩))
/-- `tagq` (R280). -/
def opTagq : LaneOp := fun _ a _ _ _ => quiet (a.map (fun r => ⟨BitVec.ofNat 32 r.tag.code, .n32⟩))

/-- The operation of an opcode that a routine body may hold (R339). -/
def laneOp (opc : Nat) : Option LaneOp :=
  match opc with
  | 0x20 => some opAdd | 0x21 => some opSub | 0x22 => some opMul | 0x23 => some opMulh | 0x24 => some opMad
  | 0x25 => some (opDivide false) | 0x26 => some (opDivide true) | 0x27 => some opMin | 0x28 => some opMax
  | 0x29 => some opAbs | 0x2A => some opNeg | 0x2B => some opCmp | 0x2C => some opSel | 0x2D => some opLop3
  | 0x2E => some opShl | 0x2F => some opShr | 0x30 => some opSar | 0x31 => some opFshl | 0x32 => some opFshr
  | 0x33 => some opPcnt | 0x34 => some opClz | 0x35 => some opCtz | 0x36 => some opBrev | 0x37 => some opBfe
  | 0x38 => some opBfi | 0x39 => some opMov | 0x3A => some opLea | 0x3B => some opPrmt
  | 0x40 => some opFadd | 0x41 => some opFsub | 0x42 => some opFmul | 0x43 => some opFfma | 0x44 => some opFmin
  | 0x45 => some opFmax | 0x46 => some opFabs | 0x47 => some opFneg | 0x48 => some opFcmp | 0x49 => some opFdiv
  | 0x4A => some opFsqrt | 0x4B => some opFrcp | 0x4C => some opFrsq | 0x4D => some opEx2s | 0x4E => some opLg2
  | 0x4F => some opFcls | 0x50 => some opFrnd | 0x58 => some opCvt
  | _ => none

/-! ## Lanes -/

/-- The registers that a lane reads for A, B, C and D of an XR form. -/
def Iss.operands (i : Iss) (fab : Fab) (u : XrUse) (f : XrForm) (l : Nat) : List Reg × List Reg × List Reg × List Reg :=
  let n (x : Option Use) : Nat := match x with | some u => u.regs | none => 0
  (fab.source i f.a.toNat (n u.a) f.ra l, if u.b.isSome then i.regsB fab f (n u.b) l else [],
    fab.source i f.c.toNat (n u.c) f.rc l, if u.dSrc then fab.source i f.d.toNat 1 0 l else [])

/-- Runs an operation in every active lane (R262): every source is read before any destination is written. -/
def elementwise (opc : Nat) (f : XrForm) (op : LaneOp) (i : Iss) (_ctl : Ctl) (fab : Fab) : Res :=
  match xrUse opc f with
  | none => .trap (.plain 0x02 0 i.entry)
  | some u => i.lanewise fab f.d.toNat (fun l => let (a, b, c, d) := i.operands fab u f l; op f a b c d)

/-- The meaning of an S3 form of an operation (R256). -/
def runS3 (opc : BitVec 8) (f : S3Form) (op : LaneOp) : State → Out := run (.s3 opc f) noGate (elementwise opc.toNat f.toXr op)
/-- The meaning of an SI form of a shift (R263). -/
def runSi (opc : BitVec 8) (f : SiForm) (op : LaneOp) : State → Out := run (.si opc f) noGate (elementwise opc.toNat f.toXr op)
/-- The meaning of an XR form of an operation. -/
def runXr (opc : BitVec 8) (f : XrForm) (op : LaneOp) : State → Out := run (.xr opc f) noGate (elementwise opc.toNat f op)

end Sys2Proof.Machine
end

