-- ==== Sys2Proof/Machine/System.lean ====
section
/-!
DEFINITION. Waiting, regions, register counts, fences, traps and returns, and the services of the operating system
(14_isa_control_system R290-R294, R298-R305; 05_scheduler R103, R104; 04_command_interface R94-R97).
-/
namespace Sys2Proof.Machine

/-! ## `nop`, `seal`, `wait` (R291) -/

/-- `nop`. -/
def bodyNop (_ : Iss) (_ : Ctl) (f : Fab) : Res := .done f

/-- Seals the open batch of a group; an empty batch with nothing older retires at once (R162). -/
def Fab.sealBatch (f : Fab) (c s : Nat) : Fab := (f.modGroup c s Group.seal).reapBatches c s
/-- `seal` waits while cp stands at its limit (R162). -/
def gateSeal (i : Iss) (f : Fab) : Bool :=
  !i.active.isEmpty && (match f.group? i.core i.slot with | some g => g.cp == 15 | none => false)
/-- `seal`. -/
def bodySeal (i : Iss) (_ : Ctl) (f : Fab) : Res := .done (if i.active.isEmpty then f else f.sealBatch i.core i.slot)

/-- Whether a threshold of `n` covers the operation numbered `ord` of a class of which `issued` have been issued
(R161, R177); a threshold at its limit of 15 covers none. -/
def covers (n ord issued : Nat) : Bool := n < 15 && ord + n ≤ issued
/-- Whether a `wait` covers an undelivered completion. -/
def Group.waitCovers (g : Group) (x : SwForm) : Undel → Bool
  | .record _ cls ord _ _ _ =>
    (match cls with
     | 2 => covers x.cp.toNat ord g.sealedCp
     | 3 => covers x.mx.toNat ord g.issuedMx
     | _ => covers x.cl.toNat ord g.issuedCl)
  | .held .. => false
  | .neg _ ord _ _ => covers x.cl.toNat ord g.issuedCl
/-- Place of an undelivered completion in issue order. -/
def Undel.seq : Undel → Nat | .record n .. => n | .held n .. => n | .neg n .. => n

/-- The negative completions that a `wait` retires without a trap: those that it covers, where TRNG is clear (R346). -/
def Group.sift (g : Group) (x : SwForm) : Group :=
  if g.gcw.getLsbD 4 then g else { g with undel := g.undel.filter (fun u => !((match u with | .neg .. => true | _ => false) && g.waitCovers x u)) }
/-- The completion that a `wait` delivers, if any (R177): the oldest record once any record is covered or the ring is full,
or a covered negative completion where TRNG is set, whichever operation was issued earlier; with a full ring the record is first. -/
def Group.delivers (g : Group) (x : SwForm) : Option Undel :=
  let recs := g.undel.filter Undel.inRing
  let full := 64 ≤ recs.length
  let rec_ := if full ∨ recs.any (g.waitCovers x) then recs.head? else none
  let neg := if !g.gcw.getLsbD 4 then none else g.undel.find? (fun u => (match u with | .neg .. => true | _ => false) && g.waitCovers x u)
  match rec_, neg with
  | some r, some n => if full ∨ r.seq ≤ n.seq then some r else some n
  | some r, none => some r
  | none, n => n

/-- The trap that delivers a completion (R177, R346): 0x0D with the record's address, or 0x0E with the reason. -/
def Undel.trap : Undel → Trap
  | .record _ _ _ k m _ => ⟨0x0D, 0, m, 0, BitVec.ofNat 64 (ringOff k)⟩
  | .held _ _ _ m _ => ⟨0x0D, 0, m, 0, 0⟩
  | .neg _ _ reason m => ⟨0x0E, reason.toNat, m, 0, 0⟩

/-- `wait` (R161, R162, R177, R291): seals a non-empty open batch where it names a cp threshold below 15, delivers a
completion that it covers unless its lanes have all ended, and holds the group, whatever other lanes its frontier gains, until every counter is at or below its
threshold. -/
def bodyWait (x : SwForm) (i : Iss) (_ : Ctl) (f : Fab) : Res :=
  match f.group? i.core i.slot with
  | none => .done f
  | some g =>
    let must := x.cp.toNat < 15 && !g.openBatch.isEmpty
    let closed (f : Fab) : Fab := if must && g.cp < 15 then f.sealBatch i.core i.slot else f
    let f' := closed f
    match f'.group? i.core i.slot with
    | none => .done f
    | some h =>
      match if i.entry.isEmpty then none else h.delivers x with
      | some u => .deferred (fun f => i.mod (closed f) (fun g => { g with undel := g.undel.erase u })) u.trap
      | none =>
        if (must && g.cp == 15) || x.ld.toNat < h.ld || x.st.toNat < h.st || x.cp.toNat < h.cp || x.mx.toNat < f'.mx i.core i.slot ||
            x.cl.toNat < h.cl then .wait (fun f => i.mod (closed f) (fun g => { g with hold := some (.wait (maskOf i.entry) i.pc x) }))
        else .done (i.mod f' (fun g => g.sift x))

/-- The `wait` that holds a group, as it stands at its PC. -/
def Group.waiting (g : Group) (c s : Nat) (t : Team) (entry : BitVec 64) (pc : Addr) (x : SwForm) : Iss :=
  let ls := (List.range g.lanes.length).filter (inMask entry)
  ⟨c, s, g.lanes.length, g.r, pc, (Enc.sw x).length, ls, ls, t.grid, t.ctx, g.gcw, g.trap.isSome⟩
/-- A group held in `wait` goes on once a completion that the `wait` covers can be delivered, or every counter is at or below its threshold
(R177, R291). -/
def Fab.waitGo (ctl : Ctl) (f : Fab) (c s : Nat) : Fab :=
  match (f.core c).team, f.group? c s with
  | some t, some g =>
    (match g.hold with
     | some (.wait entry pc x) =>
       if g.pendTrap.isSome ∨ g.malformed ≠ 0 ∨ f.entryWaits c s then f
       else
         let i := g.waiting c s t entry pc x
         let f0 := f.modGroup c s (fun g => { g with hold := none })
         (match bodyWait x i ctl (f0.advance i (Enc.sw x).hints) with
          | r => (match r.settle ctl f0 i with | .next f => f | _ => f))
     | _ => f)
  | _, _ => f
/-- Every group that is held in `wait` goes on where it can. -/
def Fab.waitsGo (ctl : Ctl) (f : Fab) : Fab :=
  f.cores.foldl (fun f k => match k.2.team with
    | none => f
    | some t => t.groups.foldl (fun f g => f.waitGo ctl k.1 g.slot) f) f

/-! ## Fences (R211, R292) -/

/-- Whether a group still has memory operations to perform: queued stores, or loads other than `rrd`. -/
def Group.memBusy (g : Group) : Bool := !g.storeQ.isEmpty || g.loads.any (fun o => o.kind != .rrd && !o.finished)
/-- `fence` issues once the group's older memory operations have performed. -/
def gateMem (i : Iss) (f : Fab) : Bool :=
  !i.active.isEmpty && (match f.group? i.core i.slot with | some g => g.memBusy | none => false)

/-- The value that an SI instruction takes from IMM8, or its XR form from B in the lowest active lane, where it is in the
range of Table 12.3; else trap 0x02 (R290). -/
def Iss.withValue (i : Iss) (f : Fab) (opc : Nat) (x : XrForm) (go : Nat → Res) : Res :=
  if i.active.isEmpty then .done f
  else
    let v := i.srcB f x 1 i.lowest
    if siRange opc v then go v else .trap (.plain 0x02 0 i.active)

/-- `fence`: a release at the scope, then an acquire at it. -/
def bodyFence (x : XrForm) (i : Iss) (ctl : Ctl) (f : Fab) : Res :=
  i.withValue f 0x07 x (fun v => .done ((f.l1Release ctl i.core v).l1Acquire ctl i.core v))

/-! ## Regions (R149, R293) -/

/-- The checkpoint that `rgn` at a PC records for a lane. -/
def Lane.checkpoint (x : Lane) (core slot l : Nat) (lit : DWord) (pc : Addr) : Checkpoint :=
  ⟨lit, (liveIns lit).map (fun n => x.priv core slot l n), pc, x.prio, x.enrolled, x.arrived, none⟩
/-- `rgn`: a new head and checkpoint for each active lane, whose deferral window closes; no effect in trap mode. -/
def bodyRgn (lit : DWord) (i : Iss) (_ : Ctl) (f : Fab) : Res :=
  if i.trapMode then .done f
  else .done (i.mod f (fun g => { g with lanes := g.lanes.mapIdx (fun l x =>
    if i.active.contains l then { x with ck := x.checkpoint i.core i.slot l lit i.pc, window := none } else x) }))

/-! ## `grow` and `shrink` (R103, R104, R294) -/

/-- Private registers of a core's register file (R99). -/
def regFile : Nat := 196608
/-- Registers that a group holds: none once it has ended, or while it waits for readmission (R102, R106). -/
def Group.holds (g : Group) : Nat := if g.ended || g.awaiting then 0 else g.r * g.lanes.length
/-- Free private registers of a core. -/
def Fab.freeRegs (f : Fab) (c : Nat) : Nat :=
  match (f.core c).team with
  | none => regFile
  | some t => regFile - (t.groups.map Group.holds).foldl (· + ·) 0
/-- Launch register count of a group's role. -/
def Grid.launchRegs (g : Grid) (consumer : Bool) : Nat := if consumer then g.rcons else g.rprod
/-- Whether a `grow` to `r` passes the capacity of R104. -/
def Fab.growFits (f : Fab) (i : Iss) (r : Nat) : Bool :=
  match (f.core i.core).team, f.gridOf i.core with
  | some t, some gr =>
    r * i.w + (t.groups.map (fun g => if g.slot == i.slot || g.ended then 0 else gr.launchRegs g.consumer * i.w)).foldl (· + ·) 0 ≤ regFile
  | _, _ => false
/-- Gives a group `r` registers per lane; the new ones read zero with tag raw (R294). -/
def Group.setRegs (g : Group) (r : Nat) : Group :=
  { g with r := r, lanes := g.lanes.map (fun x =>
      if x.status != .live then x
      else if g.r < r then
        { x with regs := (List.range (r - g.r)).foldl (fun t k =>
            if x.epoch.isNone then Table.erase t (g.r + k) else Table.set t (g.r + k) Reg.zero) x.regs }
      else { x with regs := x.regs.filter (fun e => e.1 < r) }) }
/-- Adds a request to a register queue, which is served in ascending slot (R103). -/
def insertReq (q : RegReq) : List RegReq → List RegReq
  | [] => [q]
  | x :: t => if q.slot < x.slot then q :: x :: t else x :: insertReq q t
/-- Whether any lane of the issuing group has its deferral window open. -/
def Fab.windowOpen (f : Fab) (c s : Nat) : Bool :=
  match f.group? c s with | some g => g.lanes.any (fun x => x.status == .live && x.window.isSome) | none => false

/-- When every group of a core that holds registers is parked in `grow` and the head of the register queue does not fit,
the one in the highest slot is to be pre-empted (R106). -/
def Fab.registerDeadlock (f : Fab) (c : Nat) : Fab :=
  match (f.core c).team, (f.core c).regQueue with
  | some t, q :: _ =>
    let holders := t.groups.filter (fun g => g.holds != 0)
    let inGrow (g : Group) : Bool := match g.hold with | some (.grow ..) => true | _ => false
    (match holders.getLast? with
     | some g =>
       if holders.all inGrow ∧ f.freeRegs c < q.regs ∧ !(holders.any (fun g => g.stop == some .registers)) then
         -- a group that is to stop with its hitch does so (R108)
         f.modGroup c g.slot (fun g => { g with stop := some (g.stop.getD .registers) })
       else f
     | none => f)
  | _, _ => f

/-- `grow`: granted at once, or the group parks in the register queue. -/
def bodyGrow (x : XrForm) (i : Iss) (_ : Ctl) (f : Fab) : Res :=
  i.withValue f 0x05 x (fun v =>
    let r := 8 * v
    if r < i.r then .trap (.plain 0x02 0 i.active)
    else if r = i.r then .done (f.commit i i.active)
    else if !f.growFits i r then .trap (.plain 0x12 0 i.active)
    else if (f.core i.core).regQueue.isEmpty ∧ (r - i.r) * i.w ≤ f.freeRegs i.core then
      .done ((i.mod f (fun g => g.setRegs r)).commit i i.active)
    else if f.windowOpen i.core i.slot then .trap (.plain 0x12 0 i.active)
    else
      let k := f.core i.core
      let f := f.setCore i.core { k with regQueue := insertReq ⟨i.slot, (r - i.r) * i.w, false⟩ k.regQueue }
      .done ((i.mod f (fun g => { g with hold := some (.grow (maskOf i.entry) (maskOf i.active) i.pc r) })).registerDeadlock i.core))
/-- `shrink`. -/
def bodyShrink (x : XrForm) (i : Iss) (_ : Ctl) (f : Fab) : Res :=
  i.withValue f 0x06 x (fun v =>
    let r := 8 * v
    if i.r < r then .trap (.plain 0x02 0 i.active)
    else .done ((i.mod f (fun g => if r = g.r then g else g.setRegs r)).commit i i.active))

/-! ## Traps and returns (R298, R299) -/

/-- `trap #n`. -/
def bodyTrap (x : XrForm) (i : Iss) (_ : Ctl) (f : Fab) : Res :=
  i.withValue f 0x08 x (fun v => .trap (.plain 0x10 v i.active))
/-- `brk`. -/
def bodyBrk (i : Iss) (_ : Ctl) (f : Fab) : Res := if i.active.isEmpty then .done f else .trap (.plain 0x11 0 i.active)
/-- A return that reads the frame reads it after the group's own stores to it (R156, R207). -/
def gateRti (i : Iss) (f : Fab) : Bool :=
  !i.active.isEmpty && (match f.group? i.core i.slot with | some g => !g.storeQ.isEmpty | none => false)
/-- `rti` and `rti.next`. -/
def bodyRti (next : Bool) (i : Iss) (ctl : Ctl) (f : Fab) : Res := if i.active.isEmpty then .done f else f.trapReturn ctl i next
/-- `rti.rgn`. -/
def bodyRtiRgn (i : Iss) (ctl : Ctl) (f : Fab) : Res := if i.active.isEmpty then .done f else f.trapRestart ctl i

/-! ## Service from the operating system (R94-R97, R301, R302) -/

/-- A `syscall` request (R94). -/
def Fab.sysRequest (f : Fab) (i : Iss) (token : Word) (l : Nat) : List Byte :=
  leBytes 4 token.toNat ++ leBytes 4 i.ctx ++ leBytes 8 (i.pc.toNat + 2 ^ 56 * l) ++ leBytes 8 (i.core + 2 ^ 16 * i.slot) ++
    leBytes 8 f.time.toNat ++ (List.range 8).flatMap (fun n => leBytes 4 (i.reg f n l).val.toNat)
/-- Token of a request, from its bytes. -/
def requestToken (b : List Byte) : Word := BitVec.ofNat 32 (fieldAt b 0 4)
/-- Posts the requests of lanes parked in `syscall` that are not posted yet, in ascending lane order, up to the first that
finds no room, and reports whether none is left and whether any was posted. The model's choice: a slice queue that cannot be reached, or
whose descriptor is bad, leaves them parked like a full one, to be tried again; its ESIZE is not checked (log 22). -/
def Fab.postRequests (ctl : Ctl) (f : Fab) (c s : Nat) (sysQ : DWord) (ctx : Nat) : List Nat → Bool × Bool × Fab
  | [] => (true, false, f)
  | l :: ls =>
    match f.lane? c s l with
    | some x => (match x.park with
      | some (.syscall none b) => (match f.enqueueVa ctl ctx sysQ.toNat b with
        | (.ok, f) =>
          let f := f.modLane c s l (fun x => { x with park := some (.syscall (some (requestToken b)) b) })
          let (all, _, f) := f.postRequests ctl c s sysQ ctx ls
          (all, true, f)
        | (_, f) => (false, false, f))
      | _ => f.postRequests ctl c s sysQ ctx ls)
    | none => f.postRequests ctl c s sysQ ctx ls
/-- `syscall`: each active lane parks with its request; one interrupt once all are posted. -/
def bodySyscall (x : XrForm) (i : Iss) (ctl : Ctl) (f : Fab) : Res :=
  i.withValue f 0x0A x (fun _ =>
    match f.ctx? i.ctx with
    | none => .done f
    | some c =>
      let f := i.active.foldl (fun f l =>
        let b := f.sysRequest i (Config.tokenBase + BitVec.ofNat 32 f.nextId) l
        let f := { f with nextId := f.nextId + 1 }
        f.modLane i.core i.slot l (fun y => { y with park := some (.syscall none b), parkNext := y.pc })) f
      let (all, _, f) := f.postRequests ctl i.core i.slot c.sysQ i.ctx i.active
      .done (if all then f.msi c.sysHart c.sysId else f))

/-- `irq`: one KIND 2 event; a full queue holds the group (R78, R96). A context whose EVQ is no event queue posts none. Its STATUS is 0, for
which the spec states no value (log 84). -/
def bodyIrq (x : XrForm) (i : Iss) (ctl : Ctl) (f : Fab) : Res :=
  i.withValue f 0x0B x (fun v =>
    match f.ctx? i.ctx, f.gridOf i.core with
    | some c, some g =>
      let data := leBytes 1 v ++ [0] ++ leBytes 2 i.core ++ leBytes 1 i.slot ++ leBytes 3 0 ++ leBytes 8 (maskOf i.active).toNat ++
        leBytes 8 i.pc.toNat
      if !(match Table.get? f.queues c.evq with | some q => q.valid && q.event | none => false) then .done (f.commit i i.active)
      else
        let f := i.mod f (fun g => { g with hold := some (.irq (maskOf i.entry) (maskOf i.active) i.pc) })
        .done (f.post ctl ⟨c.evq, eventBytes 2 0 i.ctx g.seq g.queue data, some (c.irqHart, c.irqId, i.core, i.slot)⟩)
    | _, _ => .done f)

/-- `sleep` with its mode and its time. -/
def Iss.sleepUntil (i : Iss) (f : Fab) (mode value : Nat) : Res :=
  .done (i.mod f (fun g => { g with hold := some (.sleep (maskOf i.entry) i.pc (if mode % 2 = 1 then f.time.toNat + value else value)) }))
/-- `sleep` (R302): `lit` is the time of the SI form with a literal. -/
def bodySleep (x : XrForm) (lit : Option DWord) (i : Iss) (_ : Ctl) (f : Fab) : Res :=
  i.withValue f 0x10 x (fun v =>
    i.sleepUntil f v (match lit with | some t => t.toNat | none => i.srcA f x 2 i.lowest))

/-! ## Identity, control word and exit (R303-R305) -/

/-- The value of a `sid` selector other than `time` in a lane (Table 14.3). -/
def Iss.ident (i : Iss) (ctl : Ctl) (f : Fab) (sel l : Nat) : Nat :=
  let t := (f.core i.core).team
  let g := f.gridOf i.core
  match sel with
  | 0 => l
  | 1 => i.slot
  | 2 => (match t with | some t => t.index | none => 0)
  | 3 => (match g with | some g => g.firstSeq.toNat | none => 0)
  | 4 => i.w
  | 5 => i.slot
  | 6 => (match f.group? i.core i.slot with | some g => if g.consumer then 1 else 0 | none => 0)
  | 7 => i.core
  | 8 => i.core / 8
  | 9 => i.core / 48
  | 10 => ctl.hdevid.toNat
  | 12 => (match g with | some g => g.nteams | none => 0)
  | _ => (match g with | some g => g.gprod + g.gcons | none => 0)
/-- `sid`: `time` needs an even D (R303). -/
def bodySid (x : XrForm) (i : Iss) (ctl : Ctl) (f : Fab) : Res :=
  i.withValue f 0x0D x (fun v =>
    if v = 11 then
      (if x.d.toNat % 2 = 1 then .trap (.plain 0x02 0 i.active) else i.pure f x.d.toNat (fun _ => natRegs .n64 2 f.time.toNat))
    else i.pure f x.d.toNat (fun l => natRegs .n32 1 (i.ident ctl f v l)))

/-- `gctl` (R304). -/
def bodyGctl (x : XrForm) (i : Iss) (_ : Ctl) (f : Fab) : Res :=
  if i.active.isEmpty then .done f
  else
    let b := BitVec.ofNat 32 (i.srcB f x 1 i.lowest)
    let new := match x.s with
      | 0 => i.gcw
      | 1 => b
      | 2 => i.gcw ||| b
      | _ => i.gcw &&& ~~~b
    let f := i.mod f (fun g => { g with gcw := gcwWrite i.gcw new })
    i.pure f x.d.toNat (fun _ => natRegs .n32 1 i.gcw.toNat)

/-- `exit`: each active lane ends. -/
def bodyExit (i : Iss) (ctl : Ctl) (f : Fab) : Res := .done (i.active.foldl (fun f l => f.exitLane ctl i.core i.slot l) f)

/-! ## Meanings -/

/-- NOP_SZ (R291). -/
def execNopSz (s : State) : Out := run (.sz 0x01) noGate bodyNop s
/-- NOP_XR (R291). -/
def execNopXr (f : XrForm) (s : State) : Out := run (.xr 0x01 f) noGate bodyNop s
/-- WAIT_SW (R291). -/
def execWaitSw (f : SwForm) (s : State) : Out := run (.sw f) noGate (bodyWait f) s
/-- SEAL_SZ (R291). -/
def execSealSz (s : State) : Out := run (.sz 0x03) gateSeal bodySeal s
/-- SEAL_XR (R291). -/
def execSealXr (f : XrForm) (s : State) : Out := run (.xr 0x03 f) gateSeal bodySeal s
/-- RGN_SZ (R149, R293). -/
def execRgnSz (ranges : DWord) (s : State) : Out := run (.rgn ranges) noGate (bodyRgn ranges) s
/-- GROW_SI (R294). -/
def execGrowSi (f : SiForm) (s : State) : Out := run (.si 0x05 f) noGate (bodyGrow f.toXr) s
/-- GROW_XR (R294). -/
def execGrowXr (f : XrForm) (s : State) : Out := run (.xr 0x05 f) noGate (bodyGrow f) s
/-- SHRINK_SI (R294). -/
def execShrinkSi (f : SiForm) (s : State) : Out := run (.si 0x06 f) noGate (bodyShrink f.toXr) s
/-- SHRINK_XR (R294). -/
def execShrinkXr (f : XrForm) (s : State) : Out := run (.xr 0x06 f) noGate (bodyShrink f) s
/-- FENCE_SI (R292). -/
def execFenceSi (f : SiForm) (s : State) : Out := run (.si 0x07 f) gateMem (bodyFence f.toXr) s
/-- FENCE_XR (R292). -/
def execFenceXr (f : XrForm) (s : State) : Out := run (.xr 0x07 f) gateMem (bodyFence f) s
/-- TRAP_SZ (R298). -/
def execTrapSz (f : SiForm) (s : State) : Out := run (.si 0x08 f) noGate (bodyTrap f.toXr) s
/-- TRAP_XR (R298). -/
def execTrapXr (f : XrForm) (s : State) : Out := run (.xr 0x08 f) noGate (bodyTrap f) s
/-- RTI_SZ (R299). -/
def execRtiSz (s : State) : Out := run (.sz 0x09) gateRti (bodyRti false) s
/-- RTI_XR (R299). -/
def execRtiXr (f : XrForm) (s : State) : Out := run (.xr 0x09 f) gateRti (bodyRti false) s
/-- RTI_NEXT_XR (R299). -/
def execRtiNextXr (f : XrForm) (s : State) : Out := run (.xr 0x09 f) gateRti (bodyRti true) s
/-- RTI_RGN_XR (R299). -/
def execRtiRgnXr (f : XrForm) (s : State) : Out := run (.xr 0x09 f) noGate bodyRtiRgn s
/-- SYSCALL_SI (R301). -/
def execSyscallSi (f : SiForm) (s : State) : Out := run (.si 0x0A f) noGate (bodySyscall f.toXr) s
/-- SYSCALL_XR (R301). -/
def execSyscallXr (f : XrForm) (s : State) : Out := run (.xr 0x0A f) noGate (bodySyscall f) s
/-- IRQ_SI (R301). -/
def execIrqSi (f : SiForm) (s : State) : Out := run (.si 0x0B f) noGate (bodyIrq f.toXr) s
/-- IRQ_XR (R301). -/
def execIrqXr (f : XrForm) (s : State) : Out := run (.xr 0x0B f) noGate (bodyIrq f) s
/-- BRK_SZ (R298). -/
def execBrkSz (s : State) : Out := run (.sz 0x0C) noGate bodyBrk s
/-- BRK_XR (R298). -/
def execBrkXr (f : XrForm) (s : State) : Out := run (.xr 0x0C f) noGate bodyBrk s
/-- SID_SI (R303). -/
def execSidSi (f : SiForm) (s : State) : Out := run (.si 0x0D f) noGate (bodySid f.toXr) s
/-- SID_XR (R303). -/
def execSidXr (f : XrForm) (s : State) : Out := run (.xr 0x0D f) noGate (bodySid f) s
/-- EXIT_SZ (R305). -/
def execExitSz (s : State) : Out := run (.sz 0x0E) noGate bodyExit s
/-- EXIT_XR (R305). -/
def execExitXr (f : XrForm) (s : State) : Out := run (.xr 0x0E f) noGate bodyExit s
/-- GCTL_XR (R304). -/
def execGctlXr (f : XrForm) (s : State) : Out := run (.xr 0x0F f) noGate (bodyGctl f) s
/-- SLEEP_SI (R302). -/
def execSleepSi (f : SiForm) (s : State) : Out := run (.si 0x10 f) noGate (bodySleep f.sleepXr f.lit) s
/-- SLEEP_XR (R302). -/
def execSleepXr (f : XrForm) (s : State) : Out := run (.xr 0x10 f) noGate (bodySleep f none) s
/-- REND_XR (R339): a routine terminator has no meaning on a core, which raises trap 0x01 (R257). -/
def execRendXr (_ : XrForm) (s : State) : Out := s.lift (s.fab.illegal s.ctl 12 0xC8 0x01)
/-- RDROP_XR (R339): as `rend`. -/
def execRdropXr (_ : XrForm) (s : State) : Out := s.lift (s.fab.illegal s.ctl 12 0xC9 0x01)
/-- ILLEGAL_OPCODE (R257). -/
def execIllegalOpcode (opc : BitVec 8) (s : State) : Out := s.lift (s.fab.illegal s.ctl 4 opc.toNat 0x01)

end Sys2Proof.Machine
end

