-- ==== Sys2Proof/Machine/Task.lean ====
section
/-!
DEFINITION. Tasks, bounds and incumbents (14_isa_control_system R295-R297, 06_incumbents_tasks R114-R132).
-/
namespace Sys2Proof.Machine

/-- How an instruction reaches the descriptor of a task queue of its grid (R126, R192, R309): the location, or the trap or
parking that its checks end in. -/
inductive QueueAt
  | at_ (loc : Loc) (f : Fab)
  | stop (r : Res)
  deriving Inhabited

/-- Stages 1 to 5 of R309 for a descriptor at a virtual address, for the active lanes (R326): a queue operation needs R and W, `qpoll`, which
writes nothing, too (R199). -/
def Iss.descAt (i : Iss) (ctl : Ctl) (f : Fab) (va : Nat) (acc : Access) : QueueAt :=
  if 2 ^ 48 ≤ va then .stop (.trap (.addr 0x0A i.active va))
  else if va % 64 ≠ 0 then .stop (.trap (.addr 0x0B i.active va))
  else match f.translate ctl (some i.core) i.ctx va acc with
    | (.fault r l, _) => .stop (.xlate i.active va acc r l)
    | (.perm, _) => .stop (.trap (.addr 0x0A i.active va))
    | (.ok loc pte, f) => if paKind loc.phys.1 = .mem ∧ ptePermits pte .atomic then .at_ loc f else .stop (.trap (.addr 0x0A i.active va))
/-- Reaches the descriptor of a task queue for the active lanes; it and the ring entries of the next `n` operations are checked
in the same step (R192, R326). -/
def Iss.queueAt (i : Iss) (ctl : Ctl) (f : Fab) (va : Nat) (esz : Nat) (enq : Bool) (n : Nat) : QueueAt :=
  match i.descAt ctl f va .atomic with
  | .stop r => .stop r
  | .at_ loc f => match f.queueCheck ctl (some i.core) i.ctx loc esz enq n with
    | (true, f) => .at_ loc f
    | (false, _) => .stop (.trap (.addr 0x0A i.active va))

/-! ## `tspawn` (R128, R295) -/

/-- The record that a lane builds from its sixteen registers, clamped to the lane's bound (R128). -/
def Fab.taskRecord (f : Fab) (i : Iss) (a l : Nat) : List Byte :=
  let word (k : Nat) : Nat := (i.reg f (a + k) l).val.toNat
  let w1 := BitVec.ofNat 32 (word 1) &&& 0xFF1FFFFF#32
  let bound := BitVec.ofNat 64 (word 2 + 2 ^ 32 * word 3)
  let (w1, bound) := match f.lane? i.core i.slot l, f.ctx? i.ctx with
    | some x, some c => (match x.bound with
      | none => (w1, bound)
      | some (b, k) =>
        ((w1 &&& 0xFFE0FFFF#32) ||| 0x100000#32 ||| (k.zeroExtend 32 <<< 16),
         if c.incMax k.toNat then (if b.slt bound then b else bound) else (if bound.slt b then b else bound)))
    | _, _ => (w1, bound)
  leBytes 4 (word 0) ++ leBytes 4 w1.toNat ++ leBytes 8 bound.toNat ++ (List.range 12).flatMap (fun k => leBytes 4 (word (4 + k)))

/-- Enqueues the records of lanes in turn; the lanes that find the queue full (R128). -/
def Fab.spawn (ctl : Ctl) (f : Fab) (i : Iss) (desc : Loc) (recs : List (Nat × List Byte)) : List Nat × Fab :=
  recs.foldl (fun (r : List Nat × Fab) p =>
    let f := r.2.modGrid i.grid (fun g => { g with tasks := g.tasks + 1 })
    match f.enqueue ctl (some i.core) i.ctx desc p.2 with
    | (.ok, f) => (r.1, f)
    | (_, f) => (r.1 ++ [p.1], f.modGrid i.grid (fun g => { g with tasks := g.tasks - 1 }))) ([], f)

/-- `tspawn`: a release at `.mod`, then one record per active lane; trap 0x14 afterwards for the lanes whose records found
the queue full. -/
def bodyTspawn (x : XrForm) (i : Iss) (ctl : Ctl) (f : Fab) : Res :=
  if i.active.isEmpty then .done f
  else match f.gridOf i.core with
    | none => .done f
    | some g =>
      let recs := i.active.map (fun l => (l, f.taskRecord i x.a.toNat l))
      let odd := recs.filter (fun p => (recPc p.2).toNat % 4 != 0)
      if g.ntq ≤ x.s then .trap (.plain 0x02 0 i.active)
      else match odd with
        | p :: ps => .trap (.addr 0x0B ((p :: ps).map (·.1)) (recPc p.2).toNat)
        | [] =>
          match i.queueAt ctl (f.l1Release ctl i.core 4) (g.tqs.getD x.s 0).toNat 2 true i.active.length with
          | .stop r => r
          | .at_ desc f =>
            let (full, f) := f.spawn ctl i desc recs
            let f := f.commit i i.active
            if full.isEmpty then .done f else .after f (.plain 0x14 0 full)

/-! ## `tnext` (R129, R296) -/

/-- Whether a lane holds a task (R127). -/
def Fab.holdsTask (f : Fab) (i : Iss) (l : Nat) : Bool := match f.lane? i.core i.slot l with | some x => x.task | none => false
/-- Steps 1 to 5 of R129 for a lane, and the malformed records met so far. -/
def Fab.tnextLane (ctl : Ctl) (i : Iss) (q : Nat) (desc : Loc) (r : List (Nat × DWord) × Fab) (l : Nat) : List (Nat × DWord) × Fab :=
  let f := if r.2.holdsTask i l then
      (r.2.modLane i.core i.slot l (fun x => { x with task := false })).taskDone ctl i.grid else r.2
  match f.takeTask ctl i.ctx i.grid i.core i.slot l i.pc q desc (f.takeFuel ctl i.ctx desc) with
  | (.installed, f) => (r.1, f.installed ctl i.core i.slot l)
  | (.malformed w, f) => (r.1 ++ [(l, w)], f.installed ctl i.core i.slot l)
  | (.done, f) => (r.1, f.commit i [l])
  | (_, f) => (r.1, f)

/-- `tnext`: each active lane gives back its task and takes the next record, parks, or falls through. -/
def bodyTnext (x : XrForm) (i : Iss) (ctl : Ctl) (f : Fab) : Res :=
  if i.active.isEmpty then .done f
  else match f.gridOf i.core with
    | none => .done f
    | some g =>
      if g.ntq ≤ x.s then .trap (.plain 0x02 0 i.active)
      else
        let left := g.tasks.toNat - (if f.holdsTask i i.lowest then 1 else 0)
        let go (desc : Loc) (f : Fab) : Res :=
          let (bad, f) := i.active.foldl (Fab.tnextLane ctl i x.s desc) ([], f)
          match bad with
          | [] => .done f
          | b :: bs => .after f ⟨0x02, 1, maskOf ((b :: bs).map (·.1)), b.2, 0⟩
        if left = 0 then go (.scr 0 0) f
        else match i.queueAt ctl f (g.tqs.getD x.s 0).toNat 2 false (2 ^ 20) with
          | .stop r => r
          | .at_ desc f => go desc f

/-! ## Bounds and incumbents (R297) -/

/-- `bnd`: each active lane becomes bounded or unbound, and dominated lanes are cancelled. -/
def bodyBnd (x : XrForm) (i : Iss) (ctl : Ctl) (f : Fab) : Res :=
  if i.active.isEmpty then .done f
  else
    let f := i.active.foldl (fun f' l => f'.modLane i.core i.slot l (fun y => { y with
      bound := if x.c.getLsbD 0 then none else some (BitVec.ofNat 64 (i.srcB f x 2 l), x.sub) })) f
    .done (f.cancelCore ctl i.core)
/-- `incx.rel` releases the group's older memory operations. -/
def gateIncx (x : XrForm) (i : Iss) (f : Fab) : Bool := x.c.getLsbD 0 && gateMem i f
/-- Offers a value to a core's replica of an incumbent: it lands only if it improves (R116), and dominated lanes are
cancelled (R121). -/
def Fab.offer (ctl : Ctl) (f : Fab) (core ctx inc : Nat) (v : DWord) : Fab :=
  match f.ctx? ctx with
  | none => f
  | some c => if c.improves inc v (f.coreInc core ctx inc) then (f.setCoreInc core ctx inc v).cancelCore ctl core else f
/-- `incx`: the best offer of the active lanes. -/
def bodyIncx (x : XrForm) (i : Iss) (ctl : Ctl) (f : Fab) : Res :=
  match i.active.map (fun l => BitVec.ofNat 64 (i.srcB f x 2 l)), f.ctx? i.ctx with
  | v :: vs, some c =>
    let f := if x.c.getLsbD 0 then f.l1Release ctl i.core 4 else f
    .done (f.offer ctl i.core i.ctx x.s (vs.foldl (fun a b => c.better x.s a b) v))
  | _, _ => .done f
/-- `incr`: the core replica's value. -/
def bodyIncr (x : XrForm) (i : Iss) (ctl : Ctl) (f : Fab) : Res :=
  let f := if x.c.getLsbD 0 ∧ !i.active.isEmpty then f.l1Acquire ctl i.core 4 else f
  i.pure f x.d.toNat (fun _ => natRegs .i64 2 (f.coreInc i.core i.ctx x.s).toNat)

/-- TSPAWN_XR (R295). -/
def execTspawnXr (f : XrForm) (s : State) : Out := run (.xr 0x74 f) gateMem (bodyTspawn f) s
/-- TNEXT_XR (R296). -/
def execTnextXr (f : XrForm) (s : State) : Out := run (.xr 0x75 f) noGate (bodyTnext f) s
/-- BND_XR (R297). -/
def execBndXr (f : XrForm) (s : State) : Out := run (.xr 0x76 f) noGate (bodyBnd f) s
/-- INCX_XR (R297). -/
def execIncxXr (f : XrForm) (s : State) : Out := run (.xr 0x77 f) (gateIncx f) (bodyIncx f) s
/-- INCR_XR (R297). -/
def execIncrXr (f : XrForm) (s : State) : Out := run (.xr 0x78 f) noGate (bodyIncr f) s

end Sys2Proof.Machine
end

