-- ==== Sys2Proof/Machine/MemInstr.lean ====
section
/-!
DEFINITION. Loads, stores, atomics, cache and line instructions, barriers, queues and presence (15_isa_memory R310-R316,
R325-R330).
-/
namespace Sys2Proof.Machine

/-! ## Entering the counters (R160) -/

/-- Adds a load to a group. -/
def Group.addLoad (g : Group) (o : LoadOp) : Group := { g with loads := g.loads ++ [o] }
/-- Adds an entry to a store queue. -/
def Group.addStore (g : Group) (o : StoreOp) : Group := { g with storeQ := g.storeQ ++ [o], nextSeq := g.nextSeq + 1 }
/-- Enters a store-queue entry of the issuing group. -/
def Iss.pushStore (i : Iss) (f : Fab) (scope : Nat) (kind : StoreKind) (pieces : List Piece) : Fab :=
  i.mod f (fun g => g.addStore ⟨g.nextSeq, i.pc, scope, kind, pieces⟩)
/-- Enters a load of the issuing group, with a fresh sequence number. -/
def Iss.pushLoad (i : Iss) (f : Fab) (scope : Nat) (kind : LoadKind) (d : RegNo) (bytes : Nat) (signed : Bool) (tag : Tag)
    (locs : List (Nat × Loc)) : Fab :=
  i.mod f (fun g => { g.addLoad ⟨g.nextSeq, i.pc, scope, kind, d, bytes, signed, tag, locs.map (fun p => ⟨p.1, p.2, false, false⟩)⟩ with
    nextSeq := g.nextSeq + 1 })

/-- A load does not issue while ld stands at its limit. -/
def gateLd (i : Iss) (f : Fab) : Bool :=
  !i.active.isEmpty && (match f.group? i.core i.slot with | some g => 31 ≤ g.ld | none => false)
/-- A store does not issue while st stands at its limit. -/
def gateSt (i : Iss) (f : Fab) : Bool :=
  !i.active.isEmpty && (match f.group? i.core i.slot with | some g => 31 ≤ g.st | none => false)
/-- An atomic that returns a value counts in both. -/
def gateLdSt (i : Iss) (f : Fab) : Bool := gateLd i f || gateSt i f

/-- Runs an instruction of the active lanes through the stages of R309 and the presence check. -/
def Iss.withLocs (i : Iss) (ctl : Ctl) (f : Fab) (x : XmForm) (align n : Nat) (acc : Access) (load : Bool)
    (go : List (Nat × Loc) → Fab → Res) : Res :=
  if i.active.isEmpty then .done f
  else
    let ws := i.wants f x align
    match f.reach ctl i ws n acc with
    | .stop r => r
    | .ok locs f' =>
      match f'.absentLanes ws locs n with
      | [] => go locs f'
      | a => i.parkAbsent load a

/-! ## `ld` and `st` (R310, R311) -/

/-- `ld`. -/
def bodyLd (x : XmForm) (i : Iss) (ctl : Ctl) (f : Fab) : Res :=
  let n := sizeBytes x.size.toNat
  i.withLocs ctl f x n n .load true (fun locs f =>
    .done (i.pushLoad f x.scope.toNat (.mem (x.sub == 1)) x.d n (x.aux.getLsbD 4) (Tag.ofCode (x.aux.toNat % 16)) locs))
/-- `st`. -/
def bodySt (x : XmForm) (i : Iss) (ctl : Ctl) (f : Fab) : Res :=
  let n := sizeBytes x.size.toNat
  i.withLocs ctl f x n n .store false (fun locs f =>
    .done (i.pushStore f x.scope.toNat (.store (x.sub == 1)) (locs.map (fun p => ⟨p.1, p.2, i.regBytes f x.b.toNat n p.1, []⟩))))

/-! ## Atomics (R312, R313) -/

/-- Signed value of an n-bit number. -/
def signedOf (n x : Nat) : Int := (BitVec.ofNat n x).toInt
/-- The new value of an `atom` operation on n bits (Table 15.2). -/
def atomValue (op n old b : Nat) : Nat :=
  match op with
  | 0 => (old + b) % 2 ^ n
  | 1 => if signedOf n b < signedOf n old then b else old
  | 2 => if signedOf n old < signedOf n b then b else old
  | 3 => min old b
  | 4 => max old b
  | 5 => old &&& b
  | 6 => old ||| b
  | 7 => old ^^^ b
  | 8 => b
  | _ => (Fmt.f32.add .rne (Fmt.f32.unpack old) (Fmt.f32.unpack b)).1
/-- The tag of an `atom`'s old value (Table 15.2). -/
def atomTag (op n : Nat) : Tag :=
  match op with
  | 0 => if n = 4 then .i32 else .i64
  | 1 => if n = 4 then .i32 else .i64
  | 2 => if n = 4 then .i32 else .i64
  | 3 => if n = 4 then .n32 else .n64
  | 4 => if n = 4 then .n32 else .n64
  | 5 => .bits
  | 6 => .bits
  | 7 => .bits
  | 8 => .raw
  | _ => .f32

/-- Enters an atomic: its store-queue entry, and under the same number the load that returns its old value. -/
def Iss.pushAtomic (i : Iss) (f : Fab) (x : XmForm) (kind : StoreKind) (pieces : List Piece) (ret : Option Tag) : Fab :=
  let f := match ret with
    | some tag => i.mod f (fun g => g.addLoad ⟨g.nextSeq, i.pc, x.scope.toNat, .ret, x.d, sizeBytes x.size.toNat, false, tag,
        pieces.map (fun p => ⟨p.lane, p.loc, false, false⟩)⟩)
    | none => f
  (i.pushStore f x.scope.toNat kind pieces).commit i i.active
/-- `atom`. -/
def bodyAtom (x : XmForm) (i : Iss) (ctl : Ctl) (f : Fab) : Res :=
  let n := sizeBytes x.size.toNat
  let op := x.aux.toNat % 16
  let ret := x.aux.getLsbD 4
  i.withLocs ctl f x n n .atomic false (fun locs f =>
    .done (i.pushAtomic f x (.atom op x.sub.toNat ret) (locs.map (fun p => ⟨p.1, p.2, i.regBytes f x.b.toNat n p.1, []⟩))
      (if ret then some (atomTag op n) else none)))
/-- `atom` counts in ld as well where it returns. -/
def gateAtom (x : XmForm) (i : Iss) (f : Fab) : Bool := gateSt i f || (x.aux.getLsbD 4 && gateLd i f)
/-- `cas`. -/
def bodyCas (x : XmForm) (i : Iss) (ctl : Ctl) (f : Fab) : Res :=
  let n := sizeBytes x.size.toNat
  i.withLocs ctl f x n n .atomic false (fun locs f =>
    .done (i.pushAtomic f x (.cas x.sub.toNat)
      (locs.map (fun p => ⟨p.1, p.2, i.regBytes f x.b.toNat n p.1, i.regBytes f x.d.toNat n p.1⟩)) (some .raw)))

/-! ## Cache and line instructions (R314-R316) -/

/-- Fetches the line of an address as a hint, where nothing would fault. -/
def Fab.prefetch (ctl : Ctl) (f : Fab) (i : Iss) (l1 : Bool) (va : Nat) : Fab :=
  if 2 ^ 48 ≤ va then f
  else match f.translate ctl (some i.core) i.ctx va .load with
    | (.ok (.glob _ pa key home cache) _, f') =>
      let line := pa.toNat / 256 * 256
      if paKind pa.toNat ≠ .mem ∨ cache = 2 then f'
      else if l1 ∧ cache = 0 then (f'.load ctl i.core i.ctx key home 0 line 256).2
      else (f'.l2Read ctl (some i.core) i.ctx key home line 256).2
    | _ => f
/-- `pf`. -/
def bodyPf (x : XmForm) (i : Iss) (ctl : Ctl) (f : Fab) : Res :=
  .done (i.active.foldl (fun f' l => f'.prefetch ctl i (x.sub == 1) (i.addr f 0 x.a.toNat (xmOff x) l)) f)

/-- `pin`. -/
def bodyPin (x : XmForm) (i : Iss) (ctl : Ctl) (f : Fab) : Res :=
  i.withLocs ctl f x 1 1 .load false (fun locs f => .done (i.pushLoad f 0 .pin x.d 1 false .n32 locs))
/-- `unpin`. -/
def bodyUnpin (x : XmForm) (i : Iss) (ctl : Ctl) (f : Fab) : Res :=
  i.withLocs ctl f x 1 1 .load false (fun locs f => .done (i.pushStore f 0 .unpin (locs.map (fun p => ⟨p.1, p.2, [], []⟩))))
/-- `cfl`. -/
def bodyCfl (x : XmForm) (i : Iss) (ctl : Ctl) (f : Fab) : Res :=
  i.withLocs ctl f x 1 1 .load false (fun locs f => .done (i.pushStore f 0 (.cfl (x.sub == 1)) (locs.map (fun p => ⟨p.1, p.2, [], []⟩))))

/-- Invalidates the sectors of an L1 line that hold no dirty byte (R316). -/
def Fab.l1InvalidateClean (f : Fab) (c line : Nat) : Fab :=
  match (f.core c).l1Find line with
  | none => f
  | some l => f.l1Put c ((List.range 4).foldl (fun l s =>
      if l.dirty &&& runMask (s * 64) 64 = 0 then
        { l with filled := l.filled &&& ~~~(1#4 <<< s), own := l.own &&& ~~~runMask (s * 64) 64, stale := l.stale &&& ~~~runMask (s * 64) 64,
                 bytes := l.bytes.writeBytes (s * 64) (List.replicate 64 0) }
      else l) l)
/-- `cinv.d`: stages 2 and 4 of R309; a lane whose page refuses it does nothing. -/
def cinvData (x : XmForm) (i : Iss) (ctl : Ctl) (f : Fab) : Res :=
  let ws := i.wants f x 1
  match f.stages123 i.core ws with
  | some t => .trap t
  | none =>
    let (out, f) := ws.foldl (fun (r : List (Want × Xlate) × Fab) w =>
      let (y, f) := r.2.translate ctl (some i.core) i.ctx w.addr .load
      (r.1 ++ [(w, y)], f)) ([], f)
    match out.filterMap (fun p => match p.2 with | .fault r l => some (p.1, r, l) | _ => none) with
    | (w, r, l) :: t => .xlate (lanesOf (((w, r, l) :: t).map (·.1))) w.addr .load r l
    | [] => .done (out.foldl (fun f p => match p.2 with
        | .ok loc _ => if paKind loc.phys.1 = .mem then f.l1InvalidateClean i.core (loc.phys.1 / 256) else f
        | _ => f) f)
/-- `cinv.i`: drops the words of the 256-byte line from the instruction cache; `cinv.iall` drops every word (R316). -/
def cinvInstr (x : XmForm) (i : Iss) (f : Fab) : Res :=
  let ws := i.wants f x 1
  match f.stages123 i.core ws with
  | some t => .trap t
  | none =>
    let k := f.core i.core
    .done (f.setCore i.core { k with icache := k.icache.filter (fun w => !(w.ctx == i.ctx && ws.any (fun y => y.addr / 256 == w.va / 256))) })
/-- `cinv`. -/
def bodyCinv (x : XmForm) (i : Iss) (ctl : Ctl) (f : Fab) : Res :=
  if i.active.isEmpty then .done f
  else match x.sub.toNat with
    | 0 => cinvInstr x i f
    | 1 => cinvData x i ctl f
    | _ => let k := f.core i.core; .done (f.setCore i.core { k with icache := [] })

/-! ## Barriers (R325) -/

/-- Runs an instruction that acts once on a barrier object of a scratchpad. -/
def Iss.withBar (i : Iss) (ctl : Ctl) (f : Fab) (x : XmForm) (go : Loc → Fab → Res) : Res :=
  if i.active.isEmpty then .done f
  else match f.reachOnce ctl i x 16 16 .atomic with
    | .stop r => r
    | .ok locs f => (match locs with | p :: _ => go p.2 f | [] => .done f)
/-- `bari`. -/
def bodyBari (x : XmForm) (i : Iss) (ctl : Ctl) (f : Fab) : Res :=
  i.withBar ctl f x (fun loc f =>
    let b := (i.reg f x.b.toNat i.lowest).val
    if b = 0 ∨ 65536 ≤ b.toNat then .trap (.plain 0x02 0 i.active)
    else .done (i.pushStore f 1 (.bari (BitVec.ofNat 16 b.toNat)) [⟨i.lowest, loc, [], []⟩]))
/-- `barv`. -/
def bodyBarv (x : XmForm) (i : Iss) (ctl : Ctl) (f : Fab) : Res :=
  i.withBar ctl f x (fun loc f => .done ((i.pushStore f 1 .barv [⟨i.lowest, loc, [], []⟩]).commit i i.active))
/-- `barx`. -/
def bodyBarx (x : XmForm) (i : Iss) (ctl : Ctl) (f : Fab) : Res :=
  i.withBar ctl f x (fun loc f =>
    .done ((i.pushStore f 1 (.barx (i.reg f x.b.toNat i.lowest).val) [⟨i.lowest, loc, [], []⟩]).commit i i.active))
/-- Whether a store-queue entry updates a barrier. -/
def StoreKind.onBar : StoreKind → Bool | .bari _ => true | .barv => true | .barx _ => true | _ => false
/-- `barw`: reads the barrier after the group's own updates to it; lanes park while its phase is B[0]. -/
def bodyBarw (x : XmForm) (i : Iss) (ctl : Ctl) (f : Fab) : Res :=
  i.withBar ctl f x (fun loc f =>
    match loc, f.group? i.core i.slot with
    | .scr c a, some g =>
      if g.storeQ.any (fun o => o.kind.onBar && o.pieces.any (fun p => p.loc == loc)) then .wait id
      else
        let ph := (i.reg f x.b.toNat i.lowest).val.getLsbD 0
        if f.barPhase c a != ph then .done (if c = i.core then f else f.l1Acquire ctl i.core 2)
        else .done (i.active.foldl (fun f l => f.modLane i.core i.slot l (fun y => { y with park := some (.barw c a ph), parkNext := y.pc })) f)
    | _, _ => .done f)

/-! ## Slice queues (R326-R329) -/

/-- Order options: whether one acquires, and whether it releases (R212). -/
def ordAcq (order : Nat) : Bool := order == 1 || order == 3
/-- Release. -/
def ordRel (order : Nat) : Bool := 2 ≤ order
/-- Enters the request of a queue instruction in the store queue, once the descriptor's address has passed stages 1 to 5 of R309; each
active lane parks until the slice has answered it (R326, R327). -/
def Iss.pushQueue (i : Iss) (ctl : Ctl) (f : Fab) (x : XmForm) (kind : StoreKind) (data : Nat → List Byte) : Res :=
  if i.active.isEmpty then .done f
  else match i.descAt ctl f (i.addr f 0 x.a.toNat (xmOff x) i.lowest) .atomic with
    | .stop r => r
    | .at_ desc f =>
      let f := i.pushStore f x.scope.toNat kind (i.active.map (fun l => ⟨l, desc, data l, []⟩))
      .done (i.active.foldl (fun f l => f.modLane i.core i.slot l (fun y => { y with park := some .queue, parkNext := y.pc })) f)
/-- `qenq`: the request carries the block of each lane. -/
def bodyQenq (x : XmForm) (i : Iss) (ctl : Ctl) (f : Fab) : Res :=
  i.pushQueue ctl f x (.qenq (x.aux.toNat % 4) x.sub.toNat x.d) (fun l => i.regBytes f x.b.toNat (entryBytes (x.aux.toNat % 4)) l)
/-- `qdeq`. -/
def bodyQdeq (x : XmForm) (i : Iss) (ctl : Ctl) (f : Fab) : Res :=
  i.pushQueue ctl f x (.qdeq (x.aux.toNat % 4) x.sub.toNat x.d) (fun _ => [])
/-- `qpoll`: the number of entries, in every active lane. -/
def bodyQpoll (x : XmForm) (i : Iss) (ctl : Ctl) (f : Fab) : Res :=
  if i.active.isEmpty then .done f
  else
    let va := i.addr f 0 x.a.toNat (xmOff x) i.lowest
    match i.descAt ctl f va .load with
    | .stop r => r
    | .at_ loc f => match f.queueGet ctl (some i.core) i.ctx loc with
      | (none, _) => .trap (.addr 0x0A i.active va)
      | (some q, f) =>
        let f := if x.sub = 1 then f.l1Acquire ctl i.core x.scope.toNat else f
        i.pure f x.d.toNat (fun _ => natRegs .n32 1 q.held)
/-- `qpoll` performs after the group's older memory operations, with room in ld. -/
def gateQpoll (i : Iss) (f : Fab) : Bool := gateLd i f || gateMem i f

/-! ## Presence by hand (R330) -/

/-- `pres`: `.clr` waits at issue while a pending count would pass 15; `.set` is a release at `.core`, or at `.clu` for a sector of a
hitch scratchpad. -/
def bodyPres (x : XmForm) (i : Iss) (ctl : Ctl) (f : Fab) : Res :=
  if i.active.isEmpty then .done f
  else match f.reach ctl i (i.wants f x 1) 1 .load with
    | .stop r => r
    | .ok locs f =>
      let pieces : List Piece := locs.map (fun p => ⟨p.1, p.2, [], []⟩)
      match x.sub.toNat with
      | 0 => .done (i.pushLoad f 1 .presq x.d 1 false .n32 locs)
      | 1 => .done (i.pushStore f (if x.as = 2 then 2 else 1) .presSet pieces)
      | _ =>
        if f.pendFull (pieces.map (·.loc)) then .wait id else .done (i.pushStore f 1 .presClr pieces)
/-- `pres.q` counts in ld, the others in st. -/
def gatePres (x : XmForm) (i : Iss) (f : Fab) : Bool := if x.sub = 0 then gateLd i f else gateSt i f

/-! ## Meanings -/

/-- LD_XM (R310). -/
def execLdXm (f : XmForm) (s : State) : Out := run (.xm 0x80 f) gateLd (bodyLd f) s
/-- ST_XM (R311). -/
def execStXm (f : XmForm) (s : State) : Out := run (.xm 0x81 f) gateSt (bodySt f) s
/-- ATOM_XM (R312). -/
def execAtomXm (f : XmForm) (s : State) : Out := run (.xm 0x82 f) (gateAtom f) (bodyAtom f) s
/-- CAS_XM (R313). -/
def execCasXm (f : XmForm) (s : State) : Out := run (.xm 0x83 f) gateLdSt (bodyCas f) s
/-- PF_XM (R314). -/
def execPfXm (f : XmForm) (s : State) : Out := run (.xm 0x84 f) noGate (bodyPf f) s
/-- PIN_XM (R315). -/
def execPinXm (f : XmForm) (s : State) : Out := run (.xm 0x85 f) gateLd (bodyPin f) s
/-- UNPIN_XM (R315). -/
def execUnpinXm (f : XmForm) (s : State) : Out := run (.xm 0x86 f) gateSt (bodyUnpin f) s
/-- CFL_XM (R316). -/
def execCflXm (f : XmForm) (s : State) : Out := run (.xm 0x87 f) gateSt (bodyCfl f) s
/-- CINV_XM (R316). -/
def execCinvXm (f : XmForm) (s : State) : Out := run (.xm 0x88 f) noGate (bodyCinv f) s
/-- BARI_XM (R325). -/
def execBariXm (f : XmForm) (s : State) : Out := run (.xm 0x8B f) gateSt (bodyBari f) s
/-- BARV_XM (R325). -/
def execBarvXm (f : XmForm) (s : State) : Out := run (.xm 0x8C f) gateSt (bodyBarv f) s
/-- BARW_XM (R325). -/
def execBarwXm (f : XmForm) (s : State) : Out := run (.xm 0x8D f) noGate (bodyBarw f) s
/-- BARX_XM (R325). -/
def execBarxXm (f : XmForm) (s : State) : Out := run (.xm 0x8E f) gateSt (bodyBarx f) s
/-- QENQ_XM (R327). -/
def execQenqXm (f : XmForm) (s : State) : Out := run (.xm 0x8F f) gateSt (bodyQenq f) s
/-- QDEQ_XM (R328). -/
def execQdeqXm (f : XmForm) (s : State) : Out := run (.xm 0x90 f) gateSt (bodyQdeq f) s
/-- QPOLL_XM (R329). -/
def execQpollXm (f : XmForm) (s : State) : Out := run (.xm 0x91 f) gateQpoll (bodyQpoll f) s
/-- PRES_XM (R330). -/
def execPresXm (f : XmForm) (s : State) : Out := run (.xm 0x92 f) (gatePres f) (bodyPres f) s

end Sys2Proof.Machine
end

