-- ==== Sys2Proof/Machine/Knot.lean ====
section
/-!
DEFINITION. The knot formats (11_number_formats R229-R233): packing 16 values into a block, and the values of a block.
-/
namespace Sys2Proof.Machine

/-- Bits per element of a knot format (Table 11.4): K2, K4 and K7. -/
def knotWidth (code : Nat) : Nat := match code with | 0 => 3 | 1 => 5 | _ => 8

/-- A magnitude m 2^e with infinities replaced by the largest finite f32 (R232). -/
def FVal.mag : FVal → Nat × Int
  | .nan _ => (0, 0)
  | .inf _ => (2 ^ 24 - 1, 104)
  | .num _ m e => (m, e)
/-- Whether a magnitude is below 2^k. -/
def magBelow (x : Nat × Int) (k : Int) : Bool := x.1 == 0 || leadExp x.1 x.2 < k

/-- Converts 16 values into a block (R232): the element field and the scale word. -/
def knotPack (w : Nat) (xs : List FVal) : Nat × Nat :=
  if xs.any FVal.isNan then (0, 0xFF00)
  else
    let mags := xs.map FVal.mag
    let e : Int := match (mags.filter (fun x => x.1 != 0)).map (fun x => leadExp x.1 x.2) with
      | [] => 1
      | l :: ls => max 1 (min 254 (ls.foldl max l + 127))
    let low (k : Nat) : Bool := magBelow (mags.getD (2 * k) (0, 0)) (e - 128) && magBelow (mags.getD (2 * k + 1) (0, 0)) (e - 128)
    let mu := (List.range 8).foldl (fun a k => if low k then a + 2 ^ k else a) 0
    let code (i : Nat) : Nat :=
      let x := mags.getD i (0, 0)
      let u : Int := e - 127 - (if low (i / 2) then 1 else 0) - ((w : Int) - 2)
      let m := min (roundShift .rne false x.1 (u - x.2)).1 (2 ^ (w - 1) - 1)
      (if (xs.getD i (.num false 0 0)).neg then 2 ^ (w - 1) else 0) + m
    ((List.range 16).foldl (fun a i => a + code i * 2 ^ (i * w)) 0, e.toNat * 256 + mu)

/-- Bit of μ that applies to an element (R229). -/
def knotMu (scale i : Nat) : Nat := if bitAt scale (i / 2) then 1 else 0
/-- Code of an element of an element field. -/
def knotCode (w field i : Nat) : Nat := field / 2 ^ (i * w) % 2 ^ w
/-- The value of element `i` of a block (R230). -/
def knotVal (w field scale i : Nat) : FVal :=
  let e := scale / 256 % 256
  if e = 255 then .nan false
  else
    let c := knotCode w field i
    .num (bitAt c (w - 1)) (c % 2 ^ (w - 1)) ((e : Int) - 127 - (knotMu scale i : Int) - ((w : Int) - 2))
/-- The signed integer with which an element enters a block product (R237). -/
def knotInt (w field scale i : Nat) : Int :=
  let c := knotCode w field i
  let m : Int := ((c % 2 ^ (w - 1)) * 2 ^ (1 - knotMu scale i) : Nat)
  if bitAt c (w - 1) then -m else m

end Sys2Proof.Machine
end

