-- ==== Sys2Proof/Machine/Tile.lean ====
section
/-!
DEFINITION. Tiles (15_isa_memory R317-R319, 11_number_formats R221-R235): the descriptor and its checks, where each
element lies, and how the engines of a core read and write tiles (08_engines R176-R178, 10_ordering R214).
-/
namespace Sys2Proof.Machine

/-! ## Formats (Table 11.1) -/

/-- Bits of an element by FMT. -/
def eltBits (fmt : Nat) : Nat :=
  match fmt with | 0 => 64 | 1 => 32 | 2 => 16 | 3 => 16 | 4 => 8 | 5 => 8 | 6 => 32 | 7 => 3 | 8 => 5 | 9 => 8 | 10 => 1 | _ => 64
/-- Whether a format is a knot format. -/
def isKnot (fmt : Nat) : Bool := fmt == 7 || fmt == 8 || fmt == 9
/-- Whether a format is one of the IEEE formats. -/
def isIeee (fmt : Nat) : Bool := fmt ≤ 3
/-- The float format of an IEEE FMT. -/
def ieeeFmt (fmt : Nat) : Fmt := match fmt with | 0 => .f64 | 1 => .f32 | 2 => .h16 | _ => .b16
/-- Stored elements of every 128 along K (R234). -/
def nspCount (nsp : Nat) : Nat := match nsp with | 0 => 128 | 1 => 16 | 2 => 32 | _ => 64
/-- Accumulator FMT of a matrix operand FMT. -/
def accFmt (fmt : Nat) : Nat := if fmt = 0 then 0 else if fmt = 4 ∨ fmt = 5 ∨ fmt = 10 then 6 else 1

/-! ## Geometry (R228, R231, R234, R318) -/

/-- Elements stored in a line, and lines. A line of a sparse tile is a column, in R234's order, whatever its LAYOUT. -/
def Tile.geometry (t : Tile) : Nat × Nat :=
  if t.nsp ≠ 0 then (t.rows / 128 * nspCount t.nsp, t.cols)
  else if t.layout = 1 then (t.rows, t.cols) else (t.cols, t.rows)
/-- Bytes of one line. -/
def Tile.lineBytes (t : Tile) : Nat := (t.geometry.1 * eltBits t.fmt + 7) / 8
/-- Line and index of element (r, c) of a dense tile. -/
def Tile.place (t : Tile) (r c : Nat) : Nat × Nat := if t.layout = 1 then (c, r) else (r, c)
/-- Byte address and bit offset of the element at an index of a line, with the chunks of LAYOUT 2 swizzled (R318). -/
def Tile.bitAt (t : Tile) (line idx : Nat) : Nat × Nat :=
  let o := idx * eltBits t.fmt
  let b := o / 8
  let b := if t.layout = 2 ∧ t.nsp = 0 then b / 256 * 256 + ((b / 16 % 16) ^^^ (line % 16)) * 16 + b % 16 else b
  (t.base.toNat + line * t.rstride + b, o % 8)
/-- Dense blocks of 16 along a line: along K for a sparse tile. -/
def Tile.blocks (t : Tile) : Nat := if t.nsp ≠ 0 then t.rows / 16 else t.geometry.1 / 16
/-- Address of the scale word of a block (R231). -/
def Tile.scaleAt (t : Tile) (line blk : Nat) : Nat := t.scale.toNat + 2 * (line * t.blocks + blk)
/-- Bytes of the META field of one group of one column (R234). -/
def metaBytes (nsp : Nat) : Nat := 7 * nspCount nsp / 8
/-- Address of the META field of column `c` and group `g`. -/
def Tile.metaAt (t : Tile) (c g : Nat) : Nat := t.meta_.toNat + (c * (t.rows / 128) + g) * metaBytes t.nsp
/-- Address of the word after the last line: the overflow word of an accumulator (R335). -/
def Tile.after (t : Tile) : Nat := t.base.toNat + t.geometry.2 * t.rstride
/-- Whether element (r, c) lies inside the extent (R318). -/
def Tile.inside (t : Tile) (r c : Nat) : Bool :=
  0 ≤ t.orgrow + r && t.orgrow + r < t.vrows && 0 ≤ t.orgcol + c && t.orgcol + c < t.vcols
/-- Every element, row-major. -/
def Tile.coords (t : Tile) : List (Nat × Nat) := (List.range t.rows).flatMap (fun r => (List.range t.cols).map (fun c => (r, c)))
/-- The runs of bytes of a tile's planes, as addresses before reduction and lengths. -/
def Tile.runs (t : Tile) : List (Nat × Nat) :=
  let (_, lines) := t.geometry
  let elems := if t.layout = 2 ∧ t.nsp = 0 then
      (List.range lines).flatMap (fun l => (List.range ((t.lineBytes + 15) / 16)).map (fun j =>
        (t.base.toNat + l * t.rstride + j / 16 * 256 + ((j % 16) ^^^ (l % 16)) * 16, min 16 (t.lineBytes - 16 * j))))
    else (List.range lines).map (fun l => (t.base.toNat + l * t.rstride, t.lineBytes))
  elems ++ (if isKnot t.fmt then [(t.scale.toNat, 2 * lines * t.blocks)] else []) ++
    (if t.nsp ≠ 0 then [(t.meta_.toNat, t.cols * (t.rows / 128) * metaBytes t.nsp)] else [])

/-! ## Descriptors (Table 15.3, R319) -/

/-- Reads a descriptor; none where one of the conditions of R319 that any instruction checks fails. -/
def Tile.parse (core : Nat) (b : List Byte) : Option Tile :=
  let f := fieldAt b 28 2
  let t : Tile := {
    core := core, base := BitVec.ofNat 64 (fieldAt b 0 8), scale := BitVec.ofNat 64 (fieldAt b 8 8), meta_ := BitVec.ofNat 64 (fieldAt b 16 8)
    rows := fieldAt b 24 2, cols := fieldAt b 26 2, fmt := bitsOf f 3 0, as := bitsOf f 5 4, nsp := bitsOf f 7 6, layout := bitsOf f 9 8
    rstride := fieldAt b 32 4, vrows := fieldAt b 36 2, vcols := fieldAt b 38 2
    orgrow := (BitVec.ofNat 32 (fieldAt b 40 4)).toInt, orgcol := (BitVec.ofNat 32 (fieldAt b 44 4)).toInt, fill := BitVec.ofNat 64 (fieldAt b 48 8) }
  let knot := isKnot t.fmt
  if fieldAt b 28 4 / 1024 = 0 ∧ fieldAt b 56 8 = 0 ∧ t.rows ≠ 0 ∧ t.cols ≠ 0 ∧ t.fmt < 12 ∧ t.as ≠ 3 ∧ t.layout ≠ 3 ∧
      (knot ∨ t.scale = 0) ∧ (t.nsp ≠ 0 ∨ t.meta_ = 0) ∧ t.lineBytes ≤ t.rstride ∧
      (t.layout = 2 → t.as ≠ 0 ∧ t.rstride % 256 = 0 ∧ 8 ≤ eltBits t.fmt ∧ !knot) ∧
      (knot → (if t.layout = 1 then t.rows else t.cols) % 16 = 0) ∧ (t.nsp ≠ 0 → t.rows % 128 = 0) ∧
      (t.fmt = 10 → t.layout = 1 ∨ t.cols % 128 = 0)
  then some t else none

/-- The outcome of reading descriptors: for each acting unit its lanes and its descriptors. -/
inductive Descs
  | ok (us : List (List Nat × List (List Byte)))
  | stop (r : Res)
  deriving Inhabited
/-- Reads the descriptors at addresses of the own scratchpad for each acting unit (R319 steps 1 and 2, R332): absent sectors
park the group as a load does. -/
def Fab.descs (f : Fab) (i : Iss) (us : List (List Nat × List Nat)) : Descs :=
  let ws : List Want := us.flatMap (fun u => u.2.flatMap (fun a => u.1.map (fun l => ⟨l, 1, a, 64⟩)))
  match f.stages123 i.core ws with
  | some t => .stop (.trap t)
  | none =>
    match (ws.filter (fun w => !f.present i.core w.addr 64)).map (fun w => (w.lane, w.addr)) with
    | [] => .ok (us.map (fun u => (u.1, u.2.map (fun a => f.scrRead i.core a 64))))
    | a => .stop (i.parkAbsent true a)
/-- Parses the descriptors of every unit and checks the instruction's own conditions on them (R319 step 3): the units, or
trap 0x02 for the lanes of those that fail. -/
def parseDescs (core : Nat) (us : List (List Nat × List (List Byte))) (ok : List Tile → Bool) : Sum (List (List Nat × List Tile)) Res :=
  let out := us.map (fun u => (u.1, u.2.mapM (Tile.parse core)))
  let good (o : Option (List Tile)) : Bool := match o with | some ts => ok ts | none => false
  match (out.filter (fun u => !good u.2)).flatMap (·.1) with
  | [] => .inl (out.filterMap (fun u => u.2.map (fun ts => (u.1, ts))))
  | ls => .inr (.trap (.plain 0x02 0 ls))

/-- The quarters of a group that have an active lane, with their active lanes (R171, R331). -/
def Iss.quarters (i : Iss) : List (Nat × List Nat) :=
  ((List.range (i.w / 8)).map (fun q => (q, i.active.filter (fun l => l / 8 == q)))).filter (fun u => !u.2.isEmpty)

/-! ## How an engine reads and writes (R176, R178, R214) -/

/-- What stops an engine operation: its cause, the address for 0x0A and 0x0C, the element where there is one, and the
routine instruction where a routine faults. -/
structure EngErr where
  cause : Nat
  addr : Nat
  elem : Option (Nat × Nat)
  ridx : Option Nat
  deriving DecidableEq, Repr, Inhabited

/-- The outcome of a piece of an engine's work. -/
inductive Eng (α : Type)
  | ok (a : α) (f : Fab)
  | xlate (va : Nat) (acc : Access) (reason level : Nat) (elem : Option (Nat × Nat)) (f : Fab)
  | fault (e : EngErr) (f : Fab)
  deriving Inhabited
/-- Goes on with a piece of work. -/
def Eng.bind {α β : Type} (x : Eng α) (g : α → Fab → Eng β) : Eng β :=
  match x with
  | .ok a f => g a f
  | .xlate va acc r l e f => .xlate va acc r l e f
  | .fault e f => .fault e f
/-- Names the element of a fault, or of a translation fault, that names none yet. -/
def Eng.elem {α : Type} (x : Eng α) (r c : Nat) : Eng α :=
  match x with
  | .fault e f => .fault { e with elem := some (e.elem.getD (r, c)) } f
  | .xlate va acc rs l e f => .xlate va acc rs l (some (e.getD (r, c))) f
  | .ok a f => .ok a f
/-- A piece of work during which pages whose faults were answered DELIVER count as refused (R205). -/
def Eng.denying {α : Type} (pages : List Nat) (g : Fab → Eng α) (f : Fab) : Eng α :=
  match g { f with refused := pages } with
  | .ok a f => .ok a { f with refused := [] }
  | .fault e f => .fault e { f with refused := [] }
  | .xlate va acc r l e f => .xlate va acc r l e { f with refused := [] }
/-- A piece of a copy engine's work, with the source lines that its bights hold (R168, R196). -/
def Eng.copying {α : Type} (lines : List (Nat × List Byte)) (g : Fab → Eng α) (f : Fab) : Eng α :=
  match g { f with copying := some lines } with
  | .ok a f => .ok a { f with copying := none }
  | .fault e f => .fault e { f with copying := none }
  | .xlate va acc r l e f => .xlate va acc r l e { f with copying := none }
/-- A piece of work for each element of a list, in order. -/
def engMap {α β : Type} (g : α → Fab → Eng β) : List α → Fab → Eng (List β)
  | [], f => .ok [] f
  | x :: xs, f => (g x f).bind (fun y f => (engMap g xs f).bind (fun ys f => .ok (y :: ys) f))

/-- Where the parts of an engine's access land; one in several parts reaches memory alone (R380). -/
def Fab.engLocs (ctl : Ctl) (core ctx as addr n : Nat) (acc : Access) (f : Fab) : Eng (List (Loc × Nat)) :=
  if as = 0 then
    (engMap (fun (p : Nat × Nat) f =>
      let a := p.1 % 2 ^ 64
      if 2 ^ 48 ≤ a ∨ f.refused.contains (a / 65536) then .fault ⟨0x0A, a, none, none⟩ f
      else match f.translate ctl (some core) ctx a acc with
        | (.fault r l, f) => .xlate a acc r l none f
        | (.perm, f) => .fault ⟨0x0A, a, none, none⟩ f
        | (.ok loc _, f) =>
          if paKind loc.phys.1 = .mem then .ok (loc, p.2) f
          else if ctl.mmioAccepts loc.phys.1 p.2 acc then .ok (loc, p.2) f
          else .fault ⟨0x0A, a, none, none⟩ f) (parts addr n) f).bind (fun locs f =>
      if wholeAccess (locs.map (fun p => (p.1.phys.1, p.1.phys.2, p.2))) then .ok locs f else .fault ⟨0x0A, addr % 2 ^ 64, none, none⟩ f)
  else
    let a := addr % 2 ^ 32
    if f.scrValid core as a ∧ (n = 0 ∨ f.scrValid core as (a + n - 1)) then .ok [(f.scrLoc core as a, n)] f
    else .fault ⟨0x0C, a, none, none⟩ f
/-- Reads bytes at a location: global memory at L2 (R214). -/
def Fab.engGet (ctl : Ctl) (f : Fab) (core ctx : Nat) (loc : Loc) (n : Nat) : List Byte × Fab :=
  match loc with
  | .scr k a => (f.scrRead k a n, f)
  | .glob _ pa _ _ _ =>
    if paKind pa.toNat ≠ .mem then (match ctl.mmioRead f pa.toNat n with | (some b, f) => (b, f) | (none, f) => (List.replicate n 0, f))
    else f.sliceRead ctl (some core) ctx loc n
/-- Writes bytes at a location: global memory at L2, and the core's L1 copies go (R214). -/
def Fab.engPut (ctl : Ctl) (f : Fab) (core ctx : Nat) (loc : Loc) (b : List Byte) : Fab :=
  match loc with
  | .scr k a => f.scrWrite ctl k a b
  | .glob _ pa _ _ _ =>
    if paKind pa.toNat ≠ .mem then { f with regWrites := f.regWrites ++ [⟨pa, b.length, BitVec.ofNat 64 (leNat b), .core⟩] }
    else (f.l1DropRange ctl core pa.toNat b.length).sliceWrite ctl (some core) ctx loc b
/-- An address of an engine in its space. -/
def engAddr (as addr : Nat) : Nat := if as = 0 then addr % 2 ^ 64 else addr % 2 ^ 32
/-- Bytes that the source lines in bights hold, where they hold them all (R168). -/
def Fab.bightBytes (f : Fab) (as addr n : Nat) : Option (List Byte) :=
  f.copying.bind (fun ls => (List.range n).mapM (fun k =>
    let a := engAddr as (addr + k)
    (Table.get? ls (a / 256)).bind (fun b => b[a % 256]?)))
/-- An engine reads bytes. -/
def Fab.engRead (ctl : Ctl) (core ctx as addr n : Nat) (f : Fab) : Eng (List Byte) :=
  (f.engLocs ctl core ctx as addr n .load).bind (fun locs f =>
    match f.bightBytes as addr n with
    | some b => .ok b f
    | none =>
      let r := locs.foldl (fun (r : List Byte × Fab) p => let (b, f) := r.2.engGet ctl core ctx p.1 p.2; (r.1 ++ b, f)) ([], f)
      .ok r.1 r.2)
/-- Reads a line of a source whole, where it is memory that can be reached; what stops the rest is met by the units that need it. -/
def Fab.lineRead (ctl : Ctl) (core ctx as line : Nat) (f : Fab) : Eng (List (Nat × List Byte)) :=
  let a := 256 * line
  if as ≠ 0 then
    .ok (if f.scrValid core as a then [(line, match f.scrLoc core as a with | .scr k o => f.scrRead k o 256 | .glob .. => [])] else []) f
  else if 2 ^ 48 ≤ a ∨ f.refused.contains (a / 65536) then .ok [] f
  else match f.translate ctl (some core) ctx a .load with
    | (.fault r l, f) => .xlate a .load r l none f
    | (.perm, f) => .ok [] f
    | (.ok loc _, f) =>
      if paKind loc.phys.1 ≠ .mem then .ok [] f
      else let (b, f) := f.engGet ctl core ctx loc 256; .ok [(line, b)] f
/-- An engine writes bytes. -/
def Fab.engWrite (ctl : Ctl) (core ctx as addr : Nat) (b : List Byte) (f : Fab) : Eng Unit :=
  (f.engLocs ctl core ctx as addr b.length .store).bind (fun locs f =>
    .ok () (locs.foldl (fun (r : Fab × Nat) p => (r.1.engPut ctl core ctx p.1 (sliceBytes b r.2 p.2), r.2 + p.2)) (f, 0)).1)

/-! ## Elements -/

/-- An element as an engine reads it: its bits, and for a knot element the E and the μ bit that apply to it. -/
structure Elt where
  raw : Nat
  e : Nat
  mu : Nat
  deriving DecidableEq, Repr, Inhabited

/-- Reads `bits` bits at a bit position. -/
def Fab.bitsRead (ctl : Ctl) (core ctx as : Nat) (p : Nat × Nat) (bits : Nat) (f : Fab) : Eng Nat :=
  (f.engRead ctl core ctx as p.1 ((p.2 + bits + 7) / 8)).bind (fun b f => .ok (leNat b / 2 ^ p.2 % 2 ^ bits) f)
/-- Writes `bits` bits at a bit position, keeping its neighbours. -/
def Fab.bitsWrite (ctl : Ctl) (core ctx as : Nat) (p : Nat × Nat) (bits v : Nat) (f : Fab) : Eng Unit :=
  let n := (p.2 + bits + 7) / 8
  if p.2 = 0 ∧ bits % 8 = 0 then f.engWrite ctl core ctx as p.1 (leBytes n v)
  else (f.engRead ctl core ctx as p.1 n).bind (fun b f =>
    let x := leNat b
    f.engWrite ctl core ctx as p.1 (leBytes n (x / 2 ^ (p.2 + bits) * 2 ^ (p.2 + bits) + v % 2 ^ bits * 2 ^ p.2 + x % 2 ^ p.2)))
/-- The bytes that `bitsRead` reads: an address and a length. -/
def bitSpan (p : Nat × Nat) (bits : Nat) : Nat × Nat := (p.1, (p.2 + bits + 7) / 8)
/-- Reads the scale word of a block: E and μ. -/
def Fab.scaleRead (ctl : Ctl) (ctx : Nat) (t : Tile) (line blk : Nat) (f : Fab) : Eng Nat :=
  f.bitsRead ctl t.core ctx t.as (t.scaleAt line blk, 0) 16
/-- Index `j` of a META field (R234). -/
def metaIndex (field j : Nat) : Nat := field / 2 ^ (7 * j) % 128
/-- Place among the stored elements of its column of element (r, c) of a sparse tile; none for an absent one (R234). -/
def Fab.storedAt (ctl : Ctl) (ctx : Nat) (t : Tile) (rc : Nat × Nat) (f : Fab) : Eng (Option Nat) :=
  (f.engRead ctl t.core ctx t.as (t.metaAt rc.2 (rc.1 / 128)) (metaBytes t.nsp)).bind (fun b f =>
    .ok (((List.range (nspCount t.nsp)).find? (fun j => metaIndex (leNat b) j == rc.1 % 128)).map (fun j => rc.1 / 128 * nspCount t.nsp + j)) f)
/-- Reads element (r, c) of a sparse tile: an absent element is zero (R234). -/
def Fab.sparseElt (ctl : Ctl) (ctx : Nat) (t : Tile) (rc : Nat × Nat) (f : Fab) : Eng Elt :=
  ((f.storedAt ctl ctx t rc).bind (fun at_ f => match at_ with
    | none => .ok ⟨0, 0, 0⟩ f
    | some idx => (f.bitsRead ctl t.core ctx t.as (t.bitAt rc.2 idx) (eltBits t.fmt)).bind (fun raw f =>
        if isKnot t.fmt then (f.scaleRead ctl ctx t rc.2 (rc.1 / 16)).bind (fun s f => .ok ⟨raw, s / 256, knotMu s (rc.1 % 16)⟩ f)
        else .ok ⟨raw, 0, 0⟩ f))).elem rc.1 rc.2
/-- Reads element (r, c) of a tile. -/
def Fab.tileElt (ctl : Ctl) (ctx : Nat) (t : Tile) (rc : Nat × Nat) (f : Fab) : Eng Elt :=
  let (line, idx) := t.place rc.1 rc.2
  if t.nsp ≠ 0 then f.sparseElt ctl ctx t rc else
  ((f.bitsRead ctl t.core ctx t.as (t.bitAt line idx) (eltBits t.fmt)).bind (fun raw f =>
    if isKnot t.fmt then (f.scaleRead ctl ctx t line (idx / 16)).bind (fun s f => .ok ⟨raw, s / 256, knotMu s (idx % 16)⟩ f)
    else .ok ⟨raw, 0, 0⟩ f)).elem rc.1 rc.2
/-- Reads every element, row-major. -/
def Fab.tileElts (ctl : Ctl) (ctx : Nat) (t : Tile) (f : Fab) : Eng (List Elt) := engMap (Fab.tileElt ctl ctx t) t.coords f
/-- Writes element (r, c) of a tile that is not a knot tile; a sparse tile has no place for an absent element (log 37). -/
def Fab.tilePut (ctl : Ctl) (ctx : Nat) (t : Tile) (rc : Nat × Nat) (v : Nat) (f : Fab) : Eng Unit :=
  let (line, idx) := t.place rc.1 rc.2
  if t.nsp ≠ 0 then ((f.storedAt ctl ctx t rc).bind (fun at_ f => match at_ with
    | none => .ok () f
    | some idx => f.bitsWrite ctl t.core ctx t.as (t.bitAt rc.2 idx) (eltBits t.fmt) v)).elem rc.1 rc.2 else
  (f.bitsWrite ctl t.core ctx t.as (t.bitAt line idx) (eltBits t.fmt) v).elem rc.1 rc.2
/-- Coordinates of the elements of a block along a line. -/
def Tile.blockCoords (t : Tile) (line blk : Nat) : List (Nat × Nat) :=
  (List.range 16).map (fun i => if t.layout = 1 then (16 * blk + i, line) else (line, 16 * blk + i))
/-- Writes a knot block: its element field and its scale word. -/
def Fab.blockPut (ctl : Ctl) (ctx : Nat) (t : Tile) (line blk : Nat) (b : Nat × Nat) (f : Fab) : Eng Unit :=
  let rc := (t.blockCoords line blk).headD (0, 0)
  ((f.bitsWrite ctl t.core ctx t.as (t.bitAt line (16 * blk)) (16 * eltBits t.fmt) b.1).bind (fun _ f =>
    f.bitsWrite ctl t.core ctx t.as (t.scaleAt line blk, 0) 16 b.2)).elem rc.1 rc.2

/-- The exact value of an element (R222, R226, R230). -/
def eltVal (fmt : Nat) (x : Elt) : FVal :=
  if isIeee fmt then (ieeeFmt fmt).unpack x.raw
  else if isKnot fmt then
    let w := eltBits fmt
    if x.e = 255 then .nan false
    else .num (bitAt x.raw (w - 1)) (x.raw % 2 ^ (w - 1)) ((x.e : Int) - 127 - x.mu - ((w : Int) - 2))
  else
    let i : IFmt := ⟨fmt == 4 || fmt == 6, eltBits fmt⟩
    .num (decide (i.val x.raw < 0)) (i.val x.raw).natAbs 0
/-- The bits of an element converted to an IEEE format or kept (R322): `mode` rounds. -/
def eltConv (sf df : Nat) (mode : RMode) (x : Elt) : Nat :=
  if sf = df then x.raw else ((ieeeFmt df).ofVal mode (eltVal sf x)).1
/-- Whether a pairing of formats converts (R322). -/
def convPair (sf df : Nat) : Bool := sf == df || ((isIeee sf || isKnot sf) && (isIeee df || isKnot df))

/-- Whether every sector of runs of a tile's space is present: the engine waits for absent ones (R332). An address outside the
scratchpad stops nothing here. -/
def Fab.runsPresent (f : Fab) (t : Tile) (rs : List (Nat × Nat)) : Bool :=
  t.as == 0 || rs.all (fun p =>
    let a := p.1 % 2 ^ 32
    !f.scrValid t.core t.as a || p.2 == 0 || (match f.scrLoc t.core t.as a with | .scr k o => f.present k o p.2 | .glob .. => true))

end Sys2Proof.Machine
end

