-- ==== Sys2Proof/Machine/Routine.lean ====
section
/-!
DEFINITION. Routines (16_isa_tile_remote R338-R341, 08_engines R174, R175): what a body may hold, one application on a
splice unit, the mapping of elements, folds, and `rdef` and `rdel`.
-/
namespace Sys2Proof.Machine

/-! ## Bodies (R338, R339) -/

/-- An instruction of a body as an extended form; none for a form that no body may hold. -/
def bodyForm (i : Instr) : Option (Nat × XrForm) :=
  match i.enc? with
  | some (.s3 opc f) => some (opc.toNat, f.toXr)
  | some (.si opc f) => some (opc.toNat, f.toXr)
  | some (.xr opc f) => some (opc.toNat, f)
  | _ => none
/-- Whether every register that a form names lies in `v0`-`v15`. -/
def lowRegs (opc : Nat) (f : XrForm) : Bool := (xrNames 32 opc f).regs.all (fun r => r.2.1 + r.2.2 ≤ 16)
/-- Whether an instruction may stand at index `k` of a body of `n` instructions with output format `out` (R339). -/
def bodyInstrOk (out n k : Nat) (i : Instr) : Bool :=
  match i.enc?, bodyForm i with
  | some e, some (opc, f) =>
    e.error.isNone && f.ra == 0 && f.rb == 0 && f.rc == 0 && lowRegs opc f &&
      (if opc = 0xC8 then k + 1 == n && !f.pred.pe && !(6 ≤ out && out ≤ 8 && f.a.toNat % 2 == 1)
       else if opc = 0xC9 then k + 2 == n
       else decide (k + 1 < n) && (laneOp opc).isSome && !f.pred.pe)
  | _, _ => false
/-- Whether a body satisfies R339. -/
def bodyOk (out : Nat) (b : List Instr) : Bool :=
  (b.mapIdx (fun k i => bodyInstrOk out b.length k i)).all id && (match b.getLast? with | some (.rendXr _) => true | _ => false)
/-- Parses the header of a routine image (Table 16.2); none where IN, OUT or LEN is out of range or a zero field is not zero. -/
def routineHeader (b : List Byte) : Option (Nat × Routine) :=
  let h := fieldAt b 0 8
  let len := bitsOf h 5 0
  let inp := bitsOf h 11 8
  let out := bitsOf h 15 12
  if 1 ≤ len ∧ len ≤ 32 ∧ 1 ≤ inp ∧ inp ≤ 9 ∧ 1 ≤ out ∧ out ≤ 9 then
    some (len, ⟨0, BitVec.ofNat 64 (fieldAt b 8 8), out, inp, bitAt h 7, bitAt h 6, []⟩)
  else none

/-! ## One application (R341) -/

/-- Whether a format given by its tag code takes a pair. -/
def wideTag (code : Nat) : Bool := 6 ≤ code && code ≤ 8
/-- The family that accepts a tag (Table 7.3). -/
def tagFam (code : Nat) : Fam :=
  match code with | 3 => .f32 | 4 => .h16x2 | 5 => .b16x2 | 6 => .f64 | 7 => .int64 | 8 => .int64 | 0 => .any | _ => .int32
/-- Consecutive registers of a routine. -/
def routineRegs (rs : List Reg) (r n : Nat) : List Reg := (List.range n).map (fun k => rs.getD (r + k) .zero)
/-- Writes consecutive registers of a routine. -/
def routinePut (rs : List Reg) (r : Nat) (v : List Reg) : List Reg := (v.mapIdx (fun k x => (k, x))).foldl (fun rs p => rs.set (r + p.1) p.2) rs

/-- How an application ends: an output, a dropped element, or a fault with its cause and instruction index. -/
inductive Applied
  | value (v : Nat)
  | dropped
  | fault (cause ridx : Nat)
  deriving DecidableEq, Repr, Inhabited

/-- Runs the rest of a body. `gcw` enables the arithmetic conditions. -/
def routineRun (gcw : Word) (out : Nat) : Nat → List Instr → List Reg → Applied
  | k, [], _ => .fault 0x02 k
  | k, i :: rest, rs =>
    match bodyForm i with
    | none => .fault 0x02 k
    | some (opc, f) =>
      if opc = 0xC8 then
        let v := routineRegs rs f.a.toNat (if wideTag out then 2 else 1)
        if v.all (fun x => famAccepts (tagFam out) x.tag) then .value (regsNat v) else .fault 0x04 k
      else if opc = 0xC9 then
        if !f.pred.pe || ((rs.getD f.pred.p.toNat .zero).val != 0) != f.pred.pn then .dropped else routineRun gcw out (k + 1) rest rs
      else match laneOp opc, xrUse opc f with
        | some op, some u =>
          let names := xrNames 32 opc f
          if names.srcs.all (fun s => (routineRegs rs s.reg s.regs).all (fun x => famAccepts s.fam x.tag)) then
            let n (x : Option Use) : Nat := match x with | some u => u.regs | none => 0
            let b := match f.lit with | some v => natRegs .raw (n u.b) v.toNat | none => routineRegs rs f.b.toNat (n u.b)
            let r := op f (routineRegs rs f.a.toNat (n u.a)) b (routineRegs rs f.c.toNat (n u.c)) (if u.dSrc then routineRegs rs f.d.toNat 1 else [])
            match [5, 6, 7, 8].find? (fun c => gcwEnables gcw c && r.2.has c) with
            | some c => .fault c k
            | none => routineRun gcw out (k + 1) rest (routinePut rs f.d.toNat r.1)
          else .fault 0x04 k
        | _, _ => .fault 0x02 k

/-- Applies a routine to two inputs. -/
def Routine.apply (r : Routine) (gcw : Word) (x y : Nat) : Applied :=
  let n := if wideTag r.inp then 2 else 1
  let tag := Tag.ofCode r.inp
  let rs := routinePut (routinePut (List.replicate 16 Reg.zero) 0 (natRegs tag n x)) n (natRegs tag n y)
  routineRun gcw r.out 0 r.body rs

/-! ## Element mapping (R341) -/

/-- Whether elements of a tile format may enter a routine. -/
def Routine.enters (r : Routine) (fmt : Nat) : Bool :=
  match fmt with | 0 => r.inp == 6 | 1 => r.inp == 3 | 11 => r.inp == 3 | 2 => r.inp == 4 | 3 => r.inp == 5
                 | 6 => r.inp == 1 || r.inp == 2 || r.inp == 9 | _ => false
/-- Whether a routine's output may be written to a tile format. -/
def Routine.leaves (r : Routine) (fmt : Nat) : Bool :=
  match fmt with | 0 => r.out == 6 | 1 => r.out == 3 | 11 => r.out == 3 | 2 => r.out == 4 | 3 => r.out == 5
                 | 6 => r.out == 1 || r.out == 2 || r.out == 9 | _ => false
/-- An element as it enters: a merge pair by its value. -/
def enterElt (fmt raw : Nat) : Nat := if fmt = 11 then raw / 2 ^ 32 else raw
/-- The identity in the output format. -/
def Routine.identity (r : Routine) : Nat := if wideTag r.out then r.ident.toNat else r.ident.toNat % 2 ^ 32

/-- What a routine's part of an operation ends in: a value, or the fault of an element. -/
inductive Folded
  | value (v : Nat)
  | fault (e : EngErr)
  deriving DecidableEq, Repr, Inhabited
/-- A fault of a routine at an element. -/
def routineErr (cause ridx r c : Nat) : EngErr := ⟨cause, 0, some (r, c), some ridx⟩
/-- A mismatch of formats, found before the first element. -/
def mapErr : EngErr := ⟨0x04, 0, none, some 0⟩

/-- One combination of a fold (R174): a dropped one keeps its left operand. -/
def Routine.combine (r : Routine) (gcw : Word) (acc x : Nat) (rc : Nat × Nat) : Folded :=
  match r.apply gcw acc x with
  | .value v => .value v
  | .dropped => .value acc
  | .fault c k => .fault (routineErr c k rc.1 rc.2)
/-- A fold from the left of elements with their places. -/
def Routine.foldLeft (r : Routine) (gcw : Word) : Nat → List (Nat × Nat × Nat) → Folded
  | acc, [] => .value acc
  | acc, (x, rc) :: xs => match r.combine gcw acc x rc with | .value v => Routine.foldLeft r gcw v xs | e => e
/-- One level of the pairwise tree. -/
def Routine.level (r : Routine) (gcw : Word) : List (Nat × Nat × Nat) → Sum (List (Nat × Nat × Nat)) EngErr
  | (x, p) :: (y, _) :: rest =>
    match r.combine gcw x y p with
    | .fault e => .inr e
    | .value v => (match Routine.level r gcw rest with | .inl l => .inl ((v, p) :: l) | .inr e => .inr e)
  | l => .inl l
/-- A pairwise tree; `fuel` bounds its levels. -/
def Routine.tree (r : Routine) (gcw : Word) : Nat → List (Nat × Nat × Nat) → Folded
  | 0, _ => .value r.identity
  | fuel + 1, l =>
    match l with
    | [] => .value r.identity
    | [(x, _)] => .value x
    | l => match r.level gcw l with | .inl l => Routine.tree r gcw fuel l | .inr e => .fault e
/-- A fold (R174): the identity for no element, left to right, or the pairwise tree where the header declares ASSOC. -/
def Routine.fold (r : Routine) (gcw : Word) (l : List (Nat × Nat × Nat)) : Folded :=
  if r.assoc then r.tree gcw (l.length + 1) l
  else match l with | [] => .value r.identity | (x, _) :: xs => r.foldLeft gcw x xs

/-! ## `rdef` and `rdel` (R340) -/

/-- Reads the instructions of a body. -/
def Fab.readBody (ctl : Ctl) (core ctx : Nat) : Nat → Nat → Fab → CoreAcc × List (List Word) × Nat × Fab
  | 0, va, f => (.ok [], [], va, f)
  | n + 1, va, f =>
    match f.coreRead ctl core ctx va 4 .load with
    | (.ok w, f) =>
      let len := wordLength (BitVec.ofNat 32 (leNat w))
      (match f.coreRead ctl core ctx va len .load with
       | (.ok b, f) =>
         let (a, ws, at_, f) := Fab.readBody ctl core ctx n (va + len) f
         (a, wordsOfBytes b :: ws, at_, f)
       | (x, f) => (x, [], va, f))
    | (x, f) => (x, [], va, f)
/-- What an access that failed makes of an instruction that acts once. -/
def CoreAcc.stop (a : CoreAcc) (i : Iss) (va : Nat) (acc : Access) : Res :=
  match a with
  | .xlate va r l => .xlate i.active va acc r l
  | _ => .trap (.addr 0x0A i.active va)
/-- `rdef`. -/
def bodyRdef (x : XrForm) (i : Iss) (ctl : Ctl) (f : Fab) : Res :=
  if i.active.isEmpty then .done f
  else
    let va := i.srcA f x 2 i.lowest
    let h := i.srcB f x 1 i.lowest
    if 2 ^ 48 ≤ va then .trap (.addr 0x0A i.active va)
    else if va % 16 ≠ 0 then .trap (.addr 0x0B i.active va)
    else match f.coreRead ctl i.core i.ctx va 16 .load with
      | (.ok b, f) =>
        (match routineHeader b with
         | none => .trap (.plain 0x02 0 i.active)
         | some (len, r) =>
           match f.readBody ctl i.core i.ctx len (va + 16) with
           | (.ok _, ws, _, f) =>
             (match ws.mapM (fun w => (decode w).toOption), f.ctx? i.ctx with
              | some body, some c =>
                if 256 ≤ h ∨ c.routines.any (fun q => q.handle.toNat == h) ∨ !bodyOk r.out body then .trap (.plain 0x02 0 i.active)
                else .done (f.modCtx i.ctx (fun c => { c with routines := c.routines ++ [{ r with handle := BitVec.ofNat 8 h, body := body }] }))
              | _, _ => .trap (.plain 0x02 0 i.active))
           | (a, _, at_, _) => a.stop i at_ .load)
      | (a, _) => a.stop i va .load
/-- `rdel`. -/
def bodyRdel (x : XrForm) (i : Iss) (_ : Ctl) (f : Fab) : Res :=
  if i.active.isEmpty then .done f
  else
    let h := i.srcB f x 1 i.lowest
    if 256 ≤ h then .trap (.plain 0x02 0 i.active)
    else .done (f.modCtx i.ctx (fun c => { c with routines := c.routines.filter (fun q => q.handle.toNat != h) }))
/-- The routine that a context's handle names now. -/
def Fab.routine (f : Fab) (ctx : Nat) (h : BitVec 8) : Option Routine := (f.ctx? ctx).bind (fun c => c.routines.find? (fun q => q.handle == h))

/-- RDEF_XR (R340). -/
def execRdefXr (f : XrForm) (s : State) : Out := run (.xr 0xC0 f) gateMem (bodyRdef f) s
/-- RDEL_XR (R340). -/
def execRdelXr (f : XrForm) (s : State) : Out := run (.xr 0xC1 f) noGate (bodyRdel f) s

end Sys2Proof.Machine
end

