-- ==== Sys2Proof/Machine/Copy.lean ====
section
/-!
DEFINITION. The copy engine (08_engines R162-R168, R174-R178; 15_isa_memory R320-R324): `cpl`, `cpt`, what a copy writes,
and the delivery of its sectors.
-/
namespace Sys2Proof.Machine

/-! ## Issue (R160, R162, R164, R214) -/

/-- A copy issues once the group's older memory operations have performed, and while its batch can take it (R162, R214). -/
def gateCopy (i : Iss) (f : Fab) : Bool :=
  gateMem i f || (!i.active.isEmpty && (match f.group? i.core i.slot with | some g => 64 ≤ g.openBatch.length && g.cp == 15 | none => false))

/-- Bytes of a run that fall in each 64-byte sector. -/
def runSectors (a n : Nat) : List (Nat × Nat) :=
  if n = 0 then []
  else (List.range ((a + n - 1) / 64 - a / 64 + 1)).map (fun k => let s := a / 64 + k; (s, min (a + n) (64 * s + 64) - max a (64 * s)))
/-- Adds bytes that a copy writes in a sector, credited to a barrier where there is one. -/
def addPart (ps : List CopyPart) (core sector : Nat) (bar : Option Nat) (n : Nat) : List CopyPart :=
  let credit (c : List (Nat × Nat)) : List (Nat × Nat) := match bar with | none => c | some b => Table.set c b (Table.getD c b 0 + n)
  if ps.any (fun p => p.core == core && p.sector == sector) then
    ps.map (fun p => if p.core == core && p.sector == sector then { p with credits := credit p.credits } else p)
  else ps ++ [⟨core, sector, credit []⟩]
/-- Whether one more pending copy in each sector keeps every count at 15 or less. -/
def Fab.partsFit (f : Fab) (ps : List CopyPart) : Bool := !f.pendFull (ps.map (fun p => .scr p.core (64 * p.sector)))

/-- Enters a copy: it joins the open batch, clears presence in the sectors it writes, and commits. -/
def Iss.pushCopy (i : Iss) (f : Fab) (kind : CopyKind) (receivers : List Nat) (ps : List CopyPart) : Fab :=
  let f := match f.group? i.core i.slot with | some g => if 64 ≤ g.openBatch.length then f.sealBatch i.core i.slot else f | none => f
  match f.group? i.core i.slot with
  | none => f
  | some g =>
    let id := f.nextId
    let o : CopyOp := ⟨id, i.slot, g.nextSeq, g.sealedCp + 1, maskOf i.active, i.pc, i.gcw, i.ctx, kind, receivers, ps, false, [], [], [], [], false, none⟩
    let f := { f with nextId := id + 1 }
    let f := i.mod f (fun g => { g with openBatch := g.openBatch ++ [id], nextSeq := g.nextSeq + 1 })
    let k := f.core i.core
    let f := f.setCore i.core { k with copies := k.copies ++ [o] }
    (ps.foldl (fun f p => f.sectorClear p.core p.sector) f).commit i i.active
/-- The L1 release that a copy from global memory makes at issue (R214). -/
def Fab.copyRelease (ctl : Ctl) (f : Fab) (i : Iss) (as : Nat) : Fab := if as = 0 then f.l1Release ctl i.core 3 else f

/-! ## `cpl` (R320) -/

/-- `cpl`. -/
def bodyCpl (x : XmForm) (i : Iss) (ctl : Ctl) (f : Fab) : Res :=
  if i.active.isEmpty then .done f
  else
    let n := sizeBytes x.size.toNat
    let bar := x.aux.getLsbD 1
    let das := if x.aux.getLsbD 0 then 2 else 1
    let src (l : Nat) : Nat := i.addr f x.as.toNat x.a.toNat (xmOff x) l
    let dst (l : Nat) : Nat := (i.reg f x.b.toNat l).val.toNat
    let at_ (l : Nat) : Nat := (i.reg f x.d.toNat l).val.toNat
    let ws : List Want := i.active.flatMap (fun l =>
      [⟨l, x.as.toNat, src l, n⟩, ⟨l, das, dst l, n⟩] ++ (if bar then [⟨l, 1, at_ l, 16⟩] else []))
    match f.stages123 i.core ws with
    | some t => .trap t
    | none =>
      let parts : List CplPart := i.active.map (fun l =>
        match f.scrLoc i.core das (dst l) with
        | .scr k a => ⟨l, x.as.toNat, src l, k, a, if bar then some (at_ l) else none, false⟩
        | .glob .. => ⟨l, x.as.toNat, src l, i.core, 0, none, true⟩)
      let ps := parts.foldl (fun ps p => addPart ps p.core (p.dst / 64) p.bar n) []
      if !f.partsFit ps then .wait id
      else .done (i.pushCopy (f.copyRelease ctl i x.as.toNat) (.cpl n parts) [] ps)

/-! ## `cpt` (R321-R324) -/

/-- RMODE of a `cpt`. -/
def cptMode (x : XtForm) : Nat := x.flags.toNat / 4 % 4
/-- Whether the source extent cuts no block of a knot destination (R322). -/
def blocksWhole (s d : Tile) : Bool :=
  (List.range d.geometry.2).all (fun line => (List.range d.blocks).all (fun b =>
    let ins := (d.blockCoords line b).map (fun p => s.inside p.1 p.2)
    ins.all id || ins.all not))
/-- The instruction's own conditions on a source, a destination and a routine (R319 step 3, R321-R324). -/
def cptOk (x : XtForm) (hitch : Nat) (routine : Option Routine) (s d : Tile) : Bool :=
  let rm := cptMode x
  let mc := x.flags.getLsbD 1
  let whole := (List.range s.rows).all (fun r => (List.range s.cols).all (fun c => s.inside r c))
  d.as != 0 && (s.rows == d.rows) && (rm == 2 || s.cols == d.cols) && (rm != 2 || d.cols == 1) &&
    (rm == 0 || (routine.isSome && (d.fmt == 0 || d.fmt == 1 || d.fmt == 6))) &&
    (if s.nsp != 0 || d.nsp != 0 then s.nsp == d.nsp && s.fmt == d.fmt && rm == 0 && whole
     else convPair s.fmt d.fmt && (!isKnot d.fmt || blocksWhole s d)) &&
    (!mc || (d.as == 1 && x.aux != 0 && x.aux.toNat < 2 ^ hitch))

/-- The first byte of a destination run that lies outside the scratchpad (R321). -/
def Fab.runOut (f : Fab) (d : Tile) (p : Nat × Nat) : Option Nat :=
  let a := p.1 % 2 ^ 32
  ((List.range p.2).map (fun k => (a + k) % 2 ^ 32)).find? (fun b => !f.scrValid d.core d.as b)
/-- The range and alignment checks of a copy's destination and barrier (R319 step 4). -/
def Fab.cptAddr (f : Fab) (i : Iss) (d : Tile) (bar : Option Nat) : Option Trap :=
  match d.runs.findSome? (fun p => f.runOut d p) with
  | some a => some (.addr 0x0C i.active a)
  | none => match bar with
    | none => none
    | some b =>
      if !f.scrValid i.core 1 b then some (.addr 0x0C i.active b)
      else if b % 16 ≠ 0 then some (.addr 0x0B i.active b)
      else none

/-- Where a byte of a destination lands in each scratchpad that receives it: the receivers of a multicast, or the one that
its address names. -/
def Fab.landing (f : Fab) (d : Tile) (receivers : List Nat) (addr : Nat) : List (Nat × Nat) :=
  let a := addr % 2 ^ 32
  if receivers.isEmpty then (match f.scrLoc d.core d.as a with | .scr k o => [(k, o)] | .glob .. => [])
  else receivers.map (fun k => (k, a))

/-- `cpt`. -/
def bodyCpt (x : XtForm) (i : Iss) (ctl : Ctl) (f : Fab) : Res :=
  if i.active.isEmpty then .done f
  else
    let l := i.lowest
    let addr (r : RegNo) : Nat := (i.reg f r.toNat l).val.toNat
    match f.descs i [(i.active, [addr x.a, addr x.b])], (f.core i.core).team, f.gridOf i.core with
    | .stop r, _, _ => r
    | .ok us, some t, some g =>
      let routine := if cptMode x = 0 then none else f.routine i.ctx x.h
      (match parseDescs i.core us (fun ts => match ts with | [s, d] => cptOk x g.hitch routine s d | _ => false) with
       | .inr r => r
       | .inl [(_, [s, d])] =>
         let bar := if x.flags.getLsbD 0 then some (addr x.d) else none
         let receivers := if x.flags.getLsbD 1 then
             (List.range g.hitch).filterMap (fun j => if x.aux.getLsbD j then some (t.mates.getD j i.core) else none) else []
         (match f.cptAddr i d bar with
          | some tr => .trap tr
          | none =>
            let ps := d.runs.foldl (fun ps p => (f.landing d receivers p.1).foldl (fun ps q =>
              (runSectors q.2 p.2).foldl (fun ps r => addPart ps q.1 r.1 bar r.2) ps) ps) []
            if !f.partsFit ps then .wait id
            else .done (i.pushCopy (f.copyRelease ctl i s.as) (.cpt s d (x.sub.toNat % 4) (cptMode x) routine) receivers ps))
       | .inl _ => .trap (.plain 0x02 0 i.active))
    | .ok _, _, _ => .done f

/-! ## What a copy writes -/

/-- Bits written at a bit position: address, bit offset, width, value. -/
structure BitRun where
  addr : Nat
  off : Nat
  bits : Nat
  val : Nat
  deriving DecidableEq, Repr, Inhabited
/-- The byte writes of a run of bits in each scratchpad that receives it. -/
def Fab.byteWrites (f : Fab) (d : Tile) (receivers : List Nat) (b : BitRun) : List ByteWrite :=
  let v := b.val % 2 ^ b.bits * 2 ^ b.off
  let m := (2 ^ b.bits - 1) * 2 ^ b.off
  (List.range ((b.off + b.bits + 7) / 8)).flatMap (fun k =>
    (f.landing d receivers (b.addr + k)).map (fun p => ⟨p.1, p.2, BitVec.ofNat 8 (m / 2 ^ (8 * k)), BitVec.ofNat 8 (v / 2 ^ (8 * k))⟩))

/-- The value of source element (r, c) in the destination's format, or FILL outside the extent (R321, R322). -/
def Fab.copyElt (ctl : Ctl) (ctx : Nat) (s d : Tile) (mode : Nat) (rc : Nat × Nat) (f : Fab) : Eng Nat :=
  if s.inside rc.1 rc.2 then
    (f.tileElt ctl ctx s rc).bind (fun e f => .ok (eltConv s.fmt d.fmt (RMode.ofCode mode) e) f)
  else .ok (s.fill.toNat % 2 ^ eltBits d.fmt) f
/-- The bits of a destination element. -/
def eltRun (d : Tile) (rc : Nat × Nat) (v : Nat) : BitRun :=
  let (line, idx) := d.place rc.1 rc.2
  let p := d.bitAt line idx
  ⟨p.1, p.2, eltBits d.fmt, v⟩
/-- The bits of a destination block: its field and its scale word. -/
def blockRuns (d : Tile) (line blk field scale : Nat) : List BitRun :=
  let p := d.bitAt line (16 * blk)
  [⟨p.1, p.2, 16 * eltBits d.fmt, field⟩, ⟨d.scaleAt line blk, 0, 16, scale⟩]
/-- One block of a knot destination (R322). -/
def Fab.copyBlock (ctl : Ctl) (ctx : Nat) (s d : Tile) (line blk : Nat) (f : Fab) : Eng (List BitRun) :=
  let rcs := d.blockCoords line blk
  let rc := rcs.headD (0, 0)
  if !s.inside rc.1 rc.2 then .ok (blockRuns d line blk 0 (s.fill.toNat % 65536)) f
  else if s.fmt = d.fmt ∧ s.layout = d.layout then
    ((f.bitsRead ctl s.core ctx s.as (s.bitAt line (16 * blk)) (16 * eltBits s.fmt)).bind (fun v f =>
      (f.scaleRead ctl ctx s line blk).bind (fun w f => .ok (blockRuns d line blk v w) f))).elem rc.1 rc.2
  else (engMap (Fab.tileElt ctl ctx s) rcs f).bind (fun es f =>
    let b := knotPack (eltBits d.fmt) (es.map (eltVal s.fmt))
    .ok (blockRuns d line blk b.1 b.2) f)
/-- Bytes copied unchanged from one plane to another, as a unit of a sparse copy (R322). -/
def Fab.copyBytes (ctl : Ctl) (ctx : Nat) (s : Tile) (src dst n : Nat) (f : Fab) : Eng (List BitRun) :=
  (f.engRead ctl s.core ctx s.as src n).bind (fun b f => .ok [⟨dst, 0, 8 * n, leNat b⟩] f)

/-- Bits written at a place of a destination, as the bytes they touch. -/
def BitRun.span (b : BitRun) : Nat × Nat := (b.addr, (b.off + b.bits + 7) / 8)
/-- The runs of source bytes that element (r, c) of a dense tile is read from; none outside the extent. -/
def Tile.eltSpans (t : Tile) (rc : Nat × Nat) : List (Nat × Nat) :=
  if !t.inside rc.1 rc.2 then []
  else
    let (line, idx) := t.place rc.1 rc.2
    bitSpan (t.bitAt line idx) (eltBits t.fmt) :: (if isKnot t.fmt then [bitSpan (t.scaleAt line (idx / 16), 0) 16] else [])
/-- The runs of source bytes that a block of a knot destination is read from. -/
def blockSpans (s d : Tile) (line blk : Nat) : List (Nat × Nat) :=
  let rcs := d.blockCoords line blk
  if !s.inside (rcs.headD (0, 0)).1 (rcs.headD (0, 0)).2 then []
  else if s.fmt = d.fmt ∧ s.layout = d.layout then
    [bitSpan (s.bitAt line (16 * blk)) (16 * eltBits s.fmt), bitSpan (s.scaleAt line blk, 0) 16]
  else rcs.flatMap s.eltSpans
/-- A unit of a copy's work: the element it stands for, the runs of source bytes that it reads and of destination bytes that it touches, and
the runs of bits it writes, or for a zip what enters as v0. -/
structure CopyUnit where
  rc : Nat × Nat
  src : List (Nat × Nat)
  span : List (Nat × Nat)
  go : Fab → Eng (List BitRun)

/-- Units of a copy that runs no routine. -/
def Fab.copyUnits (ctl : Ctl) (ctx : Nat) (s d : Tile) (mode : Nat) : List CopyUnit :=
  let copyPlane (rc : Nat × Nat) (src dst n : Nat) : CopyUnit := ⟨rc, [(src, n)], [(dst, n)], Fab.copyBytes ctl ctx s src dst n⟩
  if d.nsp ≠ 0 then
    (List.range d.geometry.2).flatMap (fun c =>
      copyPlane (0, c) (s.bitAt c 0).1 (d.bitAt c 0).1 d.lineBytes ::
      (List.range (d.rows / 128)).map (fun g => copyPlane (128 * g, c) (s.metaAt c g) (d.metaAt c g) (metaBytes d.nsp))) ++
    (if isKnot d.fmt then (List.range d.cols).map (fun c => copyPlane (0, c) (s.scaleAt c 0) (d.scaleAt c 0) (2 * d.blocks)) else [])
  else if isKnot d.fmt then
    (List.range d.geometry.2).flatMap (fun line => (List.range d.blocks).map (fun b =>
      (⟨(d.blockCoords line b).headD (0, 0), blockSpans s d line b, (blockRuns d line b 0 0).map BitRun.span, Fab.copyBlock ctl ctx s d line b⟩ : CopyUnit)))
  else d.coords.map (fun rc => (⟨rc, s.eltSpans rc, [(eltRun d rc 0).span], fun f => (f.copyElt ctl ctx s d mode rc).bind (fun v f => .ok [eltRun d rc v] f)⟩ : CopyUnit))

/-- The element that a destination holds in a scratchpad, for the second input of a zip (R323, R324). -/
def Fab.heldElt (f : Fab) (d : Tile) (p : Nat × Nat) : Nat := leNat (f.scrRead p.1 p.2 (eltBits d.fmt / 8))
/-- What a copy has computed so far: the writes of each unit with its number, and its first fault. -/
structure CopyOut where
  writes : List (Nat × List ByteWrite)
  fault : Option EngErr
  deriving Inhabited
/-- Takes a fault: the first one stands. -/
def CopyOut.fail (o : CopyOut) (e : EngErr) : CopyOut := { o with fault := some (o.fault.getD e) }

/-- A zip of one element, in each scratchpad that receives it. -/
def Fab.zipElt (f : Fab) (d : Tile) (receivers : List Nat) (r : Routine) (gcw : Word) (rc : Nat × Nat) (v : Nat) (k : Nat) (o : CopyOut) : CopyOut :=
  let run := eltRun d rc v
  let ps := f.landing d receivers run.addr
  let one (p : Nat × Nat) : Sum (List ByteWrite) EngErr :=
    match r.apply gcw (enterElt d.fmt v) (f.heldElt d p) with
    | .value y => .inl ((f.byteWrites d receivers { run with val := y }).filter (fun w => w.core == p.1))
    | .dropped => .inl []
    | .fault c i => .inr (routineErr c i rc.1 rc.2)
  ps.foldl (fun o p => match one p with
    | .inl w => { o with writes := o.writes ++ [(k, w)] }
    | .inr e => o.fail e) o

/-- Works through the units of a copy: a unit whose source faults is left unwritten (R175, R321). -/
def copyRun (writes : Fab → Nat → List BitRun → CopyOut → CopyOut) : List (Nat × CopyUnit) → CopyOut → Fab → Eng CopyOut
  | [], o, f => .ok o f
  | (k, u) :: us, o, f =>
    match u.go f with
    | .ok bs f => copyRun writes us (writes f k bs o) f
    | .fault e f => copyRun writes us (o.fail { e with elem := some (e.elem.getD u.rc) }) f
    | .xlate va acc r l e f => .xlate va acc r l e f

/-- The 256-byte lines of a space that runs of bytes touch. -/
def runLines (as : Nat) (rs : List (Nat × Nat)) : List Nat :=
  rs.flatMap (fun r => (List.range ((r.1 % 256 + r.2 + 255) / 256)).map (fun k => engAddr as (r.1 + 256 * k) / 256))
/-- A row of a copy that folds (R323, R324). -/
def Fab.foldUnit (ctl : Ctl) (ctx : Nat) (s d : Tile) (mode : Nat) (r : Routine) (gcw : Word) (row : Nat) : CopyUnit :=
  ⟨(row, 0), (List.range s.cols).flatMap (fun c => s.eltSpans (row, c)), [(eltRun d (row, 0) 0).span], fun f =>
    (engMap (fun c f => f.copyElt ctl ctx s d mode (row, c)) (List.range s.cols) f).bind (fun vs f =>
      match r.fold gcw (vs.mapIdx (fun c v => (v, row, c))) with
      | .value v => .ok [eltRun d (row, 0) v] f
      | .fault e => .fault e f)⟩
/-- The units of a `cpt`. -/
def Fab.cptUnits (ctl : Ctl) (ctx : Nat) (s d : Tile) (mode rmode : Nat) (routine : Option Routine) (gcw : Word) : List CopyUnit :=
  match routine with
  | some r => if rmode = 1 then Fab.copyUnits ctl ctx s d mode else (List.range s.rows).map (Fab.foldUnit ctl ctx s d mode r gcw)
  | none => Fab.copyUnits ctl ctx s d mode
/-- The source lines from which the units that touch the listed destination lines are read (R168). -/
def sourceLines (s d : Tile) (us : List CopyUnit) (lines : List Nat) : List Nat :=
  ((us.filter (fun u => (runLines d.as u.span).any lines.contains)).flatMap (fun u => runLines s.as u.src)).eraseDups
/-- What a `cpt` writes, and its fault; of the units alone that touch the lines asked for, where not all are (R168). -/
def Fab.cptWork (ctl : Ctl) (ctx : Nat) (s d : Tile) (mode rmode : Nat) (routine : Option Routine) (receivers : List Nat) (gcw : Word)
    (lines : Option (List Nat)) (f : Fab) : Eng CopyOut :=
  let plain (f : Fab) (k : Nat) (bs : List BitRun) (o : CopyOut) : CopyOut :=
    { o with writes := o.writes ++ [(k, bs.flatMap (f.byteWrites d receivers))] }
  let us := ((Fab.cptUnits ctl ctx s d mode rmode routine gcw).mapIdx (fun k u => (k, u))).filter (fun p =>
    match lines with | none => true | some ls => (runLines d.as p.2.span).any ls.contains)
  match routine with
  | none => copyRun plain us ⟨[], none⟩ f
  | some r =>
    if !r.enters d.fmt ∨ !r.leaves d.fmt then .ok ⟨[], some mapErr⟩ f
    else if rmode = 1 then
      copyRun (fun f k bs o => match d.coords[k]?, bs with
          | some rc, b :: _ => f.zipElt d receivers r gcw rc b.val k o
          | _, _ => o) us ⟨[], none⟩ f
    else copyRun plain us ⟨[], none⟩ f

/-- What a `cpl` writes: the bytes of each lane, the higher lane's where they overlap; a lane whose source faults is left
unwritten, and the lowest such lane stands in the record (R163, R320). -/
def Fab.cplWork (ctl : Ctl) (core ctx n : Nat) (parts : List CplPart) (f : Fab) : Eng CopyOut :=
  let us : List CopyUnit := (parts.filter (fun p => !p.dropped)).map (fun p => ⟨(0, p.lane), [], [], fun f =>
    (f.engRead ctl core ctx p.as p.src n).bind (fun b f => .ok [⟨p.lane, 0, 8 * n, leNat b⟩] f)⟩)
  copyRun (fun _ k bs o =>
    match (parts.filter (fun p => !p.dropped))[k]?, bs with
    | some p, b :: _ => { o with writes := o.writes ++ [(k, (leBytes n b.val).mapIdx (fun j v => ⟨p.core, p.dst + j, 0xFF, v⟩))] }
    | _, _ => o) (us.mapIdx (fun k u => (k, u))) ⟨[], none⟩ f

/-- Writes of a copy: after a routine fault, given by its number, which elements were written is undefined (R175, log 8). -/
def CopyOut.kept (o : CopyOut) (stopped : Option Nat) : List ByteWrite :=
  (o.writes.filter (fun w => match stopped with | none => true | some n => Config.faultWrote n w.1)).flatMap (·.2)

/-! ## Engine fault records (Table 8.4) -/

/-- The record of an error: FLAGS[0] and HANDLE for a routine, FLAGS[1] for an element (not for the markers of R343). -/
def EngErr.record (e : EngErr) (engine cls : Byte) (handle : Byte) (pc : Addr) : EngRec :=
  let (r, c) := e.elem.getD (0, 0)
  let marked := e.elem.isSome && r < 0xFFFFFFFE && c < 0xFFFFFFFE
  ⟨BitVec.ofNat 8 e.cause, engine, if e.ridx.isSome then handle else 0,
    (if e.ridx.isSome then 1 else 0) + (if marked then 2 else 0), BitVec.ofNat 8 (e.ridx.getD 0), cls,
    BitVec.ofNat 32 r, BitVec.ofNat 32 c, pc, BitVec.ofNat 64 e.addr⟩
/-- Posts a translation fault that an engine operation meets; it waits until the page is serviced (R178, R204). -/
def Fab.engPark (ctl : Ctl) (f : Fab) (core slot ctx : Nat) (pc : Addr) (va : Nat) (acc : Access) (reason level : Nat) (who : Requester) : Fab :=
  (f.faultTake ctl (core / 48) ⟨ctx, BitVec.ofNat 48 va, accessBits acc, 1, reason, level, 1, core, slot, 0, pc, f.time, false, [who]⟩).2
/-- Whether a copy of a core waits for a page. -/
def Fab.copyWaits (f : Fab) (core id : Nat) : Bool :=
  f.faults.any (fun p => p.2.who.any (fun w => match w with | .copy c o _ => c == core && o == id | _ => false))

/-! ## Delivery (R164, R166, R168, R175) -/

/-- Changes a copy of a core. -/
def Fab.modCopy (f : Fab) (core id : Nat) (h : CopyOp → CopyOp) : Fab :=
  let k := f.core core
  f.setCore core { k with copies := k.copies.map (fun o => if o.id == id then h o else o) }
/-- A copy of a core. -/
def Fab.copy? (f : Fab) (core id : Nat) : Option CopyOp := (f.core core).copies.find? (fun o => o.id == id)
/-- The handle of a copy's routine. -/
def CopyKind.handle : CopyKind → Byte | .cpt _ _ _ _ (some r) => r.handle | _ => 0
/-- The work of a copy, or of the destination lines asked for. -/
def Fab.copyWork (ctl : Ctl) (core : Nat) (o : CopyOp) (lines : Option (List Nat)) (f : Fab) : Eng CopyOut :=
  Eng.copying o.lines (Eng.denying o.denied (fun f => match o.kind with
    | .cpl n parts => f.cplWork ctl core o.ctx n parts
    | .cpt s d mode rmode routine => f.cptWork ctl o.ctx s d mode rmode routine o.receivers o.gcw lines)) f
/-- The destination lines that a copy still has to deliver. -/
def CopyOp.linesLeft (o : CopyOp) : List Nat := (o.pend.map (fun p => p.sector / 4)).eraseDups
/-- The source lines that destination lines of a copy are read from. -/
def CopyOp.sources (ctl : Ctl) (o : CopyOp) (lines : List Nat) : List Nat :=
  match o.kind with
  | .cpl .. => []
  | .cpt s d mode rmode routine => sourceLines s d (Fab.cptUnits ctl o.ctx s d mode rmode routine o.gcw) lines
/-- The source lines that a destination line of a multicast needs and that have not been read. -/
def CopyOp.unread (ctl : Ctl) (o : CopyOp) (line : Nat) : List Nat :=
  if o.ready.contains line then [] else (o.sources ctl [line]).filter (fun l => (Table.get? o.lines l).isNone)
/-- The first fault of the units of a multicast that have not been worked through, in order of application, as memory stands: the one that its
record names (R175). -/
def Fab.copyScan (ctl : Ctl) (f : Fab) (core : Nat) (o : CopyOp) : Option EngErr :=
  match Fab.copyWork ctl core o (some (o.linesLeft.filter (fun l => !o.ready.contains l))) f with | .ok out _ => out.fault | _ => none
/-- Takes note of what a copy's work ended in: the record of its first fault, and the number of a routine fault, which stops it (R175). -/
def Fab.copyFault (ctl : Ctl) (f : Fab) (core : Nat) (o : CopyOp) (fault : Option EngErr) : CopyOp × Fab :=
  match if o.faulted then none else fault with
  | none => ({ o with handed := true }, f)
  | some e => ({ o with handed := true, faulted := true, stopped := if e.ridx.isSome then some f.nextId else none },
      ({ f with nextId := f.nextId + 1 } : Fab).engFault ctl core o.slot o.seq 2 o.ord o.lanes (e.record 0 2 o.kind.handle o.pc))
/-- Reads a copy's sources and computes what it writes. -/
def Fab.copyHand (ctl : Ctl) (f : Fab) (core : Nat) (o : CopyOp) : Eng CopyOp :=
  (Fab.copyWork ctl core o none f).bind (fun out f =>
    let (o, f) := f.copyFault ctl core o out.fault
    let o := { o with writes := out.kept o.stopped }
    .ok o (f.modCopy core o.id (fun _ => o)))
/-- Whether a bight is free in a core's cluster (R168). -/
def Fab.bightFree (f : Fab) (core : Nat) : Bool := (f.bights.filter (fun b => b.core / 8 == core / 8)).length < 16
/-- Keeps a source line that a multicast has read, in a free bight. Of the lines of a row that a fold reads, those that find none pass through
(log 23). -/
def Fab.holdLine (f : Fab) (core id : Nat) (b : List (Nat × List Byte)) : Fab :=
  b.foldl (fun f p =>
    let f := f.modCopy core id (fun o => { o with lines := Table.set o.lines p.1 p.2 })
    if f.bightFree core then { f with bights := f.bights ++ [⟨core, id, p.1⟩] } else f) f
/-- Reads source lines of a multicast, each once: those read before a page faults are kept. -/
def Fab.holdLines (ctl : Ctl) (core : Nat) (o : CopyOp) (as : Nat) : List Nat → Fab → Eng Unit
  | [], f => .ok () f
  | l :: ls, f => (f.lineRead ctl core o.ctx as l).bind (fun b f => Fab.holdLines ctl core o as ls (f.holdLine core o.id b))
/-- Reads the source lines that a line of a multicast needs into bights, and computes what is written in it (R168). -/
def Fab.bightHand (ctl : Ctl) (f : Fab) (core : Nat) (o : CopyOp) (line : Nat) : Eng CopyOp :=
  let as := match o.kind with | .cpt s _ _ _ _ => s.as | .cpl .. => 0
  (Eng.copying [] (Eng.denying o.denied (Fab.holdLines ctl core o as (o.unread ctl line))) f).bind (fun _ f =>
    let o := (f.copy? core o.id).getD o
    let first := f.copyScan ctl core o
    (Fab.copyWork ctl core o (some [line]) f).bind (fun out f =>
      let (o, f) := f.copyFault ctl core o (if first.isSome then first else out.fault)
      let o := { o with ready := o.ready ++ [line], writes := o.writes ++ (out.kept o.stopped).filter (fun w => w.addr / 256 == line) }
      .ok o (f.modCopy core o.id (fun _ => o))))
/-- Writes a byte under a mask. -/
def maskByte (old m v : Byte) : Byte := (old &&& ~~~m) ||| (v &&& m)
/-- Whether a sector of a copy has what it writes ready or can read it: a multicast whose source lines have not all been read needs a free
bight (R168). -/
def Fab.bightFor (ctl : Ctl) (f : Fab) (core : Nat) (o : CopyOp) (line : Nat) : Bool :=
  o.receivers.isEmpty || (o.unread ctl line).isEmpty || f.bightFree core
/-- A bight frees when the last receiver has written what its line feeds (R168): no destination line left needs it. -/
def Fab.freeBights (ctl : Ctl) (f : Fab) (core : Nat) (o : CopyOp) : Fab :=
  let needed := if o.lines.isEmpty then [] else o.sources ctl o.linesLeft
  { f.modCopy core o.id (fun x => { x with lines := x.lines.filter (fun p => needed.contains p.1) }) with
    bights := f.bights.filter (fun b => !(b.core == core && b.op == o.id) || needed.contains b.line) }
/-- The bytes that a sector's delivery writes. -/
def CopyOp.partWrites (o : CopyOp) (p : CopyPart) : List ByteWrite := o.writes.filter (fun w => w.core == p.core && w.addr / 64 == p.sector)
/-- Delivers one sector of a copy: its bytes, then its presence and its credits; the copy leaves with its last sector. -/
def Fab.deliverPart (ctl : Ctl) (f : Fab) (core : Nat) (o : CopyOp) (piece : Nat) : Fab :=
  match o.pend[piece]? with
  | none => f
  | some p =>
    let f := (o.partWrites p).foldl (fun f w =>
      f.scrWrite ctl w.core w.addr [maskByte ((f.scrRead w.core w.addr 1).headD 0) w.mask w.val]) f
    let f := f.sectorSet p.core p.sector
    let f := p.credits.foldl (fun f c => f.barUpdate ctl p.core c.1 (fun b => ({ b with abytes := b.abytes + BitVec.ofNat 32 c.2 } : Bar).settle)) f
    let rest := o.pend.eraseIdx piece
    let f := f.freeBights ctl core { o with pend := rest }
    if rest.isEmpty then
      let k := f.core core
      ((f.setCore core { k with copies := k.copies.filter (fun x => x.id != o.id) }).reapBatches core o.slot).reportEnd core
    else f.modCopy core o.id (fun x => { x with pend := rest })
/-- A copy with what it writes in a line read: the whole of a copy at its first delivery; of a multicast, each source line
once, into a bight. -/
def Fab.copyReady (ctl : Ctl) (f : Fab) (core : Nat) (o : CopyOp) (line : Nat) : Eng CopyOp :=
  if o.receivers.isEmpty then (if o.handed then .ok o f else f.copyHand ctl core o)
  else if o.ready.contains line then .ok o f
  else f.bightHand ctl core o line
/-- COPY_SECTOR_DELIVER on the fabric: a sector of a multicast waits while every bight of the cluster is busy (R168). -/
def Fab.copyDeliver (ctl : Ctl) (f : Fab) (core id piece : Nat) : Fab :=
  match f.copy? core id with
  | none => f
  | some o =>
    let line := (o.pend.getD piece default).sector / 4
    if f.copyWaits core id ∨ o.pend.length ≤ piece ∨ !f.bightFor ctl core o line then f
    else match f.copyReady ctl core o line with
      | .ok o f => f.deliverPart ctl core o piece
      | .xlate va acc r l _ f => f.engPark ctl core o.slot o.ctx o.pc va acc r l (.copy core id (BitVec.ofNat 48 va))
      | .fault _ f => f

/-! ## Meanings -/

/-- CPL_XM (R320). -/
def execCplXm (f : XmForm) (s : State) : Out := run (.xm 0x89 f) gateCopy (bodyCpl f) s
/-- CPT_XT (R321). -/
def execCptXt (f : XtForm) (s : State) : Out := run (.xt 0x8A f) gateCopy (bodyCpt f) s
/-- COPY_SECTOR_DELIVER (R164). -/
def execCopySectorDeliver (core op piece : Nat) (s : State) : Out := .next { s with fab := s.fab.copyDeliver s.ctl core op piece }

end Sys2Proof.Machine
end

