-- ==== Sys2Proof/Machine/Matrix.lean ====
section
/-!
DEFINITION. B slots, block products, and the retiring and clearing of accumulators (08_engines R169-R173,
11_number_formats R236-R240, 16_isa_tile_remote R331-R337): the instructions, and the work of the engine.
-/
namespace Sys2Proof.Machine

/-! ## Issue (R160, R214, R331, R332) -/

/-- A matrix operation issues with mx below its limit, once the group's older memory operations have performed. -/
def gateMx (i : Iss) (f : Fab) : Bool := gateMem i f || (!i.active.isEmpty && 15 ≤ f.mx i.core i.slot)
/-- `mret.send` counts in cl. -/
def gateSend (i : Iss) (f : Fab) : Bool :=
  gateMem i f || (!i.active.isEmpty && (match f.group? i.core i.slot with | some g => 15 ≤ g.cl | none => false))
/-- Enters a matrix or higher-order operation. -/
def Iss.pushMx (i : Iss) (f : Fab) (routine : Option Routine) (op : EngOp) : Fab :=
  match f.group? i.core i.slot with
  | none => f
  | some g =>
    let k := f.core i.core
    let f := f.setCore i.core { k with mxq := k.mxq ++ [⟨i.slot, g.nextSeq, g.issuedMx + 1, maskOf i.active, i.pc, i.gcw, routine, op, 0, 0, [], []⟩] }
    i.mod f (fun g => { g with nextSeq := g.nextSeq + 1, issuedMx := g.issuedMx + 1 })
/-- The trap of the first stage of R309 that any check fails: range, address, alignment; each failure is a lane, its cause and
the address. -/
def stageTrap (fails : List (Nat × Nat × Nat)) : Option Trap :=
  [0x0C, 0x0A, 0x0B].findSome? (fun c =>
    match fails.filter (fun x => x.2.1 == c) with
    | [] => none
    | x :: xs => some (.addr c ((x :: xs).map (·.1)).eraseDups x.2.2))
/-- The failures of a word of 4 bytes at an address formed from a tile, for the listed lanes (R335, R336). -/
def Fab.wordFails (f : Fab) (ls : List Nat) (t : Tile) : List (Nat × Nat × Nat) :=
  let a := if t.as = 0 then t.after % 2 ^ 64 else t.after % 2 ^ 32
  (if t.as = 0 then (if 2 ^ 48 ≤ a then [0x0A] else []) else (if f.scrValid t.core t.as a then [] else [0x0C])).flatMap (fun c => ls.map (fun l => (l, c, a))) ++
    (if a % 4 ≠ 0 then ls.map (fun l => (l, 0x0B, a)) else [])
/-- Reads, parses and checks the descriptors of each acting unit, given the registers that name them, and goes on with the
units, their lanes and their tiles. -/
def Iss.withTiles (i : Iss) (f : Fab) (us : List (List Nat)) (regs : List RegNo) (ok : List Tile → Bool)
    (go : List (List Nat × List Tile) → Res) : Res :=
  if i.active.isEmpty then .done f
  else match f.descs i (us.map (fun ls => (ls, regs.map (fun r => (i.reg f r.toNat (ls.headD 0)).val.toNat)))) with
    | .stop r => r
    | .ok us => match parseDescs i.core us ok with
      | .inr r => r
      | .inl ts => go ts
/-- The acting quarters, as units. -/
def Iss.quarterUnits (i : Iss) : List (List Nat) := i.quarters.map (·.2)
/-- Whether a tile lies in a scratchpad. -/
def scrTile (t : Tile) : Bool := t.as == 1 || t.as == 2
/-- Whether every sector of a tile is present. -/
def Fab.tilePresent (f : Fab) (t : Tile) : Bool := f.runsPresent t t.runs

/-! ## B slots (R169, R333, R334) -/

/-- Elements stored along K by a tile or slot. -/
def storedK (nsp rows : Nat) : Nat := if nsp = 0 then rows else rows / 128 * nspCount nsp
/-- Bytes of a slot's element plane, META plane and scale plane (R333). -/
def slotPlanes (nsp fmt rows cols : Nat) : Nat × Nat × Nat :=
  ((storedK nsp rows * cols * eltBits fmt + 7) / 8, if nsp = 0 then 0 else rows / 128 * cols * metaBytes nsp,
    if isKnot fmt then rows / 16 * cols * 2 else 0)
/-- The conditions of `bld` (R333). -/
def bldOk (t : Tile) : Bool :=
  let (e, m, s) := slotPlanes t.nsp t.fmt t.rows t.cols
  (t.as == 1 || t.as == 2) && (t.fmt ≤ 5 || (7 ≤ t.fmt && t.fmt ≤ 10)) && t.rows % (if t.fmt == 10 || t.nsp != 0 then 128 else 16) == 0 &&
    t.cols ≤ 128 && (!isKnot t.fmt || t.layout == 1) && e + m + s ≤ 65536
/-- Sets the issue view of a slot. -/
def Fab.setView (f : Fab) (c s : Nat) (v : SlotView) : Fab := f.modTeam c (fun t => { t with views := setAt t.views s v })
/-- Sets a slot. -/
def Fab.setSlot (f : Fab) (c s : Nat) (v : BSlot) : Fab := f.modTeam c (fun t => { t with slots := setAt t.slots s v })
/-- An empty slot. -/
def BSlot.empty : BSlot := ⟨false, 0, 0, 0, 0, []⟩
/-- `bld`. -/
def bodyBld (x : XtForm) (i : Iss) (_ : Ctl) (f : Fab) : Res :=
  i.withTiles f [i.active] [x.a] (fun ts => ts.all bldOk) (fun us =>
    match us with
    | [(_, [t])] => .done ((i.pushMx f none (.bld x.h.toNat t)).setView i.core x.h.toNat ⟨true, t.nsp, t.fmt, t.cols, t.rows⟩)
    | _ => .done f)

/-- Packs elements of `bits` bits, the first lowest. -/
def packBits (bits : Nat) (l : List Nat) : Nat := l.foldr (fun x acc => x % 2 ^ bits + 2 ^ bits * acc) 0
/-- Whether the indices of a META field of `n` indices ascend strictly. -/
def metaAscends (n field : Nat) : Bool := (List.range (n - 1)).all (fun j => metaIndex field j < metaIndex field (j + 1))
/-- The element plane of a tile, column by column. -/
def Fab.bldElements (ctl : Ctl) (ctx : Nat) (t : Tile) (f : Fab) : Eng (List Byte) :=
  if t.nsp ≠ 0 then
    (engMap (fun c f => (f.engRead ctl t.core ctx t.as (t.bitAt c 0).1 t.lineBytes).elem 0 c) (List.range t.cols) f).bind (fun bs f => .ok bs.flatten f)
  else
    (engMap (Fab.tileElt ctl ctx t) ((List.range t.cols).flatMap (fun c => (List.range t.rows).map (fun r => (r, c)))) f).bind (fun es f =>
      .ok (leBytes (slotPlanes 0 t.fmt t.rows t.cols).1 (packBits (eltBits t.fmt) (es.map (·.raw)))) f)
/-- The META plane of a tile; indices that do not ascend fault (R333). -/
def Fab.bldMeta (ctl : Ctl) (ctx : Nat) (t : Tile) (f : Fab) : Eng (List Byte) :=
  if t.nsp = 0 then .ok [] f
  else (engMap (fun (p : Nat × Nat) f => (f.engRead ctl t.core ctx t.as (t.metaAt p.1 p.2) (metaBytes t.nsp)).bind (fun b f =>
      if metaAscends (nspCount t.nsp) (leNat b) then .ok b f else .fault ⟨0x02, 0, some (p.1, p.2), none⟩ f))
    ((List.range t.cols).flatMap (fun c => (List.range (t.rows / 128)).map (fun g => (c, g)))) f).bind (fun bs f => .ok bs.flatten f)
/-- The scale plane of a tile. -/
def Fab.bldScales (ctl : Ctl) (ctx : Nat) (t : Tile) (f : Fab) : Eng (List Byte) :=
  if !isKnot t.fmt then .ok [] f
  else (engMap (fun (p : Nat × Nat) f => ((f.scaleRead ctl ctx t p.1 p.2).bind (fun w f => .ok (leBytes 2 w) f)).elem (16 * p.2) p.1)
    ((List.range t.cols).flatMap (fun c => (List.range (t.rows / 16)).map (fun b => (c, b)))) f).bind (fun bs f => .ok bs.flatten f)
/-- The work of `bld`: the slot is empty until everything has been read. -/
def Fab.bldWork (ctl : Ctl) (c ctx slot : Nat) (t : Tile) (f : Fab) : Eng Unit :=
  ((f.setSlot c slot .empty).bldElements ctl ctx t).bind (fun e f =>
    (f.bldMeta ctl ctx t).bind (fun m f => (f.bldScales ctl ctx t).bind (fun s f =>
      .ok () (f.setSlot c slot ⟨true, t.nsp, t.fmt, t.cols, t.rows, Memory.writeBytes [] 0 (e ++ m ++ s)⟩))))

/-- The scale word that applies to element (k, n) of a slot. -/
def BSlot.scale (s : BSlot) (k n : Nat) : Nat :=
  let (e, m, _) := slotPlanes s.nsp s.fmt s.rows s.cols
  if isKnot s.fmt then s.bytes.readNat (e + m + 2 * (n * (s.rows / 16) + k / 16)) 2 else 0
/-- Element (k, n) of a slot; none for an absent element of a sparse slot (R234). -/
def BSlot.elt (s : BSlot) (k n : Nat) : Option Elt :=
  let bits := eltBits s.fmt
  let (e, _, _) := slotPlanes s.nsp s.fmt s.rows s.cols
  let ns := nspCount s.nsp
  let at_ : Option Nat := if s.nsp = 0 then some k
    else
      let g := k / 128
      let field := s.bytes.readNat (e + (n * (s.rows / 128) + g) * metaBytes s.nsp) (metaBytes s.nsp)
      ((List.range ns).find? (fun j => metaIndex field j == k % 128)).map (fun j => g * ns + j)
  at_.map (fun j =>
    let p := (n * storedK s.nsp s.rows + j) * bits
    let raw := s.bytes.readNat (p / 8) ((p % 8 + bits + 7) / 8) / 2 ^ (p % 8) % 2 ^ bits
    let w := s.scale k n
    ⟨raw, w / 256, knotMu w (k % 16)⟩)

/-! ## Block products (R236-R240) -/

/-- The window length of R238. -/
def window (fmt : Nat) : Int := match fmt with | 0 => 160 | 1 => 80 | _ => 48
/-- Updates a float accumulator by one block of exact products; `none` is a product that is NaN or 0 x infinity (R238). -/
def blockFloat (fm : Fmt) (len : Int) (acc : Nat) (ps : List (Option FVal)) : Nat :=
  let infs := ps.filterMap (fun p => match p with | some (.inf n) => some n | _ => none)
  let nz := ps.filterMap (fun p => match p with | some (.num n m e) => if m = 0 then none else some (n, m, e) | _ => none)
  let add (blk : FVal) : Nat := (fm.add .rne (fm.unpack acc) blk).1
  if ps.any (fun p => match p with | none => true | some v => v.isNan) ∨ (infs.contains true ∧ infs.contains false) then add (.nan false)
  else match infs, nz with
    | n :: _, _ => add (.inf n)
    | [], [] => acc
    | [], (n0, m0, e0) :: rest =>
      let e := rest.foldl (fun b p => max b (leadExp p.2.1 p.2.2)) (leadExp m0 e0)
      let u := e - len + 1
      let signed (p : Bool × Nat × Int) : Int := if p.1 then -(p.2.1 : Int) else p.2.1
      let part (p : Bool × Nat × Int) : Int × Bool :=
        if u ≤ p.2.2 then (signed p * 2 ^ (p.2.2 - u).toNat, false)
        else let d : Int := 2 ^ (u - p.2.2).toNat; (signed p / d, signed p % d != 0)
      let all := ((n0, m0, e0) :: rest).map part
      let s : Int := (all.map (·.1)).foldl (· + ·) 0
      let t : Int := 2 * s + (if all.any (·.2) then 1 else 0)
      add (fm.unpack (fm.round .rne (decide (t < 0)) t.natAbs (u - 1)).1)
/-- Updates an f32 accumulator by one knot block (R237): the exact sum of the integer products and the exponents. -/
def blockKnot (acc : Nat) (p : Int) (ea eb fa fb : Nat) : Nat :=
  if ea = 255 ∨ eb = 255 then Fmt.f32.nanBits
  else if p = 0 then acc
  else
    let x := (Fmt.f32.round .rne (decide (p < 0)) p.natAbs ((ea : Int) + eb - 254 - fa - fb - 2)).1
    (Fmt.f32.add .rne (Fmt.f32.unpack acc) (Fmt.f32.unpack x)).1
/-- The signed integer with which a knot element enters a block product (R237). -/
def eltInt (fmt : Nat) (x : Elt) : Int :=
  let w := eltBits fmt
  let m : Int := (x.raw % 2 ^ (w - 1) * 2 ^ (1 - x.mu) : Nat)
  if bitAt x.raw (w - 1) then -m else m
/-- One block update of an accumulator element, and whether R239's overflow condition holds. `as` and `bs` are the block's
elements along K, none an absent one, which is zero (R234); `eb` is the exponent of the slot's block. -/
def blockUpdate (binary : Option Bool) (af bf eb : Nat) (acc : Nat) (as : List Elt) (bs : List (Option Elt)) : Nat × Bool :=
  let pairs := as.zip bs
  match binary with
  | some and_ =>
    let bit (p : Elt × Option Elt) : Nat :=
      let b := match p.2 with | some y => y.raw | none => 0
      if and_ then p.1.raw &&& b else p.1.raw ^^^ b
    ((acc + (pairs.map bit).foldl (· + ·) 0) % 2 ^ 32, false)
  | none =>
    if isKnot bf then
      let p := (pairs.map (fun p => match p.2 with | some y => eltInt af p.1 * eltInt bf y | none => 0)).foldl (· + ·) 0
      (blockKnot acc p (as.headD default).e eb (eltBits af - 2) (eltBits bf - 2), false)
    else if isIeee bf then
      let fa := ieeeFmt af
      let prods := pairs.map (fun p =>
        let x := fa.unpack p.1.raw
        let z := fa.unpack (p.2.getD ⟨0, 0, 0⟩).raw
        if x.isNan || z.isNan then none else exactMul x z)
      (blockFloat (ieeeFmt (accFmt bf)) (window bf) acc prods, false)
    else
      let t := (IFmt.mk true 32).val acc + (pairs.map (fun p => match p.2 with
        | some y => (IFmt.mk (af == 4) 8).val p.1.raw * (IFmt.mk (bf == 4) 8).val y.raw | none => 0)).foldl (· + ·) 0
      ((IFmt.mk true 32).bits t, t < -2 ^ 31 || 2 ^ 31 ≤ t)
/-- Elements of a block along K (R237-R239). -/
def blockLen (binary : Option Bool) : Nat := if binary.isSome then 128 else 16
/-- The block updates of accumulator element (r, n) from a block on, `count` of them, in ascending K (R240). -/
def accumulate (binary : Option Bool) (s : BSlot) (af : Nat) (row : List Elt) (n acc start count : Nat) : Nat × Bool :=
  let len := blockLen binary
  (List.range' start count).foldl (fun (r : Nat × Bool) b =>
    let ks := (List.range len).map (fun j => b * len + j)
    let u := blockUpdate binary af s.fmt (s.scale (b * len) n / 256) r.1 ((row.drop (b * len)).take len) (ks.map (fun k => s.elt k n))
    (u.1, r.2 || u.2)) (acc, false)

/-- Whether a format pairs with a slot's (R236). -/
def famPair (a b : Nat) : Bool := (a == b && isIeee a) || ((a == 4 || a == 5) && (b == 4 || b == 5)) || (isKnot a && isKnot b) || (a == 10 && b == 10)
/-- The conditions of R335 on the A tile and the accumulator of a quarter. -/
def mmaOk (binary : Bool) (v : SlotView) (ts : List Tile) : Bool :=
  match ts with
  | [a, c] =>
    v.valid && (binary == (v.fmt == 10)) && a.as == 1 && a.rows == 8 && a.cols == v.rows && famPair a.fmt v.fmt && a.layout != 1 &&
      c.as == 1 && c.rows == 8 && c.cols == v.cols && c.fmt == accFmt v.fmt
  | _ => false
/-- `mma` and `mbin`. -/
def bodyMma (binary : Option Bool) (x : XtForm) (i : Iss) (_ : Ctl) (f : Fab) : Res :=
  let slot := x.h.toNat
  let v := match (f.core i.core).team with | some t => t.views.getD slot ⟨false, 0, 0, 0, 0⟩ | none => ⟨false, 0, 0, 0, 0⟩
  i.withTiles f i.quarterUnits [x.a, x.d] (mmaOk binary.isSome v) (fun us =>
    match stageTrap (us.flatMap (fun u => match u.2 with | [_, c] => if c.fmt = 6 then f.wordFails u.1 c else [] | _ => [])) with
    | some t => .trap t
    | none =>
      let absent := us.flatMap (fun u => match u.2 with
        | a :: _ => if f.tilePresent a then [] else u.1.map (fun l => (l, a.base.toNat % 2 ^ 32))
        | [] => [])
      if !absent.isEmpty then i.parkAbsent false absent
      else
        let qs := us.filterMap (fun u => match u.2 with | [a, c] => some (u.1.headD 0 / 8, a, c) | _ => none)
        .done (i.pushMx f none (.mma slot binary qs)))
/-- Writes the overflow word of an accumulator. -/
def Fab.overflowPut (ctl : Ctl) (ctx : Nat) (t : Tile) (v : Nat) (f : Fab) : Eng Unit := f.engWrite ctl t.core ctx t.as t.after (leBytes 4 v)
/-- The B slot of a core's team. -/
def Fab.bslot (f : Fab) (c slot : Nat) : BSlot := match (f.core c).team with | some t => t.slots.getD slot .empty | none => .empty
/-- Block products of one quarter: `count` block updates of each element from block `start` on. A slot that a faulted `bld` left
empty faults (R334). -/
def Fab.mmaQuarter (ctl : Ctl) (ctx : Nat) (binary : Option Bool) (s : BSlot) (a c : Tile) (start count : Nat) (f : Fab) : Eng Unit :=
  if !s.valid then .fault ⟨0x02, 0, none, none⟩ f
  else (f.tileElts ctl ctx a).bind (fun as f => (f.tileElts ctl ctx c).bind (fun cs f =>
    let out := (c.coords.zip cs).map (fun p =>
      (p.1, accumulate binary s a.fmt ((as.drop (p.1.1 * a.cols)).take a.cols) p.1.2 p.2.raw start count))
    (engMap (fun (p : (Nat × Nat) × Nat × Bool) f => f.tilePut ctl ctx c p.1 p.2.1) out f).bind (fun _ f =>
      if out.any (fun p => p.2.2) then f.overflowPut ctl ctx c 1 else .ok () f)))

/-! ## `mret`, `mret.send` and `mclr` (R336, R337) -/

/-- Whether an accumulator format retires into a destination format (R336). -/
def retPair (af df : Nat) : Bool := if af = 6 then df == 6 || df == 1 else (af == 0 || af == 1) && (isIeee df || isKnot df)
/-- The conditions of R336 on the accumulator, the destination and the second tile of a quarter. -/
def mretOk (zip ovr : Bool) (routine : Option Routine) (ts : List Tile) : Bool :=
  let core (a d : Tile) : Bool := scrTile a && d.nsp == 0 && a.rows == d.rows && a.cols == d.cols && retPair a.fmt d.fmt && (!ovr || a.fmt == 6)
  match ts with
  | [a, d] => !zip && core a d
  | [a, b, d] => zip && routine.isSome && core a d && scrTile b && b.rows == a.rows && b.cols == a.cols
  | _ => false
/-- `mret` without SEND. A knot destination in global memory is a source too where the routine may drop elements, which keep their old values
in their blocks: the L1 then makes its release at issue (R214). -/
def bodyMret (x : XtForm) (i : Iss) (ctl : Ctl) (f : Fab) : Res :=
  let zip := x.flags.getLsbD 0
  let ovr := x.flags.getLsbD 2
  let routine := if zip then f.routine i.ctx x.h else none
  i.withTiles f i.quarterUnits ([x.a] ++ (if zip then [x.b] else []) ++ [x.d]) (mretOk zip ovr routine) (fun us =>
    match stageTrap (if ovr then us.flatMap (fun u => (u.2.head?.toList ++ u.2.getLast?.toList).flatMap (f.wordFails u.1)) else []) with
    | some t => .trap t
    | none =>
      let qs := us.filterMap (fun u => match u.2 with
        | [a, d] => some (u.1.headD 0 / 8, a, d, none)
        | [a, b, d] => some (u.1.headD 0 / 8, a, d, some b)
        | _ => none)
      let reads := zip && qs.any (fun q => q.2.2.1.as == 0 && isKnot q.2.2.1.fmt)
      .done (i.pushMx (if reads then f.l1Release ctl i.core 3 else f) routine (.mret qs (x.sub.toNat % 4) ovr)))

/-- The format in which a routine's output is converted onward, by its tag code: an FMT, or 12 for n32 and bits. -/
def outFmt (tag : Nat) : Option Nat := match tag with | 6 => some 0 | 3 => some 1 | 4 => some 2 | 5 => some 3 | 1 => some 6 | 2 => some 12 | 9 => some 12 | _ => none
/-- Whether such a format converts to a destination's. -/
def outPair (k df : Nat) : Bool := if k = 6 ∨ k = 12 then df == 6 || df == 1 else isIeee df || isKnot df
/-- The exact value in such a format. -/
def outVal (k raw : Nat) : FVal :=
  if k = 12 then .num false (raw % 2 ^ 32) 0 else eltVal k ⟨raw % 2 ^ eltBits k, 0, 0⟩
/-- Conversion to a destination that is not a knot format (R322, R336). -/
def outConv (k df : Nat) (mode : RMode) (raw : Nat) : Nat :=
  if k = df ∨ df = 6 then raw % 2 ^ eltBits df else ((ieeeFmt df).ofVal mode (outVal k raw)).1

/-- What becomes of an element in the epilogue: a value in an output format, dropped, or a routine's fault. -/
inductive Retired
  | value (k raw : Nat)
  | dropped
  | fault (e : EngErr)
  deriving DecidableEq, Repr, Inhabited
/-- The elements of an accumulator as they retire, row-major. -/
def Fab.retire (ctl : Ctl) (ctx : Nat) (gcw : Word) (routine : Option Routine) (a : Tile) (b : Option Tile) (f : Fab) : Eng (List Retired) :=
  (f.tileElts ctl ctx a).bind (fun xs f =>
    match routine, b with
    | some r, some t => (f.tileElts ctl ctx t).bind (fun ys f =>
        .ok ((a.coords.zip (xs.zip ys)).map (fun p =>
          match r.apply gcw p.2.1.raw (enterElt t.fmt p.2.2.raw) with
          | .value v => .value ((outFmt r.out).getD 12) v
          | .dropped => .dropped
          | .fault c k => .fault (routineErr c k p.1.1 p.1.2))) f)
    | _, _ => .ok (xs.map (fun x => .value a.fmt x.raw)) f)
/-- Whether the formats of an epilogue routine fit (R336, R341). -/
def retireFits (routine : Option Routine) (a : Tile) (b : Option Tile) (df : Nat) : Bool :=
  match routine, b with
  | some r, some t => r.enters a.fmt && r.enters t.fmt && (match outFmt r.out with | some k => outPair k df | none => false)
  | _, _ => true
/-- The first fault among retired elements. -/
def firstFault (l : List Retired) : Option EngErr := l.findSome? (fun x => match x with | .fault e => some e | _ => none)

/-- Writes retired elements to a destination that is not a knot tile; `keep` says which elements of a faulted operation are
written (R175). -/
def Fab.retirePut (ctl : Ctl) (ctx : Nat) (d : Tile) (mode : RMode) (keep : Nat → Bool) (l : List Retired) (f : Fab) : Eng Unit :=
  (engMap (fun (p : Nat × (Nat × Nat) × Retired) f => match p.2.2 with
    | .value k raw => if keep p.1 then f.tilePut ctl ctx d p.2.1 (outConv k d.fmt mode raw) else .ok () f
    | _ => .ok () f) ((d.coords.zip l).mapIdx (fun n x => (n, x))) f).bind (fun _ f => .ok () f)
/-- Writes retired elements to a knot destination, block by block (R232, R336); a dropped element enters its block with the
value that the destination held. -/
def Fab.retireBlocks (ctl : Ctl) (ctx : Nat) (d : Tile) (keep : Nat → Bool) (l : List Retired) (f : Fab) : Eng Unit :=
  let blocks := (List.range d.geometry.2).flatMap (fun line => (List.range d.blocks).map (fun b => (line, b)))
  (engMap (fun (p : Nat × Nat) f =>
    let items := (d.blockCoords p.1 p.2).map (fun rc => (rc, l.getD (rc.1 * d.cols + rc.2) .dropped))
    if items.any (fun x => match x.2 with | .fault _ => true | _ => false) ∨ !keep (p.1 * d.blocks + p.2) then .ok () f
    else (engMap (fun (x : (Nat × Nat) × Retired) f => match x.2 with
        | .value k raw => .ok (outVal k raw) f
        | _ => (f.tileElt ctl ctx d x.1).bind (fun e f => .ok (eltVal d.fmt e) f)) items f).bind (fun vs f =>
      f.blockPut ctl ctx d p.1 p.2 (knotPack (eltBits d.fmt) vs))) blocks f).bind (fun _ f => .ok () f)
/-- The work of `mret` on one quarter (R336). -/
def Fab.mretQuarter (ctl : Ctl) (ctx : Nat) (gcw : Word) (routine : Option Routine) (mode : RMode) (ovr : Bool) (a d : Tile) (b : Option Tile)
    (f : Fab) : Eng Unit :=
  if !retireFits routine a b d.fmt then .fault mapErr f
  else (f.retire ctl ctx gcw routine a b).bind (fun l f =>
    let err := firstFault l
    let event := f.nextId
    let keep (n : Nat) : Bool := err.isNone || Config.faultWrote event n
    let f := { f with nextId := event + 1 }
    (if isKnot d.fmt then f.retireBlocks ctl ctx d keep l else f.retirePut ctl ctx d mode keep l).bind (fun _ f =>
      match err with
      | some e => .fault e f
      | none =>
        if ovr then (f.engRead ctl a.core ctx a.as a.after 4).bind (fun w f =>
          (f.engWrite ctl d.core ctx d.as d.after w).bind (fun _ f => f.overflowPut ctl ctx a 0))
        else .ok () f))

/-- The conditions of R336 on the tile of `mclr`. -/
def mclrOk (ts : List Tile) : Bool := ts.all (fun t => scrTile t && (t.fmt == 0 || t.fmt == 1 || t.fmt == 6))
/-- `mclr`. -/
def bodyMclr (x : XtForm) (i : Iss) (_ : Ctl) (f : Fab) : Res :=
  i.withTiles f i.quarterUnits [x.d] mclrOk (fun us =>
    match stageTrap (us.flatMap (fun u => u.2.flatMap (fun t => if t.fmt = 6 then f.wordFails u.1 t else []))) with
    | some t => .trap t
    | none => .done (i.pushMx f none (.mclr (us.filterMap (fun u => u.2.head?.map (fun t => (u.1.headD 0 / 8, t)))))))
/-- The work of `mclr` on one quarter. -/
def Fab.mclrQuarter (ctl : Ctl) (ctx : Nat) (t : Tile) (f : Fab) : Eng Unit :=
  (engMap (fun rc f => f.tilePut ctl ctx t rc 0) t.coords f).bind (fun _ f =>
    if t.fmt = 6 then f.overflowPut ctl ctx t 0 else .ok () f)

/-! ## Meanings -/

/-- BLD_XT (R333). -/
def execBldXt (f : XtForm) (s : State) : Out := run (.xt 0xB0 f) gateMx (bodyBld f) s
/-- MMA_XT (R335). -/
def execMmaXt (f : XtForm) (s : State) : Out := run (.xt 0xB1 f) gateMx (bodyMma none f) s
/-- MBIN_XT (R335): XOR for SUB 0, AND for SUB 1. -/
def execMbinXt (f : XtForm) (s : State) : Out := run (.xt 0xB2 f) gateMx (bodyMma (some (f.sub == 1)) f) s
/-- MRET_XT (R336). -/
def execMretXt (f : XtForm) (s : State) : Out := run (.xt 0xB3 f) gateMx (bodyMret f) s
/-- MCLR_XT (R336). -/
def execMclrXt (f : XtForm) (s : State) : Out := run (.xt 0xB4 f) gateMx (bodyMclr f) s

end Sys2Proof.Machine
end

