-- ==== Sys2Proof/Machine/Launch.lean ====
section
/-!
DEFINITION. Lanes, groups and teams as they start in a uniform-entry image (04_command_interface R92).
-/
namespace Sys2Proof.Machine

/-- A checkpoint at an entry PC whose live-in set is `v0`-`v15` (R92). -/
def entryCheckpoint (entry : Addr) (args : List Word) : Checkpoint :=
  ⟨0x4000, (List.range 16).map (fun i => ⟨args.getD i 0, .raw⟩), entry, 0, 0, 0, none⟩

/-- A lane as it starts in a uniform-entry image (R92). -/
def Lane.launch (entry : Addr) (args : List Word) (bound : Option (DWord × BitVec 4)) : Lane where
  status := .live
  idle := false
  park := none
  parkNext := 0
  pc := entry
  prio := 0
  regs := (List.range 16).filterMap (fun i => if args.getD i 0 = 0 then none else some (i, ⟨args.getD i 0, .raw⟩))
  epoch := none
  bound := bound
  task := false
  lastTnext := none
  window := none
  enrolled := 0
  arrived := 0
  ck := entryCheckpoint entry args

/-- A group as it starts: counters zero, masks empty (R92, R158). -/
def Group.launch (slot : Nat) (consumer : Bool) (r : Nat) (lanes : List Lane) : Group where
  slot := slot
  consumer := consumer
  r := r
  lanes := lanes
  gcw := if consumer then 0x10000 else 0
  storeQ := []
  loads := []
  openBatch := []
  batches := []
  rem := []
  undel := []
  ringCount := 0
  nextSeq := 0
  sealedCp := 0
  issuedMx := 0
  issuedCl := 0
  countFrom := 0
  hold := none
  absentSince := none
  trap := none
  pendTrap := none
  stop := none
  stopped := false
  malformed := 0
  malformedWords := []
  gapUntil := 0
  gw := false
  lastIssue := none
  eligSince := none
  awaiting := false

/-- The view of an empty slot (R92, Table 8.3). -/
def SlotView.empty : SlotView := ⟨false, 0, 0, 0, 0⟩

/-- A team as it starts on a core: scratchpad zero with every sector present, shared registers zero raw, B slots empty
(R92). -/
def Team.launch (grid ctx index hitch j : Nat) (mates : List Nat) (scratch : Nat) (groups : List Group) : Team where
  grid := grid
  ctx := ctx
  index := index
  hitch := hitch
  j := j
  mates := mates
  scratchBytes := scratch
  scratch := []
  sectors := []
  slots := List.replicate 8 BSlot.empty
  views := List.replicate 8 SlotView.empty
  shared := List.replicate 8 ⟨.zero, []⟩
  groups := groups
  exited := false
  started := true
  reported := false

end Sys2Proof.Machine
end

