-- ==== Sys2Proof/Machine/Image.lean ====
section
/-!
DEFINITION. Resume images (04_command_interface R90-R93, 05_scheduler R105): the header, its validation, the teams that a full
image carries, and the bytes of a full image.
-/
namespace Sys2Proof.Machine

/-! ## The header (Table 4.8) -/

/-- The fields of a header that a grid keeps as they stand, and those of a full image. -/
structure ImgHead where
  kind : Nat
  code : Nat
  entry : Nat
  w : Nat
  gprod : Nat
  gcons : Nat
  rprod : Nat
  rcons : Nat
  hitch : Nat
  scratch : Nat
  nteams : Nat
  incidx : Nat
  bounded : Bool
  ntq : Nat
  bound0 : DWord
  tqs : List DWord
  tasks : DWord
  args : List Word
  teams : Nat
  records : Nat
  next : Nat
  gseq : Word
  gqueue : Nat
  disc : DWord
  canc : DWord
  deriving DecidableEq, Repr, Inhabited

/-- Reads a header. -/
def ImgHead.parse (b : List Byte) : ImgHead :=
  let shape := fieldAt b 0x18 8
  let bind_ := fieldAt b 0x28 8
  { kind := fieldAt b 4 4, code := fieldAt b 8 8, entry := fieldAt b 0x10 8
    w := bitsOf shape 7 0, gprod := bitsOf shape 15 8, gcons := bitsOf shape 23 16, rprod := bitsOf shape 33 24
    rcons := bitsOf shape 43 34, hitch := bitsOf shape 47 44
    scratch := fieldAt b 0x20 4, nteams := fieldAt b 0x24 4
    incidx := bitsOf bind_ 3 0, bounded := bitAt bind_ 4, ntq := bitsOf bind_ 7 5
    bound0 := BitVec.ofNat 64 (fieldAt b 0x30 8)
    tqs := (List.range 4).map (fun i => BitVec.ofNat 64 (fieldAt b (0x38 + 8 * i) 8))
    tasks := BitVec.ofNat 64 (fieldAt b 0x58 8)
    args := (List.range 16).map (fun i => BitVec.ofNat 32 (fieldAt b (0x60 + 4 * i) 4))
    teams := fieldAt b 0xA0 8, records := fieldAt b 0xA8 4, next := fieldAt b 0xAC 4
    gseq := BitVec.ofNat 32 (fieldAt b 0xB0 4), gqueue := bitsOf (fieldAt b 0xB4 4) 5 0
    disc := BitVec.ofNat 64 (fieldAt b 0xB8 8), canc := BitVec.ofNat 64 (fieldAt b 0xC0 8) }

/-- Whether an image is full. -/
def ImgHead.full (h : ImgHead) : Bool := h.kind == 2
/-- Groups of a team. -/
def ImgHead.groups (h : ImgHead) : Nat := h.gprod + h.gcons
/-- Whether a register count is one that a role may have. -/
def regCountOk (r : Nat) : Bool := r % 8 == 0 && 8 ≤ r && r ≤ 1016
/-- The checks of R91 on the header's bytes: status 5 where one fails. -/
def ImgHead.ok (h : ImgHead) (b : List Byte) : Bool :=
  fieldAt b 0 4 == 0x57465249 && (h.kind == 1 || h.kind == 2) && decide (h.code < 2 ^ 48) && h.code % 65536 == 0 &&
    decide (h.entry < 2 ^ 48) && h.entry % 4 == 0 && decide (h.code ≤ h.entry) &&
    (h.w == 16 || h.w == 32 || h.w == 64) && decide (1 ≤ h.hitch) && decide (h.hitch ≤ 8) &&
    h.scratch % 64 == 0 && decide (h.scratch ≤ 0x100000) && decide (1 ≤ h.nteams) &&
    decide (h.ntq ≤ 4) &&
    decide (1 ≤ h.groups) && decide (h.groups ≤ 32) && (h.gprod == 0 || regCountOk h.rprod) && (h.gcons == 0 || regCountOk h.rcons) &&
    decide ((h.gprod * h.rprod + h.gcons * h.rcons) * h.w ≤ regFile) && h.nteams % h.hitch == 0 &&
    (!h.full || (decide (h.records ≤ h.nteams) && decide (h.next ≤ h.nteams)))

/-! ## Teams of a full image (R93) -/

/-- Bytes of a team's block: its record, its tag word and its group records. -/
def teamStride (groups : Nat) : Nat := 128 + 512 * groups

/-- Registers for a lane's checkpoint: none for `v1016`-`v1023`. -/
def ckRegs (lit : DWord) : Nat := (liveIns lit).length
/-- Bytes of a checkpoint (R93). -/
def ckBytes (lit : DWord) : Nat := 16 + 4 * ckRegs lit + 8 * ((ckRegs lit + 15) / 16)
/-- The checkpoint of a lane from its bytes and its lane record's word. -/
def Checkpoint.parse (b : List Byte) (head : Addr) (prio : Byte) : Checkpoint :=
  let lit := BitVec.ofNat 64 (fieldAt b 0 8)
  let n := ckRegs lit
  let rj := fieldAt b 8 8
  ⟨lit, (List.range n).map (fun i => ⟨BitVec.ofNat 32 (fieldAt b (16 + 4 * i) 4),
      Tag.ofCode (fieldAt b (16 + 4 * n + i / 2) 1 / 16 ^ (i % 2) % 16)⟩),
    head, prio, BitVec.ofNat 16 (bitsOf rj 15 0), BitVec.ofNat 16 (bitsOf rj 31 16), none⟩
/-- The bytes of a checkpoint. -/
def Checkpoint.bytes (c : Checkpoint) : List Byte :=
  let n := ckRegs c.lit
  leBytes 8 c.lit.toNat ++ leBytes 8 (c.enrolled.toNat + 2 ^ 16 * c.arrived.toNat) ++
    (List.range n).flatMap (fun i => leBytes 4 (c.regs.getD i .zero).val.toNat) ++
    (List.range (8 * ((n + 15) / 16))).flatMap (fun k =>
      leBytes 1 ((c.regs.getD (2 * k) .zero).tag.code + 16 * (c.regs.getD (2 * k + 1) .zero).tag.code))

/-- RRESUME of a group (R105): its launch count, or what the checkpoints of its live lanes need. -/
def rresume (launch : Nat) (lanes : List Lane) : Nat :=
  lanes.foldl (fun r x => if x.status != .live then r else (liveIns x.ck.lit).foldl (fun r n => max r ((n / 8 + 1) * 8)) r) launch

/-- Reads of a context's memory that all succeed, in order. -/
def Fab.ctxReads (ctl : Ctl) (f : Fab) (ctx : Nat) (ps : List (Nat × Nat)) : Option (List (List Byte)) × Fab :=
  ps.foldl (fun (r : Option (List (List Byte)) × Fab) p =>
    match r.1 with
    | none => r
    | some bs => match r.2.ctxRead ctl ctx p.1 p.2 with
      | (some b, f) => (some (bs ++ [b]), f)
      | (none, f) => (none, f)) (some [], f)
/-- Reads a run of a context's memory as a sparse memory. -/
def Fab.ctxMem (ctl : Ctl) (f : Fab) (ctx va n : Nat) : Option Memory × Fab :=
  (List.range ((n + 255) / 256)).foldl (fun (r : Option Memory × Fab) k =>
    match r.1 with
    | none => r
    | some m => match r.2.ctxRead ctl ctx (va + 256 * k) (min 256 (n - 256 * k)) with
      | (some b, f) => (some (m.writeBytes (256 * k) b), f)
      | (none, f) => (none, f)) (some [], f)

/-- The task queue of the `tnext` that stands at an address, if one does. -/
def Fab.tnextAt (ctl : Ctl) (f : Fab) (ctx va : Nat) : Option Nat × Fab :=
  match f.ctxRead ctl ctx va 12 with
  | (some b, f) => (match decode ((List.range 3).map (fun i => BitVec.ofNat 32 (fieldAt b (4 * i) 4))) with
    | .ok (.tnextXr x) => (some x.s, f)
    | _ => (none, f))
  | (none, f) => (none, f)

/-- Bits of lane `l` in the sixteen 8-byte masks at an offset of a group record. -/
def maskBits (g : List Byte) (off l : Nat) : BitVec 16 :=
  (List.range 16).foldl (fun m j => setJ m j (bitAt (fieldAt g (off + 8 * j) 8) l)) 0

/-- One lane of a group record: live lanes restart at their heads; the group record's rejoin bits govern. A lane whose head is
a `tnext` with an empty live-in set is idle there (R125). -/
def Fab.readLane (ctl : Ctl) (f : Fab) (ctx : Nat) (g rec_ : List Byte) (l : Nat) : Option Lane × Fab :=
  let w0 := fieldAt rec_ 0 8
  let w2 := fieldAt rec_ 16 8
  let gone : Lane := { Lane.launch 0 [] none with status := .exited, regs := [], ck := ⟨0, [], 0, 0, 0, 0, none⟩ }
  if bitsOf w0 57 56 ≠ 0 then (some gone, f)
  else
    let va := fieldAt rec_ 24 8
    match f.ctxRead ctl ctx va 8 with
    | (none, f) => (none, f)
    | (some lb, f) => match f.ctxRead ctl ctx va (ckBytes (BitVec.ofNat 64 (leNat lb))) with
      | (none, f) => (none, f)
      | (some cb, f) =>
        let head := BitVec.ofNat 48 (bitsOf w0 47 0)
        let ck := Checkpoint.parse cb head (BitVec.ofNat 8 (bitsOf w0 55 48))
        let ck := { ck with enrolled := maskBits g 0x10 l, arrived := maskBits g 0xA0 l }
        let bound := if bitAt w2 4 then some (BitVec.ofNat 64 (fieldAt rec_ 8 8), BitVec.ofNat 4 (bitsOf w2 3 0)) else none
        let task := bitAt w2 5
        let (idle, f) := if ck.lit == 0#64 && !task && bound.isNone then f.tnextAt ctl ctx head.toNat else (none, f)
        let last := BitVec.ofNat 48 (bitsOf w2 63 16)
        let (lq, f) := if bitAt w2 6 then f.tnextAt ctl ctx last.toNat else (none, f)
        (some { Lane.launch head [] bound with
          regs := ck.table, epoch := some 0, prio := ck.prio, ck := { ck with idle := idle }, enrolled := ck.enrolled, arrived := ck.arrived
          idle := idle.isSome, task := task
          lastTnext := match idle with | some q => some (head, q) | none => lq.map (fun q => (last, q)) }, f)

/-- One group of a team block. -/
def Fab.readGroup (ctl : Ctl) (f : Fab) (ctx : Nat) (h : ImgHead) (slot : Nat) (g : List Byte) : Option Group × Fab :=
  match f.ctxRead ctl ctx (fieldAt g 8 8) (32 * h.w) with
  | (none, f) => (none, f)
  | (some lb, f) =>
    let (ls, f) := (List.range h.w).foldl (fun (r : Option (List Lane) × Fab) l =>
      match r.1 with
      | none => r
      | some ls => match r.2.readLane ctl ctx g (sliceBytes lb (32 * l) 32) l with
        | (some x, f) => (some (ls ++ [x]), f)
        | (none, f) => (none, f)) (some [], f)
    match ls with
    | none => (none, f)
    | some ls =>
      let consumer := decide (h.gprod ≤ slot)
      let r := rresume (if consumer then h.rcons else h.rprod) ls
      let x := Group.launch slot consumer r ls
      (some { x with gcw := gcwWrite x.gcw (BitVec.ofNat 32 (fieldAt g 0x90 4)) }, f)

/-- B-slot state from its 16 bytes (Table 8.3), with its contents. -/
def BSlot.parse (b : List Byte) (m : Memory) : BSlot :=
  let x := fieldAt b 0 16
  if bitAt x 38 then ⟨true, bitsOf x 37 36, bitsOf x 35 32, bitsOf x 31 16, bitsOf x 15 0, m⟩ else BSlot.empty
/-- B-slot state as 16 bytes. -/
def BSlot.state (b : BSlot) : List Byte :=
  leBytes 16 (if b.valid then 2 ^ 38 + b.nsp % 4 * 2 ^ 36 + b.fmt % 16 * 2 ^ 32 + b.cols % 2 ^ 16 * 2 ^ 16 + b.rows % 2 ^ 16 else 0)
/-- What a slot's issue view holds. -/
def BSlot.view (b : BSlot) : SlotView := ⟨b.valid, b.nsp, b.fmt, b.cols, b.rows⟩
/-- The eight B slots of a B-slot image. -/
def Fab.readSlots (ctl : Ctl) (f : Fab) (ctx va : Nat) : Option (List BSlot) × Fab :=
  match f.ctxRead ctl ctx va 128 with
  | (none, f) => (none, f)
  | (some st, f) => (List.range 8).foldl (fun (r : Option (List BSlot) × Fab) i =>
      match r.1 with
      | none => r
      | some bs =>
        let s := sliceBytes st (16 * i) 16
        if !bitAt (fieldAt s 0 16) 38 then (some (bs ++ [BSlot.empty]), r.2)
        else match r.2.ctxMem ctl ctx (va + 128 + 65536 * i) 65536 with
          | (some m, f) => (some (bs ++ [BSlot.parse s m]), f)
          | (none, f) => (none, f)) (some [], f)

/-- A team from its block: the image's team, not yet on a core. -/
def Fab.readTeam (ctl : Ctl) (f : Fab) (ctx grid : Nat) (h : ImgHead) (b : List Byte) : Option Team × Fab :=
  let index := fieldAt b 0 4
  let sectors := h.scratch / 64
  match f.ctxMem ctl ctx (fieldAt b 8 8) h.scratch with
  | (none, f) => (none, f)
  | (some scratch, f) => match f.ctxMem ctl ctx (fieldAt b 16 8) ((sectors + 7) / 8) with
    | (none, f) => (none, f)
    | (some pres, f) => match f.readSlots ctl ctx (fieldAt b 24 8) with
      | (none, f) => (none, f)
      | (some slots, f) =>
        let (gs, f) := (List.range h.groups).foldl (fun (r : Option (List Group) × Fab) s =>
          match r.1 with
          | none => r
          | some gs => match r.2.readGroup ctl ctx h s (sliceBytes b (128 + 512 * s) 512) with
            | (some g, f) => (some (gs ++ [g]), f)
            | (none, f) => (none, f)) (some [], f)
        match gs with
        | none => (none, f)
        | some gs =>
          let absent := (List.range sectors).filter (fun k => !((pres.read (k / 8)).getLsbD (k % 8)))
          (some { Team.launch grid ctx index (index / h.hitch) (index % h.hitch) [] h.scratch gs with
            scratch := scratch
            sectors := absent.map (fun k => (k, ⟨false, 1⟩))
            slots := slots
            views := slots.map BSlot.view
            shared := (List.range 8).map (fun i =>
              ⟨⟨BitVec.ofNat 32 (fieldAt b (32 + 4 * i) 4), Tag.ofCode (fieldAt b (0x40 + i / 2) 1 / 16 ^ (i % 2) % 16)⟩, []⟩)
            exited := bitAt (fieldAt b 4 4) 0
            started := false }, f)

/-- What reading the teams of an image ends in: a status, or the teams by index. -/
inductive Teams
  | status (n : Nat)
  | teams (ts : List (Nat × Team))
  deriving DecidableEq, Repr, Inhabited

/-- Private registers that a team's readmission needs, over all its groups (R91, R105). -/
def Team.needs (t : Team) : Nat := (t.groups.map (fun g => g.r * g.lanes.length)).foldl (· + ·) 0
/-- Reads the teams of a full image (R91, R93): status 2 where memory cannot be read, 5 for a team index that is repeated or out
of range, 6 for a team that no core can hold. -/
def Fab.readTeams (ctl : Ctl) (f : Fab) (ctx grid : Nat) (h : ImgHead) : Teams × Fab :=
  if !h.full then (.teams [], f)
  else (List.range h.records).foldl (fun (r : Teams × Fab) k =>
    match r.1 with
    | .status _ => r
    | .teams ts => match r.2.ctxRead ctl ctx (h.teams + k * teamStride h.groups) (teamStride h.groups) with
      | (none, f) => (.status 2, f)
      | (some b, f) =>
        let i := fieldAt b 0 4
        if h.nteams ≤ i ∨ ts.any (fun t => t.1 == i) then (.status 5, f)
        else match f.readTeam ctl ctx grid h b with
          | (none, f) => (.status 2, f)
          | (some t, f) => if !t.exited ∧ regFile < t.needs then (.status 6, f) else (.teams (ts ++ [(i, t)]), f)) (.teams [], f)

/-! ## Writing a full image (R93, R109) -/

/-- Bytes of a team's data after the blocks: scratchpad, presence, B slots, and its groups' lane records and checkpoints. -/
structure Layout where
  base : Nat
  scratch : Nat
  w : Nat
  groups : Nat
  records : Nat
  deriving DecidableEq, Repr, Inhabited
/-- Bytes of the presence bitmap, to a multiple of 64. -/
def Layout.pres (y : Layout) : Nat := (y.scratch / 64 + 511) / 512 * 64
/-- Bytes of a lane record and its checkpoint's place. -/
def laneRoom : Nat := 32 + 1152
/-- Bytes of a team's data. -/
def Layout.room (y : Layout) : Nat := y.scratch + y.pres + 128 + 8 * 65536 + y.groups * y.w * laneRoom
/-- Where the block of the `k`-th record stands. -/
def Layout.block (y : Layout) (k : Nat) : Nat := y.base + 256 + k * teamStride y.groups
/-- Where the data of the `k`-th record start. -/
def Layout.data (y : Layout) (k : Nat) : Nat := (y.block y.records + 63) / 64 * 64 + k * y.room
/-- Where the lane records of a group start, and its checkpoints. -/
def Layout.lanes (y : Layout) (k s : Nat) : Nat := y.data k + y.scratch + y.pres + 128 + 8 * 65536 + s * y.w * laneRoom
/-- Where a lane's checkpoint stands. -/
def Layout.check (y : Layout) (k s l : Nat) : Nat := y.lanes k s + 32 * y.w + 1152 * l

/-- A lane record (R93). Bits of +0x10 that the spec leaves free hold whether the lane holds a task and the `tnext` it last
retired (log 50). -/
def Lane.record (x : Lane) (ckAt : Nat) : List Byte :=
  if x.status != .live then leBytes 8 (2 ^ 56) ++ leBytes 24 0
  else
    leBytes 8 (x.ck.head.toNat + 2 ^ 48 * x.ck.prio.toNat) ++
      leBytes 8 (match x.bound with | some (b, _) => b.toNat | none => 0) ++
      leBytes 8 ((match x.bound with | some (_, i) => i.toNat + 16 | none => 0) + (if x.task then 32 else 0) +
        (match x.lastTnext with | some (a, _) => 64 + 2 ^ 16 * a.toNat | none => 0)) ++
      leBytes 8 ckAt
/-- The sixteen masks of a group record, of one kind. -/
def Group.maskBytes (g : Group) (bits : Lane → BitVec 16) : List Byte :=
  (List.range 16).flatMap (fun j => leBytes 8
    ((g.numbered.filter (fun p => p.2.status == .live && jbit (bits p.2) j)).foldl (fun n p => n + 2 ^ p.1) 0))
/-- A group record. -/
def Group.record (g : Group) (lanesAt : Nat) : List Byte :=
  leBytes 8 (if g.consumer then 1 else 0) ++ leBytes 8 lanesAt ++ g.maskBytes (fun x => x.ck.enrolled) ++
    leBytes 4 g.gcw.toNat ++ leBytes 12 0 ++ g.maskBytes (fun x => x.ck.arrived) ++ leBytes 224 0
/-- The current value of a shared register, when no group runs. -/
def Shared.last (x : Shared) : Reg := match x.writes.getLast? with | some w => w.2.2 | none => x.base
/-- The pieces of a memory run of `n` bytes, to write at an address. -/
def memPieces (m : Memory) (at_ n : Nat) : List (Nat × List Byte) :=
  (List.range ((n + 255) / 256)).map (fun k => (at_ + 256 * k, m.readBytes (256 * k) (min 256 (n - 256 * k))))
/-- What a team's record and data write, by address. -/
def Team.pieces (t : Team) (y : Layout) (k : Nat) : List (Nat × List Byte) :=
  let d := y.data k
  let head := leBytes 4 t.index ++ leBytes 4 (if t.exited then 1 else 0) ++ leBytes 8 d ++ leBytes 8 (d + y.scratch) ++
    leBytes 8 (d + y.scratch + y.pres) ++ (List.range 8).flatMap (fun i => leBytes 4 ((t.shared.getD i ⟨.zero, []⟩).last.val.toNat)) ++
    leBytes 4 ((List.range 8).foldl (fun a i => a + (t.shared.getD i ⟨.zero, []⟩).last.tag.code * 2 ^ (4 * i)) 0) ++ leBytes 60 0
  let pres (i : Nat) : Byte := BitVec.ofNat 8 ((List.range 8).foldl (fun a b =>
    a + (if (Table.getD t.sectors (8 * i + b) ⟨true, 0⟩).present ∧ 8 * i + b < y.scratch / 64 then 2 ^ b else 0)) 0)
  [(y.block k, head)] ++ memPieces t.scratch d y.scratch ++ [(d + y.scratch, (List.range y.pres).map pres),
    (d + y.scratch + y.pres, t.slots.flatMap BSlot.state)] ++
    (t.slots.mapIdx (fun i b => memPieces b.bytes (d + y.scratch + y.pres + 128 + 65536 * i) 65536)).flatMap id ++
    (t.groups.mapIdx (fun s g =>
      (y.block k + 128 + 512 * s, g.record (y.lanes k s)) ::
        (g.lanes.mapIdx (fun l x => [(y.lanes k s + 32 * l, x.record (y.check k s l)), (y.check k s l, x.ck.bytes)])).flatMap id)).flatMap id

/-- The header of a full image from the 256 bytes of the image it was started from (R109). -/
def fullHeader (old : List Byte) (teams records next : Nat) (gseq : Word) (gqueue : Nat) (tasks disc canc : DWord) : List Byte :=
  let b := setBytes old 4 (leBytes 4 2)
  let b := setBytes b 0x58 (leBytes 8 tasks.toNat)
  let b := setBytes b 0xA0 (leBytes 8 teams ++ leBytes 4 records ++ leBytes 4 next)
  let b := setBytes b 0xB0 (leBytes 4 gseq.toNat ++ leBytes 4 gqueue)
  setBytes b 0xB8 (leBytes 8 disc.toNat ++ leBytes 8 canc.toNat)

/-- The header that a grid's image has. -/
def Grid.header (g : Grid) (teams records : Nat) : List Byte :=
  let b := leBytes 4 0x57465249 ++ leBytes 4 2 ++ leBytes 8 g.code.toNat ++ leBytes 8 g.entry.toNat ++
    leBytes 8 (g.w + 2 ^ 8 * g.gprod + 2 ^ 16 * g.gcons + 2 ^ 24 * g.rprod + 2 ^ 34 * g.rcons + 2 ^ 44 * g.hitch) ++
    leBytes 4 g.scratch ++ leBytes 4 g.nteams ++
    leBytes 8 (g.incidx.toNat + (if g.bounded then 16 else 0) + 32 * g.ntq) ++ leBytes 8 g.bound0.toNat ++
    g.tqs.flatMap (fun q => leBytes 8 q.toNat) ++ leBytes 8 0 ++ g.args.flatMap (fun a => leBytes 4 a.toNat) ++ leBytes 96 0
  fullHeader b teams records g.nextTeam g.firstSeq g.firstQueue g.tasks g.disc g.canc

/-- Writes pieces of a context's memory; false where one cannot be written. -/
def Fab.ctxWrites (ctl : Ctl) (f : Fab) (ctx : Nat) (ps : List (Nat × List Byte)) : Bool × Fab :=
  ps.foldl (fun (r : Bool × Fab) p => if r.1 then r.2.ctxWrite ctl ctx p.1 p.2 else r) (true, f)
/-- Writes a grid's full image at an address of a context. -/
def Fab.writeImage (ctl : Ctl) (f : Fab) (ctx va : Nat) (g : Grid) : Bool × Fab :=
  let n := g.saved.length
  let y : Layout := ⟨va, g.scratch, g.w, g.gprod + g.gcons, n⟩
  f.ctxWrites ctl ctx ((va, g.header (if n = 0 then 0 else y.block 0) n) ::
    (g.saved.mapIdx (fun k t => t.2.pieces y k)).flatMap id)

end Sys2Proof.Machine
end

