-- ==== Sys2Proof/Machine/HigherOrder.lean ====
section
/-!
DEFINITION. The higher-order tile instructions `fold`, `scan`, `zip`, `zip.merge` and `outr` (16_isa_tile_remote R331, R332,
R341-R343; 08_engines R174, R175; 11_number_formats R235), and what the engine does for them.
-/
namespace Sys2Proof.Machine

/-! ## Issue (R332, R342) -/

/-- Whether a tile has a shape. -/
def Tile.shape (t : Tile) (r c : Nat) : Bool := t.rows == r && t.cols == c
/-- The conditions of `fold` on its source and destination. -/
def foldOk (all : Bool) (ts : List Tile) : Bool :=
  match ts with | [a, d] => scrTile a && scrTile d && d.shape (if all then 1 else a.rows) 1 | _ => false
/-- The conditions of `scan`. -/
def scanOk (ts : List Tile) : Bool := match ts with | [a, d] => scrTile a && scrTile d && d.shape a.rows a.cols | _ => false
/-- The conditions of `zip`. -/
def zipOk (ts : List Tile) : Bool :=
  match ts with | [a, b, d] => scrTile a && scrTile b && scrTile d && b.shape a.rows a.cols && d.shape a.rows a.cols | _ => false
/-- The conditions of `outr`. -/
def outrOk (ts : List Tile) : Bool :=
  match ts with | [a, b, d] => scrTile a && scrTile b && scrTile d && a.rows == 1 && b.rows == 1 && d.shape a.cols b.cols | _ => false
/-- The conditions of `zip.merge`: three one-row tiles of FMT 11 (R343). -/
def mergeOk (ts : List Tile) : Bool := ts.length == 3 && ts.all (fun t => scrTile t && t.rows == 1 && t.fmt == 11)

/-- An instruction that acts once on a source and a destination with the routine that its handle names. -/
def bodyHo1 (x : XtForm) (ok : List Tile → Bool) (op : Tile → Tile → EngOp) (i : Iss) (f : Fab) : Res :=
  let routine := f.routine i.ctx x.h
  i.withTiles f [i.active] [x.a, x.d] (fun ts => routine.isSome && ok ts) (fun us =>
    match us with
    | [(_, [a, d])] => .done (i.pushMx f routine (op d a))
    | _ => .done f)
/-- An instruction that acts once on two sources and a destination; `last` makes the checks that R319 places last. -/
def bodyHo2 (x : XtForm) (ok : List Tile → Bool) (last : Option Trap) (op : Tile → Tile → Tile → EngOp) (i : Iss) (f : Fab) : Res :=
  let routine := f.routine i.ctx x.h
  i.withTiles f [i.active] [x.a, x.b, x.d] (fun ts => routine.isSome && ok ts) (fun us =>
    match us, last with
    | _, some t => .trap t
    | [(_, [a, b, d])], none => .done (i.pushMx f routine (op d a b))
    | _, none => .done f)
/-- `fold`: SUB 0 each row, SUB 1 the whole tile. -/
def bodyFold (x : XtForm) (i : Iss) (_ : Ctl) (f : Fab) : Res := bodyHo1 x (foldOk (x.sub == 1)) (.fold (x.sub == 1)) i f
/-- `scan`: SUB 1 exclusive. -/
def bodyScan (x : XtForm) (i : Iss) (_ : Ctl) (f : Fab) : Res := bodyHo1 x scanOk (.scan (x.sub == 1)) i f
/-- `zip`. -/
def bodyZip (x : XtForm) (i : Iss) (_ : Ctl) (f : Fab) : Res := bodyHo2 x zipOk none .zip i f
/-- `outr`. -/
def bodyOutr (x : XtForm) (i : Iss) (_ : Ctl) (f : Fab) : Res := bodyHo2 x outrOk none .outr i f
/-- `zip.merge`: the merge control block is 16 bytes of the own scratchpad, aligned to 16 (R343). -/
def bodyZipMerge (x : XtForm) (i : Iss) (_ : Ctl) (f : Fab) : Res :=
  let at_ := (i.reg f x.c.toNat i.lowest).val.toNat
  bodyHo2 x mergeOk (f.stages123 i.core (i.active.map (fun l => ⟨l, 1, at_, 16⟩)))
    (fun d a b => .merge d a b at_ (x.flags.getLsbD 0) (x.flags.getLsbD 1) (x.flags.getLsbD 2)) i f

/-! ## The engine's work (R174, R175, R341, R342) -/

/-- Writes a routine's output at an element: in a merge pair only the value (R341). -/
def Fab.outPut (ctl : Ctl) (ctx : Nat) (d : Tile) (rc : Nat × Nat) (v : Nat) (f : Fab) : Eng Unit :=
  if d.fmt = 11 then
    let (line, idx) := d.place rc.1 rc.2
    (f.bitsWrite ctl d.core ctx d.as ((d.bitAt line idx).1 + 4, 0) 32 v).elem rc.1 rc.2
  else f.tilePut ctl ctx d rc v
/-- What an application leaves for the element at a place. -/
def Applied.retired (rc : Nat × Nat) : Applied → Retired
  | .value v => .value 0 v
  | .dropped => .dropped
  | .fault c k => .fault (routineErr c k rc.1 rc.2)
/-- What a fold leaves for an element. -/
def Folded.retired : Folded → Retired | .value v => .value 0 v | .fault e => .fault e

/-- Writes the elements of a destination, row-major, as far as a fault lets them be written (R175), and faults with the
first fault. -/
def Fab.outPuts (ctl : Ctl) (ctx : Nat) (d : Tile) (l : List Retired) (f : Fab) : Eng Unit :=
  let n := f.nextId
  let err := firstFault l
  (engMap (fun (p : Nat × (Nat × Nat) × Retired) f => match p.2.2 with
    | .value _ v => if err.isNone ∨ Config.faultWrote n p.1 then f.outPut ctl ctx d p.2.1 v else .ok () f
    | _ => .ok () f) ((d.coords.zip l).mapIdx (fun k x => (k, x))) { f with nextId := n + 1 }).bind (fun _ f =>
      match err with | some e => .fault e f | none => .ok () f)

/-- The elements of a tile as they enter a routine, row-major, with their places. -/
def Fab.entering (ctl : Ctl) (ctx : Nat) (t : Tile) (f : Fab) : Eng (List (Nat × Nat × Nat)) :=
  (f.tileElts ctl ctx t).bind (fun es f => .ok ((t.coords.zip es).map (fun p => (enterElt t.fmt p.2.raw, p.1))) f)
/-- The rows of row-major elements. -/
def rowsOf {α : Type} (t : Tile) (l : List α) : List (List α) := (List.range t.rows).map (fun r => (l.drop (r * t.cols)).take t.cols)

/-- The work of `fold`; a record of `fold.all` names the row-major index (Table 8.4). -/
def Fab.foldWork (ctl : Ctl) (ctx : Nat) (gcw : Word) (r : Routine) (all : Bool) (d a : Tile) (f : Fab) : Eng Unit :=
  if !r.enters a.fmt ∨ !r.leaves d.fmt then .fault mapErr f
  else (f.entering ctl ctx a).bind (fun xs f =>
    f.outPuts ctl ctx d (if all then [(r.fold gcw (xs.mapIdx (fun k x => (x.1, 0, k)))).retired]
      else (rowsOf a xs).map (fun row => (r.fold gcw row).retired)))

/-- The elements of a scan after an accumulated value, up to a fault. -/
def Routine.scanFrom (r : Routine) (gcw : Word) : Nat → List (Nat × Nat × Nat) → List Retired
  | _, [] => []
  | acc, (x, rc) :: xs => match r.combine gcw acc x rc with
    | .value v => .value 0 v :: Routine.scanFrom r gcw v xs
    | .fault e => [.fault e]
/-- A scan of one row (R342). -/
def Routine.scanRow (r : Routine) (gcw : Word) (ex : Bool) (row : List (Nat × Nat × Nat)) : List Retired :=
  let out := if ex then .value 0 r.identity :: r.scanFrom gcw r.identity row.dropLast
    else match row with | [] => [] | x :: xs => .value 0 x.1 :: r.scanFrom gcw x.1 xs
  (List.range row.length).map (fun c => out.getD c .dropped)
/-- The work of `scan`. -/
def Fab.scanWork (ctl : Ctl) (ctx : Nat) (gcw : Word) (r : Routine) (ex : Bool) (d a : Tile) (f : Fab) : Eng Unit :=
  if !r.enters a.fmt ∨ !r.leaves d.fmt then .fault mapErr f
  else (f.entering ctl ctx a).bind (fun xs f => f.outPuts ctl ctx d ((rowsOf a xs).flatMap (r.scanRow gcw ex)))

/-- The work of `zip`. -/
def Fab.zipWork (ctl : Ctl) (ctx : Nat) (gcw : Word) (r : Routine) (d a b : Tile) (f : Fab) : Eng Unit :=
  if !r.enters a.fmt ∨ !r.enters b.fmt ∨ !r.leaves d.fmt then .fault mapErr f
  else (f.entering ctl ctx a).bind (fun xs f => (f.entering ctl ctx b).bind (fun ys f =>
    f.outPuts ctl ctx d ((xs.zip ys).map (fun p => (r.apply gcw p.1.1 p.2.1).retired p.1.2))))
/-- The work of `outr`. -/
def Fab.outrWork (ctl : Ctl) (ctx : Nat) (gcw : Word) (r : Routine) (d a b : Tile) (f : Fab) : Eng Unit :=
  if !r.enters a.fmt ∨ !r.enters b.fmt ∨ !r.leaves d.fmt then .fault mapErr f
  else (f.entering ctl ctx a).bind (fun xs f => (f.entering ctl ctx b).bind (fun ys f =>
    f.outPuts ctl ctx d (xs.mapIdx (fun i x => ys.mapIdx (fun j y => (r.apply gcw x.1 y.1).retired (i, j)))).flatten))

/-! ## Merging (R343) -/

/-- A pair of a merge stream: key and value. -/
abbrev Pair_ := Nat × Nat
/-- Merges two streams from their positions: the pairs output and the fault that stopped it. `pa` and `pb` are the keys before;
`fuel` bounds the steps. -/
def mergeRun (r : Routine) (gcw : Word) (dz : Bool) : Nat → List Pair_ → List Pair_ → Nat → Nat → Option Nat → Option Nat → List Pair_ × Option EngErr
  | 0, _, _, _, _, _, _ => ([], none)
  | fuel + 1, as, bs, i, j, pa, pb =>
    let low (l : List Pair_) (p : Option Nat) : Bool := match l, p with | (k, _) :: _, some q => k ≤ q | _, _ => false
    let cons (x : Pair_) (o : List Pair_ × Option EngErr) : List Pair_ × Option EngErr := (x :: o.1, o.2)
    if low as pa then ([], some ⟨0x02, 0, some (i, 0xFFFFFFFF), none⟩)
    else if low bs pb then ([], some ⟨0x02, 0, some (0xFFFFFFFF, j), none⟩)
    else match as, bs with
      | [], [] => ([], none)
      | x :: as', [] => cons x (mergeRun r gcw dz fuel as' [] (i + 1) j (some x.1) pb)
      | [], y :: bs' => cons y (mergeRun r gcw dz fuel [] bs' i (j + 1) pa (some y.1))
      | x :: as', y :: bs' =>
        if x.1 < y.1 then cons x (mergeRun r gcw dz fuel as' (y :: bs') (i + 1) j (some x.1) pb)
        else if y.1 < x.1 then cons y (mergeRun r gcw dz fuel (x :: as') bs' i (j + 1) pa (some y.1))
        else
          let rest := mergeRun r gcw dz fuel as' bs' (i + 1) (j + 1) (some x.1) (some y.1)
          match r.apply gcw x.2 y.2 with
          | .fault c k => ([], some (routineErr c k i j))
          | .dropped => rest
          | .value v => if dz && v % 2 ^ 31 == 0 then rest else cons (x.1, v) rest
/-- The first `n` pairs of a stream. -/
def Fab.pairs (ctl : Ctl) (ctx : Nat) (t : Tile) (n : Nat) (f : Fab) : Eng (List Pair_) :=
  engMap (fun k f => (f.tileElt ctl ctx t (0, k)).bind (fun e f => .ok (e.raw % 2 ^ 32, e.raw / 2 ^ 32) f)) (List.range n) f
/-- The work of `zip.merge`: lengths first, then room, then the pairs; COUNT is written last. -/
def Fab.mergeWork (ctl : Ctl) (ctx : Nat) (gcw : Word) (r : Routine) (d a b : Tile) (at_ : Nat) (dz la lb : Bool) (f : Fab) : Eng Unit :=
  if r.inp ≠ 3 ∨ r.out ≠ 3 then .fault mapErr f
  else (f.engRead ctl d.core ctx 1 at_ 16).bind (fun c f =>
    let na := if la then fieldAt c 4 4 else a.cols
    let nb := if lb then fieldAt c 8 4 else b.cols
    if a.cols < na then .fault ⟨0x02, 0, some (0xFFFFFFFE, 0), none⟩ f
    else if b.cols < nb then .fault ⟨0x02, 0, some (0xFFFFFFFE, 1), none⟩ f
    else if d.cols < na + nb then .fault ⟨0x02, 0, none, none⟩ f
    else (f.pairs ctl ctx a na).bind (fun xs f => (f.pairs ctl ctx b nb).bind (fun ys f =>
      let out := mergeRun r gcw dz (na + nb + 1) xs ys 0 0 none none
      let n := f.nextId
      (engMap (fun (p : Nat × Pair_) f =>
        if out.2.isNone ∨ Config.faultWrote n p.1 then f.tilePut ctl ctx d (0, p.1) (p.2.1 + 2 ^ 32 * p.2.2) else .ok () f)
        (out.1.mapIdx (fun k x => (k, x))) { f with nextId := n + 1 }).bind (fun _ f =>
          match out.2 with
          | some e => .fault e f
          | none => f.engWrite ctl d.core ctx 1 at_ (leBytes 4 out.1.length)))))

/-! ## Meanings -/

/-- FOLD_XT (R342). -/
def execFoldXt (f : XtForm) (s : State) : Out := run (.xt 0xC2 f) gateMx (bodyFold f) s
/-- SCAN_XT (R342). -/
def execScanXt (f : XtForm) (s : State) : Out := run (.xt 0xC3 f) gateMx (bodyScan f) s
/-- ZIP_XT (R342). -/
def execZipXt (f : XtForm) (s : State) : Out := run (.xt 0xC4 f) gateMx (bodyZip f) s
/-- ZIP_MERGE_XT (R343). -/
def execZipMergeXt (f : XtForm) (s : State) : Out := run (.xt 0xC4 f) gateMx (bodyZipMerge f) s
/-- OUTR_XT (R342). -/
def execOutrXt (f : XtForm) (s : State) : Out := run (.xt 0xC5 f) gateMx (bodyOutr f) s

end Sys2Proof.Machine
end

