-- ==== Sys2Proof/Machine/Transport.lean ====
section
/-!
DEFINITION. The sending side of the transport (02_halyard R27, R32-R38, R43-R45; 16_isa_tile_remote R345, R346, R351): flows,
packets sent and answered, remote operations, multicasts and their records.
-/
namespace Sys2Proof.Machine

/-! ## Routing masks (R27, R28) -/

/-- Whether a port has left every routing mask: disabled or failed. -/
def Port.out (p : Port) : Bool := p.disable || p.state == 4
/-- The ports that lead to a device. -/
def Ctl.mask (ctl : Ctl) (dev : BitVec 12) : List Nat :=
  (List.range 18).filter (fun p => (Table.getD ctl.routes dev.toNat 0).getLsbD p &&
    (match ctl.ports[p]? with | some q => !q.out | none => false))
/-- The ports that report a switch group and lead anywhere (R367). -/
def Ctl.reporting (ctl : Ctl) (swgid : BitVec 32) : List Nat :=
  (List.range 18).filter (fun p => match ctl.ports[p]? with | some q => q.groups.contains swgid && !q.out | none => false)
/-- Whether a packet to a device leaves: by loopback, or by some port. -/
def Ctl.reaches (ctl : Ctl) (dev : BitVec 12) : Bool := dev == ctl.hdevid || !(ctl.mask dev).isEmpty

/-! ## Flows (R33, R35) -/

/-- Whether two packets travel on one flow. -/
def sameFlow (p q : Packet) : Bool := p.sctx == q.sctx && p.dst == q.dst && p.flow == q.flow
/-- The next sequence number of a packet's flow. -/
def Fab.flowNext (f : Fab) (p : Packet) : BitVec 32 :=
  match f.sendFlows.find? (fun x => x.ctx == p.sctx.toNat && x.dev == p.dst && x.flow == p.flow) with | some x => x.next | none => 0
/-- Advances a packet's flow. -/
def Fab.flowStep (f : Fab) (p : Packet) : Fab :=
  let n := f.flowNext p + 1
  { f with sendFlows := ⟨p.sctx.toNat, p.dst, p.flow, n⟩ ::
      f.sendFlows.filter (fun x => !(x.ctx == p.sctx.toNat && x.dev == p.dst && x.flow == p.flow)) }
/-- Packets of a flow that are on their way. -/
def Fab.inFlight (f : Fab) (p : Packet) : Nat := (f.sent.filter (fun x => !x.waiting && sameFlow x.pk p)).length
/-- A packet of a context before it is sent. -/
def makePacket (ctx : Nat) (dst : BitVec 12) (flow : BitVec 3) (op : BitVec 8) (va : Addr) (aux : DWord) (n : Nat) (data : List Byte) : Packet :=
  ⟨dst, 0, 8, flow, false, 0, op, 0, 0, BitVec.ofNat 9 (n - 1), BitVec.ofNat 12 ctx, 0, va, 0, aux, data⟩
/-- A packet of a remote engine crosses the ring to port die A on the flow that its instruction names, in the mode that ORDMASK gives (R196,
log 60). -/
def Fab.toPort (f : Fab) (owner : Option (Nat × Nat × Nat × Nat)) (p : Packet) : Fab :=
  match owner with
  | some (c, _) => f.crossRing (dieStop (c / 48)) 0 p.sctx.toNat p.flow.toNat p.ord
  | none => f
/-- Sends a packet on its flow, or keeps it behind the flow's window (R33); `port` names a port of a multicast plane. Its first transmission
is the moment at which it is handed to the module switch, though it may still wait there for a port that can take it (log 77). -/
def Fab.sendPacket (ctl : Ctl) (f : Fab) (p : Packet) (owner : Nat × Nat × Nat × Nat) (port : Option Nat) : Nat × Fab :=
  let id := f.nextId
  let ordered := match f.ctx? p.sctx.toNat with | some c => !c.unord.getLsbD p.flow.toNat | none => true
  let p := { p with src := ctl.hdevid, ord := ordered, seq := f.flowNext p }
  let wait := 256 ≤ f.inFlight p
  let f := { f.flowStep p with nextId := id + 1, sent := f.sent ++ [⟨id, p, f.time.toNat, f.time.toNat, some owner, wait, port⟩] }
  (id, if wait then f else { f.toPort (some owner) p with outbox := f.outbox ++ [⟨port, none, p⟩] })
/-- The switch group that a group's copy names in place of DST and HANDLE (log 45). -/
def groupOf (p : Packet) : BitVec 32 := p.handle ++ p.dst
/-- The port by which a group's copy leaves: that of its plane, or another that reports the group once that one has left every
mask (R30, R367). -/
def Ctl.planePort (ctl : Ctl) (p : Nat) (k : Packet) : Nat :=
  match ctl.ports[p]? with | some q => if q.out then (ctl.reporting (groupOf k)).headD p else p | none => p
/-- Hands a sent packet to the module switch again. -/
def Fab.resend (f : Fab) (x : SentPacket) : Fab := { f with outbox := f.outbox ++ [⟨x.port, none, x.pk⟩] }
/-- Takes a packet off the sender's list; the oldest that waits on its flow leaves. -/
def Fab.unsend (f : Fab) (x : SentPacket) : Fab :=
  let f := { f with sent := f.sent.filter (fun y => y.id != x.id) }
  match f.sent.find? (fun y => y.waiting && sameFlow y.pk x.pk) with
  | some y =>
    if 256 ≤ f.inFlight x.pk then f
    else (({ f with sent := f.sent.map (fun z => if z.id == y.id then { z with waiting := false, firstAt := f.time.toNat, lastAt := f.time.toNat } else z) }
      : Fab).toPort y.owner y.pk).resend y
  | none => f

/-! ## Remote operations of a group (R161, R346) -/

/-- A remote operation of a group. -/
def Fab.rem? (f : Fab) (c s seq : Nat) : Option RemOp := (f.group? c s).bind (fun g => g.rem.find? (fun o => o.seq == seq))
/-- Changes a remote operation. -/
def Fab.modRem (f : Fab) (c s seq : Nat) (h : RemOp → RemOp) : Fab :=
  f.modGroup c s (fun g => { g with rem := g.rem.map (fun o => if o.seq == seq then h o else o) })
/-- Changes a part of a remote operation. -/
def Fab.modPart (f : Fab) (c s seq k : Nat) (h : RemPart → RemPart) : Fab :=
  f.modRem c s seq (fun o => { o with parts := modAt o.parts k h })
/-- Completes an `rrd` in one lane, whose destination takes the reply, or zero with tag raw (R348); a dropped part and a load of
before a restart write nothing (R150). -/
def Fab.rrdWrite (f : Fab) (c s seq lane : Nat) (reply : Option (List Byte)) : Fab :=
  match (f.group? c s).bind (fun g => g.loads.find? (fun o => o.seq == seq && o.kind == .rrd)) with
  | none => f
  | some o =>
    let live := o.pieces.any (fun p => p.lane == lane && !p.done) && o.writes lane
    let v := match reply with | some b => natRegs o.tag (o.bytes / 4) (leNat b) | none => natRegs .raw (o.bytes / 4) 0
    let f := if live then f.writeRegs c s o.d.toNat [(lane, v)] else f
    f.modGroup c s (fun g => ({ g with loads := g.loads.map (fun x =>
      if x.seq == seq && x.kind == .rrd then { x with pieces := x.pieces.map (fun q => if q.lane == lane then { q with done := true } else q) } else x) } : Group).pruneLoads)
/-- A part that sends nothing: an `rrd` completes its lane (R348). -/
def Fab.partUnread (f : Fab) (c s seq k : Nat) : Fab :=
  match (f.rem? c s seq).bind (fun o => if o.isRrd then o.parts[k]? else none) with
  | some p => f.rrdWrite c s seq p.lane none
  | none => f
/-- A negative part that sends nothing. -/
def Fab.partNegative (f : Fab) (c s seq k reason : Nat) : Fab :=
  (f.partUnread c s seq k).modPart c s seq k (fun p => { p with todo := [], signal := none, negs := p.negs ++ [(0, reason)] })
/-- An operation faults in the remote engine: one record, whatever its lanes (R38, R351). -/
def Fab.remFault (ctl : Ctl) (f : Fab) (c s seq va : Nat) : Fab :=
  match f.rem? c s seq with
  | none => f
  | some o =>
    if o.faulted then f
    else (f.modRem c s seq (fun o => { o with faulted := true })).engFault ctl c s seq 4 o.ord o.lanes
      ((⟨0x0A, va, none, none⟩ : EngErr).record 2 4 0 o.pc)

/-! ## Peer entries (R38) -/

/-- The packets of a part leave under the handle of a live entry, or the part completes negatively. -/
def Fab.partEntry (ctl : Ctl) (f : Fab) (c s seq k entry : Nat) (ps : List Packet) : Fab :=
  let dst := match ps with | p :: _ => p.dst | [] => 0
  let handle := BitVec.ofNat 20 (bitsOf entry 31 12)
  if bitsOf entry 33 32 = 2 then f.partNegative c s seq k 1
  else if bitsOf entry 33 32 ≠ 1 ∨ !ctl.reaches dst then f.partNegative c s seq k 2
  else
    let (ids, f) := ps.foldl (fun (r : List Nat × Fab) p =>
      let (id, f) := r.2.sendPacket ctl { p with handle := handle } (c, s, seq, k) none
      (r.1 ++ [id], f)) ([], f)
    f.modPart c s seq k (fun p => { p with todo := [], packets := p.packets ++ ids, signal := p.signal.map (fun q => { q with handle := handle }) })
/-- Reads the peer entry of a part and sends its packets; a translation fault leaves the part waiting (R38). -/
def Fab.partGo (ctl : Ctl) (f : Fab) (c s ctx seq k : Nat) : Fab :=
  match f.rem? c s seq, f.ctx? ctx with
  | some o, some x =>
    (match o.parts[k]? with
     | some ⟨_, _, _, _, p :: ps, _⟩ =>
       let va := x.peerT.toNat + 8 * p.dst.toNat
       let bad (f : Fab) : Fab :=
         ((f.remFault ctl c s seq va).partUnread c s seq k).modPart c s seq k (fun p => { p with todo := [], signal := none })
       (match f.engRead ctl c ctx 0 va 8 with
        | .ok b f => f.partEntry ctl c s seq k (leNat b) (p :: ps)
        | .xlate a acc r l _ f => f.engPark ctl c s ctx o.pc a acc r l (.remote c s seq)
        | .fault _ f => bad f)
     | _ => f)
  | _, _ => f

/-! ## Multicasts (R43, R44, R367) -/

/-- Adds a negative member, keeping the four lowest indices (Table 2.6). -/
def McastRec.addNeg (m : McastRec) (midx reason dev : Nat) : McastRec :=
  let (lo, hi) := m.negs.partition (fun x => x.1 < midx)
  { m with neg := m.neg + 1, negs := (lo ++ (midx, reason, dev) :: hi).take 4 }
/-- The aggregated completion record (Table 2.6). -/
def McastRec.bytes (m : McastRec) : List Byte :=
  leBytes 2 m.pos ++ leBytes 2 m.neg ++ leBytes 4 (if 4 < m.neg then 1 else 0) ++
    (List.range 4).flatMap (fun k => leBytes 4 (match m.negs[k]? with | some (i, r, d) => i * 65536 + r * 4096 + d | none => 0)) ++ leBytes 8 0
/-- Members that answer negatively with a reason. -/
def McastRec.addNegs (m : McastRec) (ms : List (Nat × Nat)) (reason : Nat) : McastRec := ms.foldl (fun m e => m.addNeg e.1 reason e.2) m
/-- Merges a partial record of a switch (Table 2.6). -/
def McastRec.merge (m : McastRec) (b : List Byte) : McastRec :=
  let neg := fieldAt b 2 2
  let es := ((List.range (min 4 neg)).map (fun k => fieldAt b (8 + 4 * k) 4)).map (fun e => (bitsOf e 27 16, bitsOf e 14 12, bitsOf e 11 0))
  { es.foldl (fun m e => m.addNeg e.1 e.2.1 e.2.2) m with pos := m.pos + fieldAt b 0 2, neg := m.neg + neg }
/-- The members that a partial record leaves unanswered: those it names are gone, and as many others as it counts. -/
def unanswered (b : List Byte) (ms : List (Nat × Nat)) : List (Nat × Nat) :=
  let neg := fieldAt b 2 2
  let named := (List.range (min 4 neg)).map (fun k => bitsOf (fieldAt b (8 + 4 * k) 4) 27 16)
  (ms.filter (fun e => !named.contains e.1)).drop (fieldAt b 0 2 + (neg - 4))
/-- The answer of a copy that goes to one member (SWREP 0, and the loopback): positive, or negative with a reason. -/
def McastRec.single (m : McastRec) (id : Nat) (neg : Option Nat) : McastRec :=
  let own := Table.getD m.waits id []
  let m := { m with waits := Table.erase m.waits id }
  match neg with | none => { m with pos := m.pos + own.length } | some r => m.addNegs own r
/-- The answer of a copy that switches replicate (SWREP 1): a partial record is merged, a bare one stands for every member that
waits for it. Members left unanswered wait for the copies on the other planes, and are UNREACHABLE after the last (log 45). -/
def McastRec.plane (m : McastRec) (id : Nat) (neg : Option Nat) (data : List Byte) : McastRec :=
  let own := Table.getD m.planes id []
  let others := Table.erase m.planes id
  let pool := own ++ others.flatMap (·.2)
  let (m, left) : McastRec × List (Nat × Nat) := match neg with
    | some _ => (m, pool)
    | none => if data.length = 32 then (m.merge data, unanswered data pool) else ({ m with pos := m.pos + own.length }, others.flatMap (·.2))
  match others with
  | [] => { m with planes := [] }.addNegs left (neg.getD 2)
  | (k, _) :: rest => { m with planes := (k, left) :: rest.map (fun e => (e.1, [])) }
/-- Changes the multicast of an operation. -/
def Fab.modMcast (f : Fab) (c s seq : Nat) (h : McastRec → McastRec) : Fab := f.modRem c s seq (fun o => { o with mcast := o.mcast.map h })
/-- A switch group's copy: SWGID takes the places of DST and HANDLE (log 45). -/
def groupCopy (p : Packet) (swgid : Nat) : Packet :=
  { p with dst := BitVec.ofNat 12 swgid, handle := BitVec.ofNat 20 (swgid / 4096) }
/-- Sends one copy of a multicast, which stands for members. -/
def Fab.mcastCopy (ctl : Ctl) (f : Fab) (c s seq : Nat) (p : Packet) (port : Option Nat) (ms : List (Nat × Nat)) : Fab :=
  let (id, f) := f.sendPacket ctl p (c, s, seq, 0) port
  (f.modPart c s seq 0 (fun q => { q with packets := q.packets ++ [id] })).modMcast c s seq (fun m =>
    if port.isSome then { m with planes := m.planes ++ [(id, ms)] } else { m with waits := m.waits ++ [(id, ms)] })
/-- Sends the copies of a multicast (R44, R367): with SWREP 0 one to each live member; with SWREP 1 one on each plane that reports
the group, the first of which stands for every live member until answers come, and a copy by loopback for a member that is the sending
device. A group without members sends nothing, and neither does one with SWREP 1 that no port reports, whose live members are all
UNREACHABLE. -/
def Fab.mcastSend (ctl : Ctl) (f : Fab) (c s seq hdr : Nat) (members : List Nat) (p : Packet) : Fab :=
  let swgid := bitsOf hdr 63 32
  let rep := bitAt hdr 17
  let all := members.mapIdx (fun i e => (i, e))
  let live := all.filter (fun x => bitsOf x.2 33 32 == 1)
  let switched (x : Nat × Nat) : Bool := rep && bitsOf x.2 11 0 != ctl.hdevid.toNat
  let far := live.filter switched
  let ports := if rep && !members.isEmpty then ctl.reporting (BitVec.ofNat 32 swgid) else []
  let unsent (x : Nat × Nat) : Bool := if rep then ports.isEmpty else !ctl.reaches (BitVec.ofNat 12 (bitsOf x.2 11 0))
  let revoked := (all.filter (fun x => bitsOf x.2 33 32 == 2)).map (fun x => (x.1, bitsOf x.2 11 0))
  let gone := (live.filter unsent).map (fun x => (x.1, bitsOf x.2 11 0))
  let f := f.modMcast c s seq (fun m => (({ m with start := none } : McastRec).addNegs revoked 1).addNegs gone 2)
  let f := ports.foldl (fun f q =>
    f.mcastCopy ctl c s seq (groupCopy p swgid) (some q) (if ports.head? = some q then far.map (fun x => (x.1, bitsOf x.2 11 0)) else [])) f
  live.foldl (fun f x =>
    let dev := bitsOf x.2 11 0
    if switched x || unsent x then f
    else f.mcastCopy ctl c s seq { p with dst := BitVec.ofNat 12 dev, handle := BitVec.ofNat 20 (bitsOf x.2 31 12), midx := BitVec.ofNat 12 x.1 }
      none [(x.1, dev)]) f
/-- Reads a multicast's tables and sends its copies. A COUNT above 4,096 is used as it stands, and a member's index is cut to the 12 bits of
MIDX: the spec states the range and nothing beyond it (log 79). -/
def Fab.mcastStart (ctl : Ctl) (f : Fab) (c s ctx seq : Nat) : Fab :=
  match f.rem? c s seq, f.ctx? ctx with
  | some o, some x =>
    (match o.mcast with
     | some ⟨some (group, p), _, _, _, _, _, _⟩ =>
       let va := x.mcastT.toNat + 16 * group
       let read (f : Fab) : Eng (Nat × List Nat) :=
         (f.engRead ctl c ctx 0 va 16).bind (fun h f =>
           let lo := fieldAt h 0 8
           if !bitAt lo 16 then .ok (lo, []) f
           else (engMap (fun k f => f.engRead ctl c ctx 0 (fieldAt h 8 8 + 8 * k) 8) (List.range (bitsOf lo 12 0)) f).bind (fun es f =>
             .ok (lo, es.map leNat) f))
       let bad (f : Fab) (a : Nat) : Fab := (f.remFault ctl c s seq a).modRem c s seq (fun o => { o with mcast := none })
       (match read f with
        | .ok (lo, es) f => f.mcastSend ctl c s seq lo es p
        | .xlate a acc r l _ f => f.engPark ctl c s ctx o.pc a acc r l (.remote c s seq)
        | .fault e f => bad f e.addr)
     | _ => f)
  | _, _ => f
/-- Writes the completion record once every member has answered (R44, R351). -/
def Fab.mcastFinish (ctl : Ctl) (f : Fab) (c s ctx seq : Nat) : Fab :=
  match f.rem? c s seq with
  | some o =>
    (match o.mcast with
     | some m =>
       if m.start.isSome ∨ !(o.parts.all (fun p => p.packets.isEmpty)) then f
       else
         let bad (f : Fab) : Fab := (f.remFault ctl c s seq m.va.toNat).modRem c s seq (fun o => { o with mcast := none, parts := o.parts.map (fun p => { p with negs := [] }) })
         (match f.engWrite ctl c ctx 0 m.va.toNat m.bytes with
          | .ok _ f => f.modRem c s seq (fun o => { o with mcast := none, parts := o.parts.map (fun p => { p with
              negs := m.negs.map (fun e => (e.1, e.2.1)) }) })
          | .xlate a acc r l _ f => f.engPark ctl c s ctx o.pc a acc r l (.remote c s seq)
          | .fault _ f => bad f)
     | none => f)
  | none => f

/-! ## Going on -/

/-- A part whose packets have all been answered sends its signal, unless one of them was negative (R337). -/
def Fab.partSignal (ctl : Ctl) (f : Fab) (c s seq k : Nat) : Fab :=
  match (f.rem? c s seq).bind (fun o => if o.waitMx then none else o.parts[k]?) with
  | some ⟨_, _, [], negs, [], some p⟩ =>
    if !negs.isEmpty then f.modPart c s seq k (fun q => { q with signal := none })
    else if !ctl.reaches p.dst then f.partNegative c s seq k 2
    else
      let (id, f) := f.sendPacket ctl p (c, s, seq, k) none
      f.modPart c s seq k (fun q => { q with signal := none, packets := [id] })
  | _ => f
/-- Whether a remote operation waits for a page. -/
def Fab.remWaits (f : Fab) (c s seq : Nat) : Bool := f.faults.any (fun p => p.2.who.contains (.remote c s seq))
/-- Takes a remote operation as far as it can go, and retires what has completed. -/
def Fab.remGo (ctl : Ctl) (f : Fab) (c s seq : Nat) : Fab :=
  match (f.core c).team, f.rem? c s seq with
  | some t, some o =>
    let ks := List.range o.parts.length
    let wait := f.remWaits c s seq
    let f := if wait then f else (ks.foldl (fun f k => f.partGo ctl c s t.ctx seq k) f).mcastStart ctl c s t.ctx seq
    let f := ks.foldl (fun f k => f.partSignal ctl c s seq k) f
    (if wait then f else f.mcastFinish ctl c s t.ctx seq).retireRem c s
  | _, _ => f

/-- Takes on the remote operations that have something to send and wait for no page: they had found no fault slot (R201). -/
def Fab.remotesGo (ctl : Ctl) (f : Fab) : Fab :=
  f.cores.foldl (fun f k => match k.2.team with
    | none => f
    | some t => t.groups.foldl (fun f g =>
        (g.rem.filter (fun o => !o.waitMx && (o.parts.any (fun p => !p.todo.isEmpty) || o.mcast.any (fun m => m.start.isSome)) && !f.remWaits k.1 g.slot o.seq)).foldl
          (fun f o => f.remGo ctl k.1 g.slot o.seq) f) f) f

/-- A packet is answered (R33, R34, R45): positively with the data of a reply, or with a reason. -/
def Fab.answered (ctl : Ctl) (f : Fab) (x : SentPacket) (neg : Option Nat) (data : List Byte) : Fab :=
  let f := f.unsend x
  match x.owner with
  | none => f
  | some (c, s, seq, k) =>
    match (f.rem? c s seq).bind (fun o => (o.parts[k]?).map (fun p => (o, p))) with
    | none => f
    | some (o, p) =>
      if !p.packets.contains x.id then f
      else
        let f := f.modPart c s seq k (fun p => { p with
          packets := p.packets.erase x.id
          negs := match neg with | some r => if o.mcast.isSome then p.negs else p.negs ++ [(x.id, r)] | none => p.negs })
        let f := if o.isRrd then f.rrdWrite c s seq p.lane (if neg.isSome then none else some data) else f
        let f := f.modMcast c s seq (fun m => if x.port.isSome then m.plane x.id neg data else m.single x.id neg)
        f.remGo ctl c s seq

end Sys2Proof.Machine
end

