-- ==== Sys2Proof/Machine/Remote.lean ====
section
/-!
DEFINITION. The remote instructions (16_isa_tile_remote R337, R344-R352) and the completion of the matrix engine's operations
(08_engines R171, R173, R176; 16 R336, R337).
-/
namespace Sys2Proof.Machine

/-! ## Issue (R344, R345) -/

/-- A remote operation issues with cl below its limit, once the group's older memory operations have performed. -/
def gateRem (i : Iss) (f : Fab) : Bool := gateSend i f
/-- `rrd` counts in ld as well. -/
def gateRrd (i : Iss) (f : Fab) : Bool := gateSend i f || gateLd i f
/-- Enters a remote operation and takes it as far as it goes. Its own reads, of the peer and multicast tables, follow a release of the L1 (R214). -/
def Iss.pushRem (i : Iss) (ctl : Ctl) (f : Fab) (parts : List RemPart) (mcast : Option McastRec) (flow : Nat) (isRrd waitMx : Bool) : Fab :=
  match f.group? i.core i.slot with
  | none => f
  | some g =>
    let o : RemOp := ⟨g.nextSeq, g.issuedCl + 1, i.pc, maskOf i.active, parts, mcast, flow, isRrd, waitMx, false⟩
    (i.mod (f.l1Release ctl i.core 3) (fun g => { g with rem := g.rem ++ [o], nextSeq := g.nextSeq + 1, issuedCl := g.issuedCl + 1 })).remGo ctl i.core i.slot o.seq
/-- A part that sends packets of one lane. -/
def RemPart.of (lane : Nat) (lanes : List Nat) (todo : List Packet) (signal : Option Packet) : RemPart := ⟨lane, maskOf lanes, [], [], todo, signal⟩

/-- The offset of a peer operand as an integer (R345). -/
def xmOffInt (x : XmForm) : Int := match x.lit with | some v => v.toInt | none => x.ofs.toInt
/-- The VA of a peer target, exact. -/
def peerVa (x : XmForm) (pair : Nat) : Int := (pair % 2 ^ 48 : Nat) + xmOffInt x
/-- The device of a peer pair. -/
def peerDev (pair : Nat) : BitVec 12 := BitVec.ofNat 12 (bitsOf pair 59 48)
/-- The failures of a peer target for a lane (R345); `zeroDev` asks for device 0, as `rmc` does. -/
def peerFails (x : XmForm) (pair align : Nat) (zeroDev : Bool) (l : Nat) : List (Nat × Nat × Nat) :=
  let va := peerVa x pair
  if pair / 2 ^ 60 ≠ 0 ∨ va < 0 ∨ 2 ^ 48 ≤ va ∨ (zeroDev ∧ peerDev pair ≠ 0) then [(l, 0x0A, (((pair : Int) + xmOffInt x) % 2 ^ 64).toNat)]
  else if va.toNat % align ≠ 0 then [(l, 0x0B, va.toNat)] else []
/-- The failures of a VA that a register pair holds: a signal word, or a completion record. -/
def vaFails (pair align l : Nat) : List (Nat × Nat × Nat) :=
  if pair / 2 ^ 48 ≠ 0 then [(l, 0x0A, pair)] else if pair % align ≠ 0 then [(l, 0x0B, pair)] else []
/-- The failures of a scratch line. -/
def Fab.lineFails (f : Fab) (c a n l : Nat) : List (Nat × Nat × Nat) :=
  (if f.scrValid c 1 a then [] else [(l, 0x0C, a)]) ++ (if a % n ≠ 0 then [(l, 0x0B, a)] else [])
/-- Bytes of a line by SIZE (R344). -/
def memBytesOf (size : Nat) : Nat := 16 * 2 ^ size
/-- A register pair of a lane. -/
def Iss.pair (i : Iss) (f : Fab) (r : RegNo) (l : Nat) : Nat := i.regNat f r.toNat 2 l
/-- Runs a remote instruction whose checks may fail, and which parks on absent sectors of its scratch lines. -/
def Iss.sending (i : Iss) (f : Fab) (fails : List (Nat × Nat × Nat)) (lines : List (Nat × Nat × Nat)) (go : Res) : Res :=
  match stageTrap fails with
  | some t => .trap t
  | none =>
    match lines.filter (fun x => !f.present i.core x.2.1 x.2.2) with
    | [] => go
    | a => i.parkAbsent false (a.map (fun x => (x.1, x.2.1)))

/-! ## `rwr`, `rrd`, `radd`, `rsig` (R347-R349) -/

/-- `rwr`: SUB [0] SIG, [1] MEM. -/
def bodyRwr (x : XmForm) (i : Iss) (ctl : Ctl) (f : Fab) : Res :=
  if i.active.isEmpty then .done f
  else
    let sig := x.sub.getLsbD 0
    let mem := x.sub.getLsbD 1
    let n := if mem then memBytesOf x.size.toNat else sizeBytes x.size.toNat
    let src (l : Nat) : Nat := (i.reg f x.b.toNat l).val.toNat
    let fails := i.active.flatMap (fun l => peerFails x (i.pair f x.a l) (if mem then 16 else n) false l ++
      (if sig then vaFails (i.pair f x.d l) 8 l else []) ++ (if mem then f.lineFails i.core (src l) n l else []))
    i.sending f fails (if mem then i.active.map (fun l => (l, src l, n)) else [])
      (let flow := x.aux.toNat % 8
       let parts := i.active.map (fun l =>
         let p := i.pair f x.a l
         RemPart.of l [l] [makePacket i.ctx (peerDev p) (BitVec.ofNat 3 flow) (if sig then 0x02 else 0x01) (BitVec.ofNat 48 (peerVa x p).toNat)
           (if sig then BitVec.ofNat 64 (i.pair f x.d l) else 0) n (if mem then f.scrRead i.core (src l) n else i.regBytes f x.b.toNat n l)] none)
       let f := i.pushRem ctl f parts none flow false false
       .done (if sig then f.commit i i.active else f))
/-- `rrd`: a load of the group that its replies complete. -/
def bodyRrd (x : XmForm) (i : Iss) (ctl : Ctl) (f : Fab) : Res :=
  if i.active.isEmpty then .done f
  else
    let n := sizeBytes x.size.toNat
    i.sending f (i.active.flatMap (fun l => peerFails x (i.pair f x.a l) n false l)) []
      (let flow := x.aux.toNat % 8
       let parts := i.active.map (fun l =>
         let p := i.pair f x.a l
         RemPart.of l [l] [makePacket i.ctx (peerDev p) (BitVec.ofNat 3 flow) 0x03 (BitVec.ofNat 48 (peerVa x p).toNat) 0 n []] none)
       let f := i.mod f (fun g => g.addLoad ⟨g.nextSeq, i.pc, 5, .rrd, x.d, n, false, Tag.ofCode (bitsOf x.aux.toNat 6 3),
         i.active.map (fun l => ⟨l, .scr i.core 0, false, false⟩)⟩)
       .done (i.pushRem ctl f parts none flow true false))
/-- `radd`. -/
def bodyRadd (x : XmForm) (i : Iss) (ctl : Ctl) (f : Fab) : Res :=
  if i.active.isEmpty then .done f
  else
    let n := sizeBytes x.size.toNat
    i.sending f (i.active.flatMap (fun l => peerFails x (i.pair f x.a l) n false l)) []
      (let flow := x.aux.toNat % 8
       let parts := i.active.map (fun l =>
         let p := i.pair f x.a l
         RemPart.of l [l] [makePacket i.ctx (peerDev p) (BitVec.ofNat 3 flow) 0x05 (BitVec.ofNat 48 (peerVa x p).toNat) 0 n (i.regBytes f x.b.toNat n l)] none)
       .done ((i.pushRem ctl f parts none flow false false).commit i i.active))
/-- `rsig`. -/
def bodyRsig (x : XmForm) (i : Iss) (ctl : Ctl) (f : Fab) : Res :=
  if i.active.isEmpty then .done f
  else
    i.sending f (i.active.flatMap (fun l => peerFails x (i.pair f x.a l) 8 false l)) []
      (let flow := x.aux.toNat % 8
       let parts := i.active.map (fun l =>
         let p := i.pair f x.a l
         RemPart.of l [l] [makePacket i.ctx (peerDev p) (BitVec.ofNat 3 flow) 0x06 (BitVec.ofNat 48 (peerVa x p).toNat) (BitVec.ofNat 64 (i.pair f x.b l)) 1 []] none)
       .done ((i.pushRem ctl f parts none flow false false).commit i i.active))

/-! ## `swait` (R350) -/

/-- Reads the word a `swait` waits on, at L2, after the group's own stores. -/
def Fab.swaitRead (ctl : Ctl) (f : Fab) (c ctx : Nat) (loc : Loc) : Nat × Fab :=
  let f := match loc with | .glob _ pa _ _ _ => f.l1DropRange ctl c pa.toNat 8 | .scr .. => f
  let (b, f) := f.engGet ctl c ctx loc 8
  (leNat b, f)
/-- `swait`: lanes whose word has reached its threshold go on, with an acquire at `.sys`; the others park. -/
def bodySwait (x : XmForm) (i : Iss) (ctl : Ctl) (f : Fab) : Res :=
  i.withLocs ctl f x 8 8 .load false (fun locs f =>
    let (any, f) := locs.foldl (fun (r : Bool × Fab) p =>
      let (v, f) := r.2.swaitRead ctl i.core i.ctx p.2
      let thr := i.pair f x.b p.1
      if thr ≤ v then (true, f)
      else (r.1, f.modLane i.core i.slot p.1 (fun y => { y with park := some (.swait p.2 (BitVec.ofNat 64 thr)), parkNext := y.pc }))) (false, f)
    .done (if any then f.l1Acquire ctl i.core 5 else f))

/-! ## `rmc` and `racc` (R351, R352) -/

/-- `rmc`: SUB [0] SIG, [3:1] flow. -/
def bodyRmc (x : XmForm) (i : Iss) (ctl : Ctl) (f : Fab) : Res :=
  if i.active.isEmpty then .done f
  else
    let l := i.lowest
    let sig := x.sub.getLsbD 0
    let n := memBytesOf x.size.toNat
    let target := i.pair f x.a l
    let src := (i.reg f x.b.toNat l).val.toNat
    let sva := i.pair f (x.b + 2) l
    let rec_ := i.pair f x.d l
    let fails := i.active.flatMap (fun k => peerFails x target 16 true k ++ (if sig then vaFails sva 8 k else []) ++ vaFails rec_ 32 k ++
      f.lineFails i.core src n k)
    i.sending f fails (i.active.map (fun k => (k, src, n)))
      (let flow := x.sub.toNat / 2
       let p := makePacket i.ctx 0 (BitVec.ofNat 3 flow) 0x07 (BitVec.ofNat 48 (peerVa x target).toNat)
         (if sig then BitVec.ofNat 64 (2 ^ 63 + sva) else 0) n (f.scrRead i.core src n)
       .done ((i.pushRem ctl f [RemPart.of l i.active [] none] (some ⟨some (x.aux.toNat, p), BitVec.ofNat 48 rec_, 0, 0, [], [], []⟩) flow false false).commit
         i i.active))
/-- `racc`: the contributor index and the mode travel in AUX (log 44). -/
def bodyRacc (x : XmForm) (i : Iss) (ctl : Ctl) (f : Fab) : Res :=
  if i.active.isEmpty then .done f
  else
    let l := i.lowest
    let n := memBytesOf x.size.toNat
    let p := i.pair f x.a l
    let src := (i.reg f x.b.toNat l).val.toNat
    let index := (i.reg f x.d.toNat l).val.toNat % 4096
    let fails := i.active.flatMap (fun k => peerFails x p 8 false k ++ f.lineFails i.core src n k)
    i.sending f fails (i.active.map (fun k => (k, src, n)))
      (let flow := x.aux.toNat % 8
       let k := makePacket i.ctx (peerDev p) (BitVec.ofNat 3 flow) 0x08 (BitVec.ofNat 48 (peerVa x p).toNat)
         (BitVec.ofNat 64 (index + 4096 * (x.sub.toNat % 2))) n (f.scrRead i.core src n)
       .done ((i.pushRem ctl f [RemPart.of l i.active [k] none] none flow false false).commit i i.active))

/-! ## `mret.send` (R337) -/

/-- The conditions of R336 and R337 on a quarter's tiles. -/
def sendOk (zip : Bool) (fmt : Nat) (routine : Option Routine) (ts : List Tile) : Bool :=
  match ts with
  | [a] => !zip && scrTile a && retPair a.fmt fmt
  | [a, b] => zip && routine.isSome && scrTile a && retPair a.fmt fmt && scrTile b && b.rows == a.rows && b.cols == a.cols
  | _ => false
/-- `mret.send`: one operation of cl whose quarters wait for the matrix engine. -/
def bodyMretSend (x : XtForm) (i : Iss) (ctl : Ctl) (f : Fab) : Res :=
  let zip := x.flags.getLsbD 0
  let fmt := x.fmt.toNat
  let routine := if zip then f.routine i.ctx x.h else none
  let flow := x.aux.toNat % 8
  i.withTiles f i.quarterUnits ([x.a] ++ (if zip then [x.b] else [])) (sendOk zip fmt routine) (fun us =>
    let pairAt (u : List Nat × List Tile) (k : Nat) : Nat := i.regNat f (x.d.toNat + k) 2 (u.1.headD 0)
    let fails := us.flatMap (fun u => u.1.flatMap (fun l =>
      (if pairAt u 0 / 2 ^ 60 ≠ 0 then [(l, 0x0A, pairAt u 0)]
       else if pairAt u 0 % 2 ^ 48 % (eltBits fmt / 8) ≠ 0 then [(l, 0x0B, pairAt u 0 % 2 ^ 48)] else []) ++ vaFails (pairAt u 2) 8 l))
    match stageTrap fails, f.group? i.core i.slot with
    | some t, _ => .trap t
    | none, none => .done f
    | none, some g =>
      let qs := us.map (fun u => (u.1.headD 0 / 8, u.2.headD default, (u.2.drop 1).head?, BitVec.ofNat 64 (pairAt u 0), BitVec.ofNat 64 (pairAt u 2)))
      let k := f.core i.core
      let f := f.setCore i.core { k with mxq := k.mxq ++ [⟨i.slot, g.nextSeq, g.issuedCl + 1, maskOf i.active, i.pc, i.gcw, routine,
        .send qs fmt (x.sub.toNat % 4) flow, 0, 0, [], []⟩] }
      let parts := us.map (fun u => RemPart.of (u.1.headD 0) u.1 []
        (some (makePacket i.ctx (peerDev (pairAt u 0)) (BitVec.ofNat 3 flow) 0x06 (BitVec.ofNat 48 (pairAt u 2)) 1 1 [])))
      .done (i.pushRem ctl f parts none flow false true))

/-- The packets of a packed tile, up to 256 bytes each, in ascending address order. -/
def sendPackets (ctx : Nat) (dev : BitVec 12) (flow : BitVec 3) : Nat → Nat → List Byte → List Packet
  | 0, _, _ => []
  | fuel + 1, va, b =>
    if b.isEmpty then []
    else makePacket ctx dev flow 0x01 (BitVec.ofNat 48 va) 0 (min 256 b.length) (b.take 256) :: sendPackets ctx dev flow fuel (va + 256) (b.drop 256)
/-- The bytes that a quarter's tile is packed into (R337). -/
def Fab.packTile (ctl : Ctl) (ctx : Nat) (gcw : Word) (routine : Option Routine) (fmt mode : Nat) (a : Tile) (b : Option Tile) (f : Fab) : Eng (List Byte) :=
  if !retireFits routine a b fmt then .fault mapErr f
  else (f.retire ctl ctx gcw routine a b).bind (fun l f =>
    match firstFault l with
    | some e => .fault e f
    | none => .ok (l.flatMap (fun r => leBytes (eltBits fmt / 8) (match r with | .value k raw => outConv k fmt (RMode.ofCode mode) raw | _ => 0))) f)

/-! ## The matrix engine (R170, R171, R332) -/

/-- Quarters of an operation that acts per quarter; 1 of one that acts once (R331). -/
def EngOp.quarters : EngOp → Nat
  | .mma _ _ qs => qs.length
  | .mret qs _ _ => qs.length
  | .mclr qs => qs.length
  | .send qs _ _ _ => qs.length
  | .bld .. => 1
  | .fold .. => 1
  | .scan .. => 1
  | .zip .. => 1
  | .merge .. => 1
  | .outr .. => 1
/-- The tiles whose absent sectors a quarter's operation waits for (R332). -/
def EngOp.reads (k : Nat) : EngOp → List Tile
  | .bld _ t => [t]
  | .mma _ _ qs => (qs[k]?).toList.map (fun q => q.2.2)
  | .mret qs _ _ => (qs[k]?).toList.flatMap (fun q => q.2.1 :: q.2.2.2.toList)
  | .mclr _ => []
  | .fold _ _ a => [a]
  | .scan _ _ a => [a]
  | .zip _ a b => [a, b]
  | .merge _ a b _ _ _ _ => [a, b]
  | .outr _ a b => [a, b]
  | .send qs _ _ _ => (qs[k]?).toList.flatMap (fun q => q.2.1 :: q.2.2.1.toList)
/-- Block updates that an element of a quarter takes (R171, R240). -/
def Fab.mxBlocks (f : Fab) (c : Nat) : EngOp → Nat
  | .mma slot binary _ => (f.bslot c slot).rows / blockLen binary
  | _ => 1
/-- The work of a quarter's operation, of `mma` only `count` block updates from those done; for `mret.send`, the packed bytes. -/
def Fab.mxWork (ctl : Ctl) (c ctx : Nat) (o : MxOp) (count : Nat) (f : Fab) : Eng (List Byte) :=
  let unit (x : Eng Unit) : Eng (List Byte) := x.bind (fun _ f => .ok [] f)
  let with_ (g : Routine → Eng Unit) : Eng (List Byte) := match o.routine with | some r => unit (g r) | none => .ok [] f
  match o.op with
  | .bld slot t => unit (f.bldWork ctl c ctx slot t)
  | .mma slot b qs => (match qs[o.quarter]? with
    | some q => unit (f.mmaQuarter ctl ctx b (f.bslot c slot) q.2.1 q.2.2 o.blocks count) | none => .ok [] f)
  | .mret qs mode ovr => (match qs[o.quarter]? with
    | some q => unit (f.mretQuarter ctl ctx o.gcw o.routine (RMode.ofCode mode) ovr q.2.1 q.2.2.1 q.2.2.2) | none => .ok [] f)
  | .mclr qs => (match qs[o.quarter]? with | some q => unit (f.mclrQuarter ctl ctx q.2) | none => .ok [] f)
  | .fold all d a => with_ (fun r => f.foldWork ctl ctx o.gcw r all d a)
  | .scan ex d a => with_ (fun r => f.scanWork ctl ctx o.gcw r ex d a)
  | .zip d a b => with_ (fun r => f.zipWork ctl ctx o.gcw r d a b)
  | .merge d a b at_ dz la lb => with_ (fun r => f.mergeWork ctl ctx o.gcw r d a b at_ dz la lb)
  | .outr d a b => with_ (fun r => f.outrWork ctl ctx o.gcw r d a b)
  | .send qs fmt mode _ => (match qs[o.quarter]? with
    | some q => f.packTile ctl ctx o.gcw o.routine fmt mode q.2.1 q.2.2.1 | none => .ok [] f)

/-- Hands the packed quarters of an `mret.send` to the remote engine; a quarter that has faulted is negative with PERM and sends
nothing (R175, R337). -/
def Fab.sendHand (ctl : Ctl) (f : Fab) (c ctx : Nat) (o : MxOp) : Fab :=
  match o.op with
  | .send qs _ _ flow =>
    let f := f.modRem c o.slot o.seq (fun r => { r with waitMx := false, parts := r.parts.mapIdx (fun k p =>
      match qs[k]?, o.packed[k]? with
      | some q, some (some b) =>
        let t := q.2.2.2.1.toNat
        { p with todo := sendPackets ctx (peerDev t) (BitVec.ofNat 3 flow) (b.length / 256 + 1) (t % 2 ^ 48) b }
      | _, _ => { p with signal := none, negs := [(0, 5)] }) })
    f.remGo ctl c o.slot o.seq
  | _ => f
/-- A faulted `bld`, the oldest operation of its core's engine, leaves its slot empty, and its view unless a `bld` issued after it has set
it, of whatever group (R170, R334). -/
def Fab.bldEmpty (f : Fab) (c : Nat) (o : MxOp) : Fab :=
  match o.op with
  | .bld slot _ =>
    let f := f.setSlot c slot .empty
    if ((f.core c).mxq.drop 1).any (fun q => match q.op with | .bld s _ => s == slot | _ => false) then f
    else f.setView c slot ⟨false, 0, 0, 0, 0⟩
  | _ => f
/-- Whether a core's matrix engine waits for a page. -/
def Fab.mxWaits (f : Fab) (c : Nat) : Bool :=
  f.faults.any (fun p => p.2.who.any (fun w => match w with | .matrix k _ => k == c | _ => false))
/-- Changes the oldest operation of a core's matrix engine. -/
def Fab.mxHead (f : Fab) (c : Nat) (h : MxOp → MxOp) : Fab :=
  let k := f.core c
  f.setCore c { k with mxq := modAt k.mxq 0 h }
/-- The class that an operation of the matrix engine counts in. -/
def EngOp.cls (op : EngOp) : Nat := if op.isSend then 4 else 3
/-- The oldest operation of a core's matrix engine goes on to its next quarter. -/
def MxOp.next (o : MxOp) (out : Option (List Byte)) : MxOp :=
  { o with quarter := o.quarter + 1, blocks := 0, packed := o.packed ++ [out], denied := [] }
/-- Works on the oldest operation of a core, which does not wait for a sector or a page: the rest of a quarter's operation, or
one block update of an `mma`. A fault is that quarter's own; the next one goes on (R171, R175). -/
def Fab.mxUnit (ctl : Ctl) (f : Fab) (c : Nat) (whole : Bool) : Fab :=
  match (f.core c).team, (f.core c).mxq with
  | some t, o :: _ =>
    if o.op.quarters ≤ o.quarter ∨ f.mxWaits c ∨ !((o.op.reads o.quarter).all (fun t => f.tilePresent t)) then f
    else
      let total := f.mxBlocks c o.op
      let count := if whole then total - o.blocks else min 1 (total - o.blocks)
      match Eng.denying o.denied (Fab.mxWork ctl c t.ctx o count) f with
      | .ok b f => f.mxHead c (fun o => if total ≤ o.blocks + count then o.next (some b) else { o with blocks := o.blocks + count })
      | .fault e f =>
        let f := ((f.mxHead c (fun o => o.next none)).bldEmpty c o)
        f.engFault ctl c o.slot o.seq o.op.cls o.ord o.lanes
          (e.record 1 (BitVec.ofNat 8 o.op.cls) (match o.routine with | some r => r.handle | none => 0) o.pc)
      | .xlate va acc r l _ _ => f.engPark ctl c o.slot t.ctx o.pc va acc r l (.matrix c (BitVec.ofNat 48 va))
  | _, _ => f
/-- The oldest operation of a core completes once its quarters are done. -/
def Fab.mxPop (ctl : Ctl) (f : Fab) (c : Nat) : Fab :=
  match (f.core c).team, (f.core c).mxq with
  | some t, o :: rest =>
    if o.quarter < o.op.quarters then f
    else
      let k := f.core c
      (((f.setCore c { k with mxq := rest }).sendHand ctl c t.ctx o).retireHeld c o.slot)
  | _, _ => f
/-- MATRIX_OP_COMPLETE on the fabric: the oldest operation of the core works through its quarters and completes, unless it waits
for a sector or a page. -/
def Fab.mxComplete (ctl : Ctl) (f : Fab) (c : Nat) : Fab :=
  match (f.core c).mxq with
  | o :: _ => ((List.range (o.op.quarters - o.quarter)).foldl (fun f _ => f.mxUnit ctl c true) f).mxPop ctl c
  | [] => f

/-! ## Meanings -/

/-- RWR_XM (R347). -/
def execRwrXm (f : XmForm) (s : State) : Out := run (.xm 0xA0 f) gateRem (bodyRwr f) s
/-- RRD_XM (R348). -/
def execRrdXm (f : XmForm) (s : State) : Out := run (.xm 0xA1 f) gateRrd (bodyRrd f) s
/-- RADD_XM (R349). -/
def execRaddXm (f : XmForm) (s : State) : Out := run (.xm 0xA2 f) gateRem (bodyRadd f) s
/-- RSIG_XM (R349). -/
def execRsigXm (f : XmForm) (s : State) : Out := run (.xm 0xA3 f) gateRem (bodyRsig f) s
/-- SWAIT_XM (R350). -/
def execSwaitXm (f : XmForm) (s : State) : Out := run (.xm 0xA4 f) gateMem (bodySwait f) s
/-- RMC_XM (R351). -/
def execRmcXm (f : XmForm) (s : State) : Out := run (.xm 0xA5 f) gateRem (bodyRmc f) s
/-- RACC_XM (R352). -/
def execRaccXm (f : XmForm) (s : State) : Out := run (.xm 0xA6 f) gateRem (bodyRacc f) s
/-- MRET_SEND_XT (R337). -/
def execMretSendXt (f : XtForm) (s : State) : Out := run (.xt 0xB3 f) gateSend (bodyMretSend f) s
/-- MATRIX_OP_COMPLETE (R171). -/
def execMatrixOpComplete (core : Nat) (s : State) : Out := .next { s with fab := s.fab.mxComplete s.ctl core }

end Sys2Proof.Machine
end

