-- ==== Sys2Proof/Machine/Receive.lean ====
section
/-!
DEFINITION. The receiving side of the transport (02_halyard R33-R36, R39, R40, R46, R47; 08_engines R179, R180;
16_isa_tile_remote R347-R352): checks, sequence numbers, parking, what a packet does, reductions, incumbent offers.
-/
namespace Sys2Proof.Machine

/-! ## Incumbents of the module (R116, R117, R47) -/

/-- Whether an incumbent is linked to a multicast group. -/
def Ctx.linked (x : Ctx) (i : Nat) : Bool := (x.incLink.getD i 0).getLsbD 15
/-- A value offered at the module value of an incumbent: it lands if it improves, and a linked incumbent then owes an offer. -/
def Fab.offerModule (f : Fab) (ctx i : Nat) (v : DWord) : Fab :=
  match f.ctx? ctx with
  | none => f
  | some x =>
    if x.improves i v (x.incMod.getD i 0) then
      f.modCtx ctx (fun c => { c with incMod := setAt c.incMod i v, offerDue := if c.linked i then setAt c.offerDue i true else c.offerDue })
    else f

/-! ## Import entries and pages (R39, R40) -/

/-- Context and key ID of a live import entry. The spec names no answer where an enabled HIMPBASE holds an address that is no memory: no entry
is live there, the model's choice (log 78). -/
def Fab.importEntry (ctl : Ctl) (f : Fab) (handle : BitVec 20) : Option (Nat × BitVec 12) :=
  let at_ := bitsOf ctl.himpbase.toNat 47 23 * 2 ^ 23 + 8 * handle.toNat
  if !ctl.himpbase.getLsbD 0 ∨ !memRange at_ 8 then none
  else
    let e := f.peekNat ctl 0 at_ 8
    if bitsOf e 63 26 ≠ 0 ∨ bitsOf e 25 24 ≠ 1 then none
    else match f.ctx? (bitsOf e 11 0) with
      | some x => if x.ended then none else some (x.id, BitVec.ofNat 12 (bitsOf e 23 12))
      | none => none
/-- What a receiver's checks 2 to 4 find on the pages of a run of bytes: a reason, a translation fault with its address, or
nothing. -/
inductive PageCheck
  | ok
  | neg (reason : Nat)
  | fault (va reason level : Nat)
  deriving DecidableEq, Repr, Inhabited
/-- The walks of the pages of runs of bytes, with the access each needs. -/
def Fab.peerWalks (ctl : Ctl) (f : Fab) (ctx ptroot : Nat) (runs : List (Nat × Nat × Access)) : List (Nat × Access × Walk) × Fab :=
  (runs.flatMap (fun r => (parts r.1 r.2.1).map (fun p => (p.1 % 2 ^ 48, r.2.2)))).foldl (fun (a : List (Nat × Access × Walk) × Fab) p =>
    let (w, f) := a.2.walk ctl ctx ptroot p.1
    (a.1 ++ [(p.1, p.2, w)], f)) ([], f)
/-- The first translation fault of walks. -/
def firstUnwalked (ws : List (Nat × Access × Walk)) : Option (Nat × Nat × Nat) :=
  ws.findSome? (fun w => match w.2.2 with | .fault r l => some (w.1, r, l) | _ => none)
/-- Checks 2 to 4 of R39 for runs of bytes with the access each needs; a RETIRING key ID is answered KEY (R58), and a table that
may not be read PERM (log 17). -/
def Fab.pageCheck (ctl : Ctl) (f : Fab) (ctx ptroot : Nat) (key : BitVec 12) (runs : List (Nat × Nat × Access)) : PageCheck × Fab :=
  let (ws, f) := f.peerWalks ctl ctx ptroot runs
  let perm := ws.any (fun w => match w.2.2 with | .leaf pte _ _ _ => !bitAt pte 6 || !ptePermits pte w.2.1 | .fault .. => false | .refused => true)
  let bad := ws.any (fun w => match w.2.2 with
    | .leaf pte level _ _ => bitsOf pte 59 48 != key.toNat || (paKind (leafPa pte level w.1) == .mem && ctl.keyRefused (BitVec.ofNat 12 (bitsOf pte 59 48)))
    | _ => false)
  if perm then (.neg 5, f)
  else if bad then (.neg 4, f)
  else match firstUnwalked ws with
    | some (va, r, l) => (.fault va r l, f)
    | none => (.ok, f)
/-- Operations of requests (Table 2.3). -/
def isRequest (op : Nat) : Bool := op == 1 || op == 2 || op == 3 || op == 5 || op == 6 || op == 7 || op == 8
/-- Whether a packet carries a signal word beside its data (R347, R351). -/
def carriesSignal (p : Packet) : Bool := p.op == 2 || (p.op == 7 && p.aux.getLsbD 63)
/-- The runs of bytes that a request touches in the target context, with the access each needs. -/
def requestRuns (p : Packet) : List (Nat × Nat × Access) :=
  let va := p.va.toNat
  let n := p.len.toNat + 1
  (match p.op.toNat with
   | 3 => [(va, n, .load)]
   | 6 => [(va, 8, .store)]
   | 8 => [(va, 64, .store)]
   | _ => [(va, n, .store)]) ++ (if carriesSignal p then [(p.aux.toNat % 2 ^ 48, 8, .store)] else [])

/-! ## Accesses of the port dies to a context's memory -/

/-- The parts of an access of a peer, whose addresses wrap at 2^48. -/
def peerParts (va n : Nat) : List (Nat × Nat) := (parts va n).map (fun p => (p.1 % 2 ^ 48, p.2))
/-- Reads a context's memory for a peer. -/
def Fab.peerRead (ctl : Ctl) (f : Fab) (ctx va n : Nat) : Option (List Byte) × Fab := f.readParts ctl ctx (peerParts va n)
/-- Whether a write of a peer can be performed: to memory, or as one access of a device register (R380). -/
def Fab.peerCan (ctl : Ctl) (f : Fab) (ctx va n : Nat) : Bool × Fab :=
  match f.ctxParts ctl ctx (peerParts va n) .store with
  | (some ps, f) => (ps.all (fun p => paKind p.1 == .mem || ctl.mmioAccepts p.1 p.2.2 .store), f)
  | (none, f) => (false, f)
/-- Writes a context's memory for a peer, as relaxed stores at `.sys`; a device register receives its write as a step of its
own. -/
def Fab.peerWrite (ctl : Ctl) (f : Fab) (ctx va : Nat) (b : List Byte) : Fab := (f.writeParts ctl ctx (peerParts va b.length) b).2
/-- Adds to a word of `n` bytes for a peer. -/
def Fab.peerAdd (ctl : Ctl) (f : Fab) (ctx va n v : Nat) : Fab :=
  match f.peerRead ctl ctx va n with
  | (some b, f) => f.peerWrite ctl ctx va (leBytes n ((leNat b + v) % 2 ^ (8 * n)))
  | (none, f) => f

/-! ## Reduction buffers (R179, R180, R352) -/

/-- A reduction buffer descriptor (Table 8.5). -/
structure RedBuf where
  result : Nat
  stage : Nat
  signal : Nat
  ncon : Nat
  mode : Nat
  handle : BitVec 8
  fmt : Nat
  bytes : Nat
  round : Nat
  core : Nat
  deriving DecidableEq, Repr, Inhabited
/-- Parses a descriptor; none where a field is out of range. -/
def RedBuf.parse (b : List Byte) : Option RedBuf :=
  let c := fieldAt b 24 8
  let r : RedBuf := ⟨fieldAt b 0 8, fieldAt b 8 8, fieldAt b 16 8, bitsOf c 12 0, bitsOf c 13 13, BitVec.ofNat 8 (bitsOf c 23 16), bitsOf c 27 24,
    bitsOf c 40 32 + 1, fieldAt b 32 8, bitsOf (fieldAt b 40 2) 8 0⟩
  if 1 ≤ r.ncon ∧ r.ncon ≤ 4096 ∧ r.bytes ≤ 256 ∧ r.fmt < 12 ∧ r.core < 384 ∧ 8 ≤ eltBits r.fmt ∧ r.bytes % (eltBits r.fmt / 8) = 0 ∧
      r.result < 2 ^ 48 ∧ r.stage < 2 ^ 48 ∧ r.signal < 2 ^ 48
  then some r else none
/-- Whether a cluster takes new work: in service, and not being retired (R69). -/
def Ctl.clusterServes (ctl : Ctl) (cl : Nat) : Bool :=
  !ctl.retClu.getLsbD cl && !(ctl.repBusy && ctl.repStarted && ctl.repOp == 1 && ctl.repKind == 0 && ctl.repIndex.toNat == cl)
/-- The core that takes a contribution to a buffer of a home core (R179). -/
def Ctl.homeCore (ctl : Ctl) (c : Nat) : Nat :=
  if ctl.clusterServes (c / 8) then c else 8 * ((List.range 48).find? ctl.clusterServes).getD 0
/-- The elements of a contribution. -/
def RedBuf.elements (r : RedBuf) (b : List Byte) : List Nat :=
  let w := eltBits r.fmt / 8
  (List.range (r.bytes / w)).map (fun i => leNat (sliceBytes b (w * i) w))
/-- Folds contributions element by element, left to right (R180); no arithmetic condition is enabled (R341). -/
def RedBuf.foldAll (r : RedBuf) (q : Routine) (cs : List (List Byte)) : List Folded :=
  let es := cs.map r.elements
  (List.range (r.bytes / (eltBits r.fmt / 8))).map (fun i =>
    match es.map (fun l => enterElt r.fmt (l.getD i 0)) with
    | [] => .value q.identity
    | x :: xs => q.foldLeft 0 x (xs.mapIdx (fun k y => (y, 0, k + 1))))
/-- RESULT's bytes for folded elements: in a merge pair only the value changes (R341). -/
def RedBuf.pack (r : RedBuf) (old : List Byte) (vs : List (Option Nat)) : List Byte :=
  let w := eltBits r.fmt / 8
  vs.mapIdx (fun i v => match v with
    | none => sliceBytes old (w * i) w
    | some v => if r.fmt = 11 then sliceBytes old (w * i) 4 ++ leBytes 4 v else leBytes w v) |>.flatten
/-- The runs of bytes that a round touches. -/
def RedBuf.runs (r : RedBuf) : List (Nat × Nat) :=
  [(r.result, r.bytes), (r.stage, r.ncon * r.bytes + (r.ncon + 7) / 8), (r.signal, 8)]
/-- Answers every contribution of a round. -/
def Fab.redAnswer (f : Fab) (ctx desc : Nat) (answer : Fab → Packet → Fab) : Fab :=
  let mine := f.redHeld.filter (fun h => h.ctx == ctx && h.desc == desc)
  mine.foldl (fun f h => answer f h.pk) { f with redHeld := f.redHeld.filter (fun h => !(h.ctx == ctx && h.desc == desc)) }
/-- Clears the arrival bitmap of a buffer. -/
def Fab.redClear (ctl : Ctl) (f : Fab) (ctx : Nat) (r : RedBuf) : Fab :=
  f.peerWrite ctl ctx (r.stage + r.ncon * r.bytes) (List.replicate ((r.ncon + 7) / 8) 0)
/-- A round's fold is done (R180) or has faulted (R352), with all its contributions or before the last: only elements that hold
every contribution reach RESULT (R175). Answers come back with it. -/
def Fab.redFinish (ctl : Ctl) (f : Fab) (ctx desc : Nat) (r : RedBuf) (vs : List Folded) (all : Bool) : Bool × Fab :=
  let bad := vs.any (fun v => match v with | .fault _ => true | .value _ => false)
  let n := f.nextId
  let (old, f) := ({ f with nextId := n + 1 } : Fab).peerRead ctl ctx r.result r.bytes
  let put := vs.mapIdx (fun i v => match v with | .value x => if all && (!bad || Config.faultWrote n i) then some x else none | .fault _ => none)
  let f := f.peerWrite ctl ctx r.result (r.pack (old.getD []) put)
  let f := f.redClear ctl ctx r
  if bad then (false, f)
  else (true, (f.peerWrite ctl ctx (desc + 32) (leBytes 8 ((r.round + 1) % 2 ^ 64))).peerAdd ctl ctx r.signal 8 1)

/-- How a contribution ends: refused, held until its round folds, or the fold of its round. -/
inductive Reduced
  | neg | held | folded (ok : Bool)
  deriving DecidableEq, Repr, Inhabited
/-- Takes a contribution (R179, R180, R352). The pages of the buffer have been checked. A HANDLE that names no routine of the context is
answered PERM, as the fields that R179 lists are: the spec does not say (log 36). -/
def Fab.reduce (ctl : Ctl) (f : Fab) (ctx : Nat) (p : Packet) (r : RedBuf) : Reduced × Fab :=
  let desc := p.va.toNat
  let index := p.aux.toNat % 4096
  let bm := r.stage + r.ncon * r.bytes
  match f.routine ctx r.handle with
  | none => (.neg, f)
  | some q =>
    let (b, f) := f.peerRead ctl ctx (bm + index / 8) 1
    let byte := leNat (b.getD [0])
    if r.ncon ≤ index ∨ bitsOf p.aux.toNat 12 12 ≠ r.mode ∨ (r.mode = 1 ∧ !(q.assoc && q.comm)) ∨ bitAt byte (index % 8) ∨ p.data.length < r.bytes then (.neg, f)
    else
      let fits := q.enters r.fmt && q.leaves r.fmt
      let data := p.data.take r.bytes
      let f := f.peerWrite ctl ctx (bm + index / 8) (leBytes 1 (byte ||| 2 ^ (index % 8)))
      let earlier := (f.redHeld.filter (fun h => h.ctx == ctx && h.desc == desc)).length
      let mismatch : List Folded := [.fault mapErr]
      if r.mode = 0 then
        let f := f.peerWrite ctl ctx (r.stage + index * r.bytes) data
        if earlier + 1 < r.ncon then (.held, f)
        else
          let (cs, f) := (List.range r.ncon).foldl (fun (a : List (List Byte) × Fab) k =>
            let (b, f) := a.2.peerRead ctl ctx (r.stage + k * r.bytes) r.bytes
            (a.1 ++ [b.getD []], f)) ([], f)
          let (ok, f) := f.redFinish ctl ctx desc r (if fits then r.foldAll q cs else mismatch) true
          (.folded ok, f)
      else
        let (acc, f) := f.peerRead ctl ctx r.stage r.bytes
        let vs := if !fits then mismatch else if earlier = 0 then (r.elements data).map (fun x => Folded.value (enterElt r.fmt x)) else r.foldAll q [acc.getD [], data]
        if vs.any (fun v => match v with | .fault _ => true | .value _ => false) ∨ earlier + 1 = r.ncon then
          let (ok, f) := f.redFinish ctl ctx desc r vs (earlier + 1 == r.ncon)
          (.folded ok, f)
        else (.held, f.peerWrite ctl ctx r.stage (r.pack data (vs.map (fun v => match v with | .value x => some x | .fault _ => none))))

/-! ## What a request does -/

/-- How a request is decided (R39): answered positively, with a reply for a read, answered negatively, parked, or held by a
reduction round. -/
inductive Decided
  | done (reply : Option (List Byte))
  | neg (reason : Nat)
  | park (fault : Option (Nat × Nat × Nat))
  | held (core : Nat)
  | folded (ok : Bool)
  deriving DecidableEq, Repr, Inhabited

/-- Whether a context is descheduled (R46). -/
def Fab.descheduled (f : Fab) (ctx : Nat) : Bool :=
  f.grids.any (fun g => g.ctx == ctx && g.preempted) &&
    !f.cores.any (fun k => match k.2.team with | some t => t.ctx == ctx | none => false)
/-- Applies a request whose page checks have passed. -/
def Fab.applyRequest (ctl : Ctl) (f : Fab) (ctx : Nat) (p : Packet) : Decided × Fab :=
  let va := p.va.toNat
  let n := p.len.toNat + 1
  let can (f : Fab) : Bool × Fab := (requestRuns p).foldl (fun (r : Bool × Fab) x =>
    if x.2.2 = .load then r else (let (b, f) := r.2.peerCan ctl ctx x.1 x.2.1; (r.1 && b, f))) (true, f)
  match can f with
  | (false, f) => (.neg 5, f)
  | (true, f) =>
    match p.op.toNat with
    | 3 => (match f.peerRead ctl ctx va n with | (some b, f) => (.done (some b), f) | (none, f) => (.neg 5, f))
    | 5 => (.done none, f.peerAdd ctl ctx va n (leNat p.data))
    | 6 => (.done none, f.peerAdd ctl ctx va 8 p.aux.toNat)
    | 8 =>
      (match f.peerRead ctl ctx va 64 with
       | (none, f) => (.neg 5, f)
       | (some b, f) => match RedBuf.parse b, f.ctx? ctx with
         | some r, some x =>
           -- pages of the buffer that do not translate park the contribution (R179)
           (match f.peerWalks ctl ctx x.ptroot (r.runs.map (fun q => (q.1, q.2, .store))) with
            | (ws, f) => match firstUnwalked ws with
            | some e => (.park (some e), f)
            | none =>
              let (ok, f) := r.runs.foldl (fun (a : Bool × Fab) q => let (b, f) := a.2.peerCan ctl ctx q.1 q.2; (a.1 && b, f)) (true, f)
              if !ok then (.neg 5, f)
              else match f.reduce ctl ctx p r with
                | (.neg, f) => (.neg 5, f)
                | (.held, f) => (.held (ctl.homeCore r.core), f)
                | (.folded ok, f) => (.folded ok, f))
         | _, _ => (.neg 5, f))
    | _ =>
      let f := f.peerWrite ctl ctx va p.data
      (.done none, if carriesSignal p then f.peerAdd ctl ctx (p.aux.toNat % 2 ^ 48) 8 1 else f)
/-- The checks of R39 from check 2 on, under the import entry that check 1 has read, and what the request does; `mustPark` holds
for a packet behind a parked one of its ordered flow (R40, R46). -/
def Fab.judgeFrom (ctl : Ctl) (f : Fab) (p : Packet) (ctx : Nat) (key : BitVec 12) (mustPark : Bool) : Decided × Fab :=
  match f.ctx? ctx with
  | none => (.neg 1, f)
  | some x =>
    match f.pageCheck ctl ctx x.ptroot key (requestRuns p) with
    | (.neg r, f) => (.neg r, f)
    | (.fault va r l, f) => (.park (some (va, r, l)), f)
    | (.ok, f) => if mustPark || f.descheduled ctx then (.park none, f) else f.applyRequest ctl ctx p
/-- The checks of R39 on a request that arrives: the import entry it is decided under, and the decision. -/
def Fab.judge (ctl : Ctl) (f : Fab) (p : Packet) (mustPark : Bool) : Option (Nat × BitVec 12) × Decided × Fab :=
  match f.importEntry ctl p.handle with
  | none => (none, .neg 1, f)
  | some (ctx, key) => let (d, f) := f.judgeFrom ctl p ctx key mustPark; (some (ctx, key), d, f)

/-! ## Sequence numbers and answers (R33, R35, R36) -/

/-- Whether two packets come from one flow. -/
def sameSource (p q : Packet) : Bool := p.src == q.src && p.sctx == q.sctx && p.flow == q.flow
/-- Sequence numbers of a flow that are decided and not yet answered: parked or held packets. -/
def Fab.openSeqs (f : Fab) (p : Packet) : List (BitVec 32) :=
  (f.ctxs.flatMap (fun c => c.parked.map (·.pk)) ++ f.redHeld.map (·.pk)).filterMap (fun q =>
    if q.op != 9 && sameSource q p then some q.seq else none)
/-- Acknowledges a packet of a flow cumulatively (R33): with the run of its neighbours that are neither rejected, nor parked or
held, nor still to come; a run that does not reach back to the start of the flow names its length (log 61). -/
def Fab.ackFlow (f : Fab) (p : Packet) : Fab :=
  let x := f.recvFlow p
  let bars := f.openSeqs p ++ x.kept.map (·.1)
  if serialLt p.seq x.next then
    let last := (bars.filter (fun s => serialLt p.seq s)).foldl (fun a s => if serialLt s a then s else a) x.next - 1
    match bars.filter (fun s => serialLt s p.seq) with
    | [] => f.emit (ackFor p last 0)
    | s :: ss => f.emit (ackFor p last (last - ss.foldl (fun a s => if serialLt a s then s else a) s).toNat)
  else f.emit (ackFor p p.seq 1)
/-- Sends the answers of a decision. -/
def Fab.answer (f : Fab) (p : Packet) (d : Decided) : Fab :=
  match d with
  | .done none => f.ackFlow p
  | .done (some b) => (f.emit { ackFor p p.seq 0 with op := 0x04, len := BitVec.ofNat 9 (b.length - 1), data := b }).ackFlow p
  | .neg r => f.reject p r
  | _ => f
/-- Bytes of the overflow area that a parked packet takes (R46). -/
def parkBytes (p : Packet) : Nat := 64 + (p.data.length + 63) / 64 * 64
/-- The ACCESS bit of a packet that faults at an address (Table 9.5): a read, an atomic add or a signal's, or a write. -/
def packetAccess (p : Packet) (va : Nat) : BitVec 8 :=
  if p.op = 3 then accessBits .load
  else if p.op = 5 ∨ p.op = 6 ∨ (carriesSignal p ∧ (peerParts p.va.toNat (p.len.toNat + 1)).all (fun q => q.1 != va)) then accessBits .atomic
  else accessBits .store
/-- Posts the translation fault of a packet (R39, R204). -/
def Fab.haltFault (ctl : Ctl) (f : Fab) (ctx : Nat) (p : Packet) (va r l : Nat) : Option Nat × Fab :=
  f.faultTake ctl 0 ⟨ctx, BitVec.ofNat 48 va, (packetAccess p) va, 2, r, l, 1, 0xFFFF, 0, p.src, 0, f.time, false, [.halyard ctx]⟩
/-- Parks a packet for a context, posting its translation fault (R39, R46, R204); without room it is answered BUSY. -/
def Fab.park (ctl : Ctl) (f : Fab) (ctx : Nat) (key : BitVec 12) (p : Packet) (fault : Option (Nat × Nat × Nat)) : Bool × Fab :=
  match f.ctx? ctx with
  | none => (false, f)
  | some x =>
    if 2 ^ x.ovfl < x.ovflUsed + parkBytes p then (false, f)
    else
      let (slot, f) := match fault with
        | none => (none, f)
        | some (va, r, l) => f.haltFault ctl ctx p va r l
      let n := f.nextId
      (true, ({ f with nextId := n + 1 } : Fab).modCtx ctx (fun c => { c with parked := c.parked ++ [⟨p, slot, n, key⟩], ovflUsed := c.ovflUsed + parkBytes p }))
/-- Whether an earlier packet of a packet's ordered flow is parked, for whatever context (R46): one numbered below `n`. -/
def Fab.behindParked (f : Fab) (p : Packet) (n : Nat) : Bool :=
  p.ord && f.ctxs.any (fun c => c.parked.any (fun q => q.order < n && q.pk.op != 9 && sameSource q.pk p))
/-- Settles a decision: answers, parks or holds. -/
def Fab.settleDecision (ctl : Ctl) (f : Fab) (p : Packet) (entry : Option (Nat × BitVec 12)) (d : Decided) : Fab :=
  match entry, d with
  | some (c, key), .park e => (match f.park ctl c key p e with | (true, f) => f | (false, f) => f.answer p (.neg 3))
  | some (c, _), .held core => { f with redHeld := f.redHeld ++ [⟨c, p.va.toNat, p, core⟩] }
  | some (c, _), .folded ok =>
    ({ f with redHeld := f.redHeld ++ [⟨c, p.va.toNat, p, 0⟩] } : Fab).redAnswer c p.va.toNat (fun f q => f.answer q (if ok then .done none else .neg 5))
  | _, d => f.answer p d
/-- Applies early packets that have become next in sequence (R36); `fuel` bounds them. -/
def Fab.takeNext (ctl : Ctl) : Nat → Packet → Fab → Fab
  | 0, _, f => f
  | fuel + 1, p, f =>
    let x := f.recvFlow p
    let f := f.putFlow { x with next := x.next + 1, early := x.early.filter (fun q => q.seq != p.seq) }
    let (ctx, d, f) := f.judge ctl p (f.behindParked p f.nextId)
    let f := f.settleDecision ctl p ctx d
    match x.early.find? (fun q => q.seq == x.next + 1) with
    | some q => Fab.takeNext ctl fuel q f
    | none => f
/-- Advances an unordered flow over the sequence numbers already decided; `fuel` bounds them. -/
def RecvFlow.advance : Nat → RecvFlow → RecvFlow
  | 0, x => x
  | fuel + 1, x => if x.decided.contains x.next then RecvFlow.advance fuel { x with next := x.next + 1, decided := x.decided.erase x.next } else x
/-- Home port die of a flow (R36). -/
def homeDie (src sctx : BitVec 12) (flow : BitVec 3) : Bool := (src ^^^ sctx ^^^ flow.zeroExtend 12).getLsbD 0
/-- Early packets in the reorder buffer of a port die. -/
def Fab.reorderUsed (f : Fab) (die : Bool) : Nat :=
  ((f.recvFlows.filter (fun x => homeDie x.src x.sctx x.flow == die)).map (fun x => x.early.length)).foldl (· + ·) 0
/-- Receives a request (R33-R36): a duplicate is answered again, an early packet waits or is discarded, the next one is decided.
One whose number R379 puts neither before nor after the next one is discarded. -/
def Fab.receive (ctl : Ctl) (f : Fab) (p : Packet) : Fab :=
  let x := f.recvFlow p
  if p.seq - x.next = 2 ^ 31 then f
  else if serialLt p.seq x.next ∨ x.decided.contains p.seq then
    match x.rejected.find? (fun r => r.1 == p.seq) with
    | some r => f.emit (nakFor p r.2)
    | none => if (f.openSeqs p).contains p.seq then f else f.ackFlow p
  else if p.ord then
    if p.seq = x.next then f.takeNext ctl (x.early.length + 1) p
    else if x.early.any (fun q => q.seq == p.seq) ∨ 4096 ≤ f.reorderUsed (homeDie p.src p.sctx p.flow) then f
    else f.putFlow { x with early := x.early ++ [p] }
  else
    let f := f.putFlow (RecvFlow.advance (x.decided.length + 1) { x with decided := x.decided ++ [p.seq] })
    let (ctx, d, f) := f.judge ctl p false
    f.settleDecision ctl p ctx d

/-! ## Parked packets (R46, R205) -/

/-- Applies a parked packet: its checks run again from check 2, and it stays parked where one of them parks it (R39, R40). -/
def Fab.unpark (ctl : Ctl) (f : Fab) (ctx : Nat) (q : ParkedPacket) : Fab :=
  let out (f : Fab) : Fab := f.modCtx ctx (fun c => { c with parked := c.parked.erase q, ovflUsed := c.ovflUsed - parkBytes q.pk })
  let stay (f : Fab) (slot : Option Nat) : Fab := f.modCtx ctx (fun c => { c with parked := c.parked.map (fun r => if r == q then { r with slot := slot } else r) })
  if q.pk.op = 9 then (out f).offerModule ctx (q.pk.va.toNat % 16) q.pk.aux
  else match f.judgeFrom ctl q.pk ctx q.key false with
    | (.park (some (va, r, l)), f) =>
      let (slot, f) := f.haltFault ctl ctx q.pk va r l
      stay f slot
    | (.park none, f) => stay f none
    | (d, f) => (out f).settleDecision ctl q.pk (some (ctx, q.key)) d
/-- Puts a parked packet in its place in arrival order. -/
def insertParked (x : Nat × ParkedPacket) : List (Nat × ParkedPacket) → List (Nat × ParkedPacket)
  | [] => [x]
  | y :: t => if x.2.order < y.2.order then x :: y :: t else y :: insertParked x t
/-- Applies the parked packets that may be applied, in arrival order (R46): those that wait for no fault response, of contexts that
are not descheduled, and behind no packet of their ordered flow that stays parked. -/
def Fab.unparkAll (ctl : Ctl) (f : Fab) : Fab :=
  ((f.ctxs.flatMap (fun c => c.parked.map (fun q => (c.id, q)))).foldl (fun l x => insertParked x l) []).foldl (fun f x =>
    let here := match f.ctx? x.1 with | some c => c.parked.contains x.2 | none => false
    if !here ∨ x.2.slot.isSome ∨ f.descheduled x.1 ∨ f.behindParked x.2.pk x.2.order then f else f.unpark ctl x.1 x.2) f
/-- RETRY for a context's packets on a fault slot: they translate again (R39, R205). -/
def Fab.retryPackets (ctl : Ctl) (f : Fab) (ctx slot : Nat) : Fab :=
  (f.modCtx ctx (fun c => { c with parked := c.parked.map (fun q => if q.slot = some slot then { q with slot := none } else q) })).unparkAll ctl
/-- DELIVER for a context's packets on a fault slot: each is answered PERM, and those behind them follow (R39, R205). -/
def Fab.deliverPackets (ctl : Ctl) (f : Fab) (ctx slot : Nat) : Fab :=
  match f.ctx? ctx with
  | none => f
  | some x =>
    ((x.parked.filter (fun q => q.slot == some slot)).foldl (fun f q =>
      (f.modCtx ctx (fun c => { c with parked := c.parked.erase q, ovflUsed := c.ovflUsed - parkBytes q.pk })).answer q.pk (.neg 5)) f).unparkAll ctl

/-! ## Incumbent offers (R47) -/

/-- Receives an offer: it is parked for a descheduled context, applied as a relaxed `incx` at the module value, or dropped and
counted. -/
def Fab.receiveOffer (ctl : Ctl) (f : Fab) (p : Packet) : Fab :=
  match f.importEntry ctl p.handle with
  | none => f.count 0x720
  | some (ctx, key) =>
    if f.descheduled ctx then (match f.park ctl ctx key p none with | (true, f) => f | (false, f) => f.count 0x720)
    else f.offerModule ctx (p.va.toNat % 16) p.aux
/-- Sends an offer of the value `v` at the incumbent `slot` to a group's member whose entry stands at `va`. Where the entry cannot be read,
an offer is dropped, and counted as one (log 67). -/
def Fab.offerTo (ctl : Ctl) (ctx slot : Nat) (v : DWord) (f : Fab) (va : Nat) : Fab :=
  match f.ctxRead ctl ctx va 8 with
  | (none, f) => f.count 0x720
  | (some e, f) =>
    let dev := BitVec.ofNat 12 (bitsOf (leNat e) 11 0)
    if bitsOf (leNat e) 33 32 ≠ 1 ∨ !ctl.reaches dev then f
    else f.emit { makePacket 0 dev 0 0x09 (BitVec.ofNat 48 slot) v 1 [] with src := ctl.hdevid, handle := BitVec.ofNat 20 (bitsOf (leNat e) 31 12) }
/-- Whether a linked incumbent's offer is due and may leave: at most one per 1 µs (R47). -/
def Ctx.offerReady (x : Ctx) (i now : Nat) : Bool :=
  !x.ended && x.offerDue.getD i false && (match x.offerAt.getD i none with | some t => decide (t + 1000 ≤ now) | none => true)
/-- Sends the value of a linked incumbent to every live member of its group, at most once per 1 µs (R47). Where the group's header
cannot be read, an offer is dropped, and counted as one (log 67). -/
def Fab.sendOffer (ctl : Ctl) (f : Fab) (ctx i : Nat) : Fab :=
  match f.ctx? ctx with
  | none => f
  | some x =>
    if !x.offerReady i f.time.toNat then f
    else
      let link := (x.incLink.getD i 0).toNat
      let f := f.modCtx ctx (fun c => { c with offerDue := setAt c.offerDue i false, offerAt := setAt c.offerAt i (some f.time.toNat) })
      match f.ctxRead ctl ctx (x.mcastT.toNat + 16 * (link % 256)) 16 with
      | (none, f) => f.count 0x720
      | (some h, f) =>
        if !bitAt (fieldAt h 0 8) 16 then f
        else ((List.range (bitsOf (fieldAt h 0 8) 12 0)).map (fun k => fieldAt h 8 8 + 8 * k)).foldl (Fab.offerTo ctl ctx (bitsOf link 11 8) (x.incMod.getD i 0)) f

/-! ## Meanings -/

/-- Takes the packet that has arrived at index `k`, if its operation and destination satisfy a test. -/
def State.arrival (s : State) (k : Nat) (ok : Packet → Bool) (go : Fab → Packet → Fab) : Out :=
  match s.fab.arrived[k]? with
  | some (_, p) => if ok p then .next { s with fab := go { s.fab with arrived := s.fab.arrived.eraseIdx k } p } else .next s
  | none => .next s
/-- Whether a packet is for this device. -/
def Ctl.mine (ctl : Ctl) (p : Packet) : Bool := p.dst == ctl.hdevid
/-- PACKET_RECEIVE (R39). -/
def execPacketReceive (k : Nat) (s : State) : Out :=
  s.arrival k (fun p => s.ctl.mine p && isRequest p.op.toNat) (fun f p => f.receive s.ctl p)
/-- Whether an acknowledgement covers a packet sent: its flow, and its number up to the one named, no further back than the count
in AUX says (R33, log 61); a reply answers its own read (R348). -/
def acknowledges (p : Packet) (x : SentPacket) : Bool :=
  !x.waiting && x.pk.sctx == p.sctx && x.pk.dst == p.src && x.pk.flow == p.flow &&
    (if p.op = 0x04 then x.pk.op == 3 && x.pk.seq == p.seq
     else x.pk.op != 3 && serialLe x.pk.seq p.seq && (p.aux == 0 || decide ((p.seq - x.pk.seq).toNat < p.aux.toNat)))
/-- PACKET_ACK (R33): a cumulative acknowledgement, with the partial record of a switch where it carries one (R44), or the reply of
a read (R348). -/
def execPacketAck (k : Nat) (s : State) : Out :=
  s.arrival k (fun p => s.ctl.mine p && (p.op == 0x0A || p.op == 0x04)) (fun f p =>
    (f.sent.filter (acknowledges p)).foldl (fun f x => f.answered s.ctl x none (if x.pk.seq = p.seq then p.data else [])) f)
/-- PACKET_NAK (R45). -/
def execPacketNak (k : Nat) (s : State) : Out :=
  s.arrival k (fun p => s.ctl.mine p && p.op == 0x0B) (fun f p =>
    match f.sent.find? (fun x => !x.waiting && x.pk.sctx == p.sctx && x.pk.dst == p.src && x.pk.flow == p.flow && x.pk.seq == p.seq) with
    | some x => f.answered s.ctl x (some (p.aux.toNat % 8)) []
    | none => f)
/-- PACKET_RESEND_TIMEOUT (R33): 20 µs without an acknowledgement. -/
def execPacketResendTimeout (id : Nat) (s : State) : Out :=
  match s.fab.sent.find? (fun x => x.id == id) with
  | some x =>
    if x.waiting ∨ s.fab.time.toNat < x.lastAt + 20000 then .next s
    else .next { s with fab := ({ s.fab with sent := s.fab.sent.map (fun y => if y.id == id then { y with lastAt := s.fab.time.toNat } else y) } : Fab).resend x }
  | none => .next s
/-- PACKET_UNREACHABLE_TIMEOUT (R34): 2 ms without an acknowledgement. -/
def execPacketUnreachableTimeout (id : Nat) (s : State) : Out :=
  match s.fab.sent.find? (fun x => x.id == id) with
  | some x => if x.waiting ∨ s.fab.time.toNat < x.firstAt + 2000000 then .next s else .next { s with fab := s.fab.answered s.ctl x (some 2) [] }
  | none => .next s
/-- OFFER_SEND (R47). -/
def execOfferSend (ctx inc : Nat) (s : State) : Out := .next { s with fab := s.fab.sendOffer s.ctl ctx inc }
/-- OFFER_RECEIVE (R47). -/
def execOfferReceive (k : Nat) (s : State) : Out :=
  s.arrival k (fun p => s.ctl.mine p && p.op == 0x09) (fun f p => f.receiveOffer s.ctl p)

end Sys2Proof.Machine
end

