-- ==== Sys2Proof/Machine/Lanyard.lean ====
section
/-!
DEFINITION. The scheduler (05_scheduler R98-R111): lanyard links, placement, pre-emption, the end of hitches and grids, the
register queue, sleeping groups.
-/
namespace Sys2Proof.Machine

/-! ## Lanyard links (R98) -/

/-- Whether a message is a PERMIT, which spends no permit and earns none (log 51). -/
def LanyardMsg.isPermit (m : LanyardMsg) : Bool := m.type == 0x07
/-- The cluster consumes the head of its link: its permits return, and it owes one. -/
def Lanyard.takeDown (k : Lanyard) (m : LanyardMsg) (now : Nat) : Lanyard :=
  ({ k with
    down := k.down.drop 1
    upPermits := k.upPermits + m.pret
    owedUp := if m.isPermit then k.owedUp else k.owedUp + 1
    owedUpAt := if k.owedUp = 0 then now else k.owedUpAt } : Lanyard)
/-- Uzoman consumes the head of a link. -/
def Lanyard.takeUp (k : Lanyard) (m : LanyardMsg) (now : Nat) : Lanyard :=
  ({ k with
    up := k.up.drop 1
    downPermits := k.downPermits + m.pret
    owedDown := if m.isPermit then k.owedDown else k.owedDown + 1
    owedDownAt := if k.owedDown = 0 then now else k.owedDownAt } : Lanyard)
/-- The head of a link toward a cluster, if it has a type. -/
def Fab.headDown (f : Fab) (cl type : Nat) : Option LanyardMsg :=
  (f.links[cl]?).bind (fun k => k.down.head?.bind (fun m => if m.type.toNat = type then some m else none))
/-- The head of a link toward Uzoman, if it has a type. -/
def Fab.headUp (f : Fab) (cl type : Nat) : Option LanyardMsg :=
  (f.links[cl]?).bind (fun k => k.up.head?.bind (fun m => if m.type.toNat = type then some m else none))
/-- Consumes the head of a link. -/
def Fab.tookDown (f : Fab) (cl : Nat) (m : LanyardMsg) : Fab := { f with links := modAt f.links cl (fun k => k.takeDown m f.time.toNat) }
/-- Consumes the head of a link toward Uzoman. -/
def Fab.tookUp (f : Fab) (cl : Nat) (m : LanyardMsg) : Fab := { f with links := modAt f.links cl (fun k => k.takeUp m f.time.toNat) }
/-- Whether Uzoman runs: the global scheduler has been released and no update pause stands (R54, R66). -/
def Ctl.uzRuns (c : Ctl) : Bool := c.scheduler && c.updPhase != .paused
/-- Whether a message that decides about the hitches of a grid is on its way to or from a cluster, or is held there. -/
def Fab.underway (f : Fab) (gid : Nat) : Bool :=
  f.links.any (fun k => (k.down ++ k.held).any (fun m => (m.type == 0x01 || m.type == 0x04) && m.grid == gid) ||
    k.up.any (fun m => (m.type == 0x03 || m.type == 0x05) && m.grid == gid))

/-! ## Grids -/

/-- Puts a team among those that a grid keeps, in index order. -/
def insertTeam (x : Nat × Team) : List (Nat × Team) → List (Nat × Team)
  | [] => [x]
  | y :: t => if x.1 < y.1 then x :: y :: t else if x.1 = y.1 then x :: t else y :: insertTeam x t
/-- Frees a core of its team; an `irq` event of the team that still waits is not posted (R78). -/
def Fab.freeCore (f : Fab) (c : Nat) : Fab :=
  let k := f.core c
  ({ f with posts := f.posts.filter (fun p => match p.irq with | some (_, _, pc, _) => pc != c | none => true) } : Fab).setCore c
    { k with team := none, regQueue := [], copies := [], mxq := [] }
/-- Whether a team of a grid is resident. -/
def Fab.anyResident (f : Fab) (gid : Nat) : Bool := f.cores.any (fun k => match k.2.team with | some t => t.grid == gid | none => false)
/-- Completes the PREEMPTs that have started and name a grid's RESUME (R82). -/
def Fab.endPreempts (ctl : Ctl) (f : Fab) (g : Grid) (status : Nat) : Fab :=
  ((f.preemptsOf g.queue g.seq).filter (fun id => match f.cmd? id with | some c => c.started | none => false)).foldl
    (fun f id => f.complete ctl id status true []) f
/-- A grid whose teams have all exited ends: its RESUME completes with status 0, a PREEMPT of it with status 2 (R82, R102). -/
def Fab.gridEnd (ctl : Ctl) (f : Fab) (gid : Nat) : Fab :=
  match f.grid? gid with
  | none => f
  | some g =>
    let f := f.modGrid gid (fun x => { x with ended := true, preempt := none, preempted := false, saved := [] })
    (f.complete ctl g.cmd 0 true g.countBytes).endPreempts ctl g 2
/-- The first team of a grid that has not started, once none is resident (R93). -/
def Grid.firstFresh (g : Grid) : Nat :=
  min g.nteams (((List.range (g.saved.length + 1)).find? (fun i => !g.saved.any (fun t => t.1 == i))).getD 0)
/-- Once every cluster has answered, PREEMPT writes the image and completes, then the RESUME with status 7 (R80, R82, R109). -/
def Fab.preemptFinish (ctl : Ctl) (f : Fab) (gid : Nat) : Fab :=
  match f.grid? gid with
  | some g =>
    (match g.preempt with
     | some (cmd, image, asked) =>
       if !asked.isEmpty ∨ f.anyResident gid ∨ f.underway gid then f
       else
         let ctx := match f.cmd? cmd with | some c => c.rec_.ctxId | none => g.ctx
         let (ok, f) := f.writeImage ctl ctx image.toNat { g with nextTeam := g.firstFresh }
         let f := f.modGrid gid (fun x => { x with ended := true, preempt := none, preempted := true, saved := [] })
         let f := f.complete ctl cmd (if ok then 0 else 2) true []
         (f.complete ctl g.cmd 7 true g.countBytes).endPreempts ctl g 2
     | none => f)
  | none => f
/-- A cluster has answered the PREEMPT of a grid. -/
def Grid.answered (g : Grid) (cl : Nat) : Grid := { g with preempt := g.preempt.map (fun p => (p.1, p.2.1, p.2.2.filter (· != cl))) }

/-! ## Placement (R99-R101) -/

/-- Whether a core is free: it holds no team, and its cluster is in service. -/
def Fab.coreFree (ctl : Ctl) (f : Fab) (c : Nat) : Bool := (f.core c).team.isNone && ctl.clusterServes (c / 8)
/-- The free cores of a cluster, ascending. -/
def Fab.freeCores (ctl : Ctl) (f : Fab) (cl : Nat) : List Nat := ((List.range 8).map (8 * cl + ·)).filter (fun c => f.coreFree ctl c)
/-- Cores of a cluster promised to hitches on their way. -/
def Fab.promised (f : Fab) (cl : Nat) : Nat :=
  match f.links[cl]? with
  | none => 0
  | some k => (((k.down ++ k.held).filter (fun m => m.type == 0x01)).map (fun m => m.hitch)).foldl (· + ·) 0
/-- Puts a hitch in its place in the placement queue (R100, R111): behind those of RESUMEs taken before its own and of earlier
teams of its grid. -/
def Fab.enterHitch (f : Fab) (h : Hitch) : Fab :=
  let taken (gid : Nat) : Nat := match f.grid? gid with | some g => g.cmd | none => 0
  let ahead (x : Hitch) : Bool := taken x.grid < taken h.grid || (x.grid == h.grid && x.index < h.index)
  { f with placement := f.placement.takeWhile ahead ++ h :: f.placement.dropWhile ahead }
/-- The lowest-numbered cluster with enough free cores. -/
def Fab.clusterFor (ctl : Ctl) (f : Fab) (n : Nat) : Option Nat :=
  (List.range 48).find? (fun cl => n + f.promised cl ≤ (f.freeCores ctl cl).length)
/-- Whether the teams of a hitch that have started fit the register file of a core: one whose readmission needs more can never be placed
(R105). -/
def Grid.placeable (g : Grid) (h : Nat) : Bool :=
  g.saved.all (fun t => t.1 / g.hitch != h || t.2.exited || decide (t.2.needs ≤ regFile))
/-- The earliest eligible hitch that is over or fits on a cluster: an entry is eligible where no earlier one is of its grid. -/
def Fab.hitchFor (ctl : Ctl) (f : Fab) : List Nat → List Hitch → Option (Hitch × Grid × Option Nat)
  | _, [] => none
  | seen, h :: hs =>
    if seen.contains h.grid then f.hitchFor ctl seen hs
    else match f.grid? h.grid with
      | none => f.hitchFor ctl seen hs
      | some g =>
        if g.hitchOver h.index then some (h, g, none)
        else match if g.placeable h.index then f.clusterFor ctl g.hitch else none with
          | some cl => some (h, g, some cl)
          | none => f.hitchFor ctl (h.grid :: seen) hs
/-- Takes a hitch off the placement queue, leaving the later hitches that its entry stands for. -/
def hitchTaken (h : Hitch) (last : Nat) : List Hitch → List Hitch
  | [] => []
  | x :: t => if x = h then (if h.more ∧ h.index < last then { h with index := h.index + 1 } :: t else t) else x :: hitchTaken h last t
/-- HITCH_PLACE: a hitch whose cluster's link has no permit waits (R98). -/
def Fab.hitchPlace (ctl : Ctl) (f : Fab) : Fab :=
  match f.hitchFor ctl [] f.placement with
  | none => f
  | some (h, g, cl) =>
    let g' : Fab := { f with placement := hitchTaken h (g.nteams / g.hitch - 1) f.placement }
    match cl with
    | none => g'
    | some cl =>
      if !f.downFree cl then f
      else g'.sendDown cl ⟨0x01, 0, g.ctx, g.seq, g.id, h.index * g.hitch, g.hitch, g.image, 0, false⟩

/-- A replica of an incumbent at a cluster or die (R117): one not written yet holds the value at CREATE. -/
def Fab.replica (f : Fab) (at_ ctx i : Nat) : DWord :=
  match (Table.get? f.replicas at_).bind (fun t => Table.get? t (16 * ctx + i)) with
  | some v => v
  | none => match f.ctx? ctx with | some x => x.incInit.getD i 0 | none => 0
/-- A core's replicas of a context's incumbents are loaded from its die's, where they do not hold better values already (R116,
R119). -/
def Fab.loadReplicas (f : Fab) (c ctx : Nat) : Fab :=
  match f.ctx? ctx with
  | none => f
  | some x => (List.range 16).foldl (fun f i => f.setCoreInc c ctx i (x.better i (f.coreInc c ctx i) (f.replica (48 + c / 48) ctx i))) f
/-- A core's copy of a context's slice map stands from its first placement on (R187). -/
def Fab.loadMap (ctl : Ctl) (f : Fab) (c ctx : Nat) : Fab :=
  let k := f.core c
  f.setCore c { k with maps := Table.set k.maps ctx (f.mapOf ctl c ctx) }

/-- A team as it starts under R92. -/
def Grid.freshTeam (g : Grid) (index : Nat) (mates : List Nat) : Team :=
  let bound := if g.bounded then some (g.bound0, g.incidx) else none
  let lanes := List.replicate g.w (Lane.launch g.entry g.args bound)
  Team.launch g.id g.ctx index (index / g.hitch) (index % g.hitch) mates g.scratch
    ((List.range (g.gprod + g.gcons)).map (fun s =>
      Group.launch s (decide (g.gprod ≤ s)) (if g.gprod ≤ s then g.rcons else g.rprod) lanes))
/-- A team that has started before restarts at its lanes' region heads (R93, R110); `e` numbers the restart. -/
def Team.again (t : Team) (mates : List Nat) (e : Nat) : Team :=
  { t with
    mates := mates
    started := true
    groups := t.groups.map (fun g => { g with lanes := g.lanes.map (fun x => if x.status = .live then { x with epoch := some e } else x) }) }
/-- The `tnext` at which an idle lane waits, and its queue: its region head, where that is one, else the `tnext` it last retired (R125). -/
def Lane.idleAt (x : Lane) : Option (Addr × Nat) :=
  match x.ck.idle with | some q => some (x.ck.head, q) | none => x.lastTnext
/-- The lanes of a core that are idle wait for the next record of their queue (R125). -/
def Fab.idleLanes (ctl : Ctl) (f : Fab) (c : Nat) : Fab :=
  match (f.core c).team with
  | none => f
  | some t => (t.groups.mapIdx (fun s g => (s, g))).foldl (fun f p =>
      (List.range p.2.lanes.length).foldl (fun f l =>
        match f.lane? c p.1 l with
        | some x => (match x.idleAt with
          | some (a, q) => if x.status = .live ∧ x.idle ∧ x.park.isNone then f.goIdle ctl c p.1 l a q else f
          | none => f)
        | none => f) f) f
/-- Places the teams of a hitch on the listed cores (R101, R110). A grid that was stopped has been placed again, but for one whose PREEMPT
has not completed (R46). -/
def Fab.placeHitch (ctl : Ctl) (f : Fab) (g : Grid) (first : Nat) (cores : List Nat) : Fab :=
  let f := f.modGrid g.id (fun x => { x with saved := x.saved.filter (fun t => !(first ≤ t.1 && t.1 < first + g.hitch)) })
  let f := { f with grids := f.grids.map (fun x => if x.ctx == g.ctx && x.firstQueue == g.firstQueue && x.firstSeq == g.firstSeq && x.preempt.isNone then { x with preempted := false } else x) }
  let f := (cores.mapIdx (fun j c => (j, c))).foldl (fun (f : Fab) p =>
    let e := f.epoch
    let t := match g.saved.find? (fun t => t.1 == first + p.1) with
      | some (_, t) => t.again cores e
      | none => g.freshTeam (first + p.1) cores
    let k := f.core p.2
    (({ f.setCore p.2 { k with team := some t, regQueue := [], copies := [], mxq := [] } with epoch := e + 1 } : Fab).loadReplicas p.2 g.ctx).loadMap ctl p.2 g.ctx) f
  let f := f.unparkAll ctl
  let f := cores.foldl (fun f c => (f.cancelCore ctl c).idleLanes ctl c) f
  cores.foldl (fun f c => f.reportEnd c) f
/-- A leaf controller that holds a permit places a hitch; one that a retirement leaves without free cores goes back to the
placement queue (R101, R111, log 56). -/
def Fab.placeNow (ctl : Ctl) (f : Fab) (cl : Nat) (m : LanyardMsg) : Fab :=
  match f.grid? m.grid with
  | none => f
  | some g =>
    let cores := (f.freeCores ctl cl).take g.hitch
    if g.ended then f
    else if cores.length < g.hitch ∨ !g.placeable (m.team / g.hitch) then (if g.preempt.isSome then f else f.enterHitch ⟨g.id, m.team / g.hitch, false⟩)
    else (f.placeHitch ctl g m.team cores).sendUp cl
      ⟨0x02, 0, g.ctx, g.seq, g.id, m.team, 0, 0, BitVec.ofNat 8 (cores.foldl (fun a c => a + 2 ^ (c % 8)) 0), false⟩

/-! ## The end of hitches (R102) -/

/-- LANYARD_TEAMEND: the cores of the hitch become free, and the grid ends with its last team. -/
def Fab.lanyardTeamend (ctl : Ctl) (f : Fab) (cl : Nat) : Fab :=
  match f.headUp cl 0x03 with
  | none => f
  | some m =>
    let f := f.tookUp cl m
    let mine := f.cores.filter (fun k => match k.2.team with | some t => t.grid == m.grid && t.index - t.j == m.team | none => false)
    let teams := mine.filterMap (fun k => k.2.team)
    let f := mine.foldl (fun f k => f.freeCore k.1) f
    let f := f.modGrid m.grid (fun g => { g.answered cl with
      exitedTeams := g.exitedTeams + teams.length
      saved := teams.foldl (fun l t => insertTeam (t.index, { t with mates := [], started := false }) l) g.saved })
    match f.grid? m.grid with
    | none => f
    | some g => if g.ended then f else if g.nteams ≤ g.exitedTeams then f.gridEnd ctl g.id else f.preemptFinish ctl g.id

/-! ## Pre-emption (R108) -/

/-- A lane as pre-emption keeps it: its region head, priority, bound and checkpoint. -/
def Lane.stopped (x : Lane) (e : Nat) : Lane :=
  if x.status != .live then x
  else
    let idle := x.idle || (match x.park with | some (.tnext ..) => true | _ => false)
    { x with
      idle := idle
      park := none
      parkNext := 0
      pc := x.ck.head
      prio := x.ck.prio
      regs := x.ck.table
      epoch := some e
      bound := if idle then none else x.bound
      window := none
      enrolled := x.ck.enrolled
      arrived := x.ck.arrived }
/-- Discards a stopped group's registers and counters (step 4): parked lanes withdraw and hold no record; an `irq` that
waits posts nothing (R78); a register request leaves its queue. -/
def Fab.discardGroup (ctl : Ctl) (f : Fab) (c s : Nat) : Fab :=
  match (f.core c).team, f.group? c s with
  | some t, some g =>
    let f := g.numbered.foldl (fun f p => match p.2.park with
      | some (.tnext _ d) => f.waiterDrop ctl t.ctx d c s p.1
      | some (.qdeq d ..) => f.waiterDrop ctl t.ctx d c s p.1
      | _ => f) f
    let e := f.epoch
    let k := f.core c
    let f := f.setCore c { k with regQueue := k.regQueue.filter (fun q => q.slot != s) }
    let f := { f with
      epoch := e + 1
      posts := f.posts.filter (fun p => match p.irq with | some (_, _, pc, ps) => !(pc == c && ps == s) | none => true) }
    let launch := match f.grid? t.grid with | some x => x.launchRegs g.consumer | none => g.r
    f.modGroup c s (fun g =>
      let ls := g.lanes.map (fun x => x.stopped e)
      { Group.launch g.slot g.consumer (rresume launch ls) ls with gcw := g.gcw, nextSeq := g.nextSeq, countFrom := g.nextSeq })
  | _, _ => f

/-- Whether the groups of a core's hitch have all stopped or ended, and one has stopped: a hitch that has exited is saved no more, and
answers by TEAMEND (R102). -/
def Fab.hitchStopped (f : Fab) (t : Team) : Bool :=
  let teams := t.mates.filterMap (fun m => (f.core m).team.map (fun x => (m, x)))
  teams.all (fun x => x.2.exited || x.2.groups.all (fun g => g.stopped || (g.ended && (f.core x.1).drained g))) &&
    teams.any (fun x => x.2.groups.any (fun g => g.stopped && !g.ended))
/-- Saves the teams of a stopped hitch, reports them and frees their cores (steps 5 and 6), once a permit is free; a hitch is saved
whole. -/
def Fab.saveHitch (f : Fab) (c : Nat) : Fab :=
  match (f.core c).team with
  | none => f
  | some t =>
    if !f.hitchStopped t ∨ !f.upFree (c / 8) then f
    else
      let keep (x : Team) : Team := { x with
        mates := []
        started := false
        shared := x.shared.map (fun r => ⟨r.last, []⟩)
        groups := x.groups.map (fun g => { g with stopped := false, stop := none }) }
      let f := t.mates.foldl (fun (f : Fab) m => match (f.core m).team with
        | some x => (f.modGrid t.grid (fun g => { g with saved := insertTeam (x.index, keep x) g.saved })).freeCore m
        | none => f) f
      f.sendUp (c / 8) ⟨0x05, 0, t.ctx, f.gridSeq t.grid, t.grid, t.index - t.j, 0, 0, 0, false⟩

/-- Whether a record of a group is still to be written to the ring, where a slot is free (R176): a page that faults with every fault slot of its
die busy has stopped it. -/
def Group.ringOwed (g : Group) : Bool := g.undel.any Undel.isHeld && decide ((g.undel.filter Undel.inRing).length < 64)
/-- The completion that a group stopping for pre-emption delivers next (step 3, R346): the oldest record of the ring, of whatever batch, or
negative completion where TRNG is set. -/
def Group.undelivered (g : Group) : Option Undel :=
  (g.undel.filter (fun u => match u with | .record .. => true | .held .. => false | .neg .. => g.gcw.getLsbD 4)).foldl (fun b u => match b with
    | none => some u
    | some v => if u.seq < v.seq then some u else some v) none
/-- Whether a group has stopped at a boundary with its engine operations complete and its stores drained (steps 1 and 2). -/
def Fab.quiet (f : Fab) (c : Nat) (g : Group) : Bool :=
  g.atBoundary && g.pendTrap.isNone && g.malformed == 0 && !f.entryWaits c g.slot && g.storeQ.isEmpty && g.rem.all RemOp.finished &&
    !((f.core c).copies.any (fun o => o.slot == g.slot)) && !((f.core c).mxq.any (fun o => o.slot == g.slot))
/-- The frontier entry that would issue next at a stop boundary, and its PC (step 3): none of a group parked in `grow` or `irq`; lanes
that sleep stand at their `sleep`, which has not retired, and those of a `wait` that holds the group at it. -/
def Group.frontier (g : Group) : Option (List Nat × Addr) :=
  match g.hold with
  | some (.grow ..) => none
  | some (.irq ..) => none
  | some (.wait entry pc _) => (match (List.range g.lanes.length).filter (inMask entry) with | [] => none | ls => some (ls, pc))
  | _ => match g.entry with
    | [] => none
    | l :: ls => (g.lanes[l]?).map (fun x => (l :: ls, x.pc))
/-- A sleeping group stands at its `sleep` again. -/
def Group.roused (g : Group) : Group :=
  match g.hold with
  | some (.sleep entry pc _) => { g with hold := none, lanes := g.lanes.mapIdx (fun l x => if inMask entry l ∧ x.status = .live then { x with pc := pc } else x) }
  | _ => g
/-- Every undelivered record of a group with an empty frontier goes to the fault queue; negative completions are dropped
(step 3). -/
def Fab.postUndelivered (ctl : Ctl) (f : Fab) (c s : Nat) : Fab :=
  match (f.core c).team, f.group? c s with
  | some t, some g =>
    let f := g.undel.foldl (fun f u => match u with
      | .record _ _ _ _ _ r => f.postEng ctl ⟨t.ctx, c, s, r⟩
      | .held _ _ _ _ r => f.postEng ctl ⟨t.ctx, c, s, r⟩
      | .neg .. => f) f
    f.modGroup c s (fun g => { g with undel := [] })
  | _, _ => f
/-- GROUP_STOP: steps 1 to 4 of R108 for a group that is to stop, then the save of its hitch, or the readmission of a group that
the register queue has pre-empted (R106). -/
def Fab.groupStop (ctl : Ctl) (f : Fab) (c s : Nat) : Fab :=
  match (f.core c).team, f.group? c s with
  | some _, some g =>
    if g.stopped || g.ended then f.saveHitch c
    else match g.stop with
      | none => f
      | some why =>
        if !f.quiet c g ∨ (g.ringOwed ∧ g.roused.frontier.isSome) then f
        else match g.undelivered, g.roused.frontier with
          | some u, some (ls, pc) =>
            ((f.modGroup c s (fun g => { g.roused with undel := g.undel.erase u, hold := none })).takeTrap ctl c s (u.trap.pend ls pc)).flushHeld ctl c s
          | _, _ =>
            let f := (f.postUndelivered ctl c s).discardGroup ctl c s
            match why with
            | .preempt => (f.modGroup c s (fun g => { g with stopped := true })).saveHitch c
            | .registers =>
              let f := f.modGroup c s (fun g => { g with awaiting := true })
              let k := f.core c
              let n := match f.group? c s with | some g => g.r * g.lanes.length | none => 0
              (f.setCore c { k with regQueue := insertReq ⟨s, n, true⟩ k.regQueue }).registerDeadlock c
  | _, _ => f

/-- Asks the live groups of a core's team to stop. -/
def Fab.askStop (f : Fab) (c : Nat) : Fab :=
  f.modTeam c (fun t => { t with groups := t.groups.map (fun g => if g.ended then g else { g with stop := some .preempt }) })
/-- The cores of a cluster whose hitches a message pre-empts: hitches that have exited answer by TEAMEND. -/
def Fab.toPreempt (f : Fab) (cl : Nat) (mine : Team → Bool) : List Nat :=
  ((List.range 8).map (8 * cl + ·)).filter (fun c => match (f.core c).team with
    | some t => mine t && !(t.mates.all (fun m => match (f.core m).team with | some x => x.exited | none => true))
    | none => false)
/-- A PREEMPT or RETIRE asks the resident hitches to stop; a cluster without one answers a PREEMPT at once. -/
def Fab.preemptNow (f : Fab) (cl : Nat) (m : LanyardMsg) : Fab :=
  let cs := f.toPreempt cl (fun t => m.clusterScope || t.grid == m.grid)
  if cs.isEmpty then (if m.type = 0x04 then f.sendUp cl ⟨0x05, 0, m.ctx, m.seq, m.grid, 0, 0, 0, 0, false⟩ else f)
  else cs.foldl (fun f c => f.askStop c) f
/-- What a leaf controller does with a PLACE, PREEMPT or RETIRE that it has consumed. -/
def Fab.leafDo (ctl : Ctl) (f : Fab) (cl : Nat) (m : LanyardMsg) : Fab := if m.type = 0x01 then f.placeNow ctl cl m else f.preemptNow cl m
/-- A leaf controller consumes a message from Uzoman. Without a permit for what it may have to answer it holds the message, and what
follows behind it (R66, R98); a RETIRE is answered by nothing. -/
def Fab.leafTake (ctl : Ctl) (f : Fab) (cl type : Nat) : Fab :=
  match f.headDown cl type with
  | none => f
  | some m =>
    let f := f.tookDown cl m
    let held := match f.links[cl]? with | some k => !k.held.isEmpty | none => false
    if m.type ≠ 0x06 ∧ (held || !f.upFree cl) then { f with links := modAt f.links cl (fun k => { k with held := k.held ++ [m] }) }
    else f.leafDo ctl cl m
/-- A leaf controller goes on with the messages that it holds, as far as its permits reach. -/
def Fab.leafGo (ctl : Ctl) (f : Fab) (cl : Nat) : Fab :=
  match f.links[cl]? with
  | none => f
  | some k => k.held.foldl (fun f m =>
      if !f.upFree cl then f
      else ({ f with links := modAt f.links cl (fun k => { k with held := k.held.drop 1 }) } : Fab).leafDo ctl cl m) f
/-- What the leaf controllers do in every step: messages they hold, and hitches that have stopped and wait for a permit. -/
def Fab.leavesGo (ctl : Ctl) (f : Fab) : Fab :=
  let f := (List.range f.links.length).foldl (fun f cl => f.leafGo ctl cl) f
  (f.cores.map (·.1)).foldl (fun f c => f.saveHitch c) f
/-- LANYARD_SAVED: it answers a PREEMPT, or its hitch comes from a cluster being retired and goes back to the placement queue, ahead of
every hitch of its grid that has not been placed (R109, R111). -/
def Fab.lanyardSaved (ctl : Ctl) (f : Fab) (cl : Nat) : Fab :=
  match f.headUp cl 0x05 with
  | none => f
  | some m =>
    let f := f.tookUp cl m
    match f.grid? m.grid with
    | none => f
    | some g =>
      if g.ended then f
      else if g.preempt.isSome then (f.modGrid g.id (fun x => x.answered cl)).preemptFinish ctl g.id
      else f.enterHitch ⟨g.id, m.team / g.hitch, false⟩

/-! ## The register queue (R103, R105, R106) -/

/-- REGISTER_GRANT: the head of the queue is granted once the free registers cover it, else the rule of R106 applies. -/
def Fab.registerGrant (ctl : Ctl) (f : Fab) (c : Nat) : Fab :=
  match (f.core c).regQueue with
  | [] => f
  | q :: qs =>
    if f.freeRegs c < q.regs then f.registerDeadlock c
    else
      let k := f.core c
      let f := f.setCore c { k with regQueue := qs }
      let f := if q.readmit then
          let e := f.epoch
          let f := { f with epoch := e + 1 }
          let f := f.modGroup c q.slot (fun g => { g with
            awaiting := false
            stop := if g.stop = some .registers then none else g.stop
            lanes := g.lanes.map (fun x => if x.status = .live then { x with epoch := some e } else x) })
          (f.cancelCore ctl c).idleLanes ctl c
        else f.modGroup c q.slot (fun g => match g.hold with
          | some (.grow _ active _ r) =>
            let g := { g.setRegs r with hold := none }
            { g with lanes := g.lanes.mapIdx (fun i l => if l.status = .live ∧ !l.idle ∧ inMask active i ∧ g.trap.isNone then l.openWindow else l) }
          | _ => g)
      f.registerDeadlock c

/-! ## Meanings -/

/-- HITCH_PLACE (R100). -/
def execHitchPlace (s : State) : Out := .next (if s.ctl.uzRuns then { s with fab := s.fab.hitchPlace s.ctl } else s)
/-- LANYARD_PLACE (R101). -/
def execLanyardPlace (cl : Nat) (s : State) : Out := .next { s with fab := s.fab.leafTake s.ctl cl 0x01 }
/-- LANYARD_PLACED (R98). -/
def execLanyardPlaced (cl : Nat) (s : State) : Out :=
  .next (match s.fab.headUp cl 0x02 with | some m => if s.ctl.uzRuns then { s with fab := s.fab.tookUp cl m } else s | none => s)
/-- LANYARD_TEAMEND (R102). -/
def execLanyardTeamend (cl : Nat) (s : State) : Out := .next (if s.ctl.uzRuns then { s with fab := s.fab.lanyardTeamend s.ctl cl } else s)
/-- LANYARD_PREEMPT (R108). -/
def execLanyardPreempt (cl : Nat) (s : State) : Out := .next { s with fab := s.fab.leafTake s.ctl cl 0x04 }
/-- LANYARD_SAVED (R109). -/
def execLanyardSaved (cl : Nat) (s : State) : Out := .next (if s.ctl.uzRuns then { s with fab := s.fab.lanyardSaved s.ctl cl } else s)
/-- LANYARD_RETIRE (R111). -/
def execLanyardRetire (cl : Nat) (s : State) : Out := .next { s with fab := s.fab.leafTake s.ctl cl 0x06 }
/-- LANYARD_PERMIT (R98). -/
def execLanyardPermit (cl : Nat) (up : Bool) (s : State) : Out :=
  .next (if up then (match s.fab.headUp cl 0x07 with | some m => if s.ctl.uzRuns then { s with fab := s.fab.tookUp cl m } else s | none => s)
    else (match s.fab.headDown cl 0x07 with | some m => { s with fab := s.fab.tookDown cl m } | none => s))
/-- PERMIT_RETURN_TIMEOUT (R98): permits owed for 1 µs return in a PERMIT message; `up` from the cluster to Uzoman. -/
def execPermitReturnTimeout (cl : Nat) (up : Bool) (s : State) : Out :=
  let now := s.fab.time.toNat
  let msg (n : Nat) : LanyardMsg := ⟨0x07, n, 0, 0, 0, 0, 0, 0, 0, false⟩
  let go (k : Lanyard) : Lanyard :=
    if up then (if k.owedUp ≠ 0 ∧ k.owedUpAt + 1000 ≤ now then { k with up := k.up ++ [msg k.owedUp], owedUp := 0 } else k)
    else if k.owedDown ≠ 0 ∧ k.owedDownAt + 1000 ≤ now ∧ s.ctl.uzRuns then { k with down := k.down ++ [msg k.owedDown], owedDown := 0 } else k
  .next { s with fab := { s.fab with links := modAt s.fab.links cl go } }
/-- Whether a TYPE is one of Table 5.2. -/
def knownType (t : Byte) : Bool := 1 ≤ t.toNat && t.toNat ≤ 7
/-- LANYARD_LINK_ERROR (R98): a message of an unknown TYPE is discarded and counted, and its permit is returned. -/
def execLanyardLinkError (cl : Nat) (up : Bool) (s : State) : Out :=
  .next (match (s.fab.links[cl]?).bind (fun k => if up then k.up.head? else k.down.head?) with
    | none => s
    | some m =>
      if knownType m.type then s
      else
        let f := s.fab.count 0x760
        { s with fab := if up then f.tookUp cl m else f.tookDown cl m })
/-- GROUP_STOP (R108). -/
def execGroupStop (core slot : Nat) (s : State) : Out := .next { s with fab := s.fab.groupStop s.ctl core slot }
/-- REGISTER_GRANT (R103). -/
def execRegisterGrant (core : Nat) (s : State) : Out := .next { s with fab := s.fab.registerGrant s.ctl core }
/-- SLEEP_WAKE (R97). -/
def execSleepWake (core slot : Nat) (s : State) : Out :=
  .next { s with fab := s.fab.modGroup core slot (fun g => match g.hold with
    | some (.sleep _ _ target) => if target ≤ s.fab.time.toNat then { g with hold := none } else g
    | _ => g) }
/-- Bits [63:0] of the malformed record that the trap reports: that of the lane handed one first, of those that still hold theirs (R129,
log 72). -/
def Group.malformedWord (g : Group) : DWord := match g.malformedWords with | w :: _ => w.2 | [] => 0
/-- MALFORMED_TASK_TRAP (R129): at the group's next instruction boundary, for the lanes handed malformed records. -/
def execMalformedTaskTrap (core slot : Nat) (s : State) : Out :=
  .next (match s.fab.group? core slot with
    | none => s
    | some g =>
      if g.malformed = 0 ∨ g.pendTrap.isSome ∨ !g.atIssue then s
      else
        let pc := match (g.numbered.filter (fun p => inMask g.malformed p.1)).head? with | some p => p.2.pc | none => 0
        let f := s.fab.modGroup core slot (fun g => { g with malformed := 0, malformedWords := [] })
        { s with fab := f.takeTrap s.ctl core slot ⟨0x02, 1, g.malformed, g.malformed, g.malformedWord, 0, pc⟩ })
/-- SYSCALL_REQUEST_POST (R94): requests that found the queue full are posted as room frees, with a further interrupt. -/
def execSyscallRequestPost (core slot : Nat) (s : State) : Out :=
  .next (match (s.fab.core core).team.bind (fun t => s.fab.ctx? t.ctx), s.fab.group? core slot with
    | some x, some g =>
      let (_, any, f) := s.fab.postRequests s.ctl core slot x.sysQ x.id (List.range g.lanes.length)
      { s with fab := if any then f.msi x.sysHart x.sysId else f }
    | _, _ => s)

/-! ## Incumbents (R117-R119) -/

/-- A replica of a cluster or die takes a value that improves it. -/
def Fab.offerReplica (f : Fab) (at_ ctx i : Nat) (v : DWord) : Fab :=
  match f.ctx? ctx with
  | none => f
  | some x =>
    if x.improves i v (f.replica at_ ctx i) then
      { f with replicas := Table.set f.replicas at_ (Table.set (Table.getD f.replicas at_ []) (16 * ctx + i) v) }
    else f
/-- A stage of Table 6.2 from the replica numbered `k` of its source kind. -/
def Fab.propagate (ctl : Ctl) (f : Fab) (ctx i stage k : Nat) : Fab :=
  match stage with
  | 2 => if k < 384 then f.offerReplica (k / 8) ctx i (f.coreInc k ctx i) else f
  | 3 => if k < 48 then f.offerReplica (48 + k / 6) ctx i (f.replica k ctx i) else f
  | 4 => if k < 8 then
      let v := f.replica (48 + k) ctx i
      ((List.range 8).foldl (fun f d => if d = k then f else f.offerReplica (48 + d) ctx i v) f).offerModule ctx i v
    else f
  | 5 => if k < 8 then (List.range 6).foldl (fun f j => f.offerReplica (6 * k + j) ctx i (f.replica (48 + k) ctx i)) f else f
  | 6 => if k < 48 then (List.range 8).foldl (fun f j => f.offer ctl (8 * k + j) ctx i (f.replica k ctx i)) f else f
  | 7 => (match f.ctx? ctx with
    | some x => (List.range 8).foldl (fun f d => f.offerReplica (48 + d) ctx i (x.incMod.getD i 0)) f
    | none => f)
  | _ => f
/-- INCUMBENT_PROPAGATE (R117). -/
def execIncumbentPropagate (ctx inc stage idx : Nat) (s : State) : Out := .next { s with fab := if inc < 16 then s.fab.propagate s.ctl ctx inc stage idx else s.fab }

end Sys2Proof.Machine
end

