-- ==== Sys2Proof/Machine/Halyard.lean ====
section
/-!
DEFINITION. Halyard ports and the module switch (02_halyard R26-R32, R34, R42; 21_program_multicast R367): flits, replay,
retrains, forwarding, and the packets that leave.
-/
namespace Sys2Proof.Machine

/-! ## Packets as bytes (Table 2.3) -/

/-- The 32 bytes of a transport header. -/
def headerBytes (p : Packet) : List Byte :=
  leBytes 8 (p.dst.toNat + p.src.toNat * 2 ^ 12 + p.hops.toNat * 2 ^ 24 + p.flow.toNat * 2 ^ 28 + (if p.ord then 2 ^ 31 else 0) + p.seq.toNat * 2 ^ 32) ++
    leBytes 8 (p.op.toNat + p.handle.toNat * 2 ^ 8 + p.midx.toNat * 2 ^ 28 + p.len.toNat * 2 ^ 40 + p.sctx.toNat * 2 ^ 49 + p.z1.toNat * 2 ^ 61) ++
    leBytes 8 (p.va.toNat + p.z2.toNat * 2 ^ 48) ++ leBytes 8 p.aux.toNat
/-- Whether a packet of an operation and LEN carries data; an acknowledge does where it carries the 32 bytes of a partial completion
record (R44). -/
def opHasData (op len : Nat) : Bool := op == 1 || op == 2 || op == 4 || op == 5 || op == 7 || op == 8 || (op == 10 && len == 31)
/-- Reads a packet from its bytes. -/
def parsePacket (b : List Byte) : Packet :=
  let w0 := fieldAt b 0 8
  let w1 := fieldAt b 8 8
  let w2 := fieldAt b 16 8
  let len := bitsOf w1 48 40
  ⟨BitVec.ofNat 12 (bitsOf w0 11 0), BitVec.ofNat 12 (bitsOf w0 23 12), BitVec.ofNat 4 (bitsOf w0 27 24), BitVec.ofNat 3 (bitsOf w0 30 28), bitAt w0 31,
   BitVec.ofNat 32 (bitsOf w0 63 32), BitVec.ofNat 8 (bitsOf w1 7 0), BitVec.ofNat 20 (bitsOf w1 27 8), BitVec.ofNat 12 (bitsOf w1 39 28),
   BitVec.ofNat 9 len, BitVec.ofNat 12 (bitsOf w1 60 49), BitVec.ofNat 3 (bitsOf w1 63 61), BitVec.ofNat 48 (bitsOf w2 47 0), BitVec.ofNat 16 (bitsOf w2 63 48),
   BitVec.ofNat 64 (fieldAt b 24 8), if opHasData (bitsOf w1 7 0) len then sliceBytes b 32 (len + 1) else []⟩
/-- Whether a packet has an assigned OP and zeros in its zero fields (R32). -/
def packetOk (p : Packet) : Bool :=
  1 ≤ p.op.toNat && p.op.toNat ≤ 11 && p.z1 == 0 && p.z2 == 0 && (p.op != 7 || bitsOf p.aux.toNat 62 48 == 0) && (p.op != 9 || p.sctx == 0)
/-- Virtual channel of a packet (R31). -/
def packetVc (p : Packet) : BitVec 4 :=
  match p.op.toNat with | 4 => 1 | 10 => 1 | 11 => 1 | 7 => 2 | 9 => 3 | _ => 0

/-! ## Flits (Table 2.2) -/

/-- One byte of CRC-32C, whose polynomial the name stands for (log 46). -/
def crcByte (c : Word) (b : Byte) : Word :=
  (List.range 8).foldl (fun c _ => if c.getLsbD 0 then (c >>> 1) ^^^ 0x82F63B78#32 else c >>> 1) (c ^^^ b.zeroExtend 32)
/-- CRC-32C of bytes. -/
def crc32c (b : List Byte) : Word := ~~~ (b.foldl crcByte 0xFFFFFFFF#32)
/-- Bytes 0 to 59 of a flit. -/
def flitBytes (f : Flit) : List Byte :=
  leBytes 4 (f.kind.toNat * 2 ^ 28 + f.vc.toNat * 2 ^ 24 + f.lseq.toNat * 2 ^ 12 + f.lack.toNat) ++ sliceBytes f.payload 0 56
/-- A flit with its CRC. -/
def makeFlit (kind vc : BitVec 4) (lseq lack : BitVec 12) (payload : List Byte) : Flit :=
  let f : Flit := ⟨kind, vc, lseq, lack, sliceBytes payload 0 56, 0⟩
  { f with crc := crc32c (flitBytes f) }
/-- The payloads of a packet, 56 bytes each. -/
def payloads : Nat → List Byte → List (List Byte)
  | 0, _ => []
  | fuel + 1, b => b.take 56 :: (if b.length ≤ 56 then [] else payloads fuel (b.drop 56))
/-- KIND of payload `k` of `n`. -/
def kindOf (k n : Nat) : BitVec 4 := if n = 1 then 4 else if k = 0 then 1 else if k + 1 = n then 3 else 2
/-- Puts a packet on a port: its flits enter the replay buffer and the wire. `came` is the port by which it arrived. -/
def Port.push (p : Port) (k : Packet) (came : Option Nat) : Port :=
  let ps := payloads 8 (headerBytes k ++ k.data)
  (ps.mapIdx (fun i b => (i, b))).foldl (fun (p : Port) (x : Nat × List Byte) =>
    let f := makeFlit (kindOf x.1 ps.length) (packetVc k) p.txSeq (p.rxSeq - 1) x.2
    { p with txSeq := p.txSeq + 1, sent := p.sent ++ [⟨f, 0, came⟩], wire := p.wire ++ [f], spent := modAt p.spent (packetVc k).toNat (· + 1) }) p
/-- Credits of a virtual channel (R31, log 68). -/
def vcCredits : Nat := 512
/-- Whether a port can take a packet now: up, with room in its replay buffer of 512 flits (R30), and with credits on the packet's
virtual channel for all its flits (R31). -/
def Port.takes (p : Port) (k : Packet) : Bool :=
  let n := (payloads 8 (headerBytes k ++ k.data)).length
  p.state == 2 && !p.disable && p.sent.length + n ≤ 512 && p.spent.getD (packetVc k).toNat 0 + n ≤ vcCredits

/-! ## The switch (R27, R34) -/

/-- Changes a port. -/
def State.modPort (s : State) (p : Nat) (h : Port → Port) : State := { s with ctl := { s.ctl with ports := modAt s.ctl.ports p h } }
/-- A port of a module that runs: while every output is in reset, no port does anything (R21). -/
def State.port? (s : State) (p : Nat) : Option Port := if s.ctl.runs then s.ctl.ports[p]? else none
/-- The least-occupied port of a list that can take a packet; the lowest number among equals (log 6). -/
def State.bestPort (s : State) (ps : List Nat) (k : Packet) : Option Nat :=
  ps.foldl (fun b p => match s.port? p with
    | none => b
    | some x => if !x.takes k then b else match b.bind (fun q => s.port? q) with
      | none => some p
      | some y => if x.sent.length < y.sent.length then some p else b) none
/-- Sends a packet by one of the listed ports; none where it has to wait. -/
def State.sendBy (s : State) (ps : List Nat) (k : Packet) (came : Option Nat) : Option State :=
  (s.bestPort ps k).map (fun p => s.modPort p (fun x => x.push k came))
/-- Moves the packets that the switch holds: to this device by loopback, else by a port with HOPS decremented (R34), and not by the one on
which it arrived; a packet without a port is not sent (R27). -/
def State.flushOutbox (s : State) : State :=
  s.fab.outbox.foldl (fun s x =>
    let keep : State := { s with fab := { s.fab with outbox := s.fab.outbox ++ [x] } }
    let k : Packet := { x.pk with hops := x.pk.hops - 1 }
    match x.only with
    | some p => (s.sendBy [s.ctl.planePort p k] k x.came).getD keep
    | none =>
      if s.ctl.mine x.pk then { s with fab := { s.fab with arrived := s.fab.arrived ++ [(18, x.pk)] } }
      else match (s.ctl.mask x.pk.dst).filter (fun q => x.came != some q) with
        | [] => s
        | ps => (s.sendBy ps k x.came).getD keep) { s with fab := { s.fab with outbox := [] } }

/-! ## Ports (R26, R28, R30) -/

/-- Adds to a counter of a port in the lifetime record (Table 3.7). -/
def Fab.countPort (f : Fab) (p off n : Nat) : Fab := { f with life := f.life.add (0x200 + 32 * p + off) n }
/-- Packets whose every flit is in a replay buffer, with the ports by which they arrived; `cur` collects the packet of each virtual
channel. -/
def wholePackets : Table (List Byte) → List SentFlit → List (Option Nat × Packet)
  | _, [] => []
  | cur, ⟨f, _, came⟩ :: fs =>
    let vc := f.vc.toNat
    match f.kind.toNat with
    | 4 => (came, parsePacket f.payload) :: wholePackets cur fs
    | 1 => wholePackets (Table.set cur vc f.payload) fs
    | 2 => wholePackets (match Table.get? cur vc with | some b => Table.set cur vc (b ++ f.payload) | none => cur) fs
    | 3 => (match Table.get? cur vc with | some b => [(came, parsePacket (b ++ f.payload))] | none => []) ++ wholePackets (Table.erase cur vc) fs
    | _ => wholePackets cur fs
/-- The port that a packet keeps to: that of the sent copy it is, if any. -/
def Fab.planeOf (f : Fab) (k : Packet) : Option Nat :=
  (f.sent.find? (fun x => sameFlow x.pk k && x.pk.src == k.src && x.pk.seq == k.seq)).bind (·.port)
/-- A port goes down with an empty replay buffer and fresh link sequence numbers, keeping what the register and the switch
reports hold; its whole packets go back to the switch, which still leaves out the port by which each arrived (R27). -/
def State.dropPort (s : State) (p : Nat) (st : Nat) : State :=
  match s.port? p with
  | none => s
  | some x =>
    let ps := wholePackets [] x.sent
    let s := s.modPort p (fun x => { Port.fresh with replays := x.replays, disable := x.disable, groups := x.groups, state := st, wire := x.wire })
    { s with fab := { s.fab with outbox := s.fab.outbox ++ ps.map (fun k => ⟨s.fab.planeOf k.2, k.1, { k.2 with hops := k.2.hops + 1 }⟩) } }
/-- Resends every flit after a link sequence number (R30). -/
def State.replay (s : State) (p : Nat) (named : BitVec 12) : State :=
  match s.port? p with
  | none => s
  | some x =>
    let sent := (x.sent.filter (fun f => !serialLe f.flit.lseq named)).map (fun f => { f with replays := f.replays + 1 })
    let n := sent.length
    let up (r : BitVec 32) : BitVec 32 := if 2 ^ 32 ≤ r.toNat + n then BitVec.allOnes 32 else r + BitVec.ofNat 32 n
    let s := s.modPort p (fun x => { x with sent := sent, wire := x.wire ++ sent.map (·.flit), replays := up x.replays })
    { s with fab := s.fab.countPort p 8 n }
/-- Starts a retrain of a port that is not held down (R28, R30); `bit` sets RETRAIN, whatever the port's state. -/
def State.startRetrain (s : State) (p : Nat) (bit : Bool) : State :=
  match s.port? p with
  | none => s
  | some x =>
    let s := s.modPort p (fun x => { x with retrain := x.retrain || bit })
    if x.state = 3 ∨ x.disable then s
    else
      let s := s.modPort p (fun x => { x with state := 3, sent := x.sent.map (fun f => { f with replays := 0 }) })
      { s with fab := s.fab.countPort p 0 1 }
/-- Lanes with which a port trains (R26). -/
def trainedLanes (good : Nat) : Nat := if 8 ≤ good then 8 else if 4 ≤ good then 4 else 0
/-- PORT_TRAIN: a port that is down starts training, and one that trains comes up or stays down (R26). -/
def State.train (s : State) (p good : Nat) : State :=
  match s.port? p with
  | none => s
  | some x =>
    if x.disable ∨ !(x.state = 0 ∨ x.state = 1) then s
    else if x.state = 0 then s.modPort p (fun x => { x with state := 1 })
    else s.modPort p (fun x => { x with lanes := trainedLanes good, state := if trainedLanes good = 0 then 0 else 2 })
/-- RETRAIN_DONE: the port is up again and resends what its buffer holds, or after three failures it fails. The flits resent are not
replays in the sense of HPSTAT.REPLAYS, which no negative acknowledge has asked for (log 43). -/
def State.retrained (s : State) (p good : Nat) : State :=
  match s.port? p with
  | none => s
  | some x =>
    if x.state ≠ 3 then s
    else if trainedLanes good ≠ 0 then
      s.modPort p (fun x => { x with state := 2, lanes := trainedLanes good, retrain := false, failedRetrains := 0, wire := x.wire ++ x.sent.map (·.flit) })
    else if x.failedRetrains < 2 then s.modPort p (fun x => { x with failedRetrains := x.failedRetrains + 1 })
    else s.dropPort p 4

/-! ## Receiving flits (R29-R32) -/

/-- A negative acknowledge on the wire: it names the last flit received intact. -/
def Port.nak (x : Port) : Port := { x with awaitReplay := true, wire := x.wire ++ [makeFlit 6 0 x.txSeq (x.rxSeq - 1) []] }
/-- Takes a numbered flit in sequence, and returns its credit. -/
def Port.accepts (x : Port) (f : Flit) : Port :=
  { x with rxSeq := x.rxSeq + 1, awaitReplay := false, wire := x.wire ++ [makeFlit 5 (f.vc % 4) x.txSeq x.rxSeq []] }
/-- Frees the flits that the other side has received. -/
def Port.freed (x : Port) (lack : BitVec 12) : Port := { x with sent := x.sent.filter (fun f => !serialLe f.flit.lseq lack) }
/-- A packet has arrived whole on a port: with HOPS at 0 the module switch discards it (R34). -/
def State.packetIn (s : State) (p : Nat) (b : List Byte) : State :=
  let k := parsePacket b
  if k.hops = 0 then s
  else if s.ctl.mine k && !packetOk k then { s with fab := s.fab.countPort p 24 1 }
  else { s with fab := { s.fab with arrived := s.fab.arrived ++ [(p, k)] } }
/-- A numbered flit in sequence is assembled into its packet. -/
def State.assemble (s : State) (p : Nat) (f : Flit) : State :=
  let vc := f.vc.toNat
  let cur := (s.port? p).bind (fun x => Table.get? x.partials vc)
  match f.kind.toNat with
  | 4 => s.packetIn p f.payload
  | 1 => s.modPort p (fun x => { x with partials := Table.set x.partials vc f.payload })
  | 2 => (match cur with | some b => s.modPort p (fun x => { x with partials := Table.set x.partials vc (b ++ f.payload) }) | none => s)
  | _ => (match cur with
    | some b => (s.modPort p (fun x => { x with partials := Table.erase x.partials vc })).packetIn p (b ++ f.payload)
    | none => s)
/-- FLIT_RECEIVE: flits of KIND 1 to 4 are numbered; a bad CRC or a gap discards until the replay arrives. A flit of an unassigned KIND
or VC is discarded and counted (R29, R31), a numbered one with its place in the sequence taken; a KIND 5 flit returns a credit of
its virtual channel. -/
def State.flitIn (s : State) (p : Nat) (f : Flit) : State :=
  match s.port? p with
  | none => s
  | some x =>
    if x.state ≠ 2 then s
    else if crc32c (flitBytes f) ≠ f.crc then s.modPort p Port.nak
    else
      let bad := 7 ≤ f.kind.toNat ∨ 4 ≤ f.vc.toNat
      let s : State := if bad then { s with fab := s.fab.countPort p 16 1 } else s
      match f.kind.toNat with
      | 0 => if bad then s else s.modPort p (fun x => x.freed f.lack)
      | 5 => if bad then s else s.modPort p (fun x => { (x.freed f.lack) with spent := modAt x.spent f.vc.toNat (· - 1) })
      | 6 => if bad then s else (s.modPort p (fun x => x.freed f.lack)).replay p f.lack
      | 1 | 2 | 3 | 4 =>
        let s := if bad then s else s.modPort p (fun x => x.freed f.lack)
        if f.lseq ≠ x.rxSeq then (if x.awaitReplay ∨ serialLt f.lseq x.rxSeq then s else s.modPort p Port.nak)
        else
          let s := s.modPort p (·.accepts f)
          if bad then s else s.assemble p f
      | _ => s

/-! ## Meanings -/

/-- PORT_TRAIN (R26). -/
def execPortTrain (port goodLanes : Nat) (s : State) : Out := .next (s.train port goodLanes)
/-- FLIT_RECEIVE (R30). -/
def execFlitReceive (port : Nat) (f : Flit) (s : State) : Out := .next (s.flitIn port f)
/-- FLIT_NAK (R30). -/
def execFlitNak (port : Nat) (named : BitVec 12) (s : State) : Out :=
  .next (match s.port? port with | some x => if x.state = 2 then s.replay port named else s | none => s)
/-- LINK_RETRAIN (R30): after eight consecutive replays that include one flit. -/
def execLinkRetrain (port : Nat) (s : State) : Out :=
  .next (match s.port? port with | some x => if x.sent.any (fun f => 8 ≤ f.replays) then s.startRetrain port false else s | none => s)
/-- RETRAIN_DONE (R30). -/
def execRetrainDone (port goodLanes : Nat) (s : State) : Out := .next (s.retrained port goodLanes)
/-- PACKET_TRANSIT (R27): HOPS falls by 1, and the packet leaves by another port of its mask or is discarded. -/
def execPacketTransit (k : Nat) (s : State) : Out :=
  match s.fab.arrived[k]? with
  | none => .next s
  | some (p, x) =>
    if s.ctl.mine x then .next s
    else
      let out : State := { s with fab := { s.fab with arrived := s.fab.arrived.eraseIdx k } }
      let ps := (s.ctl.mask x.dst).filter (fun q => q != p)
      if x.hops = 0 ∨ ps.isEmpty then .next out
      else .next ((out.sendBy ps { x with hops := x.hops - 1 } (some p)).getD s)
/-- SWITCH_GROUP_REPORT (R367): the module switch keeps up to 1,024 reported IDs per port. -/
def execSwitchGroupReport (port : Nat) (sgid : BitVec 32) (present : Bool) (s : State) : Out :=
  .next (match s.port? port with
    | none => s
    | some _ => s.modPort port (fun x =>
      if !present then { x with groups := x.groups.filter (fun g => g != sgid) }
      else if x.groups.contains sgid ∨ 1024 ≤ x.groups.length then x
      else { x with groups := x.groups ++ [sgid] }))

end Sys2Proof.Machine
end

