-- ==== Sys2Proof/Machine/Power.lean ====
section
/-!
DEFINITION. Supply, temperature, cooling and power, and the lifetime record (01_module R20-R24, 03_control_complex R70).
-/
namespace Sys2Proof.Machine

/-! ## Reset of the fabric -/

/-- What of the fabric outlives a reset: memory under its keys, the lifetime record, and the model's own counters. -/
def Fab.cleared (f : Fab) : Fab :=
  { Fab.reset with mem := f.mem, memKeys := f.memKeys, life := f.life, nextId := f.nextId, epoch := f.epoch }
/-- Flit replays of every port in a lifetime record (Table 3.7). -/
def Lifetime.replays (l : Lifetime) : Nat := ((List.range 18).map (fun p => (Table.getD l (0x200 + 32 * p + 8) 0).toNat)).foldl (· + ·) 0
/-- The control part while every output is in reset: only what the environment applies, flash and fuses, what a reset
keeps, and what R380's registers hold until the next reset. -/
def Ctl.halted (c : Ctl) : Ctl :=
  { c with boot := .off, harts := false, scheduler := false, leaves := false, keys := [],
           uzBusy := false, updPhase := .idle, repBusy := false, repStarted := false, retiringSlc := none, bells := [],
           ports := List.replicate 18 Port.fresh }

/-- The orderly shutdown of R21: contexts end, the lifetime record is written to flash, every output is placed in
reset. -/
def State.orderlyShutdown (s : State) : State :=
  if !s.ctl.runs then s
  else
    let f := s.fab.ctxs.foldl (fun (f : Fab) c => f.contextEnd s.ctl c.id 8) s.fab
    let f := f.count 0x10
    { ctl := { s.ctl.halted with shutdown := true, flashLife := f.life, flushedAt := 0, secondAt := 0 }, fab := f.cleared, agenda := s.agenda }
/-- Power is removed: what the record counted since it was last written to flash is lost (R21, R70). The spec does not say what memory then
holds: the model keeps its bytes and the keys they are stored under, as at a module reset (log 34). -/
def State.powerOff (s : State) : State :=
  { ctl := { s.ctl.halted with powered := false, shutdown := true, flushedAt := 0, secondAt := 0, replaySeen := s.ctl.flashLife.replays },
    fab := { s.fab.cleared with life := s.ctl.flashLife }, agenda := s.agenda }

/-! ## Supply (R21) -/

/-- The tolerance band an input in millivolts lies in: 1 below the operating range, 2 above it. -/
def toleranceBand (mv : Nat) : Nat := if 47000 ≤ mv ∧ mv < 48000 then 1 else if 54000 < mv ∧ mv ≤ 56000 then 2 else 0
/-- Whether a time of 1 ms has passed since a moment. -/
def Fab.since (f : Fab) (t : Option Nat) (ns : Nat) : Bool := match t with | some t => t + ns ≤ f.time.toNat | none => false
/-- The input takes a value: the 1 ms of the low-input rule runs while it is below 47 V, and an excursion while it stays in
one band. -/
def Ctl.setSupply (c : Ctl) (mv now : Nat) : Ctl :=
  let b := toleranceBand mv
  let same := b == toleranceBand c.supply
  { c with
    supply := mv
    lowSince := if mv < 47000 then some (c.lowSince.getD now) else none
    bandSince := if b = 0 then none else if same then some (c.bandSince.getD now) else some now
    bandCounted := b != 0 && same && c.bandCounted }

/-! ## Temperature, cooling and power (R22-R24) -/

/-- Issue slots of a core in an ac: 4, or 2 while a reduction is applied (R23 allows no fewer than 2; log 47). -/
def slotsFor (reduced : Bool) : Nat := if reduced then 2 else 4
/-- Applies or removes the reductions of R23. -/
def State.reduce (s : State) (c : Ctl) : State :=
  { s with ctl := c, fab := { s.fab with issueSlots := slotsFor (c.thermal || c.capped) } }
/-- CAP as stored (R24): from 800 to 2,600. -/
def clampCap (w : Nat) : Nat := if w < 800 then 800 else if 2600 < w then 2600 else w

/-! ## Register writes (R380) -/

/-- Whether a write is one that a device register accepts: 8 or 4 bytes, aligned. -/
def writeOk (w : RegWrite) : Bool := (w.bytes == 8 || w.bytes == 4) && w.addr.toNat % w.bytes == 0
/-- Address of the 64-bit register that a write reaches. -/
def writeReg (w : RegWrite) : Nat := w.addr.toNat / 8 * 8
/-- The bits of the register that a write reaches. -/
def writeMask (w : RegWrite) : DWord :=
  if w.bytes = 8 then 0xFFFFFFFFFFFFFFFF#64 else if w.addr.toNat % 8 = 4 then 0xFFFFFFFF00000000#64 else 0xFFFFFFFF#64
/-- The data of a write at the place of the bits it reaches. -/
def writeData (w : RegWrite) : DWord :=
  (if w.bytes = 4 ∧ w.addr.toNat % 8 = 4 then w.data <<< 32 else w.data) &&& writeMask w
/-- The new contents of the read-write bits `rw` of a register that holds `old`. -/
def writeInto (w : RegWrite) (old rw : DWord) : DWord :=
  let m := writeMask w &&& rw
  (old &&& ~~~m) ||| (writeData w &&& m)
/-- Whether the low half of the register is written. -/
def writesLow (w : RegWrite) : Bool := w.bytes == 8 || w.addr.toNat % 8 == 0
/-- Whether a writer is a hart in machine or supervisor mode. -/
def privileged : Writer → Bool | .machine => true | .supervisor => true | _ => false
/-- Takes a write that waits in the fabric off its list. R7 says what a write does, and not in which order the accepted stores of one group
act nor whether a later load of the group sees them: each acts when its event comes, in any order (log 76). -/
def State.takeWrite (s : State) (w : RegWrite) : State := { s with fab := { s.fab with regWrites := s.fab.regWrites.erase w } }
/-- The kinds of a write to the service range: the event that it is (R380). -/
inductive RegEvent
  | plain | fuseadv | keyLoad | keyRetire | keyQuery | retrain | disable | update | bell | cap | repRetire | repRestore | repRetrain
  deriving DecidableEq, Repr, Inhabited
/-- Whether an address is that of the HPSTAT of a port. -/
def isHpstat (a : Nat) : Bool := decide (0xF00000401000 ≤ a ∧ a < 0xF00000401120) && a % 16 == 0
/-- The event that a write is: a write that does not reach the low half of a register, where every field that starts something
lies, is a plain one. -/
def regEvent (w : RegWrite) : RegEvent :=
  let a := writeReg w
  let v := (writeData w).toNat
  if !writeOk w ∨ !writesLow w then .plain
  else if a = 0xF00000302000 then .cap
  else if a = 0xF00000100100 then .fuseadv
  else if a = 0xF00000200040 then (match bitsOf v 25 24 with | 1 => .keyLoad | 2 => .keyRetire | 3 => .keyQuery | _ => .plain)
  else if a = 0xF00000300018 then .bell
  else if a = 0xF00000300008 then (if bitAt v 0 then .update else .plain)
  else if a = 0xF00000301000 then (match bitsOf v 21 20 with | 1 => .repRetire | 2 => .repRestore | 3 => .repRetrain | _ => .plain)
  else if isHpstat a then (if bitAt v 2 then .retrain else .disable)
  else .plain

/-- Whether a write reaches a register: accepted, at its address, on a module that runs. -/
def State.hits (s : State) (w : RegWrite) (reg : Nat) : Bool := writeOk w && writeReg w == reg && s.ctl.runs
/-- Performs a write as the event `e`: a write that is another event stays where it waits. On a module that does not run it has no
effect. -/
def State.onWrite (s : State) (w : RegWrite) (e : RegEvent) (act : State → State) : State :=
  if regEvent w ≠ e then s
  else
    let s := s.takeWrite w
    if s.hits w (writeReg w) then act s else s

/-! ## Meanings -/

/-- SUPPLY_INPUT_CHANGE (R21). -/
def execSupplyInputChange (mv : Nat) (s : State) : Out := .next { s with ctl := s.ctl.setSupply mv s.fab.time.toNat }
/-- SUPPLY_LOW_TIMEOUT (R21): the input has been below 47 V for 1 ms. -/
def execSupplyLowTimeout (s : State) : Out :=
  .next (if s.fab.since s.ctl.lowSince 1000000 then s.orderlyShutdown else s)
/-- SUPPLY_OVERVOLTAGE (R21): above 56 V power is removed. -/
def execSupplyOvervoltage (s : State) : Out := .next (if 56000 < s.ctl.supply then s.powerOff else s)
/-- SUPPLY_EXCURSION_COUNT (R21): an excursion of 1 ms is counted once. -/
def execSupplyExcursionCount (s : State) : Out :=
  .next (if s.fab.since s.ctl.bandSince 1000000 ∧ !s.ctl.bandCounted ∧ s.ctl.runs then
    { s with ctl := { s.ctl with bandCounted := true }, fab := s.fab.count 0x30 } else s)
/-- THERMAL_THROTTLE (R23): at 105 degrees the reductions are applied and the event is counted. -/
def execThermalThrottle (degC : Nat) (s : State) : Out :=
  .next (if 105 ≤ degC then
    let t := s.reduce { s.ctl with temp := degC, thermal := true }
    if s.ctl.thermal then t else { t with fab := t.fab.count 0x700 }
  else s)
/-- THERMAL_RELEASE (R23): below 100 degrees the reductions end. -/
def execThermalRelease (degC : Nat) (s : State) : Out :=
  .next (if degC < 100 then s.reduce { s.ctl with temp := degC, thermal := false } else s)
/-- THERMAL_SHUTDOWN (R23): at 115 degrees. -/
def execThermalShutdown (degC : Nat) (s : State) : Out :=
  .next (if 115 ≤ degC then ({ s with ctl := { s.ctl with temp := degC } } : State).orderlyShutdown else s)
/-- COOLANT_FLOW_CHANGE (R23): the 100 ms run while the flow is below 1.0 L/min. -/
def execCoolantFlowChange (mlPerMin : Nat) (s : State) : Out :=
  let since := if mlPerMin < 1000 then some (s.ctl.coolantSince.getD s.fab.time.toNat) else none
  .next { s with ctl := { s.ctl with coolant := mlPerMin, coolantSince := since } }
/-- COOLANT_FLOW_TIMEOUT (R23). -/
def execCoolantFlowTimeout (s : State) : Out :=
  .next (if s.fab.since s.ctl.coolantSince 100000000 then s.orderlyShutdown else s)
/-- Whether a comparison of measured power with CAP is due: one every 1 ms on a module that runs (R24). -/
def State.compareDue (s : State) : Bool :=
  s.ctl.runs && (s.ctl.comparedAt.isNone || s.fab.since s.ctl.comparedAt 1000000)
/-- POWER_COMPARE (R24): measured power is compared with CAP. -/
def execPowerCompare (watts : Nat) (s : State) : Out :=
  .next (if s.compareDue then
    s.reduce { s.ctl with meas := watts % 65536, capped := decide (s.ctl.cap < watts), comparedAt := some s.fab.time.toNat }
  else s)
/-- PWRCAP_WRITE (R24): harts in machine or supervisor mode set CAP. A write of CAP by anyone else has no effect, and no trap (log 64). -/
def execPwrcapWrite (w : RegWrite) (s : State) : Out :=
  .next (s.onWrite w .cap (fun s =>
    if privileged w.by_ then { s with ctl := { s.ctl with cap := clampCap ((writeData w).toNat % 4096) } } else s))
/-- Whether the lifetime record is due to be written to flash: 600 s after it last was, on a module that runs (R70). -/
def State.flushDue (s : State) : Bool := s.ctl.runs && decide (s.ctl.flushedAt + 600000000000 ≤ (s.fab.time.toNat : Int))
/-- Writes the lifetime record to flash where it is due. -/
def State.flushLife (s : State) : State :=
  if s.flushDue then { s with ctl := { s.ctl with flashLife := s.fab.life, flushedAt := (s.fab.time.toNat : Int) } } else s
/-- LIFETIME_FLUSH (R70): every step ends with it, so that no loss of power takes more than 600 s of increments. -/
def execLifetimeFlush (s : State) : Out := .next s.flushLife
/-- SUPPLY_DROOP (R23, Table 3.7): a droop beyond the last bucket counts in it (log 48). -/
def execSupplyDroop (mv : Nat) (s : State) : Out := .next { s with fab := s.fab.count (0x600 + 8 * min 15 (mv / 10)) }
/-- ECC_EVENT (Table 3.7): an error corrected or not in one of twelve structures. -/
def execEccEvent (unit : Nat) (corrected : Bool) (s : State) : Out :=
  .next (if unit < 12 then { s with fab := s.fab.count (0x100 + 16 * unit + (if corrected then 0 else 8)) } else s)
/-- Bucket of a number of replays in a second (Table 3.7); the last takes what lies beyond it (log 48). -/
def replayBucket (n : Nat) : Nat := min 15 (Nat.log2 n)
/-- Bucket of a junction temperature (Table 3.7). -/
def tempBucket (t : Nat) : Nat := min 15 ((t - 40) / 5)
/-- Whether a powered second is due to be counted: 1 s after the last, on a module that runs (Table 3.7). -/
def State.secondDue (s : State) : Bool := s.ctl.runs && decide (s.ctl.secondAt + 1000000000 ≤ (s.fab.time.toNat : Int))
/-- POWERED_SECOND (Table 3.7): each second of TIME is counted once, and no TIME passes while one is due. -/
def execPoweredSecond (degC : Nat) (s : State) : Out :=
  .next (if s.secondDue then
    let n := s.fab.life.replays
    { s with ctl := { s.ctl with temp := degC, replaySeen := n, secondAt := s.ctl.secondAt + 1000000000 },
             fab := ((s.fab.count 8).count (0x500 + 8 * replayBucket (n - s.ctl.replaySeen))).count (0x580 + 8 * tempBucket degC) }
  else s)

end Sys2Proof.Machine
end

