-- ==== Sys2Proof/Machine/Service.lean ====
section
/-!
DEFINITION. Boot and signing, service registers, keys, the device-key table, live update and repair
(03_control_complex R51-R69, 02_halyard R28, 00_scope R380).
-/
namespace Sys2Proof.Machine

/-! ## Signed images (R52, R53) -/

/-- Length of a signature. -/
def sigBytes : Nat := 2828
/-- Body length of an image (Table 3.2). -/
def imgLength (h : List Byte) : Nat := fieldAt h 16 8
/-- Whether a header is well formed for an image of a kind: an entry within the body, reserved bytes zero. -/
def imgHeaderOk (h : List Byte) (kind : Nat) : Bool :=
  fieldAt h 0 4 == 0x57464E31 && fieldAt h 4 4 == kind && imgLength h % 64 == 0 && fieldAt h 40 24 == 0 &&
    decide (fieldAt h 24 8 ≤ fieldAt h 32 8) && decide (fieldAt h 32 8 < fieldAt h 24 8 + imgLength h)
/-- How an image fails R53: 2 for its form or signature, 3 below the rollback floor, 0 accepted. `src` gives its bytes. -/
def imgVerdict (key : List Byte) (keyOk : Bool) (floor kind room : Nat) (src : Nat → Nat → List Byte) : Nat :=
  let h := src 0 64
  let n := imgLength h
  if !imgHeaderOk h kind ∨ room < 64 + n + sigBytes then 2
  else if !keyOk then 2
  else if !Config.lmsVerify (src 0 (64 + n)) (src (64 + n) sigBytes) key then 2
  else if fieldAt h 8 8 < floor then 3
  else 0

/-! ## Boot (R54) -/

/-- The root public key of flash, and whether its digest is the one in the fuses. -/
def Ctl.rootKey (c : Ctl) : List Byte := c.flash.readBytes 0 56
/-- Whether the ROM accepts the root key. -/
def Ctl.rootKeyOk (c : Ctl) : Bool := Config.sha256 c.rootKey == c.fuseDigest
/-- Loads the body of an accepted image at its LOAD address, under key ID 0; the boot loader goes into the control complex L2
instead. A body whose LOAD range is not memory is loaded nowhere, and the boot goes on (log 49). -/
def State.loadBody (s : State) (kind : Nat) (src : Nat → Nat → List Byte) : State :=
  let h := src 0 64
  if kind = 1 ∨ !memRange (fieldAt h 24 8) (imgLength h) then s
  else { s with fab := s.fab.agentWrite s.ctl 0 (fieldAt h 24 8) (src 64 (imgLength h)) }
/-- What follows the acceptance of an image of a kind: key ID 0 is created, Uzoman and the leaf controllers start, the OS
loader takes over. -/
def State.booted (s : State) (kind : Nat) (h : List Byte) : State :=
  match kind with
  | 1 => { s with ctl := { s.ctl with keys := [(0, .loaded, Config.bootKey (Table.getD s.fab.life 0 0).toNat)] } }
  | 2 => { s with ctl := { s.ctl with runver := BitVec.ofNat 32 (fieldAt h 8 8) } }
  | 3 => { s with ctl := { s.ctl with scheduler := true, leaves := true } }
  | _ => { s with ctl := { s.ctl with harts := true, hart0 := BitVec.ofNat 48 (fieldAt h 32 8), boot := .running } }
/-- Boots the images that remain of a slot, in order; false where one fails. -/
def State.bootImages (s : State) (src : Nat → Nat → List Byte) (room : Nat) : List Nat → Nat → Bool × State
  | [], _ => (true, s)
  | kind :: ks, at_ =>
    let img := fun o n => src (at_ + o) n
    let h := img 0 64
    if (kind = 1 ∧ 0x400000 < imgLength h) ∨ imgVerdict s.ctl.rootKey s.ctl.rootKeyOk s.ctl.fuses kind (room - at_) img ≠ 0 then
      (false, { s with fab := s.fab.count 0x18 })
    else ((s.loadBody kind img).booted kind h).bootImages src room ks (at_ + 64 + imgLength h + sigBytes)
/-- Takes back what a slot that failed had started: no image of it runs. -/
def State.unboot (s : State) : State :=
  { s with ctl := { s.ctl with keys := [], runver := 0, scheduler := false, leaves := false } }
/-- Tries a slot. -/
def State.bootSlot (s : State) (src : Nat → Nat → List Byte) (room : Nat) : Bool × State :=
  match s.bootImages src room [1, 2, 3, 4] 0 with
  | (true, s) => (true, s)
  | (false, s) => (false, s.unboot)
/-- Bytes of an image slot. -/
def slotBytes : Nat := 248 * 2 ^ 20
/-- The ROM: slot A, then slot B; with both failed hart 0 stays in the ROM. -/
def State.bootRom (s : State) : State :=
  match s.bootSlot (fun o n => s.ctl.flash.readBytes (16 * 2 ^ 20 + o) n) slotBytes with
  | (true, s) => s
  | (false, s) => match s.bootSlot (fun o n => s.ctl.flash.readBytes (264 * 2 ^ 20 + o) n) slotBytes with
    | (true, s) => s
    | (false, s) => { s with ctl := { s.ctl with boot := .failed } }

/-- The control part that a reset leaves: what the environment applies, flash and fuses (a scheduled fuse bit is blown),
and the retirements recorded in flash. The 1 ms of a supply excursion that stands starts again with TIME, and may be counted again
(log 65). -/
def Ctl.afterReset (c : Ctl) : Ctl :=
  { Ctl.reset with
    supply := c.supply
    lowSince := if c.supply < 47000 then some 0 else none
    bandSince := if toleranceBand c.supply = 0 then none else some 0
    temp := c.temp
    thermal := c.thermal
    coolant := c.coolant
    coolantSince := if c.coolant < 1000 then some 0 else none
    flash := c.flash
    fuseDigest := c.fuseDigest
    fuses := if c.fuseAdv ∧ c.fuses < 64 then c.fuses + 1 else c.fuses
    tableNo := c.tableNo
    replaySeen := c.replaySeen
    retClu := c.retClu
    retSlc := c.retSlc
    retPorts := c.retPorts
    flashLife := c.flashLife
    ports := (List.range 18).map (fun p => { Port.fresh with disable := c.retPorts.getLsbD p }) }
/-- Resets the module (R21, R54): below 48 V it does not start. The 600 s to the next write of the lifetime record, and
the second that is being counted, run on (R70). -/
def State.resetModule (s : State) : State :=
  let ago (t : Int) : Int := if s.ctl.runs then t - s.fab.time.toNat else 0
  let c : Ctl := { s.ctl.afterReset with flushedAt := ago s.ctl.flushedAt, secondAt := ago s.ctl.secondAt }
  let f : Fab := { s.fab.cleared with issueSlots := slotsFor c.thermal }
  if c.supply < 48000 ∨ 56000 < c.supply then ⟨{ c with boot := .off, shutdown := true }, f, s.agenda⟩
  else ({ ctl := c, fab := { f with life := f.life.add 0 1 }, agenda := s.agenda } : State).bootRom

/-! ## Keys (R56-R58) -/

/-- KSTATE of a key ID. -/
def Ctl.kstateOf (c : Ctl) (k : BitVec 12) : Nat := match c.keyState k with | .empty => 0 | .loaded => 1 | .retiring => 2
/-- KID of a KEYCMD write. -/
def keyId (w : RegWrite) : BitVec 12 := BitVec.ofNat 12 (writeData w).toNat
/-- LOAD: KEYDATA under an EMPTY key ID; KEYDATA is cleared whether or not it succeeds. -/
def Ctl.keyLoad (c : Ctl) (k : BitVec 12) : Ctl :=
  let r := if k = 0 then 3 else if c.keyState k = .empty then 0 else 1
  let c' := if r = 0 then { c with keys := Table.set c.keys k.toNat (.loaded, c.keyData) } else c
  { c' with kid := k, kresult := r, kstate := c'.kstateOf k, keyData := 0 }
/-- RETIRE: a LOADED key ID is RETIRING from now on. -/
def Ctl.keyRetire (c : Ctl) (k : BitVec 12) : Ctl :=
  let r := if k = 0 then 3 else if c.keyState k = .loaded then 0 else 2
  let c' := if r = 0 then { c with keys := Table.set c.keys k.toNat (.retiring, c.keyMat k), kbusy := true } else c
  { c' with kid := k, kresult := r, kstate := c'.kstateOf k }
/-- Writes back and invalidates every line tagged with a key ID; instruction caches drop their words. -/
def Fab.flushKey (ctl : Ctl) (f : Fab) (k : BitVec 12) : Fab :=
  let f := f.cores.foldl (fun (f : Fab) c => (c.2.l1.filter (fun l => l.key == k)).foldl (fun f l => f.l1Drop ctl c.1 l.line) f) f
  let f := (f.l2.filter (fun l => l.key == k)).foldl (fun f l => f.l2Evict ctl l.line) f
  { f with cores := f.cores.map (fun c => (c.1, { c.2 with icache := [] })) }

/-! ## DMA (R61) -/

/-- The key ID of a requester: none where PCKTAB is not enabled or its entry is not valid. -/
def State.dmaKey (s : State) (rid : BitVec 16) : Option (BitVec 12) × State :=
  let at_ := bitsOf s.ctl.pcktab.toNat 47 17 * 2 ^ 17 + 2 * rid.toNat
  if !s.ctl.pcktab.getLsbD 0 ∨ !memRange at_ 2 then (none, s)
  else
    let (b, f) := s.fab.agentRead s.ctl 0 at_ 2
    (if bitAt (leNat b) 15 then some (BitVec.ofNat 12 (leNat b)) else none, { s with fab := f })
/-- Ends a DMA request. -/
def State.dmaEnd (s : State) (r : DmaReq) (b : Option (List Byte)) : State :=
  { s with fab := { s.fab with dmaDone := s.fab.dmaDone ++ [(r, b)] } }
/-- A DMA request at a physical address, under its key: to memory or to a device register, else Unsupported Request. -/
def State.dmaAt (s : State) (r : DmaReq) (k : BitVec 12) (pa : Nat) : State :=
  let n := match r.write with | some b => b.length | none => r.len
  if memRange pa n && s.ctl.keyRefused k then s.dmaEnd r none
  else match r.write with
    | none => let (b, f) := s.fab.paRead s.ctl k pa n; ({ s with fab := f } : State).dmaEnd r b
    | some b => let (ok, f) := s.fab.paWrite s.ctl k .user pa b; ({ s with fab := f } : State).dmaEnd r (if ok then some [] else none)
/-- A DMA request (R60, R61): the device-key table gives its key, and the IOMMU of its port die translates its address, to a physical
address or, through the IOMMU of the other port die as well, to a device behind the other root port (log 57). A module whose outputs are in reset
takes none (R21). -/
def State.dma (s : State) (r : DmaReq) : State :=
  if !s.ctl.runs then s
  else match s.dmaKey r.rid with
  | (none, s) => s.dmaEnd r none
  | (some k, s) =>
    let n := s.fab.nextId
    let s : State := { s with fab := { s.fab with nextId := n + 1 } }
    match Config.iommuPeer n r.port r.rid r.addr r.write.isSome with
    | some a =>
      (match Config.iommuPeer n (1 - r.port) r.rid a r.write.isSome with
       | some b => { s with fab := { s.fab with peerOut := s.fab.peerOut ++ [(1 - r.port, { r with addr := b })] } }
       | none => s.dmaEnd r none)
    | none =>
      match Config.iommu n r.port r.rid r.addr r.write.isSome with
      | some pa => s.dmaAt r k pa.toNat
      | none => s.dmaEnd r none

/-! ## Registers without a behaviour of their own (R380) -/

/-- The read-write fields of a register take the data of a write. -/
def Ctl.plainWrite (c : Ctl) (w : RegWrite) : Ctl :=
  let a := writeReg w
  if a = 0xF00000100200 then (if privileged w.by_ then { c with pcktab := writeInto w c.pcktab 0xFFFFFFFE0001#64 } else c)
  else if 0xF00000200000 ≤ a ∧ a < 0xF00000200040 then
    let o := 8 * (a - 0xF00000200000)
    let old := c.keyData.extractLsb' o 64
    { c with keyData := (c.keyData &&& ~~~((BitVec.allOnes 64).zeroExtend 512 <<< o)) |||
        ((writeInto w old (BitVec.allOnes 64)).zeroExtend 512 <<< o) }
  else if a = 0xF00000200040 then
    (if c.kbusy ∨ !writesLow w ∨ bitsOf (writeData w).toNat 25 24 ≠ 0 then c else { c with kid := keyId w })
  else if a = 0xF00000300000 then { c with uzimg := writeInto w c.uzimg (BitVec.allOnes 64) }
  else if a = 0xF00000300010 then (if c.belled then c else { c with uzqroot := writeInto w c.uzqroot 0xFFFFFFFFF000#64 })
  else if a = 0xF00000301000 then
    (if c.repBusy ∨ !writesLow w ∨ bitsOf (writeData w).toNat 21 20 ≠ 0 then c
     else { c with repKind := bitsOf (writeData w).toNat 27 26, repIndex := BitVec.ofNat 16 (writeData w).toNat })
  else if a = 0xF00000400000 then { c with hdevid := (writeInto w (c.hdevid.zeroExtend 64) 0xFFF#64).truncate 12 }
  else if a = 0xF00000400010 then { c with himpbase := writeInto w c.himpbase 0xFFFFFF800001#64 }
  else if 0xF00000408000 ≤ a ∧ a < 0xF00000410000 then
    let i := (a - 0xF00000408000) / 8
    { c with routes := Table.set c.routes i ((writeInto w ((Table.getD c.routes i 0).zeroExtend 64) 0x3FFFF#64).truncate 18) }
  else c

/-! ## Ports (R28) -/

/-- The interrupt files of a hart, in the order of R49: machine level, supervisor level, and four guest files. -/
def ImsicFile.ofNumber (n : Fin 6) : ImsicFile :=
  match n with | 0 => .machine | 1 => .supervisor | 2 => .guest 0 | 3 => .guest 1 | 4 => .guest 2 | 5 => .guest 3
/-- The message that a write to the interrupt files is (R49): four bytes at the first word of a page, whose data name the identity; the
page tells the hart and the file (log 57). -/
def imsicMessage (w : RegWrite) : Option (Nat × ImsicFile × Nat) :=
  let a := w.addr.toNat
  let page := (a - 0xF00001000000) / 4096
  if 0xF00001000000 ≤ a ∧ a < 0xF00001100000 ∧ a % 4096 = 0 ∧ w.bytes = 4 then
    some ((Config.imsicHart page).val, ImsicFile.ofNumber (Config.imsicFile page), w.data.toNat % 2 ^ 32) else none
/-- A write to a register without an event of its own. -/
def State.plain (s : State) (w : RegWrite) : State :=
  match imsicMessage w with
  | some (h, file, i) => { s with fab := s.fab.msiAt h file i }
  | none => { s with ctl := s.ctl.plainWrite w }

/-- Sets or clears HPSTAT.DISABLE. -/
def State.disablePort (s : State) (p : Nat) (off : Bool) : State :=
  match s.port? p with
  | none => s
  | some x =>
    if off ∧ !x.disable then (s.modPort p (fun x => { x with disable := true })).dropPort p 0
    else s.modPort p (fun x => { x with disable := off })
/-- A write to the HPSTAT of a port: DISABLE takes its bit, and RETRAIN starts a retrain. -/
def State.hpstatWrite (s : State) (w : RegWrite) : State :=
  let p := (writeReg w - 0xF00000401000) / 16
  let s := s.disablePort p ((writeData w).getLsbD 1)
  if (writeData w).getLsbD 2 then s.startRetrain p true else s

/-! ## Live update (R63-R66) -/

/-- Base of Uzoman's reserved region, and of one of its halves. -/
def uzBase (half : Nat) : Nat := 0x10000000000 + half % 2 * 0x4000000
/-- Setting UZCTL.GO: the image at UZIMG is copied into the staging half and judged. The device reads it under key ID 0; an image that
is not in memory, or is longer than a half, fails as one whose signature does (log 13). RESULT keeps its value until a new one is
written. -/
def State.updateStart (s : State) : State :=
  let at_ := s.ctl.uzimg.toNat
  if !memRange at_ 64 then { s with ctl := { s.ctl with uzResult := 2 } }
  else
    let (h, f) := s.fab.agentRead s.ctl 0 at_ 64
    let n := 64 + imgLength h + sigBytes
    if !memRange at_ n ∨ 0x4000000 < n then { s with ctl := { s.ctl with uzResult := 2 }, fab := f }
    else
      let (b, f) := f.agentRead s.ctl 0 at_ n
      let f := f.agentWrite s.ctl 0 (uzBase (s.ctl.uzHalf + 1)) b
      let v := imgVerdict s.ctl.rootKey s.ctl.rootKeyOk s.ctl.fuses 2 n (fun o k => sliceBytes b o k)
      if v = 0 then
        { s with ctl := { s.ctl with uzBusy := true, updPhase := .verified, updVer := BitVec.ofNat 32 (fieldAt h 8 8) }, fab := f }
      else { s with ctl := { s.ctl with uzResult := v }, fab := f }
/-- Whether Uzoman has a command record in hand: one that it may start now, in the order of its queue or buffer and with its semaphore
condition met (R63, R83, R84). -/
def Fab.recordInHand (f : Fab) : Bool :=
  f.cmds.any (fun c => !c.started && (!c.rec_.flags.getLsbD 1 || c.semOk) &&
    (!c.rec_.flags.getLsbD 3 || !f.cmds.any (fun x => x.queue == c.queue && x.parent == c.parent && x.id < c.id)))
/-- An entry of the preserved-state table: 32 bytes. -/
def stateEntry (n type : Nat) : List Byte :=
  leBytes 2 type ++ leBytes 2 (Config.stateVersion type) ++ leBytes 4 0 ++ leBytes 8 (Config.stateAddr n type).toNat ++
    leBytes 8 (Config.stateLen n type).toNat ++ leBytes 8 0
/-- The preserved-state table (R64, Table 3.4): one entry of each type, with `crc` in the header's field. -/
def stateTable (n : Nat) (crc : Word) : List Byte :=
  leBytes 4 Config.stateMagic.toNat ++ leBytes 4 Config.stateFormat.toNat ++ leBytes 4 7 ++ leBytes 4 crc.toNat ++ leBytes 48 0 ++
    ((List.range 7).flatMap (fun k => stateEntry n (k + 1)))
/-- The table as Uzoman writes it, with the CRC-32C of the whole with that field taken as zero. -/
def stateTableSealed (n : Nat) : List Byte := stateTable n (crc32c (stateTable n 0))
/-- Whether a new kernel takes over a table (R64): the CRC is right, and it knows the TYPE and VERSION of every entry. -/
def tableTakes (n : Nat) (read : Nat → Nat → List Byte) : Bool :=
  let h := read 0 64
  let count := fieldAt h 8 4
  let b := read 0 (64 + 32 * count)
  crc32c (b.take 12 ++ leBytes 4 0 ++ b.drop 16) == BitVec.ofNat 32 (fieldAt h 12 4) &&
    (List.range count).all (fun k =>
      let type := fieldAt b (64 + 32 * k) 2
      decide (1 ≤ type ∧ type ≤ 7) && Config.stateKnown n type (fieldAt b (66 + 32 * k) 2)) && Config.kernelAccepts n
/-- Where the table of an update stands (log 13). -/
def tablePlace (n : Nat) : Nat := uzBase 0 + Config.tableAt n % 0x7FF0000
/-- The pause begins: the command record in hand is finished, no command is taken, and the preserved-state table is written in the
reserved region (log 13). -/
def State.updatePause (s : State) : State :=
  if s.ctl.updPhase = .verified ∧ !s.ctl.repBusy ∧ !s.fab.recordInHand then
    let n := s.ctl.tableNo + 1
    { s with
      ctl := { s.ctl with updPhase := .paused, updAt := s.fab.time.toNat, tableNo := n }
      fab := s.fab.agentWrite s.ctl 0 (tablePlace n) (stateTableSealed n) }
  else s
/-- Whether the new kernel refuses the table that it finds (R64). -/
def State.tableRefused (s : State) : Bool := !tableTakes s.ctl.tableNo (fun o n => s.fab.peek s.ctl 0 (tablePlace s.ctl.tableNo + o) n)
/-- Whether the new kernel can no longer declare itself alive: it refuses the table, or 150 µs have passed (R65). They are measured
from the start of the pause, at whose start the model makes the jump (log 13). -/
def State.updateDead (s : State) : Bool := s.tableRefused || decide (s.ctl.updAt + 150000 < s.fab.time.toNat)
/-- The end of an update. -/
def Ctl.updateEnd (c : Ctl) (result : Nat) : Ctl := { c with updPhase := .idle, uzBusy := false, uzResult := result }

/-! ## Repair (R67-R69) -/

/-- Advances every context's map generation (R187). -/
def Fab.advanceGen (f : Fab) : Fab := { f with ctxs := f.ctxs.map (fun c => { c with gen := c.gen + 1 }) }
/-- Units of a kind. -/
def repairUnits (kind : Nat) : Nat := match kind with | 0 => 48 | 1 => 384 | 2 => 18 | _ => 0
/-- Whether a unit is retired. -/
def Ctl.retired (c : Ctl) (kind i : Nat) : Bool :=
  match kind with | 0 => c.retClu.getLsbD i | 1 => c.retSlc.getLsbD i | 2 => c.retPorts.getLsbD i | _ => false
/-- Whether retiring a unit would pass a limit: the last cluster, a seventeenth slice of a die. -/
def Ctl.repairLimit (c : Ctl) (kind i : Nat) : Bool :=
  match kind with
  | 0 => (List.range 48).all (fun k => k == i || c.retClu.getLsbD k)
  | 1 => 16 ≤ ((List.range 48).filter (fun k => 48 * (i / 48) + k != i && c.retSlc.getLsbD (48 * (i / 48) + k))).length
  | _ => false
/-- The result with which a repair ends at once, if it does (Table 3.6). -/
def Ctl.repairRefused (c : Ctl) (op kind i : Nat) : Option Nat :=
  if repairUnits kind ≤ i ∨ (op = 3 ∧ kind ≠ 2) then some 2
  else if op = 1 ∧ c.repairLimit kind i then some 3
  else if op = 2 ∧ !c.retired kind i then some 4
  else none
/-- A repair starts to act: a cluster's leaf controller is told to drain it, a slice answers REMAP from now on, a port is held
down. One that has to wait for a permit of its cluster's link does not start yet (R98). -/
def State.repairAct (s : State) : State :=
  let i := s.ctl.repIndex.toNat
  let t : State := { s with ctl := { s.ctl with repStarted := true } }
  match s.ctl.repairRefused s.ctl.repOp s.ctl.repKind i with
  | some r => { s with ctl := { s.ctl with repBusy := false, repStarted := false, repResult := r } }
  | none =>
    if s.ctl.repOp = 1 ∧ s.ctl.repKind = 0 then
      (if s.fab.downFree i then { t with fab := s.fab.sendDown i ⟨0x06, 0, 0, 0, 0, 0, 0, 0, 0, true⟩ } else s)
    else if s.ctl.repOp = 1 ∧ s.ctl.repKind = 1 then { t with ctl := { t.ctl with retiringSlc := some i }, fab := s.fab.advanceGen }
    else if s.ctl.repOp = 1 then t.disablePort i true
    else if s.ctl.repOp = 3 then t.startRetrain i true
    else t
/-- A write to REPCTL with an operation (R68): ignored while BUSY; a repair waits for an update pause to end. -/
def State.repair (s : State) (w : RegWrite) (op : Nat) : State :=
  let v := (writeData w).toNat
  if s.ctl.repBusy then s
  else
    let s : State := { s with ctl := { s.ctl with repBusy := true, repStarted := false, repOp := op, repKind := bitsOf v 27 26, repIndex := BitVec.ofNat 16 v } }
    if s.ctl.updPhase = .paused then s else s.repairAct
/-- Starts a repair that waited for a pause to end or for a permit (R69, R98). -/
def State.repairResume (s : State) : State := if s.ctl.repBusy ∧ !s.ctl.repStarted ∧ s.ctl.updPhase ≠ .paused then s.repairAct else s

/-- Whether a cluster holds no team, no hitch is on its way to it, and none of its cores has a contribution to fold (R69, R179). -/
def Fab.clusterEmpty (f : Fab) (cl : Nat) : Bool :=
  (List.range 8).all (fun j => (f.core (8 * cl + j)).team.isNone) && f.redHeld.all (fun h => h.core / 8 != cl) &&
    (match f.links[cl]? with | some k => k.down.isEmpty && k.held.isEmpty && k.up.isEmpty | none => true)
/-- Whether an access that has been accepted under a key ID has not completed (R58): a store or load in its group's queues, or a request on
its way to a slice. -/
def Fab.keyInUse (f : Fab) (k : BitVec 12) : Bool :=
  let at_ (l : Loc) : Bool := match l with | .glob _ _ key _ _ => key == k | .scr .. => false
  f.cores.any (fun c => match c.2.team with
    | some t => t.groups.any (fun g => g.storeQ.any (fun o => o.pieces.any (fun p => at_ p.loc)) || g.loads.any (fun o => o.pieces.any (fun p => !p.done && at_ p.loc)))
    | none => false) ||
  f.remaps.any (fun r => r.req.key == k) || f.ring.any (fun p => match p.load with | .request r .. => r.key == k | .reply .. => false)
/-- Counters of the repairs, by operation and kind (Table 3.7). -/
def repairCounter (op kind : Nat) : Nat := if op = 3 then 0x758 else 0x728 + 16 * kind + (if op = 1 then 0 else 8)
/-- A repair ends with its result. -/
def State.repairEnd (s : State) (result : Nat) : State :=
  let f := if result = 0 then s.fab.count (repairCounter s.ctl.repOp s.ctl.repKind) else s.fab
  { s with ctl := { s.ctl with repBusy := false, repStarted := false, repResult := result }, fab := f }
/-- What the end of a repair does to its unit. -/
def State.repairFinish (s : State) (pass : Bool) : State :=
  let i := s.ctl.repIndex.toNat
  match s.ctl.repOp, s.ctl.repKind with
  | 1, 0 =>
    if !s.fab.clusterEmpty i then s
    else ({ s with ctl := { s.ctl with retClu := s.ctl.retClu ||| (1#48 <<< i) }, fab := { s.fab with links := setAt s.fab.links i Lanyard.fresh } } : State).repairEnd 0
  | 1, 1 =>
    let f := (s.fab.l2.filter (fun l => l.slice == i)).foldl (fun f l => f.l2Evict s.ctl l.line) s.fab
    ({ s with ctl := { s.ctl with retSlc := s.ctl.retSlc ||| (1#384 <<< i), retiringSlc := none }, fab := f } : State).repairEnd 0
  | 1, _ => ({ s with ctl := { s.ctl with retPorts := s.ctl.retPorts ||| (1#18 <<< i) } } : State).repairEnd 0
  | 2, 0 =>
    if !pass then s.repairEnd 5
    else ({ s with ctl := { s.ctl with retClu := s.ctl.retClu &&& ~~~(1#48 <<< i) }, fab := { s.fab with links := setAt s.fab.links i Lanyard.fresh } } : State).repairEnd 0
  | 2, 1 =>
    if !pass then s.repairEnd 5
    else ({ s with ctl := { s.ctl with retSlc := s.ctl.retSlc &&& ~~~(1#384 <<< i) }, fab := s.fab.advanceGen } : State).repairEnd 0
  | 2, _ =>
    if !pass then s.repairEnd 5
    else (({ s with ctl := { s.ctl with retPorts := s.ctl.retPorts &&& ~~~(1#18 <<< i) } } : State).disablePort i false).repairEnd 0
  | _, _ => s.repairEnd 0

/-! ## Meanings -/

/-- MODULE_RESET (R54). -/
def execModuleReset (s : State) : Out := .next s.resetModule
/-- BOOT_IMAGE_I3C (R54): the replacement is taken as a slot's images are (log 49). -/
def execBootImageI3c (image : List Byte) (s : State) : Out :=
  .next (if s.ctl.boot = .failed then (s.bootSlot (fun o n => sliceBytes image o n) image.length).2 else s)
/-- REGISTER_WRITE (R380). -/
def execRegisterWrite (w : RegWrite) (s : State) : Out := .next (s.onWrite w .plain (·.plain w))
/-- FUSEADV_WRITE (R53): from machine mode only. -/
def execFuseadvWrite (w : RegWrite) (s : State) : Out :=
  .next (s.onWrite w .fuseadv (fun s => if w.by_ = .machine ∧ (writeData w).getLsbD 0 then { s with ctl := { s.ctl with fuseAdv := true } } else s))
/-- KEY_LOAD (R58): a controller that is busy takes no command. -/
def execKeyLoad (w : RegWrite) (s : State) : Out :=
  .next (s.onWrite w .keyLoad (fun s => if s.ctl.kbusy then s else { s with ctl := s.ctl.keyLoad (keyId w) }))
/-- KEY_RETIRE (R58). -/
def execKeyRetire (w : RegWrite) (s : State) : Out :=
  .next (s.onWrite w .keyRetire (fun s => if s.ctl.kbusy then s else { s with ctl := s.ctl.keyRetire (keyId w) }))
/-- KEY_RETIRE_DONE (R58): the accesses that were accepted have completed. -/
def execKeyRetireDone (s : State) : Out :=
  .next (if s.ctl.kbusy ∧ !s.fab.keyInUse s.ctl.kid then
    { s with fab := s.fab.flushKey s.ctl s.ctl.kid,
             ctl := { s.ctl with keys := Table.set s.ctl.keys s.ctl.kid.toNat (.empty, 0), kbusy := false, kstate := 0, kresult := 0 } }
  else s)
/-- KEY_QUERY (R58). -/
def execKeyQuery (w : RegWrite) (s : State) : Out :=
  .next (s.onWrite w .keyQuery (fun s =>
    if s.ctl.kbusy then s else { s with ctl := { s.ctl with kid := keyId w, kstate := s.ctl.kstateOf (keyId w), kresult := 0 } }))
/-- DMA_REQUEST (R61). -/
def execDmaRequest (r : DmaReq) (s : State) : Out := .next (s.dma r)
/-- HPSTAT_RETRAIN (R28). -/
def execHpstatRetrain (w : RegWrite) (s : State) : Out := .next (s.onWrite w .retrain (·.hpstatWrite w))
/-- HPSTAT_DISABLE (R28). -/
def execHpstatDisable (w : RegWrite) (s : State) : Out := .next (s.onWrite w .disable (·.hpstatWrite w))
/-- LIVE_UPDATE (R63): GO has no effect while an update runs. -/
def execLiveUpdate (w : RegWrite) (s : State) : Out :=
  .next (s.onWrite w .update (fun s => if !s.ctl.uzBusy ∧ s.ctl.scheduler then s.updateStart else s))
/-- UPDATE_PAUSE (R63). -/
def execUpdatePause (s : State) : Out := .next s.updatePause
/-- REPAIR_RETIRE (R69). -/
def execRepairRetire (w : RegWrite) (s : State) : Out := .next (s.onWrite w .repRetire (·.repair w 1))
/-- REPAIR_RESTORE (R69). -/
def execRepairRestore (w : RegWrite) (s : State) : Out := .next (s.onWrite w .repRestore (·.repair w 2))
/-- REPAIR_RETRAIN (R69). -/
def execRepairRetrain (w : RegWrite) (s : State) : Out := .next (s.onWrite w .repRetrain (·.repair w 3))
/-- REPAIR_DONE (R68). -/
def execRepairDone (selfTestPass : Bool) (s : State) : Out :=
  .next (if s.ctl.repBusy ∧ s.ctl.repStarted then s.repairFinish selfTestPass else s)

end Sys2Proof.Machine
end

