-- ==== Sys2Proof/Machine/Command.lean ====
section
/-!
DEFINITION. Commands (04_command_interface R71-R91, R95): queue descriptors, taking commands, their order and semaphores,
indirect buffers, and what each command does.
-/
namespace Sys2Proof.Machine

/-! ## Queue descriptors (R71-R73) -/

/-- Reads a queue's descriptor when Uzoman first needs it (R72): one that cannot be read, or whose state block cannot, has
VALID at 0. HART is taken modulo 16, the model's choice for a byte above 15 (log 86). -/
def Fab.readDesc (ctl : Ctl) (f : Fab) (q : Nat) : Fab :=
  if (Table.get? f.queues q).isSome then f
  else
    let at_ := bitsOf ctl.uzqroot.toNat 47 12 * 2 ^ 12 + 64 * q
    let bad : UzQueue := ⟨false, false, 0, 0, 0, 0, 0, 0, false, 0, 0⟩
    if 64 ≤ q ∨ !memRange at_ 64 then { f with queues := Table.set f.queues q bad }
    else
      let (b, f) := f.agentRead ctl 0 at_ 64
      let state := fieldAt b 16 8
      let logn := fieldAt b 1 1
      if !bitAt (fieldAt b 0 1) 0 ∨ logn < 6 ∨ 16 < logn ∨ !memRange state 64 then { f with queues := Table.set f.queues q bad }
      else
        let (c, f) := f.agentRead ctl 0 (state + 4) 4
        let n := BitVec.ofNat 32 (leNat c)
        let d : UzQueue := ⟨true, bitAt (fieldAt b 0 1) 1, logn, fieldAt b 2 1, fieldAt b 3 1 % 16, fieldAt b 4 2, fieldAt b 8 8, state, false, n, n⟩
        { f with queues := Table.set f.queues q d }
/-- Whether a descriptor that has been read is a valid event queue. -/
def Fab.eventQueue (f : Fab) (q : Nat) : Bool := match Table.get? f.queues q with | some x => x.valid && x.event | none => false
/-- Whether a descriptor that has been read is a valid command queue. -/
def Fab.commandQueue (f : Fab) (x : UzQueue) : Bool := x.valid && !x.event && f.eventQueue x.evq
/-- Reads what a doorbell needs: the descriptor, and that of its event queue. -/
def Fab.readQueue (ctl : Ctl) (f : Fab) (q : Nat) : Fab :=
  let f := f.readDesc ctl q
  match Table.get? f.queues q with
  | some x => if x.valid ∧ !x.event then f.readDesc ctl x.evq else f
  | none => f
/-- Posts what waits for every event queue (R78). -/
def Fab.flushQueues (ctl : Ctl) (f : Fab) : Fab := (f.queues.map (·.1)).foldl (fun f q => f.flushQueue ctl q) f
/-- A doorbell for a queue: PRODUCED is read. -/
def Fab.bell (ctl : Ctl) (f : Fab) (q : Nat) : Fab :=
  let f := (f.readQueue ctl q).flushQueues ctl
  match Table.get? f.queues q with
  | some x =>
    if f.commandQueue x then
      { f with queues := Table.set f.queues q { x with avail := BitVec.ofNat 32 (f.peekNat ctl 0 x.state 4) } }
    else f
  | none => f

/-! ## Taking commands (R75, R78, R79, R85) -/

/-- Reads a command record (Table 4.3). -/
def CmdRec.parse (b : List Byte) : CmdRec :=
  ⟨BitVec.ofNat 32 (fieldAt b 0 4), BitVec.ofNat 8 (fieldAt b 4 1), BitVec.ofNat 8 (fieldAt b 5 1), BitVec.ofNat 16 (fieldAt b 6 2),
   BitVec.ofNat 64 (fieldAt b 8 8), BitVec.ofNat 64 (fieldAt b 16 8), BitVec.ofNat 64 (fieldAt b 24 8), BitVec.ofNat 64 (fieldAt b 32 8),
   sliceBytes b 0x28 24⟩
/-- Adds a command that has been taken. -/
def Fab.addCmd (f : Fab) (queue : Nat) (top : Word) (depth : Nat) (parent : Option Nat) (index : Nat) (chain : List (Nat × Nat)) (r : CmdRec) : Fab :=
  { f with cmds := f.cmds ++ [⟨f.nextId, queue, top, depth, parent, index, chain, r, false, false, 0, 0, none⟩], nextId := f.nextId + 1 }
/-- Whether an event queue is full, or has events that wait for room. -/
def Fab.eventFull (ctl : Ctl) (f : Fab) (q : Nat) : Bool :=
  f.posts.any (fun p => p.queue == q) || (match Table.get? f.queues q with | some x => !f.queueRoom ctl x | none => true)
/-- Takes the next command of a queue, where one is available and the one before it has started; a record with another SEQ
stops the queue. None where nothing is taken. The spec says what an unmapped descriptor or state block does, and not an unmapped ring: the
model stops the queue in the same way (log 69). -/
def Fab.takeCmd (ctl : Ctl) (f : Fab) (q : Nat) : Option Fab :=
  match Table.get? f.queues q with
  | none => none
  | some x =>
    let n := x.last + 1
    if !f.commandQueue x ∨ x.stopped ∨ !serialLe n x.avail ∨ f.eventFull ctl x.evq ∨
        f.cmds.any (fun c => c.queue == q && c.depth == 0 && !c.started) then none
    else
      let at_ := x.ring + 64 * (n.toNat % 2 ^ x.logn)
      let (b, f) : Option (List Byte) × Fab := if memRange at_ 64 then (let (b, f) := f.agentRead ctl 0 at_ 64; (some b, f)) else (none, f)
      match b.map CmdRec.parse with
      | some r =>
        if r.seq = n then
          let f := { f with queues := Table.set f.queues q { x with last := n } }
          some ((f.agentWrite ctl 0 (x.state + 4) (leBytes 4 n.toNat)).addCmd q n 0 none 0 [] r)
        else some (({ f with queues := Table.set f.queues q { x with stopped := true } } : Fab).agentWrite ctl 0 (x.state + 12) (leBytes 4 n.toNat))
      | none => some (({ f with queues := Table.set f.queues q { x with stopped := true } } : Fab).agentWrite ctl 0 (x.state + 12) (leBytes 4 n.toNat))

/-- The indices in hand of a failed CALL, for depths 1 to 4 (R86). -/
def callData (ix : List Nat) : List Byte := (List.range 4).flatMap (fun k => leBytes 2 (ix.getD k 0xFFFF))
/-- Takes a started CALL on by one record, or completes it (R85, R86). None where it has to wait. Its context may be destroyed while it runs:
its next record cannot be read then, and it completes with status 2, the model's choice (log 81). -/
def Fab.callGo (ctl : Ctl) (f : Fab) (c : Cmd) : Option Fab :=
  let mine := f.cmds.filter (fun x => x.parent == some c.id)
  match c.failed with
  | some (st, ix) =>
    if mine.any (fun x => !x.started) then some { f with cmds := f.cmds.filter (fun x => !(x.parent == some c.id && !x.started)) }
    else if mine.isEmpty then some (f.complete ctl c.id st.toNat true (callData ix))
    else none
  | none =>
    if mine.any (fun x => !x.started) then none
    else if c.next < c.count then
      match f.ctxRead ctl c.rec_.ctxId (fieldAt c.rec_.opnd 0 8 + 64 * c.next) 64 with
      | (some b, f) => some ((f.modCmd c.id (fun x => { x with next := x.next + 1 })).addCmd c.queue c.top (c.depth + 1) (some c.id) c.next c.chain (CmdRec.parse b))
      | (none, f) => some (Fab.failUp 2 5 (some c.id) [c.next] f)
    else if mine.isEmpty then some (f.complete ctl c.id 0 true [])
    else none

/-! ## Checks and order (R80, R81, R83, R84) -/

/-- Bytes of OPND that a command uses; none for an unknown OP. -/
def opndUsed (op : Nat) : Option Nat :=
  match op with | 1 => some 0 | 2 => some 8 | 3 => some 0 | 4 => some 8 | 5 => some 16 | 6 => some 10 | 7 => some 8 | 8 => some 8 | _ => none
/-- The status with which a command fails its checks, or 0 (R80, R81). The model's choices: 2 for any other command than those R82 names whose
context is destroyed while it waits (log 81); 9 for a REPLY to a token of an ended context, found before the command starts (log 82); 2 for a
WADDR or SADDR in use that is not aligned, found before the command starts (log 83). -/
def Fab.verdict (f : Fab) (r : CmdRec) : Nat :=
  match opndUsed r.op.toNat with
  | none => 1
  | some n =>
    if r.flags.toNat / 16 ≠ 0 ∨ r.ctx.toNat / 4096 ≠ 0 ∨ fieldAt r.opnd n (24 - n) ≠ 0 ∨ (r.op = 5 ∧ fieldAt r.opnd 0 4 / 64 ≠ 0) then 2
    else if (r.flags.getLsbD 1 ∧ r.waddr.toNat % 8 ≠ 0) ∨ (r.flags.getLsbD 2 ∧ r.saddr.toNat % 8 ≠ 0) then 2
    else if r.isCreate then 0
    else match f.ctx? r.ctxId with
      | none => 2
      | some x =>
        if !x.ended ∨ r.op = 3 then 0
        else if r.op = 7 ∧ x.stale.contains (BitVec.ofNat 32 (fieldAt r.opnd 0 4)) then 9
        else 8
/-- Whether a record is of a buffer the rest of which is skipped: its CALL has failed (R86). -/
def Fab.skipped (f : Fab) (c : Cmd) : Bool := (c.parent.bind f.cmd?).any (fun p => p.failed.isSome)
/-- Whether a command may start as far as the order of its queue or buffer goes: with SER, every earlier one has completed; a record that
is skipped never does. -/
def Fab.inOrder (f : Fab) (c : Cmd) : Bool :=
  !c.started && !f.skipped c && (!c.rec_.flags.getLsbD 3 || !f.cmds.any (fun x => x.queue == c.queue && x.parent == c.parent && x.id < c.id))
/-- Whether a command starts now: in order, and its semaphore condition met, unless it fails its checks. -/
def Fab.startable (f : Fab) (c : Cmd) : Bool := f.inOrder c && (f.verdict c.rec_ != 0 || !c.rec_.flags.getLsbD 1 || c.semOk)
/-- A command of a code that may start. -/
def Fab.startCmd? (f : Fab) (id op : Nat) : Option Cmd :=
  match f.cmd? id with
  | some c => if c.rec_.op.toNat = op ∧ f.startable c then some c else none
  | none => none

/-- One act of Uzoman that needs no event of its own: completing a command of an unknown OP, going on with a CALL, taking a
command. -/
def Fab.uzOne (ctl : Ctl) (f : Fab) : Option Fab :=
  match f.cmds.find? (fun c => opndUsed c.rec_.op.toNat == none && f.inOrder c) with
  | some c => some (f.complete ctl c.id 1 false [])
  | none =>
    match (f.cmds.filter (fun c => c.rec_.op == 6 && c.started)).findSome? (fun c => f.callGo ctl c) with
    | some f => some f
    | none => (f.queues.map (·.1)).findSome? (fun q => f.takeCmd ctl q)
/-- Uzoman takes what commands are available; `fuel` bounds its acts in one step. -/
def Fab.uzTake (ctl : Ctl) (f : Fab) : Nat → Fab
  | 0 => f
  | n + 1 => match f.uzOne ctl with | some f => f.uzTake ctl n | none => f
/-- What Uzoman does in every step while it runs. -/
def State.uzSettle (s : State) : State := if s.ctl.uzRuns then { s with fab := s.fab.uzTake s.ctl 4096 } else s

/-! ## The commands (Table 4.4) -/

/-- Runs a command that may start: one that fails its checks completes with its status, has no effect and signals nothing; so does a REPLY of
status 9 for an ended context (log 82). -/
def State.runCmd (s : State) (id op : Nat) (h : Cmd → Fab → Fab) : State :=
  match s.ctl.uzRuns, s.fab.startCmd? id op with
  | true, some c =>
    let v := s.fab.verdict c.rec_
    if v ≠ 0 then { s with fab := s.fab.complete s.ctl id v false [] }
    else { s with fab := h c (s.fab.modCmd id (fun x => { x with started := true })) }
  | _, _ => s
/-- The 8-byte operand at an offset of OPND. -/
def CmdRec.operand (r : CmdRec) (i : Nat) : Nat := fieldAt r.opnd i 8

/-- A context from its descriptor (Table 4.7). -/
def Ctx.ofBytes (id : Nat) (b : List Byte) : Ctx where
  id := id
  ended := false
  unord := BitVec.ofNat 8 (fieldAt b 0 1)
  evq := fieldAt b 1 1
  sysId := fieldAt b 2 2
  irqId := fieldAt b 4 2
  sysHart := fieldAt b 6 1 % 16
  irqHart := fieldAt b 6 1 / 16
  ovfl := fieldAt b 7 1
  ptroot := fieldAt b 8 8
  seed := BitVec.ofNat 32 (fieldAt b 0x10 4)
  trapTab := BitVec.ofNat 64 (fieldAt b 0x18 8)
  faultQ := BitVec.ofNat 64 (fieldAt b 0x20 8)
  sysQ := BitVec.ofNat 64 (fieldAt b 0x28 8)
  peerT := BitVec.ofNat 64 (fieldAt b 0x30 8)
  mcastT := BitVec.ofNat 64 (fieldAt b 0x38 8)
  ovflA := BitVec.ofNat 64 (fieldAt b 0x40 8)
  incCfg := sliceBytes b 0x60 16
  incLink := (List.range 16).map (fun i => BitVec.ofNat 16 (fieldAt b (0x70 + 2 * i) 2))
  incInit := (List.range 16).map (fun i => BitVec.ofNat 64 (fieldAt b (0x90 + 8 * i) 8))
  incMod := (List.range 16).map (fun i => BitVec.ofNat 64 (fieldAt b (0x90 + 8 * i) 8))
  offerDue := List.replicate 16 false
  offerAt := List.replicate 16 none
  gen := 0
  routines := []
  parked := []
  ovflUsed := 0
  stale := []
/-- Whether a descriptor passes R89, beside its event queue. Only addresses with a stated alignment can be misaligned: TRAPTAB, FAULTQ, PEERT
and MCASTT have none (log 85). -/
def Ctx.acceptable (x : Ctx) : Bool :=
  decide (1 ≤ x.sysId) && decide (x.sysId ≤ 2047) && decide (1 ≤ x.irqId) && decide (x.irqId ≤ 2047) &&
    decide (16 ≤ x.ovfl) && decide (x.ovfl ≤ 32) && x.ptroot % 16384 == 0 && x.sysQ.toNat % 64 == 0 && x.ovflA.toNat % 2 ^ x.ovfl == 0
/-- Removes what an ID's former context may have left: replicas, translations, instruction words, sending flows. What the device has
received from a context of another device is kept (log 31). -/
def Fab.forgetCtx (f : Fab) (id : Nat) : Fab :=
  let own (p : Nat × DWord) : Bool := p.1 / 16 == id
  { f with
    replicas := f.replicas.map (fun r => (r.1, r.2.filter (fun p => !own p)))
    dieTlb := f.dieTlb.map (fun d => (d.1, d.2.filter (fun e => e.ctx != id)))
    sendFlows := f.sendFlows.filter (fun x => x.ctx != id)
    cores := f.cores.map (fun k => (k.1, { k.2 with
      incs := k.2.incs.filter (fun p => !own p)
      tlb := k.2.tlb.filter (fun e => e.ctx != id)
      icache := k.2.icache.filter (fun w => w.ctx != id)
      maps := Table.erase k.2.maps id })) }
/-- CREATE (R88, R89). -/
def Fab.cmdCreate (ctl : Ctl) (f : Fab) (c : Cmd) : Fab :=
  let id := c.rec_.ctxId
  let pa := c.rec_.operand 0
  if (f.ctx? id).isSome then f.complete ctl c.id 4 true []
  else if !memRange pa 512 then f.complete ctl c.id 2 true []
  else
    let (b, f) := f.agentRead ctl 0 pa 512
    let x := Ctx.ofBytes id b
    let f := f.readDesc ctl x.evq
    if !x.acceptable ∨ !f.eventQueue x.evq then f.complete ctl c.id 2 true []
    else
      let f := f.forgetCtx id
      ({ f with ctxs := f.ctxs ++ [x] } : Fab).complete ctl c.id 0 true []
/-- DESTROY (R82, R381): grids end with status 10, those too whose RESUMEs wait in a context that has ended, packets that wait are answered
REVOKED, SVAL is stored through the context's page tables, pins are released, and the ID is free. -/
def Fab.cmdDestroy (ctl : Ctl) (f : Fab) (c : Cmd) : Fab :=
  let id := c.rec_.ctxId
  let f := (f.contextEnd ctl id 10).endGrids ctl id 10
  let (ok, f) := if c.rec_.flags.getLsbD 2 then f.semStore ctl c.rec_ else (true, f)
  let f := f.forgetCtx id
  let f := { f with
    ctxs := f.ctxs.filter (fun x => x.id != id)
    grids := f.grids.filter (fun g => g.ctx != id)
    l2 := f.l2.map (fun (l : L2Line) => if l.pin == some id then { l with pin := none } else l) }
  f.complete ctl c.id (if ok then 0 else 2) false []

/-- The grid that a RESUME starts. -/
def ImgHead.grid (h : ImgHead) (id : Nat) (c : Cmd) (saved : List (Nat × Team)) : Grid where
  id := id
  ctx := c.rec_.ctxId
  cmd := c.id
  queue := c.queue
  seq := c.top
  firstQueue := if h.full then h.gqueue else c.queue
  firstSeq := if h.full then h.gseq else c.top
  full := h.full
  image := BitVec.ofNat 64 (c.rec_.operand 0)
  code := BitVec.ofNat 48 h.code
  entry := BitVec.ofNat 48 h.entry
  w := h.w
  gprod := h.gprod
  gcons := h.gcons
  rprod := h.rprod
  rcons := h.rcons
  hitch := h.hitch
  scratch := h.scratch
  nteams := h.nteams
  incidx := BitVec.ofNat 4 h.incidx
  bounded := h.bounded
  ntq := h.ntq
  bound0 := h.bound0
  tqs := h.tqs
  args := h.args
  tasks := h.tasks
  teamsVa := BitVec.ofNat 64 h.teams
  records := h.records
  nextTeam := if h.full then h.next else 0
  disc := if h.full then h.disc else 0
  canc := if h.full then h.canc else 0
  exitedTeams := 0
  preempt := none
  saved := saved
  ended := false
  preempted := false
/-- RESUME (R90, R91): the image is read and validated, and the grid's hitches join the placement queue, behind those of
RESUMEs taken before it (R100). -/
def Fab.cmdResume (ctl : Ctl) (f : Fab) (c : Cmd) : Fab :=
  let ctx := c.rec_.ctxId
  match f.ctxRead ctl ctx (c.rec_.operand 0) 256 with
  | (none, f) => f.complete ctl c.id 2 true (leBytes 16 0)
  | (some b, f) =>
    let h := ImgHead.parse b
    if !h.ok b then f.complete ctl c.id 5 true (leBytes 16 0)
    else
      let gid := f.nextId
      let f := { f with nextId := gid + 1 }
      match f.readTeams ctl ctx gid h with
      | (.status n, f) => f.complete ctl c.id n true (leBytes 16 0)
      | (.teams ts, f) =>
        let g := h.grid gid c (ts.foldl (fun l t => insertTeam t l) [])
        let done := (ts.filter (fun t => g.hitchOver (t.1 / g.hitch))).length
        let f := ({ f with grids := f.grids ++ [{ g with exitedTeams := done }] } : Fab).enterHitch ⟨gid, 0, true⟩
        if g.nteams ≤ done then f.gridEnd ctl gid else f

/-- The command that a PREEMPT names: one that has been taken and has not completed. -/
def Fab.named (f : Fab) (c : Cmd) : Option Cmd :=
  f.cmds.find? (fun x => x.depth == 0 && x.queue == bitsOf (fieldAt c.rec_.opnd 0 4) 5 0 && x.top.toNat == fieldAt c.rec_.opnd 4 4)
/-- A PREEMPT of a RESUME that has not started (R82): a full image without new team records. The RESUME reports the counts of a full image
that it names (R131), and its grid counts as stopped by a PREEMPT (R46). -/
def Fab.preemptUnstarted (ctl : Ctl) (f : Fab) (c t : Cmd) : Fab :=
  let va := c.rec_.operand 8
  let (ok, counts, f) := match f.ctxRead ctl t.rec_.ctxId (t.rec_.operand 0) 256 with
    | (none, f) => (false, leBytes 16 0, f)
    | (some b, f) =>
      let h := ImgHead.parse b
      let f : Fab := { f with grids := f.grids ++ [{ h.grid f.nextId t [] with ended := true, preempted := true }], nextId := f.nextId + 1 }
      let (ok, f) := f.ctxWrite ctl c.rec_.ctxId va (if h.full then b else fullHeader b 0 0 0 t.top t.queue h.tasks 0 0)
      (ok, if h.full then sliceBytes b 0xB8 16 else leBytes 16 0, f)
  let f := f.complete ctl t.id 7 true counts
  f.complete ctl c.id (if ok then 0 else 2) true []
/-- The clusters that hold teams of a grid, or toward which a hitch of it is on its way (R109). -/
def Fab.clustersOf (f : Fab) (gid : Nat) : List Nat :=
  (List.range 48).filter (fun cl =>
    (List.range 8).any (fun j => match (f.core (8 * cl + j)).team with | some x => x.grid == gid | none => false) ||
    (match f.links[cl]? with | some k => (k.down ++ k.held).any (fun m => m.type == 0x01 && m.grid == gid) | none => false))
/-- PREEMPT (R82, R109). One that has to wait for a permit of a link starts later (R98). Its grid counts as stopped (R46) from its start, not
from the moment at which the command is taken off its queue: the model's reading of a PREEMPT that waits (log 80). -/
def Fab.cmdPreempt (ctl : Ctl) (f : Fab) (c : Cmd) : Fab :=
  match f.named c with
  | none => f.complete ctl c.id 2 true []
  | some t =>
    if t.rec_.op ≠ 4 then f.complete ctl c.id 2 true []
    else if !t.started then f.preemptUnstarted ctl c t
    else match f.grids.find? (fun g => g.cmd == t.id && !g.ended) with
      | none => f.complete ctl c.id 2 true []
      | some g =>
        if g.preempt.isSome then f
        else
          let asked := f.clustersOf g.id
          let image := BitVec.ofNat 64 (c.rec_.operand 8)
          if !asked.all f.downFree then f.modCmd c.id (fun x => { x with started := false })
          else
            let f := { f with placement := f.placement.filter (fun h => h.grid != g.id) }
            let f := f.modGrid g.id (fun x => { x with preempt := some (c.id, image, asked), preempted := true })
            let f := asked.foldl (fun f cl => f.sendDown cl ⟨0x04, 0, g.ctx, g.seq, g.id, 0, 0, 0, 0, false⟩) f
            f.preemptFinish ctl g.id
/-- Whether two byte ranges overlap. -/
def rangesMeet (a b : Nat × Nat) : Bool := decide (a.1 < b.1 + b.2) && decide (b.1 < a.1 + a.2)
/-- CALL (R85): its records are taken one after another. One that fails itself, with no record in hand, has DATA of zeros, the model's choice:
R86 gives the DATA of one whose record fails (log 69). -/
def Fab.cmdCall (ctl : Ctl) (f : Fab) (c : Cmd) : Fab :=
  let va := c.rec_.operand 0
  let n := fieldAt c.rec_.opnd 8 2
  if va % 64 ≠ 0 ∨ n = 0 ∨ 4096 < n then f.complete ctl c.id 2 true []
  else if 4 ≤ c.depth ∨ c.chain.any (fun r => rangesMeet r (va, 64 * n)) then f.complete ctl c.id 3 true []
  else f.modCmd c.id (fun x => { x with count := n, chain := x.chain ++ [(va, 64 * n)] })
/-- The lane parked in `syscall` with a token: core, slot and lane. -/
def Fab.tokenLane (f : Fab) (ctx : Nat) (tok : Word) : Option (Nat × Nat × Nat) :=
  f.cores.findSome? (fun k => match k.2.team with
    | none => none
    | some t => if t.ctx != ctx then none else (t.groups.mapIdx (fun s g => (s, g))).findSome? (fun p =>
        (p.2.numbered.find? (fun l => match l.2.park with | some (.syscall (some x) _) => x == tok | _ => false)).map (fun l => (k.1, p.1, l.1))))
/-- REPLY (R95). -/
def Fab.cmdReply (ctl : Ctl) (f : Fab) (c : Cmd) : Fab :=
  let tok := BitVec.ofNat 32 (fieldAt c.rec_.opnd 0 4)
  let ctx := c.rec_.ctxId
  match f.tokenLane ctx tok, f.ctx? ctx with
  | some (k, s, l), _ =>
    let f := f.writeReg k s 0 [(l, ⟨BitVec.ofNat 32 (fieldAt c.rec_.opnd 4 4), .raw⟩)]
    let f := (f.modGroup k s (fun g => { g with lanes := modAt g.lanes l (·.unpark) })).openWindow k s l
    f.complete ctl c.id 0 true []
  | none, some x =>
    if x.stale.contains tok then (f.modCtx ctx (fun x => { x with stale := x.stale.erase tok })).complete ctl c.id 9 true []
    else f.complete ctl c.id 2 true []
  | none, none => f.complete ctl c.id 2 true []
/-- STAMP. -/
def Fab.cmdStamp (ctl : Ctl) (f : Fab) (c : Cmd) : Fab :=
  let (ok, f) := f.ctxWrite ctl c.rec_.ctxId (c.rec_.operand 0) (leBytes 8 f.time.toNat)
  f.complete ctl c.id (if ok then 0 else 2) true []
/-- COMMAND_SEMAPHORE_START: a semaphore that cannot be read fails its command, which then stores its SVAL as one that completes does (R84):
the commands that R80 exempts from that are those which fail their checks. -/
def Fab.semStart (ctl : Ctl) (f : Fab) (id : Nat) : Fab :=
  match f.cmd? id with
  | none => f
  | some c =>
    if !f.inOrder c ∨ f.verdict c.rec_ ≠ 0 ∨ !c.rec_.flags.getLsbD 1 ∨ c.semOk then f
    else match f.semRead ctl c.rec_ with
      | (none, f) => f.complete ctl id 2 true []
      | (some v, f) => if c.rec_.wval.toNat ≤ v then f.modCmd id (fun x => { x with semOk := true }) else f

/-! ## A restart of Uzoman (R77) -/

/-- Adds 1 to EPOCH of a queue state block. -/
def Fab.bumpEpoch (ctl : Ctl) (f : Fab) (x : UzQueue) : Fab :=
  if !x.valid then f
  else
    let (b, f) := f.agentRead ctl 0 (x.state + 8) 4
    f.agentWrite ctl 0 (x.state + 8) (leBytes 4 (leNat b + 1))
/-- Every context ends, each taken command that had not completed is aborted, and EPOCH advances. -/
def Fab.restartUzoman (ctl : Ctl) (f : Fab) : Fab :=
  let cut := f.cmds.filter (fun c => c.depth == 0)
  let f := f.ctxs.foldl (fun (f : Fab) c => f.contextEnd ctl c.id 8) { f with cmds := [], placement := [] }
  let f := cut.foldl (fun f c => match Table.get? f.queues c.queue with
    | some q => f.post ctl ⟨q.evq, eventBytes 4 8 c.rec_.ctxId c.top c.queue [], none⟩
    | none => f) f
  let f := f.queues.foldl (fun (f : Fab) q => f.bumpEpoch ctl q.2) f
  { f with links := f.links.map (fun _ => Lanyard.fresh) }

/-- After a pause Uzoman takes commands again: doorbells of the pause first, then a repair that waited (R66, R69). -/
def State.afterPause (s : State) : State :=
  let f := s.ctl.bells.foldl (fun f q => f.bell s.ctl q) s.fab
  ({ s with ctl := { s.ctl with bells := [] }, fab := f } : State).repairResume

/-! ## Meanings -/

/-- UZBELL_WRITE (R71, R72). -/
def execUzbellWrite (w : RegWrite) (s : State) : Out :=
  let q := (writeData w).toNat % 64
  .next (s.onWrite w .bell (fun s =>
      let s : State := { s with ctl := { s.ctl with belled := true } }
      if s.ctl.uzRuns then { s with fab := s.fab.bell s.ctl q } else { s with ctl := { s.ctl with bells := s.ctl.bells ++ [q] } }))
/-- UPDATE_ALIVE (R63): the new kernel accepts the table and is alive within 150 µs. -/
def execUpdateAlive (s : State) : Out :=
  .next (if s.ctl.updPhase = .paused ∧ !s.updateDead then
    ({ s with ctl := { s.ctl.updateEnd 1 with runver := s.ctl.updVer, uzHalf := (s.ctl.uzHalf + 1) % 2 }, fab := s.fab.count 0x20 } : State).afterPause
  else s)
/-- UPDATE_WATCHDOG (R65): the old image runs again with the same table. -/
def execUpdateWatchdog (s : State) : Out :=
  .next (if s.ctl.updPhase = .paused ∧ s.updateDead then
    let refused := s.tableRefused
    let f := if refused then s.fab else s.fab.count 0x28
    ({ s with ctl := s.ctl.updateEnd (if refused then 4 else 5), fab := f } : State).afterPause
  else s)
/-- UZOMAN_WATCHDOG_RESTART (R77). -/
def execUzomanWatchdogRestart (s : State) : Out :=
  .next (if s.ctl.uzRuns then { s with fab := s.fab.restartUzoman s.ctl } else s)
/-- NOP (Table 4.4). -/
def execCmdNop (cmd : Nat) (s : State) : Out := .next (s.runCmd cmd 1 (fun c f => f.complete s.ctl c.id 0 true []))
/-- CREATE (R88). -/
def execCmdCreate (cmd : Nat) (s : State) : Out := .next (s.runCmd cmd 2 (fun c f => f.cmdCreate s.ctl c))
/-- DESTROY (R82). -/
def execCmdDestroy (cmd : Nat) (s : State) : Out := .next (s.runCmd cmd 3 (fun c f => f.cmdDestroy s.ctl c))
/-- RESUME (R90). -/
def execCmdResume (cmd : Nat) (s : State) : Out := .next (s.runCmd cmd 4 (fun c f => f.cmdResume s.ctl c))
/-- PREEMPT (R82). -/
def execCmdPreempt (cmd : Nat) (s : State) : Out := .next (s.runCmd cmd 5 (fun c f => f.cmdPreempt s.ctl c))
/-- CALL (R85). -/
def execCmdCall (cmd : Nat) (s : State) : Out := .next (s.runCmd cmd 6 (fun c f => f.cmdCall s.ctl c))
/-- REPLY (R95). -/
def execCmdReply (cmd : Nat) (s : State) : Out := .next (s.runCmd cmd 7 (fun c f => f.cmdReply s.ctl c))
/-- STAMP (Table 4.4). -/
def execCmdStamp (cmd : Nat) (s : State) : Out := .next (s.runCmd cmd 8 (fun c f => f.cmdStamp s.ctl c))
/-- COMMAND_SEMAPHORE_START (R84). -/
def execCommandSemaphoreStart (cmd : Nat) (s : State) : Out :=
  .next (if s.ctl.uzRuns then { s with fab := s.fab.semStart s.ctl cmd } else s)
/-- EVENT_QUEUE_RECHECK (R78). -/
def execEventQueueRecheck (q : Nat) (s : State) : Out := .next (if s.ctl.uzRuns then { s with fab := s.fab.flushQueue s.ctl q } else s)

end Sys2Proof.Machine
end

