-- ==== Sys2Proof/Machine/Control.lean ====
section
/-!
DEFINITION. Branches and rejoin masks (14_isa_control_system R286-R289).
-/
namespace Sys2Proof.Machine

/-! ## Branches -/

/-- Moves lanes to a target each, with a priority where the transfer gives one (R146, R286). -/
def Iss.transfer (i : Iss) (f : Fab) (targets : List (Nat × Addr)) (prio : Option Byte) : Fab :=
  i.mod f (fun g => { g with lanes := targets.foldl (fun ls t =>
    modAt ls t.1 (fun x => { x with pc := t.2, prio := prio.getD x.prio })) g.lanes })

/-- The target of a PC-relative branch (R245, R250). -/
def Iss.target (i : Iss) (tgt : BitVec 32) : Addr := i.pc + tgt.signExtend 48

/-- A PC-relative branch of the lanes that take it (R286). -/
def Iss.branch (i : Iss) (f : Fab) (x : XbForm) (taken : List Nat) : Res :=
  .done (i.transfer f (taken.map (fun l => (l, i.target x.tgt))) (some x.prio))

/-- A transfer of every active lane to the value of its pair (R288): bits [63:48] are checked first, then bits [1:0]. -/
def Iss.indirect (i : Iss) (f : Fab) (value : Nat → Nat) (prio : Option Byte) : Res :=
  let wide := i.active.filter (fun l => 2 ^ 48 ≤ value l)
  let odd := i.active.filter (fun l => value l % 4 != 0)
  match wide, odd with
  | l :: ls, _ => .trap (.addr 0x0A (l :: ls) (value l))
  | [], l :: ls => .trap (.addr 0x0B (l :: ls) (value l))
  | [], [] => .done (i.transfer f (i.active.map (fun l => (l, BitVec.ofNat 48 (value l)))) prio)

/-- `jmp`. -/
def bodyJmp (x : XbForm) (i : Iss) (_ : Ctl) (f : Fab) : Res := i.branch f x i.active
/-- `call`: the link pair, then the transfer (R288). -/
def bodyCall (x : XbForm) (i : Iss) (_ : Ctl) (f : Fab) : Res :=
  let link := natRegs .n64 2 (i.pc + 12#48).toNat
  i.branch (i.put f x.d.toNat (i.active.map (fun l => (l, link)))) x i.active
/-- `bnz` and `bz`. -/
def bodyBcond (nz : Bool) (x : XbForm) (i : Iss) (_ : Ctl) (f : Fab) : Res :=
  i.branch f x (i.active.filter (fun l => ((i.reg f x.d.toNat l).val != 0) == nz))
/-- `brx`. -/
def bodyBrx (x : XbForm) (i : Iss) (_ : Ctl) (f : Fab) : Res := i.indirect f (fun l => i.regNat f x.d.toNat 2 l) (some x.prio)
/-- `ret`. -/
def bodyRet (x : XrForm) (i : Iss) (_ : Ctl) (f : Fab) : Res := i.indirect f (fun l => i.srcA f x 2 l) none

/-- JMP_SB (R286). -/
def execJmpSb (f : SbForm) (s : State) : Out := run (.sb 0x68 f) noGate (bodyJmp f.toXb) s
/-- JMP_XB (R286). -/
def execJmpXb (f : XbForm) (s : State) : Out := run (.xb 0x68 f) noGate (bodyJmp f) s
/-- CALL_XB (R288). -/
def execCallXb (f : XbForm) (s : State) : Out := run (.xb 0x69 f) noGate (bodyCall f) s
/-- RET_XR (R288). -/
def execRetXr (f : XrForm) (s : State) : Out := run (.xr 0x6A f) noGate (bodyRet f) s
/-- BNZ_XB (R286). -/
def execBnzXb (f : XbForm) (s : State) : Out := run (.xb 0x6B f) noGate (bodyBcond true f) s
/-- BZ_XB (R286). -/
def execBzXb (f : XbForm) (s : State) : Out := run (.xb 0x6C f) noGate (bodyBcond false f) s
/-- BRX_XB (R288). -/
def execBrxXb (f : XbForm) (s : State) : Out := run (.xb 0x6D f) noGate (bodyBrx f) s

/-! ## Rejoin masks (R147, R289) -/

/-- Changes the active lanes of the issuing group. -/
def Iss.eachActive (i : Iss) (f : Fab) (h : Lane → Lane) : Fab :=
  i.mod f (fun g => { g with lanes := g.lanes.mapIdx (fun l x => if i.active.contains l then h x else x) })

/-- `jenr`: the active lanes enrol. -/
def bodyJenr (x : XrForm) (i : Iss) (_ : Ctl) (f : Fab) : Res :=
  .done (i.eachActive f (fun l => { l with enrolled := setJ l.enrolled x.s true }))
/-- `jwait`: trap 0x15 for lanes that are not enrolled; else the active lanes arrive and park until the mask releases. -/
def bodyJwait (x : XrForm) (i : Iss) (_ : Ctl) (f : Fab) : Res :=
  let bad := i.active.filter (fun l => match f.lane? i.core i.slot l with | some y => !jbit y.enrolled x.s | none => false)
  if i.active.isEmpty then .done f
  else if !bad.isEmpty then .trap (.plain 0x15 0 bad)
  else
    let f := i.eachActive f (fun l =>
      { l with arrived := setJ l.arrived x.s true, park := some (.jwait x.sub), parkNext := l.pc })
    .done (i.mod f (fun g => g.releaseMask x.s))
/-- `jstr`: both bits of the active lanes clear, and the mask releases if the remaining lanes have arrived. -/
def bodyJstr (x : XrForm) (i : Iss) (_ : Ctl) (f : Fab) : Res :=
  if i.active.isEmpty then .done f
  else
    let f := i.eachActive f (fun l => { l with enrolled := setJ l.enrolled x.s false, arrived := setJ l.arrived x.s false })
    .done (i.mod f (fun g => g.releaseMask x.s))
/-- `jmov`: the enrolled bits of the mask, in a pair for W = 64. -/
def bodyJmov (x : XrForm) (i : Iss) (_ : Ctl) (f : Fab) : Res :=
  let m := match f.group? i.core i.slot with
    | some g => maskOf ((List.range i.w).filter (fun l => match g.lanes[l]? with | some y => jbit y.enrolled x.s | none => false))
    | none => 0
  i.pure f x.d.toNat (fun _ => natRegs .bits (if i.w = 64 then 2 else 1) m.toNat)

/-- JENR_XR (R289). -/
def execJenrXr (f : XrForm) (s : State) : Out := run (.xr 0x6E f) noGate (bodyJenr f) s
/-- JWAIT_XR (R289). -/
def execJwaitXr (f : XrForm) (s : State) : Out := run (.xr 0x6F f) noGate (bodyJwait f) s
/-- JSTR_XR (R289). -/
def execJstrXr (f : XrForm) (s : State) : Out := run (.xr 0x70 f) noGate (bodyJstr f) s
/-- JMOV_XR (R289). -/
def execJmovXr (f : XrForm) (s : State) : Out := run (.xr 0x71 f) noGate (bodyJmov f) s

end Sys2Proof.Machine
end

