-- ==== Sys2Proof/Machine/CrossLane.lean ====
section
/-!
DEFINITION. Knot packing and the cross-lane instructions (13_isa_arithmetic R281-R285).
-/
namespace Sys2Proof.Machine

/-! ## Knot blocks in segments of 16 lanes (R281) -/

/-- Segments of a group that hold an active lane. -/
def Iss.segments (i : Iss) : List Nat := (List.range (i.w / 16)).filter (fun g => i.active.any (fun l => l / 16 == g))
/-- The value that lane `16g + j` reads through A. -/
def Iss.segReg (i : Iss) (fab : Fab) (f : XrForm) (g j : Nat) : Reg := (fab.source i f.a.toNat 1 f.ra (16 * g + j)).headD .zero
/-- Active lanes of the segments in which a value read fails its tag check. -/
def Iss.segFails (i : Iss) (fab : Fab) (f : XrForm) (fam : Fam) (n : Nat) : List Nat :=
  let bad := i.segments.filter (fun g => (List.range n).any (fun j => !famAccepts fam (i.segReg fab f g j).tag))
  i.active.filter (fun l => bad.contains (l / 16))

/-- `kpack`. -/
def bodyKpack (f : XrForm) (i : Iss) (_ : Ctl) (fab : Fab) : Res :=
  let fails := i.segFails fab f .f32 16
  if !fails.isEmpty then .trap (.plain 0x04 1 fails)
  else
    let blocks := (List.range (i.w / 16)).map (fun g =>
      if i.segments.contains g then
        knotPack (knotWidth f.s) ((List.range 16).map (fun j => Fmt.f32.unpack (i.segReg fab f g j).val.toNat)) else (0, 0))
    i.pure fab f.d.toNat (fun l =>
      let b := blocks.getD (l / 16) (0, 0)
      let j := l % 16
      natRegs .bits 1 (if j < 4 then b.1 / 2 ^ (32 * j) else if j = 4 then b.2 else 0))
/-- `kunp`. -/
def bodyKunp (f : XrForm) (i : Iss) (_ : Ctl) (fab : Fab) : Res :=
  let fails := i.segFails fab f .int32 5
  if !fails.isEmpty then .trap (.plain 0x04 1 fails)
  else
    let w := knotWidth f.s
    i.pure fab f.d.toNat (fun l =>
      let word (j : Nat) : Nat := (i.segReg fab f (l / 16) j).val.toNat
      let field := (word 0 + 2 ^ 32 * word 1 + 2 ^ 64 * word 2 + 2 ^ 96 * word 3) % 2 ^ (16 * w)
      natRegs .f32 1 (Fmt.f32.ofVal .rne (knotVal w field (word 4 % 65536) (l % 16))).1)

/-! ## Combinations (Table 13.6) -/

/-- Identity of a lane operation. -/
def laneIdentity (op : Nat) : Nat :=
  match op with
  | 1 => 0x7FFFFFFF | 2 => 0x80000000 | 3 => 0xFFFFFFFF | 5 => 0xFFFFFFFF | 8 => 0x80000000 | 9 => 0x7F800000 | 10 => 0xFF800000
  | _ => 0
/-- Tag that a lane operation writes. -/
def laneTag (op : Nat) : Tag :=
  match op with
  | 0 => .i32 | 1 => .i32 | 2 => .i32 | 3 => .n32 | 4 => .n32 | 8 => .f32 | 9 => .f32 | 10 => .f32 | 11 => .i64 | _ => .bits
/-- A lane operation on two values. -/
def laneCombine (op a b : Nat) : Nat × FFlags :=
  let s : IFmt := ⟨true, 32⟩
  match op with
  | 0 => ((a + b) % 2 ^ 32, .none)
  | 1 => (if s.val b < s.val a then b else a, .none)
  | 2 => (if s.val a < s.val b then b else a, .none)
  | 3 => (min a b, .none)
  | 4 => (max a b, .none)
  | 5 => (a &&& b, .none)
  | 6 => (a ||| b, .none)
  | 7 => (a ^^^ b, .none)
  | 8 => Fmt.f32.add .rne (Fmt.f32.unpack a) (Fmt.f32.unpack b)
  | 9 => Fmt.f32.minmax false a b
  | 10 => Fmt.f32.minmax true a b
  | _ => ((a + b) % 2 ^ 64, .none)

/-- One level of a pairwise tree: neighbours combine, and an unpaired last value passes up. -/
def treeLevel (op : Nat) : List Nat → List Nat × FFlags
  | a :: b :: t =>
    let r := laneCombine op a b
    let u := treeLevel op t
    (r.1 :: u.1, r.2.or u.2)
  | l => (l, .none)
/-- The pairwise tree over up to 2^n values; levels beyond the last change nothing (R284). -/
def treeFold (op : Nat) : Nat → List Nat → Nat × FFlags
  | 0, l => (l.headD 0, .none)
  | n + 1, l =>
    let r := treeLevel op l
    let u := treeFold op n r.1
    (u.1, r.2.or u.2)

/-- `lscan` (R283): the chain over active lanes in ascending order. -/
def bodyLscan (f : XrForm) (i : Iss) (_ : Ctl) (fab : Fab) : Res :=
  let op := f.s % 8
  let out := i.active.foldl (fun (acc : Nat × List (Nat × List Reg)) l =>
    let new := (laneCombine op acc.1 (i.srcA fab f 1 l)).1
    (new, acc.2 ++ [(l, natRegs (laneTag op) 1 (if 8 ≤ f.s then acc.1 else new))])) (laneIdentity op, [])
  .done (i.put fab f.d.toNat out.2)
/-- `lred` (R284): the fixed tree over all lanes, inactive ones at the identity. -/
def bodyLred (f : XrForm) (i : Iss) (_ : Ctl) (fab : Fab) : Res :=
  let n := if f.s = 11 then 2 else 1
  let xs := (List.range i.w).map (fun l => if i.active.contains l then i.srcA fab f n l else laneIdentity f.s)
  let r := treeFold f.s i.w xs
  i.lanewise fab f.d.toNat (fun _ => (natRegs (laneTag f.s) n r.1, r.2.conds))

/-- Active lanes whose A is not zero. -/
def Iss.truthy (i : Iss) (fab : Fab) (f : XrForm) : List Nat := i.active.filter (fun l => i.srcA fab f 1 l != 0)
/-- Registers of a lane mask (R282). -/
def Iss.maskRegs (i : Iss) (m : BitVec 64) : List Reg := natRegs .bits (if i.w = 64 then 2 else 1) m.toNat
/-- `vote` (R285). -/
def bodyVote (f : XrForm) (i : Iss) (_ : Ctl) (fab : Fab) : Res :=
  let n := (i.truthy fab f).length
  let all := n == i.active.length
  let v := match f.s with
    | 0 => if n = 0 then 0 else 1
    | 1 => if all then 1 else 0
    | 2 => if all ∨ n = 0 then 1 else 0
    | _ => n
  i.pure fab f.d.toNat (fun _ => natRegs .n32 1 v)
/-- `bal` (R285). -/
def bodyBal (f : XrForm) (i : Iss) (_ : Ctl) (fab : Fab) : Res :=
  let t := i.truthy fab f
  i.pure fab f.d.toNat (fun l => i.maskRegs (maskOf (if f.s = 1 then t.filter (· < l) else t)))
/-- `match` (R285). -/
def bodyMatch (f : XrForm) (i : Iss) (_ : Ctl) (fab : Fab) : Res :=
  let n := if f.s < 2 then 1 else 2
  i.pure fab f.d.toNat (fun l =>
    let eq := i.active.filter (fun k => i.srcA fab f n k == i.srcA fab f n l)
    if f.s % 2 = 1 then natRegs .n32 1 (eq.headD 0) else i.maskRegs (maskOf eq))

/-! ## Meanings -/

/-- kpack converts 16 lanes into a knot block image (R281). -/
def execKpackXr (f : XrForm) (s : State) : Out := run (.xr 0x5C f) noGate (bodyKpack f) s
/-- kunp converts a knot block image into 16 f32 lanes (R281). -/
def execKunpXr (f : XrForm) (s : State) : Out := run (.xr 0x5D f) noGate (bodyKunp f) s
/-- lscan writes a prefix scan over the active lanes (R283). -/
def execLscanXr (f : XrForm) (s : State) : Out := run (.xr 0x60 f) noGate (bodyLscan f) s
/-- lred writes a reduction over the active lanes to each active lane (R284). -/
def execLredXr (f : XrForm) (s : State) : Out := run (.xr 0x61 f) noGate (bodyLred f) s
/-- vote writes or, and, same or count of A over the active lanes (R285). -/
def execVoteXr (f : XrForm) (s : State) : Out := run (.xr 0x62 f) noGate (bodyVote f) s
/-- bal writes the mask of active lanes whose A is non-zero (R285). -/
def execBalXr (f : XrForm) (s : State) : Out := run (.xr 0x63 f) noGate (bodyBal f) s
/-- match writes the mask or the leader of the lanes holding bit-identical values (R285). -/
def execMatchXr (f : XrForm) (s : State) : Out := run (.xr 0x64 f) noGate (bodyMatch f) s

end Sys2Proof.Machine
end

