-- ==== Sys2Proof/Machine/Ring.lean ====
section
/-!
DEFINITION. The die ring and the requests that slices serve (01_module R10, R11; 09_memory_hierarchy R186-R188, R194-R196):
stops and directions, virtual channels and the escape channel, the order of flows, REMAP.
-/
namespace Sys2Proof.Machine

/-! ## Stops and hops (R10, R11, R195) -/

/-- The stop at which a requester enters the ring: its core die's, or port die A's for the device (log 60). -/
def reqStop (r : SliceReq) : Nat := match r.core with | some c => dieStop (c / 48) | none => 0
/-- Whether a packet takes the direction of increasing stop number: the one with fewer hops, and this one at five (R11). -/
def ringUp (src dst : Nat) : Bool := decide ((dst + 10 - src) % 10 ≤ 5)
/-- The neighbour that a packet goes to next (Table 1.1). -/
def RingPacket.next (p : RingPacket) : Nat := if p.up then (p.stop + 1) % 10 else (p.stop + 9) % 10
/-- One hop of 6 fc that begins at an ac; at the dateline the packet moves to virtual channel 1 or to the second dateline class
of the escape channel (R10, R195). -/
def RingPacket.hop (p : RingPacket) (at_ : Nat) : RingPacket :=
  { p with stop := p.next, since := at_ + 12, vc := if p.next = 0 then 1 else p.vc }
/-- As far as a packet gets by an ac: it passes a stop without delay where a shared buffer is free on its channel, waits there
otherwise, and never waits in the escape channel. -/
def RingPacket.run (ac : Nat) : Nat → RingPacket → RingPacket
  | 0, p => p
  | n + 1, p =>
    if p.stop = p.dst ∨ ac < p.since then p
    else if p.escape || Config.ringBuffer p.since p.next p.vc then RingPacket.run ac n (p.hop p.since)
    else if Config.ringBuffer ac p.next p.vc then RingPacket.run ac n (p.hop ac)
    else p
/-- ESCAPE_CHANNEL: a packet that has waited 32 fc at a stop enters the escape channel (R195). -/
def RingPacket.escapes (p : RingPacket) (ac : Nat) : RingPacket :=
  if p.stop ≠ p.dst ∧ p.since + 64 ≤ ac then { p with escape := true } else p

/-! ## Flows (R196) -/

/-- Whether the reorder buffer of a stop, of 2,048 packets, has a credit for one more. -/
def Fab.ringRoom (f : Fab) (dst : Nat) : Bool := decide ((f.ring.filter (fun p => p.dst == dst)).length < 2048)
/-- Puts a packet on the ring, on virtual channel 0. -/
def Fab.ringSend (f : Fab) (src dst ctx flow : Nat) (ordered : Bool) (load : RingLoad) : Fab :=
  let x := f.ringFlow src dst ctx flow ordered
  { f.setFlow { x with sent := x.sent + 1 } with
    ring := f.ring ++ [⟨src, dst, ctx, flow, ordered, x.sent, load, src, f.ac, ringUp src dst, 0, false⟩] }

/-! ## Slices (R184-R188) -/

/-- The slice that a requester's map names for its request. -/
def Fab.sliceFor (ctl : Ctl) (f : Fab) (r : SliceReq) : Nat :=
  sliceOf (f.seedOf r.ctx) (match r.core with | some c => (f.mapOf ctl c r.ctx).out | none => ctl.outSlices) r.home r.pa.toNat
/-- Whether a group's request to a line is held behind one that was answered REMAP and has not been accepted again (R188), or that
is on its way to another slice. -/
def Fab.lineHeld (f : Fab) (core : Option Nat) (slot line : Nat) (slice : Option Nat) : Bool :=
  let same (r : SliceReq) : Bool := r.core == core && r.slot == slot && r.pa.toNat / 256 == line
  f.remaps.any (fun x => same x.req) || f.ring.any (fun p => match p.load with | .request r s _ => same r && slice != some s | .reply .. => false)
/-- Whether packets of a core's die and context are on their way on the ordered flow of a number, to whatever stop (R196). -/
def Fab.flowBusy (f : Fab) (c flow : Nat) : Bool :=
  f.ring.any (fun p => p.ordered && p.src == dieStop (c / 48) && p.flow == flow && (match (f.core c).team with | some t => p.ctx == t.ctx | none => false))
/-- The generation of a requester's copy of the map, which its requests carry (R187). -/
def Fab.reqGen (ctl : Ctl) (f : Fab) (r : SliceReq) : BitVec 16 :=
  match r.core with | some c => (f.mapOf ctl c r.ctx).gen | none => f.genOf r.ctx
/-- A request at a slice, with the generation that it carries (R187): a slice that is retiring or retired answers REMAP, and one that arrives
under a RETIRING key ID is refused (R58). A read is answered over the ring where its core is on another die. -/
def Fab.atSlice (ctl : Ctl) (f : Fab) (r : SliceReq) (slice : Nat) (gen : BitVec 16) : Fab :=
  if ctl.sliceOut slice then { f with remaps := f.remaps ++ [⟨r, gen⟩] }
  else if ctl.keyRefused r.key then f
  else match r.write with
    | some b => f.l2Write ctl r.core r.ctx r.key r.home r.pa.toNat b
    | none =>
      let (b, f) := f.l2Read ctl r.core r.ctx r.key r.home r.pa.toNat r.len
      if (reqStop r) = dieStop (slice / 48) then { f with replies := f.replies ++ [(r, b)] }
      else f.ringSend (dieStop (slice / 48)) (reqStop r) r.ctx (r.pa.toNat / 256 % 8) false (.reply r b)
/-- Whether a request can be sent towards its slice now. -/
def Fab.sendable (ctl : Ctl) (f : Fab) (r : SliceReq) : Bool :=
  let dst := dieStop (f.sliceFor ctl r / 48)
  dst == (reqStop r) || f.ringRoom dst
/-- Sends a request to the slice that its requester's map names: over the butterfly on its own die, else over the ring on the ordered
flow numbered by PA[10:8] (R194, R196). -/
def Fab.send (ctl : Ctl) (f : Fab) (r : SliceReq) : Fab :=
  let slice := f.sliceFor ctl r
  if dieStop (slice / 48) = (reqStop r) then f.atSlice ctl r slice (f.reqGen ctl r)
  else f.ringSend (reqStop r) (dieStop (slice / 48)) r.ctx (r.pa.toNat / 256 % 8) true (.request r slice (f.reqGen ctl r))
/-- A request of a requester: one behind a reissue to its line waits (R188); one under a RETIRING key ID is refused (R58). -/
def Fab.serve (ctl : Ctl) (f : Fab) (r : SliceReq) : Fab :=
  if !memRange r.pa.toNat r.len ∨ ctl.keyRefused r.key ∨ f.lineHeld r.core r.slot (r.pa.toNat / 256) (some (f.sliceFor ctl r)) ∨ !f.sendable ctl r then f else f.send ctl r
/-- A requester refreshes its map and reissues its request (R188), after those of its group to the same line that were answered REMAP
before it. -/
def Fab.remapped (ctl : Ctl) (f : Fab) (k : Nat) : Fab :=
  match f.remaps[k]? with
  | none => f
  | some m =>
    let r := m.req
    let g := ({ f with remaps := f.remaps.eraseIdx k }).count 0x718
    let g := match r.core with | some c => g.refreshMap ctl c r.ctx | none => g
    let behind := ({ g with remaps := f.remaps.take k } : Fab).lineHeld r.core r.slot (r.pa.toNat / 256) (some (g.sliceFor ctl r))
    if behind ∨ !g.sendable ctl r then f else g.send ctl r

/-! ## Arrival -/

/-- Whether a packet at its destination is taken: in its turn on an ordered flow, and with room for its reply (R196). -/
def Fab.ringReady (f : Fab) (p : RingPacket) : Bool :=
  p.stop == p.dst && decide (p.since ≤ f.ac) && (!p.ordered || (f.ringFlow p.src p.dst p.ctx p.flow true).next == p.seq) &&
    (match p.load with | .request r .. => r.write.isSome || f.ringRoom p.src | .reply .. => true)
/-- Takes a packet off the ring at its destination. -/
def Fab.ringTake (ctl : Ctl) (f : Fab) (p : RingPacket) : Fab :=
  let x := f.ringFlow p.src p.dst p.ctx p.flow p.ordered
  let f := { f.setFlow { x with next := x.next + 1 } with ring := f.ring.erase p }
  match p.load with
  | .request r slice gen => f.atSlice ctl r slice gen
  | .reply r b => { f with replies := f.replies ++ [(r, b)] }
/-- The ring after time has passed: packets hop, and those that have arrived are taken in the order sent. -/
def Fab.ringGo (ctl : Ctl) (f : Fab) : Fab :=
  if f.ring.isEmpty then f
  else
    let f := { f with ring := f.ring.map (fun p => RingPacket.run f.ac 10 p) }
    f.ring.foldl (fun f p => if f.ringReady p then f.ringTake ctl p else f) f

/-- SLICE_REQUEST (R184). -/
def execSliceRequest (r : SliceReq) (s : State) : Out := .next { s with fab := s.fab.serve s.ctl r }
/-- REMAP_RECEIVE (R188). -/
def execRemapReceive (k : Nat) (s : State) : Out := .next { s with fab := s.fab.remapped s.ctl k }
/-- ESCAPE_CHANNEL (R195). -/
def execEscapeChannel (k : Nat) (s : State) : Out := .next { s with fab := { s.fab with ring := modAt s.fab.ring k (fun p => p.escapes s.fab.ac) } }

end Sys2Proof.Machine
end

