-- ==== Sys2Proof/Machine/MemEvents.lean ====
section
/-!
DEFINITION. What the memory system does after an instruction has issued: stores leave the store queue, loads perform,
walks complete (07_core_execution R164; 09_memory_hierarchy R184-R204; 10_ordering R207-R212).
-/
namespace Sys2Proof.Machine

/-! ## Footprints -/

/-- Whether two runs of bytes overlap. -/
def overlaps (a n b m : Nat) : Bool := decide (a < b + m) && decide (b < a + n)
/-- Whether two runs of locations share a byte. -/
def Loc.meets (x : Loc) (n : Nat) (y : Loc) (m : Nat) : Bool :=
  match x, y with
  | .glob _ a _ _ _, .glob _ b _ _ _ => overlaps a.toNat n b.toNat m
  | .scr c a, .scr d b => c == d && overlaps a n b m
  | _, _ => false
/-- The aligned block that holds a location. -/
def Loc.block (x : Loc) (k : Nat) : Loc :=
  match x with
  | .glob va pa key home cache => .glob va (BitVec.ofNat 48 (pa.toNat / k * k)) key home cache
  | .scr c a => .scr c (a / k * k)
/-- The bytes that a part of a store-queue entry touches. -/
def StoreOp.footprint (o : StoreOp) (p : Piece) : Loc × Nat :=
  match o.kind with
  | .bari _ => (p.loc, 16)
  | .barv => (p.loc, 16)
  | .barx _ => (p.loc, 16)
  | .presSet => (p.loc.block 64, 64)
  | .presClr => (p.loc.block 64, 64)
  | .unpin => (p.loc.block 256, 256)
  | .cfl _ => (p.loc.block 256, 256)
  | .qenq .. => (p.loc, 64)
  | .qdeq .. => (p.loc, 64)
  | _ => (p.loc, p.data.length)
/-- The bytes that a part of a load touches. -/
def LoadOp.footprint (o : LoadOp) (p : LoadPiece) : Loc × Nat :=
  match o.kind with
  | .pin => (p.loc.block 256, 256)
  | .presq => (p.loc.block 64, 64)
  | _ => (p.loc, o.bytes)
/-- Whether an entry of the store queue acquires when it leaves. -/
def StoreKind.acquires : StoreKind → Bool | .atom _ o _ => ordAcq o | .cas o => ordAcq o | .qenq _ o _ => ordAcq o | .qdeq _ o _ => ordAcq o | _ => false
/-- Whether an entry is a plain store, whose bytes a younger load takes from the queue. -/
def StoreKind.plain : StoreKind → Bool | .store _ => true | _ => false

/-! ## Stores leave the queue (R123, R183, R207, R208, R212) -/

/-- Writes bytes at a location. A device register receives its write as a step of its own (R380). -/
def Fab.writeLoc (ctl : Ctl) (f : Fab) (c ctx scope : Nat) (loc : Loc) (b : List Byte) : Fab :=
  match loc with
  | .scr k a => f.scrWrite ctl k a b
  | .glob _ pa key home cache =>
    if paKind pa.toNat = .mem then f.store ctl c ctx key home cache scope pa.toNat b
    else { f with regWrites := f.regWrites ++ [⟨pa, b.length, BitVec.ofNat 64 (leNat b), .core⟩] }
/-- Performs a read-modify-write of `n` bytes at the owning slice or bank (R191, R212), and returns the old value. -/
def Fab.rmw (ctl : Ctl) (f : Fab) (c ctx : Nat) (loc : Loc) (n : Nat) (new : Nat → Option Nat) : Nat × Fab :=
  match loc with
  | .scr k a =>
    let old := leNat (f.scrRead k a n)
    (old, match new old with | some v => f.scrWrite ctl k a (leBytes n v) | none => f)
  | .glob _ pa _ _ _ =>
    let (b, f) := (f.l1Drop ctl c (pa.toNat / 256)).sliceRead ctl (some c) ctx loc n
    (leNat b, match new (leNat b) with
      | some v => f.again (f.sliceWrite ctl (some c) ctx loc (leBytes n v))
      | none => f)

/-- Writes the old values of an atomic to the lanes whose part of its load stands, and completes the load (R312). -/
def Fab.returnOld (f : Fab) (c s seq : Nat) (olds : List (Nat × Nat)) : Fab :=
  match (f.group? c s).bind (fun g => g.loads.find? (fun o => o.seq == seq && o.kind == .ret)) with
  | none => f
  | some o =>
    let vals := olds.filter (fun p => o.pieces.any (fun q => q.lane == p.1 && !q.dropped))
    let f := f.writeRegs c s o.d.toNat (vals.map (fun p => (p.1, natRegs o.tag (regsOf (if o.bytes = 8 then 3 else 2)) p.2)))
    f.modGroup c s (fun g => ({ g with loads := g.loads.map (fun x =>
      if x.seq == seq && x.kind == .ret then { x with pieces := x.pieces.map (fun q => { q with done := true }) } else x) } : Group).pruneLoads)
/-- Performs the parts of an atomic in ascending lane order. -/
def Fab.atomics (ctl : Ctl) (f : Fab) (c ctx : Nat) (ps : List Piece) (new : Piece → Nat → Option Nat) : List (Nat × Nat) × Fab :=
  ps.foldl (fun (r : List (Nat × Nat) × Fab) p =>
    let (old, f) := r.2.rmw ctl c ctx p.loc p.data.length (new p)
    (r.1 ++ [(p.lane, old)], f)) ([], f)
/-- A request to the slice of a location's line that carries no data: a slice out of service answers it REMAP as any other (R187, R188). -/
def Fab.reachSlice (ctl : Ctl) (f : Fab) (c ctx : Nat) (loc : Loc) : Fab :=
  if paKind loc.phys.1 = .mem then (f.route ctl (some c) ctx loc.home loc.phys.1).2 else f
/-- Releases a pin (R189). -/
def Fab.unpin (f : Fab) (pa : Nat) : Fab :=
  { f with l2 := f.l2.map (fun l => if l.line == pa / 256 then { l with pin := none } else l) }

/-- A queue request whose descriptor is bad (R192, R326): nothing is performed, and its lanes take trap 0x0A at their instruction. -/
def Fab.queueTrap (f : Fab) (c s : Nat) (o : StoreOp) (va : Addr) : Fab :=
  let m := maskOf (o.pieces.map (·.lane))
  (o.pieces.foldl (fun f p => f.modLane c s p.lane (fun x => { x with park := none, pc := o.pc })) f).modGroup c s (fun g =>
    { g with pendTrap := some ⟨0x0A, 0, m, m, BitVec.ofNat 64 va.toNat, 0, o.pc⟩ })
/-- A lane whose queue request has been answered goes on, with its deferral window open (R151, R327, R328). -/
def Fab.queueDone (f : Fab) (c s l : Nat) : Fab := (f.modLane c s l (fun x => x.unpark)).openWindow c s l
/-- The order of a queue request: a release before it leaves, and the check and its operations in one step (R192, R212, R326). -/
def Fab.queueRun (ctl : Ctl) (f : Fab) (c s ctx : Nat) (o : StoreOp) (esz order : Nat) (enq : Bool) (go : Loc → Fab → Fab) : Fab :=
  match o.pieces with
  | [] => f
  | p :: _ =>
    let f := if ordRel order then f.l1Release ctl c o.scope else f
    match f.queueCheck ctl (some c) ctx p.loc esz enq o.pieces.length with
    | (false, f) => f.queueTrap c s o p.loc.va
    | (true, f) => go p.loc f
/-- `qenq` at the slice: the lanes enqueue in ascending order, and each takes its status (R327). -/
def Fab.runQenq (ctl : Ctl) (f : Fab) (c s ctx : Nat) (o : StoreOp) (esz order : Nat) (d : RegNo) : Fab :=
  f.queueRun ctl c s ctx o esz order true (fun desc f =>
    let (vals, f) := o.pieces.foldl (fun (r : List (Nat × List Reg) × Fab) p =>
      let (a, f) := r.2.enqueue ctl (some c) ctx desc p.data
      (r.1 ++ [(p.lane, natRegs .n32 1 (if a = .ok then 1 else 0))], f)) ([], f)
    let f := f.writeRegs c s d.toNat vals
    let f := if ordAcq order then f.l1Acquire ctl c o.scope else f
    o.pieces.foldl (fun f p => f.queueDone c s p.lane) f)
/-- The lanes of a request below one of them. -/
def StoreOp.below (o : StoreOp) (l : Nat) : BitVec 64 := maskOf ((o.pieces.map (·.lane)).filter (· < l))
/-- `qdeq` at the slice: each lane in ascending order takes an entry, or joins the waiter list (R328); a team-shared register takes the value of
the lowest lane alone (R140). -/
def Fab.runQdeq (ctl : Ctl) (f : Fab) (c s ctx : Nat) (o : StoreOp) (esz order : Nat) (d : RegNo) : Fab :=
  let words := entryRegs esz
  let acq := if ordAcq order then some o.scope else none
  f.queueRun ctl c s ctx o esz order false (fun desc f =>
    let (vals, f) := o.pieces.foldl (fun (r : List (Nat × List Reg) × Fab) p =>
      match r.2.dequeue ctl (some c) ctx desc with
      | (.entry b, f) => (r.1 ++ [(p.lane, entryRegsOf d (o.below p.lane) (b.take (4 * words)))], f)
      | (.empty q, f) => (r.1, (f.modLane c s p.lane (fun y => { y with park := some (.qdeq desc d words acq o.seq (o.below p.lane)) })).waiterAdd ctl ctx desc q c s p.lane)
      | (.bad, f) => (r.1, f)) ([], f)
    let f := f.writeRegs c s d.toNat vals
    let f := match acq, vals with | some sc, _ :: _ => f.l1Acquire ctl c sc | _, _ => f
    vals.foldl (fun f v => f.queueDone c s v.1) f)

/-- Performs an entry that has left the store queue. `cfl.l2` invalidates a pinned line too, and its pin goes with the line, the model's choice
(log 71). -/
def Fab.perform (ctl : Ctl) (f : Fab) (c s ctx : Nat) (o : StoreOp) : Fab :=
  match o.kind with
  | .store rel =>
    let f := if rel then f.l1Release ctl c o.scope else f
    o.pieces.foldl (fun f p => f.writeLoc ctl c ctx o.scope p.loc p.data) f
  | .atom op order ret =>
    let f := if ordRel order then f.l1Release ctl c o.scope else f
    let (olds, f) := f.atomics ctl c ctx o.pieces (fun p old => some (atomValue op (8 * p.data.length) old (leNat p.data)))
    let f := if ordAcq order then f.l1Acquire ctl c o.scope else f
    if ret then f.returnOld c s o.seq olds else f
  | .cas order =>
    let f := if ordRel order then f.l1Release ctl c o.scope else f
    let (olds, f) := f.atomics ctl c ctx o.pieces (fun p old => if old = leNat p.expect then some (leNat p.data) else none)
    let f := if ordAcq order then f.l1Acquire ctl c o.scope else f
    f.returnOld c s o.seq olds
  | .bari x => o.pieces.foldl (fun f p => match p.loc with | .scr k a => f.barUpdate ctl k a (fun _ => ⟨x, 0, 0, 0, false⟩) | _ => f) f
  | .barv => o.pieces.foldl (fun f p => match p.loc with | .scr k a => f.barUpdate ctl k a (fun b => ({ b with arrv := b.arrv + 1 } : Bar).settle) | _ => f) f
  | .barx n => o.pieces.foldl (fun f p => match p.loc with | .scr k a => f.barUpdate ctl k a (fun b => ({ b with xbytes := b.xbytes + n } : Bar).settle) | _ => f) f
  | .qenq esz order d => f.runQenq ctl c s ctx o esz order d
  | .qdeq esz order d => f.runQdeq ctl c s ctx o esz order d
  | .presSet => o.pieces.foldl (fun f p => match p.loc with | .scr k a => f.sectorSet k (a / 64) | _ => f) (f.l1Release ctl c o.scope)
  | .presClr => o.pieces.foldl (fun f p => match p.loc with | .scr k a => f.sectorClear k (a / 64) | _ => f) f
  | .unpin => o.pieces.foldl (fun f p => match p.loc with | .glob .. => (f.reachSlice ctl c ctx p.loc).unpin p.loc.phys.1 | _ => f) f
  | .cfl l2 => o.pieces.foldl (fun f p => match p.loc with
      | .glob _ pa _ _ _ =>
        let f := f.l1Drop ctl c (pa.toNat / 256)
        if l2 then (f.reachSlice ctl c ctx p.loc).l2Evict ctl (pa.toNat / 256) else f
      | _ => f) f

/-- Whether a load is one that the memory path performs (not an atomic's return or an `rrd`). -/
def LoadKind.fromMemory : LoadKind → Bool | .mem _ => true | .pin => true | .presq => true | _ => false
/-- Whether an access of a group is held behind a request to its line that was answered REMAP (R188), or behind packets of its die and
context on the ordered flow of its line (R196). -/
def Fab.locHeld (f : Fab) (c s : Nat) : Loc → Bool
  | .glob _ pa _ _ _ => f.lineHeld (some c) s (pa.toNat / 256) none || f.flowBusy c (pa.toNat / 256 % 8)
  | .scr .. => false
/-- Whether the head of a store queue may leave it: every older load has performed (R207), no part is held behind a REMAP, `pres.clr`
has room, and a queue request finds no trap of the group pending. -/
def Fab.mayDrain (f : Fab) (c : Nat) (g : Group) : Bool :=
  match g.storeQ with
  | [] => false
  | o :: _ => g.loads.all (fun l => o.seq ≤ l.seq || !l.kind.fromMemory || l.finished) && !o.pieces.any (fun p => f.locHeld c g.slot p.loc) &&
      (match o.kind with | .presClr => !f.pendFull (o.pieces.map (·.loc)) | .qenq .. => g.pendTrap.isNone | .qdeq .. => g.pendTrap.isNone | _ => true)
/-- Whether an access would arrive under a key ID that is RETIRING (R58). -/
def Ctl.lateAt (ctl : Ctl) : Loc → Bool
  | .glob _ pa key _ _ => paKind pa.toNat == .mem && ctl.keyRefused key
  | .scr .. => false
/-- A lane goes back to an instruction whose access is refused: one that has parked since in another leaves it (log 58). -/
def Fab.recall (ctl : Ctl) (f : Fab) (c s ctx : Nat) (pc : Addr) (l : Nat) : Fab :=
  let f := match (f.lane? c s l).bind (·.park) with | some (.tnext _ d) => f.waiterDrop ctl ctx d c s l | _ => f.unqueue ctl c s l
  f.modLane c s l (fun x => { x with
    park := none, pc := pc, arrived := match x.park with | some (.jwait j) => setJ x.arrived j.toNat false | _ => x.arrived })
/-- An access that arrives under a RETIRING key ID is refused (R58): nothing of it is performed, and its live lanes take trap 0x0A at its
instruction; LANES names those whose parts are refused, and FADDR the address of the lowest. -/
def Fab.refuseLate (ctl : Ctl) (f : Fab) (c s ctx seq : Nat) (pc : Addr) (lanes : List Nat) (late : List (Nat × Loc)) : Fab :=
  let f := f.modGroup c s (fun g => ({ g with loads := g.loads.filter (fun o => o.seq != seq) } : Group).pruneLoads)
  match lanes.filter (fun l => (f.lane? c s l).any (fun x => x.status == .live && !x.idle)), late with
  | l :: ls, p :: ps =>
    ((l :: ls).foldl (fun f l => f.recall ctl c s ctx pc l) f).modGroup c s (fun g => { g with
      pendTrap := some ⟨0x0A, 0, maskOf ((p :: ps).map (·.1)), maskOf (l :: ls), BitVec.ofNat 64 p.2.va.toNat, 0, pc⟩ })
  | _, _ => f
/-- The parts of a store-queue entry that would arrive under a RETIRING key ID. -/
def StoreOp.late (ctl : Ctl) (o : StoreOp) : List (Nat × Loc) := (o.pieces.map (fun p => (p.lane, p.loc))).filter (fun p => ctl.lateAt p.2)
/-- The parts of a load that stand and would arrive under a RETIRING key ID. -/
def LoadOp.late (ctl : Ctl) (o : LoadOp) : List (Nat × Loc) :=
  ((o.pieces.filter (fun p => !p.done && !p.dropped)).map (fun p => (p.lane, p.loc))).filter (fun p => ctl.lateAt p.2)
/-- The head of a group's store queue leaves it, and is performed or refused. One that is refused waits while another trap of the group is
still to be taken. -/
def Fab.drain (ctl : Ctl) (f : Fab) (c s : Nat) : Fab :=
  match (f.core c).team, f.group? c s with
  | some t, some g =>
    (match g.storeQ with
     | [] => f
     | o :: rest =>
       if !f.mayDrain c g then f
       else
         let f' := f.modGroup c s (fun g => { g with storeQ := rest })
         if (o.late ctl).isEmpty then (f'.perform ctl c s t.ctx o).reportEnd c
         else if g.pendTrap.isSome then f
         else (f'.refuseLate ctl c s t.ctx o.seq o.pc (o.pieces.map (·.lane)) (o.late ctl)).reportEnd c)
  | _, _ => f

/-! ## Loads perform (R161, R207, R310) -/

/-- Bytes at a location, before forwarding. -/
def Fab.readLoc (ctl : Ctl) (f : Fab) (c ctx : Nat) (loc : Loc) (n : Nat) : List Byte × Fab :=
  match loc with
  | .scr k a => (f.scrRead k a n, f)
  | .glob _ pa key home cache =>
    if paKind pa.toNat = .mem then f.load ctl c ctx key home cache pa.toNat n
    else match ctl.mmioRead f pa.toNat n with
      | (some b, f) => (b, f)
      | (none, f) => (List.replicate n 0, f)
/-- The byte that older stores still in the queue hold for a location, if any: the youngest store, its highest lane. -/
def Group.queued (g : Group) (seq : Nat) (loc : Loc) : Option Byte :=
  (g.storeQ.filter (fun o => o.seq < seq && o.kind.plain)).foldl (fun acc o =>
    o.pieces.foldl (fun acc p =>
      if p.loc.meets p.data.length loc 1 then
        (match p.loc, loc with
         | .glob _ a _ _ _, .glob _ b _ _ _ => p.data[b.toNat - a.toNat]?
         | .scr _ a, .scr _ b => p.data[b - a]?
         | _, _ => acc)
      else acc) acc) none
/-- Bytes that a load of a group returns, its own queued stores first (R207). -/
def Fab.loadBytes (ctl : Ctl) (f : Fab) (c s ctx seq : Nat) (loc : Loc) (n : Nat) : List Byte × Fab :=
  match f.group? c s with
  | none => (List.replicate n 0, f)
  | some g =>
    let own := (List.range n).map (fun k => g.queued seq (loc.plus k))
    if own.all Option.isSome then (own.map (fun x => x.getD 0), f)
    else
      let (b, f) := f.readLoc ctl c ctx loc n
      ((b.zip own).map (fun p => p.2.getD p.1), f)
/-- The registers that a load writes from its bytes (R310). -/
def LoadOp.result (o : LoadOp) (b : List Byte) : List Reg :=
  let v := leNat b
  if o.bytes < 4 then
    [⟨if o.signed then (BitVec.ofNat (8 * o.bytes) v).signExtend 32 else BitVec.ofNat 32 v, o.tag⟩]
  else natRegs o.tag (o.bytes / 4) v
/-- Pins a line for a context, and whether it is pinned afterwards (R189, R315). A pin that is refused has been answered by its slice, REMAP
counted and all (R188), and takes no line. -/
def Fab.pinLine (ctl : Ctl) (f : Fab) (c ctx : Nat) (loc : Loc) : Bool × Fab :=
  match loc with
  | .scr .. => (false, f)
  | .glob _ pa key home cache =>
    if cache = 2 ∨ paKind pa.toNat ≠ .mem then (false, f)
    else match f.l2Open ctl (some c) ctx key home pa.toNat with
      | (none, _) => (false, (f.route ctl (some c) ctx home pa.toNat).2)
      | (some l, f) => (true, f.l2Keep ((List.range 4).foldl (fun l s => f.l2Fill ctl l s) { l with pin := some (l.pin.getD ctx) }))

/-- Whether load `k` of a group may perform: every older load has, and no older entry of the store queue that it must see
applied, or that acquires, is still there (R207, R212). -/
def Group.loadReady (g : Group) (k : Nat) : Bool :=
  match g.loads[k]? with
  | none => false
  | some o => o.kind.fromMemory && !o.finished &&
      (g.loads.take k).all (fun x => !x.kind.fromMemory || x.finished) &&
      g.storeQ.all (fun q => o.seq < q.seq || (!q.kind.acquires && (q.kind.plain ||
        !q.pieces.any (fun p => o.pieces.any (fun r =>
          let a := q.footprint p
          let b := o.footprint r
          a.1.meets a.2 b.1 b.2)))))
/-- Performs the parts of load `k` that belong to the given lanes. -/
def Fab.complete_ (ctl : Ctl) (f : Fab) (c s k : Nat) (lanes : BitVec 64) : Fab :=
  match (f.core c).team, f.group? c s with
  | some t, some g =>
    (match g.loads[k]? with
     | none => f
     | some o =>
       if !g.loadReady k ∨ o.pieces.any (fun p => f.locHeld c s p.loc) then f
       else if !(o.late ctl).isEmpty then
         (if g.pendTrap.isSome then f
          else (f.refuseLate ctl c s t.ctx o.seq o.pc ((o.pieces.filter (fun p => !p.done && !p.dropped)).map (·.lane)) (o.late ctl)).reportEnd c)
       else
         let f := match o.kind with | .mem true => f.l1Acquire ctl c o.scope | _ => f
         let todo := o.pieces.filter (fun p => !p.done && inMask lanes p.lane)
         let (vals, f) := todo.foldl (fun (r : List (Nat × List Reg) × Fab) p =>
           let (v, f) : List Reg × Fab := match o.kind with
             | .pin => let (b, f) := r.2.pinLine ctl c t.ctx p.loc; (natRegs o.tag 1 (if b then 1 else 0), f)
             | .presq => (natRegs o.tag 1 (match p.loc with | .scr q a => if r.2.present q a 1 then 1 else 0 | _ => 0), r.2)
             | _ => let (b, f) := r.2.loadBytes ctl c s t.ctx o.seq p.loc o.bytes; (o.result b, f)
           (r.1 ++ [(p.lane, v)], f)) ([], f)
         let f := f.writeRegs c s o.d.toNat (vals.filter (fun v => o.writes v.1))
         (f.modGroup c s (fun g => ({ g with loads := modAt g.loads k (fun o => { o with
           pieces := o.pieces.map (fun p => if inMask lanes p.lane then { p with done := true } else p) }) } : Group).pruneLoads)).reportEnd c)
  | _, _ => f

/-! ## Walks and watchdogs (R164, R199-R204) -/

/-- A walk completes: a leaf or a permission failure needs nothing more; a translation fault takes a slot (R199-R204). -/
def Fab.walkEvent (ctl : Ctl) (f : Fab) (core ctx : Nat) (va : Addr) (acc : Access) : Fab :=
  match f.translate ctl (some core) ctx va.toNat acc with
  | (.fault r l, f) =>
    (f.faultTake ctl (core / 48) ⟨ctx, va, accessBits acc, 0, r, l, 1, core, 0, 0, 0, f.time, false, []⟩).2
  | (_, f) => f

/-- A load has waited longer than 2^24 ac on an absent sector: trap 0x13 (R164). -/
def Fab.watchdog (ctl : Ctl) (f : Fab) (c s : Nat) : Fab :=
  match f.group? c s with
  | none => f
  | some g => match g.absentSince, g.hold with
    | some (t, lanes, addr), some .retry =>
      if t + 2 ^ 24 < f.ac then
        f.takeTrap ctl c s ⟨0x13, 0, lanes, maskOf g.entry, addr, 0, (match g.entry with | l :: _ => (g.lanes[l]?.map (·.pc)).getD 0 | [] => 0)⟩
      else f
    | _, _ => f

/-! ## Meanings -/

/-- STORE_DRAIN (R207). -/
def execStoreDrain (core slot : Nat) (s : State) : Out := .next { s with fab := s.fab.drain s.ctl core slot }
/-- LOAD_COMPLETE (R161). -/
def execLoadComplete (core slot k : Nat) (lanes : BitVec 64) (s : State) : Out :=
  .next { s with fab := s.fab.complete_ s.ctl core slot k lanes }
/-- PAGE_WALK (R199). -/
def execPageWalk (core ctx : Nat) (va : Addr) (acc : Access) (s : State) : Out :=
  .next { s with fab := s.fab.walkEvent s.ctl core ctx va acc }
/-- PRESENCE_WATCHDOG (R164). -/
def execPresenceWatchdog (core slot : Nat) (s : State) : Out := .next { s with fab := s.fab.watchdog s.ctl core slot }
/-- Posts the engine records that wait, oldest first; those of a context whose queue has no room go on waiting (R204). -/
def Fab.postEngs (ctl : Ctl) (f : Fab) : Fab :=
  f.engPosts.foldl (fun f p =>
    if (f.engPosts.find? (fun q => q.ctx == p.ctx)) = some p then
      (match f.postRecord ctl p.ctx (p.bytes f.time) with
       | (true, f) => { f with engPosts := f.engPosts.erase p }
       | (false, _) => f)
    else f) f
/-- FAULT_RECORD_ENQUEUE (R204): the record of a slot, or for 0xFFFF the engine records that wait. -/
def execFaultRecordEnqueue (slot : Nat) (s : State) : Out :=
  .next { s with fab := if slot = 0xFFFF then s.fab.postEngs s.ctl else s.fab.faultEnqueue s.ctl slot }

end Sys2Proof.Machine
end

