-- ==== Sys2Proof/Machine/Faults.lean ====
section
/-!
DEFINITION. The responses of system software to translation faults: RETRY, DELIVER and END (R205).
-/
namespace Sys2Proof.Machine

/-- The response word of a fault slot that is taken, if it can be read (R205). -/
def Fab.response (ctl : Ctl) (f : Fab) (slot : Nat) : Option (FaultSlot × Nat) × Fab :=
  match Table.get? f.faults slot with
  | none => (none, f)
  | some x =>
    match f.faultQ ctl x.ctx with
    | (none, f) => (none, f)
    | (some q, f) => match f.ctxRead ctl x.ctx (q.resp + 8 * slot) 8 with
      | (some b, f) => (some (x, leNat b), f)
      | (none, f) => (none, f)

/-- Whether a group waits on a fault slot. -/
def Group.waitsOn (g : Group) (slot : Nat) : Bool := match g.hold with | some (.fault n ..) => n == slot | _ => false

/-- RETRY for one requester (R152, R153, R178, R205). Copies and matrix operations translate again when they next go on. -/
def Fab.retryFor (ctl : Ctl) (slot : Nat) (f : Fab) (r : Requester) : Fab :=
  match r with
  | .group c s =>
    (match f.group? c s with
     | none => f
     | some g => match g.hold with
       | some (.fault n open_ _ _ _) =>
         if n != slot then f
         else if open_ then f.modGroup c s (fun g => { g with hold := none })
         else f.restartGroup ctl c s
       | _ => f)
  | .trapEntry c s => f.retryEntry ctl c s
  | .copy .. => f
  | .matrix .. => f
  | .remote c s seq => f.remGo ctl c s seq
  | .halyard ctx => f.retryPackets ctl ctx slot
  | .idle c s l => f.idleAgain ctl c s l

/-- Trap 0x09 at the instruction that a group parked on, with the address it met (R155, R205). -/
def Fab.deliverGroup (ctl : Ctl) (f : Fab) (c s slot : Nat) : Fab :=
  match f.group? c s with
  | none => f
  | some g => match g.hold with
    | some (.fault n _ entry lanes va) =>
      if n != slot then f
      else
        let pc := match g.numbered.find? (fun x => inMask entry x.1) with | some x => x.2.pc | none => 0
        (f.modGroup c s (fun g => { g with hold := none })).takeTrap ctl c s ⟨0x09, 0, lanes, entry, va.zeroExtend 64, 0, pc⟩
    | _ => f

/-- A remote operation whose page was refused: it faults with 0x0A and sends nothing more (R38, R44, R205). -/
def Fab.deliverRemote (ctl : Ctl) (f : Fab) (c s seq va : Nat) : Fab :=
  match f.rem? c s seq with
  | none => f
  | some o =>
    let drop (f : Fab) : Fab := f.modRem c s seq (fun o => { o with
      mcast := none
      parts := o.parts.map (fun p => if p.todo.isEmpty && o.mcast.isNone then p else { p with todo := [], signal := none }) })
    let f := (o.parts.filter (fun p => !p.todo.isEmpty)).foldl (fun f p => if o.isRrd then f.rrdWrite c s seq p.lane none else f) f
    (drop (f.remFault ctl c s seq va)).remGo ctl c s seq

/-- DELIVER for one requester (R153, R205). -/
def Fab.deliverFor (ctl : Ctl) (x : FaultSlot) (slot : Nat) (f : Fab) (r : Requester) : Fab :=
  match r with
  | .group c s => f.deliverGroup ctl c s slot
  | .trapEntry c s =>
    let (cause, pc) := match (f.group? c s).bind (·.pendTrap) with | some p => (p.cause, p.pc) | none => (0x0D, x.pc)
    f.fatal ctl x.ctx (f.gridOf c) cause pc
  | .copy c op va => f.modCopy c op (fun o => { o with denied := va.toNat / 65536 :: o.denied })
  | .matrix c va =>
    let k := f.core c
    f.setCore c { k with mxq := modAt k.mxq 0 (fun o => { o with denied := va.toNat / 65536 :: o.denied }) }
  | .remote c s seq => f.deliverRemote ctl c s seq x.va.toNat
  | .halyard ctx => f.deliverPackets ctl ctx slot
  | .idle c s l => f.idleRefused c s l

/-- Answers a fault slot whose response word satisfies a test, and frees the slot (R205). -/
def State.respond (s : State) (slot : Nat) (want : Nat → Bool) (go : FaultSlot → Fab → Fab) : Out :=
  match s.fab.response s.ctl slot with
  | (some (x, v), f) => .next { s with fab := if want v then go x { f with faults := Table.erase f.faults slot } else f }
  | (none, f) => .next { s with fab := f }

/-- The grid that the end of a context by response 3 names: that of the first requester's core (R87, R205). -/
def Fab.faultGrid (f : Fab) (x : FaultSlot) : Option Grid := if x.source = 2 then none else f.gridOf x.core

/-- FAULT_RETRY (R205). -/
def execFaultRetry (slot : Nat) (s : State) : Out :=
  s.respond slot (fun v => v == 1) (fun x f => x.who.foldl (fun f r => f.retryFor s.ctl slot r) f)
/-- FAULT_DELIVER (R205). -/
def execFaultDeliver (slot : Nat) (s : State) : Out :=
  s.respond slot (fun v => v == 2) (fun x f => x.who.foldl (fun f r => f.deliverFor s.ctl x slot r) f)
/-- FAULT_END (R205). -/
def execFaultEnd (slot : Nat) (s : State) : Out :=
  s.respond slot (fun v => v != 0 && v != 1 && v != 2) (fun x f => f.fatal s.ctl x.ctx (f.faultGrid x) 0x09 x.pc)

end Sys2Proof.Machine
end

