-- ==== Sys2Proof/Machine/FloatAlu.lean ====
section
/-!
DEFINITION. The float, conversion and tag instructions (13_isa_arithmetic R271-R280): one meaning per form.
-/
namespace Sys2Proof.Machine

/-- FADD_S3 (R271): Base-form f32 add. -/
def execFaddS3 (f : S3Form) (s : State) : Out := runS3 0x40 f opFadd s
/-- FADD_XR (R271): Extended-form float add. -/
def execFaddXr (f : XrForm) (s : State) : Out := runXr 0x40 f opFadd s
/-- FSUB_S3 (R271): Base-form f32 subtract. -/
def execFsubS3 (f : S3Form) (s : State) : Out := runS3 0x41 f opFsub s
/-- FSUB_XR (R271): Extended-form float subtract. -/
def execFsubXr (f : XrForm) (s : State) : Out := runXr 0x41 f opFsub s
/-- FMUL_S3 (R271): Base-form f32 multiply. -/
def execFmulS3 (f : S3Form) (s : State) : Out := runS3 0x42 f opFmul s
/-- FMUL_XR (R271): Extended-form float multiply. -/
def execFmulXr (f : XrForm) (s : State) : Out := runXr 0x42 f opFmul s
/-- FFMA_XR (R271): ffma writes A x B + C, rounded once. -/
def execFfmaXr (f : XrForm) (s : State) : Out := runXr 0x43 f opFfma s
/-- FMIN_S3 (R273): Base-form f32 minimum. -/
def execFminS3 (f : S3Form) (s : State) : Out := runS3 0x44 f opFmin s
/-- FMIN_XR (R273): Extended-form float minimum, propagating NaN. -/
def execFminXr (f : XrForm) (s : State) : Out := runXr 0x44 f opFmin s
/-- FMAX_S3 (R273): Base-form f32 maximum. -/
def execFmaxS3 (f : S3Form) (s : State) : Out := runS3 0x45 f opFmax s
/-- FMAX_XR (R273): Extended-form float maximum, propagating NaN. -/
def execFmaxXr (f : XrForm) (s : State) : Out := runXr 0x45 f opFmax s
/-- FABS_XR (R273): fabs clears the sign. -/
def execFabsXr (f : XrForm) (s : State) : Out := runXr 0x46 f opFabs s
/-- FNEG_XR (R273): fneg inverts the sign. -/
def execFnegXr (f : XrForm) (s : State) : Out := runXr 0x47 f opFneg s
/-- FCMP_XR (R274): fcmp writes a float comparison result. -/
def execFcmpXr (f : XrForm) (s : State) : Out := runXr 0x48 f opFcmp s
/-- FDIV_XR (R271): fdiv writes the quotient, rounded once. -/
def execFdivXr (f : XrForm) (s : State) : Out := runXr 0x49 f opFdiv s
/-- FSQRT_XR (R271): fsqrt writes the square root. -/
def execFsqrtXr (f : XrForm) (s : State) : Out := runXr 0x4A f opFsqrt s
/-- FRCP_XR (R272): frcp writes the reciprocal. -/
def execFrcpXr (f : XrForm) (s : State) : Out := runXr 0x4B f opFrcp s
/-- FRSQ_XR (R272): frsq writes the reciprocal square root. -/
def execFrsqXr (f : XrForm) (s : State) : Out := runXr 0x4C f opFrsq s
/-- EX2S_XR (R272): ex2s writes 2^(A x B − C), rounded once. -/
def execEx2sXr (f : XrForm) (s : State) : Out := runXr 0x4D f opEx2s s
/-- LG2_XR (R272): lg2 writes the base-2 logarithm. -/
def execLg2Xr (f : XrForm) (s : State) : Out := runXr 0x4E f opLg2 s
/-- FCLS_XR (R275): fcls sets one bit for the float class of A. -/
def execFclsXr (f : XrForm) (s : State) : Out := runXr 0x4F f opFcls s
/-- FRND_XR (R276): frnd rounds to an integral value under a mode. -/
def execFrndXr (f : XrForm) (s : State) : Out := runXr 0x50 f opFrnd s
/-- CVT_XR (R277): cvt converts between integer and float formats. -/
def execCvtXr (f : XrForm) (s : State) : Out := runXr 0x58 f opCvt s
/-- ORDF_XR (R279): ordf maps floats to order-preserving integers, and back. -/
def execOrdfXr (f : XrForm) (s : State) : Out := runXr 0x59 f opOrdf s
/-- TAGSET_XR (R280): tagset writes A with a new tag. -/
def execTagsetXr (f : XrForm) (s : State) : Out := runXr 0x5A f opTagset s
/-- TAGQ_XR (R280): tagq writes the tag of A as n32. -/
def execTagqXr (f : XrForm) (s : State) : Out := runXr 0x5B f opTagq s

end Sys2Proof.Machine
end

