-- ==== Sys2Proof/Machine/IntAlu.lean ====
section
/-!
DEFINITION. The integer instructions (13_isa_arithmetic R263-R270): one meaning per form.
-/
namespace Sys2Proof.Machine

/-- ADD_S3 (R264): Base-form i32 add. -/
def execAddS3 (f : S3Form) (s : State) : Out := runS3 0x20 f opAdd s
/-- ADD_XR (R264): Extended-form integer add, modulo 2^n. -/
def execAddXr (f : XrForm) (s : State) : Out := runXr 0x20 f opAdd s
/-- SUB_S3 (R264): Base-form i32 subtract. -/
def execSubS3 (f : S3Form) (s : State) : Out := runS3 0x21 f opSub s
/-- SUB_XR (R264): Extended-form integer subtract. -/
def execSubXr (f : XrForm) (s : State) : Out := runXr 0x21 f opSub s
/-- MUL_S3 (R264): Base-form i32 multiply, low half. -/
def execMulS3 (f : S3Form) (s : State) : Out := runS3 0x22 f opMul s
/-- MUL_XR (R264): Extended-form integer multiply, low half. -/
def execMulXr (f : XrForm) (s : State) : Out := runXr 0x22 f opMul s
/-- MULH_XR (R264): mulh writes the high half of the integer product. -/
def execMulhXr (f : XrForm) (s : State) : Out := runXr 0x23 f opMulh s
/-- MAD_XR (R264): mad writes A x B + C modulo 2^n. -/
def execMadXr (f : XrForm) (s : State) : Out := runXr 0x24 f opMad s
/-- DIV_XR (R265): div writes the truncated quotient, flagging division by zero and overflow. -/
def execDivXr (f : XrForm) (s : State) : Out := runXr 0x25 f (opDivide false) s
/-- REM_XR (R265): rem writes the remainder, with the sign of the dividend. -/
def execRemXr (f : XrForm) (s : State) : Out := runXr 0x26 f (opDivide true) s
/-- MIN_S3 (R264): Base-form i32 minimum. -/
def execMinS3 (f : S3Form) (s : State) : Out := runS3 0x27 f opMin s
/-- MIN_XR (R264): Extended-form integer minimum. -/
def execMinXr (f : XrForm) (s : State) : Out := runXr 0x27 f opMin s
/-- MAX_S3 (R264): Base-form i32 maximum. -/
def execMaxS3 (f : S3Form) (s : State) : Out := runS3 0x28 f opMax s
/-- MAX_XR (R264): Extended-form integer maximum. -/
def execMaxXr (f : XrForm) (s : State) : Out := runXr 0x28 f opMax s
/-- ABS_XR (R264): abs writes the absolute value, modulo 2^n. -/
def execAbsXr (f : XrForm) (s : State) : Out := runXr 0x29 f opAbs s
/-- NEG_XR (R264): neg writes the negation, modulo 2^n. -/
def execNegXr (f : XrForm) (s : State) : Out := runXr 0x2A f opNeg s
/-- CMP_XR (R266): cmp writes 1 or 0 for eq, ne, lt or le in the type. -/
def execCmpXr (f : XrForm) (s : State) : Out := runXr 0x2B f opCmp s
/-- SEL_XR (R264): sel selects A where C is non-zero, else B. -/
def execSelXr (f : XrForm) (s : State) : Out := runXr 0x2C f opSel s
/-- LOP3_XR (R267): lop3 updates D bitwise from D, A and C through an 8-bit table. -/
def execLop3Xr (f : XrForm) (s : State) : Out := runXr 0x2D f opLop3 s
/-- SHL_SI (R263): Base-form shift left by an immediate count. -/
def execShlSi (f : SiForm) (s : State) : Out := runSi 0x2E f opShl s
/-- SHL_XR (R264): Extended-form shift left by B. -/
def execShlXr (f : XrForm) (s : State) : Out := runXr 0x2E f opShl s
/-- SHR_SI (R263): Base-form logical shift right by an immediate count. -/
def execShrSi (f : SiForm) (s : State) : Out := runSi 0x2F f opShr s
/-- SHR_XR (R264): Extended-form logical shift right by B. -/
def execShrXr (f : XrForm) (s : State) : Out := runXr 0x2F f opShr s
/-- SAR_SI (R263): Base-form arithmetic shift right by an immediate count. -/
def execSarSi (f : SiForm) (s : State) : Out := runSi 0x30 f opSar s
/-- SAR_XR (R264): Extended-form arithmetic shift right by B. -/
def execSarXr (f : XrForm) (s : State) : Out := runXr 0x30 f opSar s
/-- FSHL_XR (R264): fshl is a funnel shift left of A:B by C. -/
def execFshlXr (f : XrForm) (s : State) : Out := runXr 0x31 f opFshl s
/-- FSHR_XR (R264): fshr is a funnel shift right of A:B by C. -/
def execFshrXr (f : XrForm) (s : State) : Out := runXr 0x32 f opFshr s
/-- PCNT_XR (R264): pcnt counts the one bits. -/
def execPcntXr (f : XrForm) (s : State) : Out := runXr 0x33 f opPcnt s
/-- CLZ_XR (R264): clz counts the leading zero bits. -/
def execClzXr (f : XrForm) (s : State) : Out := runXr 0x34 f opClz s
/-- CTZ_XR (R264): ctz counts the trailing zero bits. -/
def execCtzXr (f : XrForm) (s : State) : Out := runXr 0x35 f opCtz s
/-- BREV_XR (R264): brev reverses the bit order. -/
def execBrevXr (f : XrForm) (s : State) : Out := runXr 0x36 f opBrev s
/-- BFE_XR (R268): bfe extracts a bit field, zero- or sign-extended. -/
def execBfeXr (f : XrForm) (s : State) : Out := runXr 0x37 f opBfe s
/-- BFI_XR (R268): bfi inserts a bit field of A into D. -/
def execBfiXr (f : XrForm) (s : State) : Out := runXr 0x38 f opBfi s
/-- MOV_S3 (R264): Base-form mov copies B with its tag. -/
def execMovS3 (f : S3Form) (s : State) : Out := runS3 0x39 f opMov s
/-- MOV_XR (R264): Extended-form mov copies a register or a pair. -/
def execMovXr (f : XrForm) (s : State) : Out := runXr 0x39 f opMov s
/-- LEA_XR (R269): lea adds an extended, shifted index to a 64-bit base. -/
def execLeaXr (f : XrForm) (s : State) : Out := runXr 0x3A f opLea s
/-- PRMT_XR (R270): prmt assembles D from selected bytes of A:B. -/
def execPrmtXr (f : XrForm) (s : State) : Out := runXr 0x3B f opPrmt s

end Sys2Proof.Machine
end

