-- ==== Sys2Proof/Machine/Dispatch.lean ====
section
/-!
DEFINITION. One arm per constructor of `Instr`: the meaning of each operation, or its rejection by name.
-/
namespace Sys2Proof.Machine

/-- The meaning of an operation. -/
def exec (i : Instr) (s : State) : Host.Outcome State Fault Refusal :=
  match i with
  | .bootImageI3c image => Sys2Proof.Machine.execBootImageI3c image s
  | .supplyInputChange mv => Sys2Proof.Machine.execSupplyInputChange mv s
  | .thermalThrottle degC => Sys2Proof.Machine.execThermalThrottle degC s
  | .thermalRelease degC => Sys2Proof.Machine.execThermalRelease degC s
  | .thermalShutdown degC => Sys2Proof.Machine.execThermalShutdown degC s
  | .powerCompare watts => Sys2Proof.Machine.execPowerCompare watts s
  | .pwrcapWrite w => Sys2Proof.Machine.execPwrcapWrite w s
  | .registerWrite w => Sys2Proof.Machine.execRegisterWrite w s
  | .fuseadvWrite w => Sys2Proof.Machine.execFuseadvWrite w s
  | .keyLoad w => Sys2Proof.Machine.execKeyLoad w s
  | .keyRetire w => Sys2Proof.Machine.execKeyRetire w s
  | .keyQuery w => Sys2Proof.Machine.execKeyQuery w s
  | .uzbellWrite w => Sys2Proof.Machine.execUzbellWrite w s
  | .liveUpdate w => Sys2Proof.Machine.execLiveUpdate w s
  | .repairRetire w => Sys2Proof.Machine.execRepairRetire w s
  | .repairRestore w => Sys2Proof.Machine.execRepairRestore w s
  | .repairRetrain w => Sys2Proof.Machine.execRepairRetrain w s
  | .repairDone selfTestPass => Sys2Proof.Machine.execRepairDone selfTestPass s
  | .hpstatRetrain w => Sys2Proof.Machine.execHpstatRetrain w s
  | .hpstatDisable w => Sys2Proof.Machine.execHpstatDisable w s
  | .portTrain port goodLanes => Sys2Proof.Machine.execPortTrain port goodLanes s
  | .flitReceive port f => Sys2Proof.Machine.execFlitReceive port f s
  | .flitNak port named => Sys2Proof.Machine.execFlitNak port named s
  | .linkRetrain port => Sys2Proof.Machine.execLinkRetrain port s
  | .retrainDone port goodLanes => Sys2Proof.Machine.execRetrainDone port goodLanes s
  | .packetReceive k => Sys2Proof.Machine.execPacketReceive k s
  | .packetTransit k => Sys2Proof.Machine.execPacketTransit k s
  | .packetAck k => Sys2Proof.Machine.execPacketAck k s
  | .packetNak k => Sys2Proof.Machine.execPacketNak k s
  | .packetResendTimeout id => Sys2Proof.Machine.execPacketResendTimeout id s
  | .packetUnreachableTimeout id => Sys2Proof.Machine.execPacketUnreachableTimeout id s
  | .offerSend ctx inc => Sys2Proof.Machine.execOfferSend ctx inc s
  | .offerReceive k => Sys2Proof.Machine.execOfferReceive k s
  | .switchGroupReport port sgid present => Sys2Proof.Machine.execSwitchGroupReport port sgid present s
  | .dmaRequest r => Sys2Proof.Machine.execDmaRequest r s
  | .cmdNop cmd => Sys2Proof.Machine.execCmdNop cmd s
  | .cmdCreate cmd => Sys2Proof.Machine.execCmdCreate cmd s
  | .cmdDestroy cmd => Sys2Proof.Machine.execCmdDestroy cmd s
  | .cmdResume cmd => Sys2Proof.Machine.execCmdResume cmd s
  | .cmdPreempt cmd => Sys2Proof.Machine.execCmdPreempt cmd s
  | .cmdCall cmd => Sys2Proof.Machine.execCmdCall cmd s
  | .cmdReply cmd => Sys2Proof.Machine.execCmdReply cmd s
  | .cmdStamp cmd => Sys2Proof.Machine.execCmdStamp cmd s
  | .commandSemaphoreStart cmd => Sys2Proof.Machine.execCommandSemaphoreStart cmd s
  | .eventQueueRecheck q => Sys2Proof.Machine.execEventQueueRecheck q s
  | .lanyardPlace cl => Sys2Proof.Machine.execLanyardPlace cl s
  | .lanyardPlaced cl => Sys2Proof.Machine.execLanyardPlaced cl s
  | .lanyardTeamend cl => Sys2Proof.Machine.execLanyardTeamend cl s
  | .lanyardPreempt cl => Sys2Proof.Machine.execLanyardPreempt cl s
  | .lanyardSaved cl => Sys2Proof.Machine.execLanyardSaved cl s
  | .lanyardRetire cl => Sys2Proof.Machine.execLanyardRetire cl s
  | .lanyardPermit cl up => Sys2Proof.Machine.execLanyardPermit cl up s
  | .permitReturnTimeout cl up => Sys2Proof.Machine.execPermitReturnTimeout cl up s
  | .groupStop core slot => Sys2Proof.Machine.execGroupStop core slot s
  | .registerGrant core => Sys2Proof.Machine.execRegisterGrant core s
  | .sleepWake core slot => Sys2Proof.Machine.execSleepWake core slot s
  | .presenceWatchdog core slot => Sys2Proof.Machine.execPresenceWatchdog core slot s
  | .incumbentPropagate ctx inc stage idx => Sys2Proof.Machine.execIncumbentPropagate ctx inc stage idx s
  | .malformedTaskTrap core slot => Sys2Proof.Machine.execMalformedTaskTrap core slot s
  | .syscallRequestPost core slot => Sys2Proof.Machine.execSyscallRequestPost core slot s
  | .loadComplete core slot k lanes => Sys2Proof.Machine.execLoadComplete core slot k lanes s
  | .storeDrain core slot => Sys2Proof.Machine.execStoreDrain core slot s
  | .sliceRequest r => Sys2Proof.Machine.execSliceRequest r s
  | .remapReceive k => Sys2Proof.Machine.execRemapReceive k s
  | .pageWalk core ctx va acc => Sys2Proof.Machine.execPageWalk core ctx va acc s
  | .faultRecordEnqueue slot => Sys2Proof.Machine.execFaultRecordEnqueue slot s
  | .faultRetry slot => Sys2Proof.Machine.execFaultRetry slot s
  | .faultDeliver slot => Sys2Proof.Machine.execFaultDeliver slot s
  | .faultEnd slot => Sys2Proof.Machine.execFaultEnd slot s
  | .copySectorDeliver core op piece => Sys2Proof.Machine.execCopySectorDeliver core op piece s
  | .matrixOpComplete core => Sys2Proof.Machine.execMatrixOpComplete core s
  | .nopSz => Sys2Proof.Machine.execNopSz s
  | .nopXr f => Sys2Proof.Machine.execNopXr f s
  | .waitSw f => Sys2Proof.Machine.execWaitSw f s
  | .sealSz => Sys2Proof.Machine.execSealSz s
  | .sealXr f => Sys2Proof.Machine.execSealXr f s
  | .rgnSz ranges => Sys2Proof.Machine.execRgnSz ranges s
  | .growSi f => Sys2Proof.Machine.execGrowSi f s
  | .growXr f => Sys2Proof.Machine.execGrowXr f s
  | .shrinkSi f => Sys2Proof.Machine.execShrinkSi f s
  | .shrinkXr f => Sys2Proof.Machine.execShrinkXr f s
  | .fenceSi f => Sys2Proof.Machine.execFenceSi f s
  | .fenceXr f => Sys2Proof.Machine.execFenceXr f s
  | .trapSz f => Sys2Proof.Machine.execTrapSz f s
  | .trapXr f => Sys2Proof.Machine.execTrapXr f s
  | .rtiSz => Sys2Proof.Machine.execRtiSz s
  | .rtiXr f => Sys2Proof.Machine.execRtiXr f s
  | .rtiNextXr f => Sys2Proof.Machine.execRtiNextXr f s
  | .rtiRgnXr f => Sys2Proof.Machine.execRtiRgnXr f s
  | .syscallSi f => Sys2Proof.Machine.execSyscallSi f s
  | .syscallXr f => Sys2Proof.Machine.execSyscallXr f s
  | .irqSi f => Sys2Proof.Machine.execIrqSi f s
  | .irqXr f => Sys2Proof.Machine.execIrqXr f s
  | .brkSz => Sys2Proof.Machine.execBrkSz s
  | .brkXr f => Sys2Proof.Machine.execBrkXr f s
  | .sidSi f => Sys2Proof.Machine.execSidSi f s
  | .sidXr f => Sys2Proof.Machine.execSidXr f s
  | .exitSz => Sys2Proof.Machine.execExitSz s
  | .exitXr f => Sys2Proof.Machine.execExitXr f s
  | .gctlXr f => Sys2Proof.Machine.execGctlXr f s
  | .sleepSi f => Sys2Proof.Machine.execSleepSi f s
  | .sleepXr f => Sys2Proof.Machine.execSleepXr f s
  | .addS3 f => Sys2Proof.Machine.execAddS3 f s
  | .addXr f => Sys2Proof.Machine.execAddXr f s
  | .subS3 f => Sys2Proof.Machine.execSubS3 f s
  | .subXr f => Sys2Proof.Machine.execSubXr f s
  | .mulS3 f => Sys2Proof.Machine.execMulS3 f s
  | .mulXr f => Sys2Proof.Machine.execMulXr f s
  | .mulhXr f => Sys2Proof.Machine.execMulhXr f s
  | .madXr f => Sys2Proof.Machine.execMadXr f s
  | .divXr f => Sys2Proof.Machine.execDivXr f s
  | .remXr f => Sys2Proof.Machine.execRemXr f s
  | .minS3 f => Sys2Proof.Machine.execMinS3 f s
  | .minXr f => Sys2Proof.Machine.execMinXr f s
  | .maxS3 f => Sys2Proof.Machine.execMaxS3 f s
  | .maxXr f => Sys2Proof.Machine.execMaxXr f s
  | .absXr f => Sys2Proof.Machine.execAbsXr f s
  | .negXr f => Sys2Proof.Machine.execNegXr f s
  | .cmpXr f => Sys2Proof.Machine.execCmpXr f s
  | .selXr f => Sys2Proof.Machine.execSelXr f s
  | .lop3Xr f => Sys2Proof.Machine.execLop3Xr f s
  | .shlSi f => Sys2Proof.Machine.execShlSi f s
  | .shlXr f => Sys2Proof.Machine.execShlXr f s
  | .shrSi f => Sys2Proof.Machine.execShrSi f s
  | .shrXr f => Sys2Proof.Machine.execShrXr f s
  | .sarSi f => Sys2Proof.Machine.execSarSi f s
  | .sarXr f => Sys2Proof.Machine.execSarXr f s
  | .fshlXr f => Sys2Proof.Machine.execFshlXr f s
  | .fshrXr f => Sys2Proof.Machine.execFshrXr f s
  | .pcntXr f => Sys2Proof.Machine.execPcntXr f s
  | .clzXr f => Sys2Proof.Machine.execClzXr f s
  | .ctzXr f => Sys2Proof.Machine.execCtzXr f s
  | .brevXr f => Sys2Proof.Machine.execBrevXr f s
  | .bfeXr f => Sys2Proof.Machine.execBfeXr f s
  | .bfiXr f => Sys2Proof.Machine.execBfiXr f s
  | .movS3 f => Sys2Proof.Machine.execMovS3 f s
  | .movXr f => Sys2Proof.Machine.execMovXr f s
  | .leaXr f => Sys2Proof.Machine.execLeaXr f s
  | .prmtXr f => Sys2Proof.Machine.execPrmtXr f s
  | .faddS3 f => Sys2Proof.Machine.execFaddS3 f s
  | .faddXr f => Sys2Proof.Machine.execFaddXr f s
  | .fsubS3 f => Sys2Proof.Machine.execFsubS3 f s
  | .fsubXr f => Sys2Proof.Machine.execFsubXr f s
  | .fmulS3 f => Sys2Proof.Machine.execFmulS3 f s
  | .fmulXr f => Sys2Proof.Machine.execFmulXr f s
  | .ffmaXr f => Sys2Proof.Machine.execFfmaXr f s
  | .fminS3 f => Sys2Proof.Machine.execFminS3 f s
  | .fminXr f => Sys2Proof.Machine.execFminXr f s
  | .fmaxS3 f => Sys2Proof.Machine.execFmaxS3 f s
  | .fmaxXr f => Sys2Proof.Machine.execFmaxXr f s
  | .fabsXr f => Sys2Proof.Machine.execFabsXr f s
  | .fnegXr f => Sys2Proof.Machine.execFnegXr f s
  | .fcmpXr f => Sys2Proof.Machine.execFcmpXr f s
  | .fdivXr f => Sys2Proof.Machine.execFdivXr f s
  | .fsqrtXr f => Sys2Proof.Machine.execFsqrtXr f s
  | .frcpXr f => Sys2Proof.Machine.execFrcpXr f s
  | .frsqXr f => Sys2Proof.Machine.execFrsqXr f s
  | .ex2sXr f => Sys2Proof.Machine.execEx2sXr f s
  | .lg2Xr f => Sys2Proof.Machine.execLg2Xr f s
  | .fclsXr f => Sys2Proof.Machine.execFclsXr f s
  | .frndXr f => Sys2Proof.Machine.execFrndXr f s
  | .cvtXr f => Sys2Proof.Machine.execCvtXr f s
  | .ordfXr f => Sys2Proof.Machine.execOrdfXr f s
  | .tagsetXr f => Sys2Proof.Machine.execTagsetXr f s
  | .tagqXr f => Sys2Proof.Machine.execTagqXr f s
  | .kpackXr f => Sys2Proof.Machine.execKpackXr f s
  | .kunpXr f => Sys2Proof.Machine.execKunpXr f s
  | .lscanXr f => Sys2Proof.Machine.execLscanXr f s
  | .lredXr f => Sys2Proof.Machine.execLredXr f s
  | .voteXr f => Sys2Proof.Machine.execVoteXr f s
  | .balXr f => Sys2Proof.Machine.execBalXr f s
  | .matchXr f => Sys2Proof.Machine.execMatchXr f s
  | .jmpSb f => Sys2Proof.Machine.execJmpSb f s
  | .jmpXb f => Sys2Proof.Machine.execJmpXb f s
  | .callXb f => Sys2Proof.Machine.execCallXb f s
  | .retXr f => Sys2Proof.Machine.execRetXr f s
  | .bnzXb f => Sys2Proof.Machine.execBnzXb f s
  | .bzXb f => Sys2Proof.Machine.execBzXb f s
  | .brxXb f => Sys2Proof.Machine.execBrxXb f s
  | .jenrXr f => Sys2Proof.Machine.execJenrXr f s
  | .jwaitXr f => Sys2Proof.Machine.execJwaitXr f s
  | .jstrXr f => Sys2Proof.Machine.execJstrXr f s
  | .jmovXr f => Sys2Proof.Machine.execJmovXr f s
  | .tspawnXr f => Sys2Proof.Machine.execTspawnXr f s
  | .tnextXr f => Sys2Proof.Machine.execTnextXr f s
  | .bndXr f => Sys2Proof.Machine.execBndXr f s
  | .incxXr f => Sys2Proof.Machine.execIncxXr f s
  | .incrXr f => Sys2Proof.Machine.execIncrXr f s
  | .ldXm f => Sys2Proof.Machine.execLdXm f s
  | .stXm f => Sys2Proof.Machine.execStXm f s
  | .atomXm f => Sys2Proof.Machine.execAtomXm f s
  | .casXm f => Sys2Proof.Machine.execCasXm f s
  | .pfXm f => Sys2Proof.Machine.execPfXm f s
  | .pinXm f => Sys2Proof.Machine.execPinXm f s
  | .unpinXm f => Sys2Proof.Machine.execUnpinXm f s
  | .cflXm f => Sys2Proof.Machine.execCflXm f s
  | .cinvXm f => Sys2Proof.Machine.execCinvXm f s
  | .cplXm f => Sys2Proof.Machine.execCplXm f s
  | .cptXt f => Sys2Proof.Machine.execCptXt f s
  | .bariXm f => Sys2Proof.Machine.execBariXm f s
  | .barvXm f => Sys2Proof.Machine.execBarvXm f s
  | .barwXm f => Sys2Proof.Machine.execBarwXm f s
  | .barxXm f => Sys2Proof.Machine.execBarxXm f s
  | .qenqXm f => Sys2Proof.Machine.execQenqXm f s
  | .qdeqXm f => Sys2Proof.Machine.execQdeqXm f s
  | .qpollXm f => Sys2Proof.Machine.execQpollXm f s
  | .presXm f => Sys2Proof.Machine.execPresXm f s
  | .rwrXm f => Sys2Proof.Machine.execRwrXm f s
  | .rrdXm f => Sys2Proof.Machine.execRrdXm f s
  | .raddXm f => Sys2Proof.Machine.execRaddXm f s
  | .rsigXm f => Sys2Proof.Machine.execRsigXm f s
  | .swaitXm f => Sys2Proof.Machine.execSwaitXm f s
  | .rmcXm f => Sys2Proof.Machine.execRmcXm f s
  | .raccXm f => Sys2Proof.Machine.execRaccXm f s
  | .bldXt f => Sys2Proof.Machine.execBldXt f s
  | .mmaXt f => Sys2Proof.Machine.execMmaXt f s
  | .mbinXt f => Sys2Proof.Machine.execMbinXt f s
  | .mretXt f => Sys2Proof.Machine.execMretXt f s
  | .mretSendXt f => Sys2Proof.Machine.execMretSendXt f s
  | .mclrXt f => Sys2Proof.Machine.execMclrXt f s
  | .rdefXr f => Sys2Proof.Machine.execRdefXr f s
  | .rdelXr f => Sys2Proof.Machine.execRdelXr f s
  | .foldXt f => Sys2Proof.Machine.execFoldXt f s
  | .scanXt f => Sys2Proof.Machine.execScanXt f s
  | .zipXt f => Sys2Proof.Machine.execZipXt f s
  | .zipMergeXt f => Sys2Proof.Machine.execZipMergeXt f s
  | .outrXt f => Sys2Proof.Machine.execOutrXt f s
  | .rendXr f => Sys2Proof.Machine.execRendXr f s
  | .rdropXr f => Sys2Proof.Machine.execRdropXr f s
  | .illegalOpcode opc => Sys2Proof.Machine.execIllegalOpcode opc s
  | .coolantFlowChange mlPerMin => Sys2Proof.Machine.execCoolantFlowChange mlPerMin s
  | .supplyDroop mv => Sys2Proof.Machine.execSupplyDroop mv s
  | .eccEvent unit corrected => Sys2Proof.Machine.execEccEvent unit corrected s
  | .poweredSecond degC => Sys2Proof.Machine.execPoweredSecond degC s
  | .escapeChannel k => Sys2Proof.Machine.execEscapeChannel k s
  | .lanyardLinkError cl up => Sys2Proof.Machine.execLanyardLinkError cl up s
  | .moduleReset => Sys2Proof.Machine.execModuleReset s
  | .supplyLowTimeout => Sys2Proof.Machine.execSupplyLowTimeout s
  | .supplyOvervoltage => Sys2Proof.Machine.execSupplyOvervoltage s
  | .supplyExcursionCount => Sys2Proof.Machine.execSupplyExcursionCount s
  | .coolantFlowTimeout => Sys2Proof.Machine.execCoolantFlowTimeout s
  | .lifetimeFlush => Sys2Proof.Machine.execLifetimeFlush s
  | .keyRetireDone => Sys2Proof.Machine.execKeyRetireDone s
  | .updatePause => Sys2Proof.Machine.execUpdatePause s
  | .updateAlive => Sys2Proof.Machine.execUpdateAlive s
  | .updateWatchdog => Sys2Proof.Machine.execUpdateWatchdog s
  | .uzomanWatchdogRestart => Sys2Proof.Machine.execUzomanWatchdogRestart s
  | .hitchPlace => Sys2Proof.Machine.execHitchPlace s

end Sys2Proof.Machine
end

