-- ==== Sys2Proof/Machine/Load.lean ====
section
/-!
DEFINITION. A program loaded from outside the machine: the context, page tables, team and group with which the next
instruction fetched is a given one (log 7).
-/
namespace Sys2Proof.Machine

/-- Physical base of the loaded tables and code. -/
def loadBase : Nat := 0x10010000000
/-- Virtual address of the loaded code. -/
def loadVa : Addr := 0x10000

/-- The context of a loaded program: page tables at `loadBase`. -/
def loadCtx : Ctx where
  id := 1
  ended := false
  unord := 0
  evq := 0
  sysId := 1
  irqId := 1
  sysHart := 0
  irqHart := 0
  ovfl := 16
  ptroot := loadBase
  seed := 0
  trapTab := 0
  faultQ := 0
  sysQ := 0
  peerT := 0
  mcastT := 0
  ovflA := 0
  incCfg := List.replicate 16 0
  incLink := List.replicate 16 0
  incInit := List.replicate 16 0
  incMod := List.replicate 16 0
  offerDue := List.replicate 16 false
  offerAt := List.replicate 16 none
  gen := 0
  routines := []
  parked := []
  ovflUsed := 0
  stale := []

/-- The grid of a loaded program: one team of one group of 16 lanes. -/
def loadGrid : Grid where
  id := 1
  ctx := 1
  cmd := 0
  queue := 0
  seq := 1
  firstQueue := 0
  firstSeq := 1
  full := false
  image := 0
  code := loadVa
  entry := loadVa
  w := 16
  gprod := 0
  gcons := 1
  rprod := 0
  rcons := 1016
  hitch := 1
  scratch := 0x100000
  nteams := 1
  incidx := 0
  bounded := false
  ntq := 4
  bound0 := 0
  tqs := List.replicate 4 0
  args := List.replicate 16 0
  tasks := 0
  teamsVa := 0
  records := 0
  nextTeam := 1
  disc := 0
  canc := 0
  exitedTeams := 0
  preempt := none
  saved := []
  ended := false
  preempted := false

/-- The team of a loaded program. -/
def loadTeam : Team :=
  Team.launch 1 1 0 0 0 [0] 0x100000 [Group.launch 0 true 1016 (List.replicate 16 (Lane.launch loadVa (List.replicate 16 0) none))]

/-- A pointer and a leaf of the loaded page tables: one 64 KiB page, readable, writable and executable. -/
def loadTables (m : Memory) : Memory :=
  let m := m.writeBytes loadBase (leBytes 8 (loadBase + 0x4000 + 1))
  let m := m.writeBytes (loadBase + 0x4000) (leBytes 8 (loadBase + 0x8000 + 1))
  m.writeBytes (loadBase + 0x8000 + 8) (leBytes 8 (loadBase + 0x10000 + 0x3F))

/-- The fabric with a program's bytes loaded: its sectors hold plain bytes, no cache holds a line of them, and core 0 runs
the loaded team. -/
def Fab.load_ (f : Fab) (bytes : List Byte) : Fab :=
  { f with
    mem := (loadTables f.mem).writeBytes (loadBase + 0x10000) bytes
    memKeys := f.memKeys.filter (fun k => !(loadBase ≤ 64 * k.1 && 64 * k.1 < loadBase + 0x20000))
    l2 := []
    marks := []
    dieTlb := []
    cores := Table.set f.cores 0 { Core.empty with team := some loadTeam, incs := (List.range 16).map (fun i => (16 + i, 0)) }
    ctxs := loadCtx :: f.ctxs.filter (fun c => c.id != 1)
    grids := loadGrid :: f.grids.filter (fun g => g.id != 1)
    issueSlots := 4
    issuer := none }

end Sys2Proof.Machine
end

