-- ==== Sys2Proof/Machine/Sched.lean ====
section
/-!
DEFINITION. The default order of events (log 6): which event comes next where the agenda names none. An event is taken when it changes more
than the contents of memory and caches, that is, when it does more than look.
-/
namespace Sys2Proof.Machine

/-- The event of a write to the service range (R380). -/
def writeEvent (w : RegWrite) : Instr :=
  match regEvent w with
  | .plain => .registerWrite w
  | .fuseadv => .fuseadvWrite w
  | .keyLoad => .keyLoad w
  | .keyRetire => .keyRetire w
  | .keyQuery => .keyQuery w
  | .retrain => .hpstatRetrain w
  | .disable => .hpstatDisable w
  | .update => .liveUpdate w
  | .bell => .uzbellWrite w
  | .cap => .pwrcapWrite w
  | .repRetire => .repairRetire w
  | .repRestore => .repairRestore w
  | .repRetrain => .repairRetrain w

/-- The state without the contents of memory and of caches, and without the numbers that reads take on the ring. -/
def State.bare (s : State) : State :=
  { s with fab := { s.fab with
      mem := []
      memKeys := []
      l2 := []
      marks := []
      ringFlows := []
      dieTlb := []
      cores := s.fab.cores.map (fun (c, k) => (c, { k with l1 := [], icache := [], tlb := [] })) } }

/-- Whether an event does more than look. -/
def State.acts (s : State) (i : Instr) : Bool :=
  match exec i s with
  | .next t => decide (t.bare ≠ s.bare)
  | _ => true

/-- The event at the head of a lanyard link, by the message's TYPE (Tables 5.1 and 5.2). -/
def headEvents (cl : Nat) (k : Lanyard) : List Instr :=
  (match k.down with
   | [] => []
   | m :: _ => [if m.type = 0x01 then .lanyardPlace cl else if m.type = 0x04 then .lanyardPreempt cl else if m.type = 0x06 then .lanyardRetire cl
      else if m.type = 0x07 then .lanyardPermit cl false else .lanyardLinkError cl false]) ++
  (match k.up with
   | [] => []
   | m :: _ => [if m.type = 0x02 then .lanyardPlaced cl else if m.type = 0x03 then .lanyardTeamend cl else if m.type = 0x05 then .lanyardSaved cl
      else if m.type = 0x07 then .lanyardPermit cl true else .lanyardLinkError cl true]) ++
  (if k.owedUp ≠ 0 then [.permitReturnTimeout cl true] else []) ++ (if k.owedDown ≠ 0 then [.permitReturnTimeout cl false] else [])
/-- Events of the board and the control complex. -/
def State.boardEvents (s : State) : List Instr :=
  let c := s.ctl
  (match s.fab.regWrites with | w :: _ => [writeEvent w] | [] => []) ++
  (if 56000 < c.supply then [.supplyOvervoltage] else []) ++
  (if c.lowSince.isSome then [.supplyLowTimeout] else []) ++
  (if c.bandSince.isSome then [.supplyExcursionCount] else []) ++
  (if c.coolantSince.isSome then [.coolantFlowTimeout] else []) ++
  (if 115 ≤ c.temp then [.thermalShutdown c.temp] else []) ++
  (if 105 ≤ c.temp ∧ !c.thermal then [.thermalThrottle c.temp] else []) ++
  (if c.temp < 100 ∧ c.thermal then [.thermalRelease c.temp] else []) ++
  (if c.capped ≠ decide (c.cap < c.meas) then [.powerCompare c.meas] else []) ++
  (if s.flushDue then [.lifetimeFlush] else []) ++ (if s.secondDue then [.poweredSecond c.temp] else []) ++
  (if c.kbusy then [.keyRetireDone] else []) ++
  (match c.updPhase with | .idle => [] | .verified => [.updatePause] | .paused => [.updateAlive, .updateWatchdog]) ++
  (if c.repBusy then [.repairDone true] else [])
/-- Events of Uzoman and the lanyard. -/
def State.uzEvents (s : State) : List Instr :=
  s.fab.cmds.flatMap (fun c =>
    (if c.rec_.flags.getLsbD 1 ∧ !c.semOk then [.commandSemaphoreStart c.id] else []) ++
    (match c.rec_.op.toNat with
     | 1 => [.cmdNop c.id] | 2 => [.cmdCreate c.id] | 3 => [.cmdDestroy c.id] | 4 => [.cmdResume c.id] | 5 => [.cmdPreempt c.id]
     | 6 => [.cmdCall c.id] | 7 => [.cmdReply c.id] | 8 => [.cmdStamp c.id] | _ => [])) ++
  s.fab.posts.map (fun p => .eventQueueRecheck p.queue) ++
  (if s.fab.placement.isEmpty then [] else [.hitchPlace]) ++
  (s.fab.links.mapIdx (fun cl k => headEvents cl k)).flatten
/-- Events of one group. -/
def groupEvents (c : Nat) (g : Group) : List Instr :=
  (List.range g.loads.length).map (fun k => .loadComplete c g.slot k (BitVec.allOnes 64)) ++
  (if g.storeQ.isEmpty then [] else [.storeDrain c g.slot]) ++
  (if g.stop.isSome then [.groupStop c g.slot] else []) ++
  (match g.hold with | some (.sleep ..) => [.sleepWake c g.slot] | _ => []) ++
  (if g.absentSince.isSome then [.presenceWatchdog c g.slot] else []) ++
  (if g.malformed ≠ 0 then [.malformedTaskTrap c g.slot] else []) ++
  (if g.lanes.any (fun l => match l.park with | some (.syscall none _) => true | _ => false) then [.syscallRequestPost c g.slot] else [])
/-- Events of the cores. -/
def State.coreEvents (s : State) : List Instr :=
  s.fab.cores.flatMap (fun (c, k) =>
    (match k.team with | some t => t.groups.flatMap (groupEvents c) | none => []) ++
    k.copies.flatMap (fun o => (List.range o.pend.length).map (fun p => .copySectorDeliver c o.id p)) ++
    (if k.mxq.isEmpty then [] else [.matrixOpComplete c]) ++
    (if k.regQueue.isEmpty then [] else [.registerGrant c]))
/-- Events of fault slots and the memory system. -/
def State.faultEvents (s : State) : List Instr :=
  s.fab.faults.flatMap (fun (n, x) => if x.enqueued then [.faultRetry n, .faultDeliver n, .faultEnd n] else [.faultRecordEnqueue n]) ++
  (if s.fab.engPosts.isEmpty then [] else [.faultRecordEnqueue 0xFFFF]) ++
  (List.range s.fab.remaps.length).map (fun k => .remapReceive k) ++
  (List.range s.fab.ring.length).map (fun k => .escapeChannel k)
/-- Events of the transport. -/
def State.portEvents (s : State) : List Instr :=
  s.fab.arrived.mapIdx (fun k x =>
    if !s.ctl.mine x.2 then .packetTransit k
    else if x.2.op = 0x0A ∨ x.2.op = 0x04 then .packetAck k
    else if x.2.op = 0x0B then .packetNak k
    else if x.2.op = 0x09 then .offerReceive k
    else .packetReceive k) ++
  s.fab.sent.flatMap (fun x => [.packetUnreachableTimeout x.id, .packetResendTimeout x.id]) ++
  (List.range s.ctl.ports.length).map (fun p => .linkRetrain p)
/-- Whether every replica of an incumbent holds one value. -/
def Fab.incEven (f : Fab) (x : Ctx) (i : Nat) : Bool :=
  let v := x.incMod.getD i 0
  (List.range 56).all (fun k => f.replica k x.id i == v) && f.cores.all (fun k => f.coreInc k.1 x.id i == v)
/-- Events of incumbents (R47, R117). -/
def State.incEvents (s : State) : List Instr :=
  s.fab.ctxs.flatMap (fun x => (List.range 16).flatMap (fun i =>
    (if x.offerDue.getD i false then [.offerSend x.id i] else []) ++
    (if s.fab.incEven x i then []
     else s.fab.cores.map (fun k => .incumbentPropagate x.id i 2 k.1) ++ (List.range 48).map (.incumbentPropagate x.id i 3) ++
      (List.range 8).map (.incumbentPropagate x.id i 4) ++ (List.range 8).map (.incumbentPropagate x.id i 5) ++
      (List.range 48).map (.incumbentPropagate x.id i 6) ++ [.incumbentPropagate x.id i 7 0])))
/-- The event that the default order takes next, if there is one. -/
def State.background (s : State) : Option Instr :=
  (s.boardEvents ++ s.coreEvents ++ s.faultEvents ++ s.uzEvents ++ s.portEvents ++ s.incEvents).find? (fun i => s.acts i)

end Sys2Proof.Machine
end

