-- ==== Sys2Proof/Machine/Step.lean ====
section
/-!
DEFINITION. One step: the move at the head of the agenda, else what the default order takes next (log 6): an issue by the
picker's group, an enabled event, or the passing of time.
-/
namespace Sys2Proof.Machine

/-- Issues the next instruction of a group: fetch, decode, meaning (R242, R257, R258). -/
def issueOn (c slot : Nat) (s : State) : Out :=
  match s.fab.issuing c slot with
  | none => .next s
  | some i =>
    match s.fab.fetch s.ctl c i.ctx i.pc.toNat with
    | (.words ws, f) =>
      (match decode ws with
       | .ok j => exec j { s with fab := { f with issuer := some (c, slot) } }
       | .error _ => s.lift (({ f with issuer := some (c, slot) } : Fab).undecoded s.ctl ws))
    | (.xlate va r l, f) => .next { s with fab := f.fetchPark s.ctl i va r l }
    | (.refused va, f) => .next { s with fab := f.fetchTrap s.ctl i va }

/-- The cycles that may pass before a powered second is due (R70). -/
def State.secondRoom (s : State) (acs : Nat) : Nat :=
  if s.ctl.runs then min acs (cyclesIn s.fab.ac (s.ctl.secondAt + 1000000000 - s.fab.time.toNat).toNat) else acs
/-- Performs a move. -/
def runMove (m : Move) (s : State) : Out :=
  match m with
  | .act i => exec i s
  | .issue c slot => issueOn c slot s
  | .elapse acs => .next { s with fab := (s.fab.elapse (s.secondRoom acs)).ringGo s.ctl }
  | .hartStore key pa bytes => .next { s with fab := s.fab.hartStore s.ctl key pa.toNat bytes }
  | .evictL1 c line => .next { s with fab := s.fab.l1Drop s.ctl c line }
  | .evictI c va => .next { s with fab := s.fab.evictI c va }
  | .evictL2 line => .next { s with fab := s.fab.evictL2 s.ctl line }
  | .mxPiece core => .next { s with fab := s.fab.mxUnit s.ctl core false }
  | .takeMsi n => .next { s with fab := s.fab.takeMsi n }

/-- The move that comes next: without another, one arithmetic-clock cycle passes (R12, R13). -/
def nextMove (s : State) : Move :=
  match s.fab.pick with
  | some (c, slot) => .issue c slot
  | none => match s.background with
    | some i => .act i
    | none => .elapse 1

/-- What goes on of itself in every step: leaf controllers act on the messages they hold, parked packets are applied, remote operations
that had found no fault slot go on, and so do the groups whose `wait` is met (R46, R98, R201, R291). -/
def Fab.goOn (ctl : Ctl) (f : Fab) : Fab := (((f.leavesGo ctl).unparkAll ctl).remotesGo ctl).waitsGo ctl
/-- What every step ends with: the lifetime record is written to flash where it is due, Uzoman takes the commands that are available and starts a repair that waited, the fabric goes on, the switch
sends what it can, and the fabric settles. -/
def settleStep (m : Move) : Out → Out
  | .next s =>
    let s := s.flushLife.uzSettle.repairResume
    let s := ({ s with fab := s.fab.goOn s.ctl } : State).flushOutbox
    .next { s with fab := s.fab.settle s.ctl m }
  | o => o

/-- One step of the machine. -/
def step (s : State) : Host.Outcome State Fault Refusal :=
  match s.agenda with
  | m :: rest => settleStep m (runMove m { s with agenda := rest })
  | [] => settleStep (nextMove s) (runMove (nextMove s) s)

/-- `s` with an instruction loaded where the next step fetches (log 7). -/
def State.withFetchWord (s : State) (nbits w : Nat) : State :=
  { s with fab := s.fab.load_ (bytesOfNat 20 (w % 2 ^ nbits)), agenda := [] }

end Sys2Proof.Machine
end

