-- ==== Sys2Proof/Safety.lean ====
section
/-!
DEFINITION. What counts as a safe step, when a core instruction issues normally, what it leaves alone, and the invariant
of the control part that claims are stated with.
-/
namespace Sys2Proof.Safety
open Sys2Proof.Machine

/-- A step that stops with neither a fault nor a refusal. -/
def StepsOn (s : State) : Prop := ∃ t, step s = .next t

/-! ## When a core instruction issues (R107, R135-R138, R151, R160, R242-R259) -/

/-- The instruction encoded by `e` issues for the frontier entry `i` of the issuing group: a group is issuing and has a
lane to issue; no handler has overrun a pre-emption; the deferral window is in time (or the instruction is `rgn`); no
encoding check fails, nor is a lane-mask destination odd in a group of 64; `rti` stands in trap mode; the counters and
older operations that gate the instruction let it go; every register it names is allocated, and every source has a tag of
its family. -/
abbrev Issues (s : State) (e : Enc) (gate : Iss → Fab → Bool) (i : Iss) : Prop :=
  s.fab.iss e.pred e.length = some i ∧ s.fab.handlerLate i = false ∧ (s.fab.overdue i = [] ∨ e.opc = 0x04) ∧
  e.error = none ∧ e.oddMask i.w = false ∧ (e.opc = 0x09 → i.trapMode = true) ∧ gate i s.fab = false ∧
  namesBadReg (e.names i.w) i.r = none ∧ namesBadTag (e.names i.w) s.fab i = none

/-- The fabric on which an instruction's own effects act: the entry has moved past it (R242), and the counts of its
window and its handler have risen (R151, R157). -/
def moved (s : State) (e : Enc) (i : Iss) : Fab := s.fab.advance i e.hints

/-- The state in which an instruction has retired with the fabric `f`: the frontier merges (R145), and nothing outside the
fabric changes. -/
def retired (s : State) (i : Iss) (f : Fab) : State := { s with fab := f.mergeHere i }

/-- The state in which an instruction has taken a trap with nothing written (R155). -/
def trapped (s : State) (i : Iss) (t : Trap) : State := { s with fab := s.fab.trapHere s.ctl i t }

/-! ## What an instruction leaves alone -/

/-- Two fabrics agree on everything but the cores: memory and its keys, L2, translations of the dies, contexts, grids,
incumbent replicas, fault slots, scheduler, command and event queues, interrupts, transport and counters. -/
def SameOutside (f g : Fab) : Prop := { f with cores := [] } = { g with cores := [] }

/-- Two fabrics agree outside the cores, and on every core but one. -/
def SameButCore (c : Nat) (f g : Fab) : Prop := SameOutside f g ∧ ∀ d, d ≠ c → f.core d = g.core d

/-- Two cores agree on everything but their team: caches, translations, copies, matrix operations, register queue,
incumbent replicas. -/
def SameUnits (j k : Core) : Prop := { j with team := none } = { k with team := none }

/-- Two teams agree on everything but their groups and shared registers: scratchpad, presence, B slots, identity. -/
def SameStore (t u : Team) : Prop := { t with groups := [], shared := [] } = { u with groups := [], shared := [] }

/-- Two groups agree on every operation they have outstanding: store queue, loads, batches, remote operations, completions
not delivered and the counts they are numbered by. -/
def SameQueues (g h : Group) : Prop :=
  g.storeQ = h.storeQ ∧ g.loads = h.loads ∧ g.openBatch = h.openBatch ∧ g.batches = h.batches ∧ g.rem = h.rem ∧
  g.undel = h.undel ∧ g.ringCount = h.ringCount ∧ g.nextSeq = h.nextSeq ∧ g.sealedCp = h.sealedCp ∧
  g.issuedMx = h.issuedMx ∧ g.issuedCl = h.issuedCl

/-! ## What a core instruction has written -/

/-- The team of a core in a state, its group in a slot, and a lane of that group. -/
def teamAt (s : State) (c : Nat) : Option Team := (s.fab.core c).team
/-- A group of a core's team. -/
def groupAt (s : State) (c slot : Nat) : Option Group := s.fab.group? c slot
/-- A lane of a group. -/
def laneAt (s : State) (c slot l : Nat) : Option Lane := s.fab.lane? c slot l

/-- An instruction went from `s` to `t`, and apart from the `n` registers from `d` in the active lanes (or the team-shared
registers of that range), the group control word, and what `R` says of each lane before and after, only the bookkeeping of
an issue has changed. The control part, the agenda, every other core, this core's caches and engines, its scratchpad, presence
and B slots, the other groups, the shared registers outside the range, the group's outstanding operations, and each lane's
status, bound, task and checkpoint stand. -/
def FrameBut (s t : State) (i : Iss) (d n : Nat) (R : Nat → Lane → Lane → Prop) : Prop :=
  t.ctl = s.ctl ∧ t.agenda = s.agenda ∧ SameButCore i.core t.fab s.fab ∧ SameUnits (t.fab.core i.core) (s.fab.core i.core) ∧
  ∃ tm tm' g g', teamAt s i.core = some tm ∧ teamAt t i.core = some tm' ∧ SameStore tm' tm ∧
    tm.groups[i.slot]? = some g ∧ tm'.groups[i.slot]? = some g' ∧
    (∀ k, k ≠ i.slot → tm'.groups[k]? = tm.groups[k]?) ∧
    (∀ m, 1016 ≤ m → (m < d ∨ d + n ≤ m) → tm'.shared[m - 1016]? = tm.shared[m - 1016]?) ∧
    SameQueues g' g ∧ g'.r = g.r ∧ g'.hold = g.hold ∧ g'.stop = g.stop ∧ g'.trap.map (·.handlers) = g.trap.map (·.handlers) ∧
    ∀ l x, g.lanes[l]? = some x → ∃ x', g'.lanes[l]? = some x' ∧
      x'.status = x.status ∧ x'.bound = x.bound ∧ x'.task = x.task ∧ x'.ck = x.ck ∧ R l x x' ∧
      ∀ m, m < 1016 → (l ∉ i.active ∨ m < d ∨ d + n ≤ m) → x'.priv i.core i.slot l m = x.priv i.core i.slot l m

/-- An instruction that writes registers and nothing else: lanes of the entry stand after the instruction and the others where
they were, and no lane parks, enrols or arrives. -/
def RegFrame (s t : State) (i : Iss) (d n : Nat) : Prop :=
  FrameBut s t i d n (fun l x x' => x'.park = x.park ∧ x'.enrolled = x.enrolled ∧ x'.arrived = x.arrived ∧
    x'.pc = (if l ∈ i.entry then i.pc + BitVec.ofNat 48 i.len else x.pc))

/-- Nothing outside the issuing group has changed: control part, agenda, every other core, this core's caches and engines,
its scratchpad, presence and B slots, the other groups, the shared registers. The group went from `g` to `g'`. -/
def GroupFrame (s t : State) (i : Iss) (g g' : Group) : Prop :=
  t.ctl = s.ctl ∧ t.agenda = s.agenda ∧ SameButCore i.core t.fab s.fab ∧ SameUnits (t.fab.core i.core) (s.fab.core i.core) ∧
  ∃ tm tm', teamAt s i.core = some tm ∧ teamAt t i.core = some tm' ∧ SameStore tm' tm ∧ tm'.shared = tm.shared ∧
    tm.groups[i.slot]? = some g ∧ tm'.groups[i.slot]? = some g' ∧ ∀ k, k ≠ i.slot → tm'.groups[k]? = tm.groups[k]?

/-- Where the lanes of an entry stand after their instruction, and the others. -/
def past (i : Iss) (l : Nat) (x : Lane) : Addr := if l ∈ i.entry then i.pc + BitVec.ofNat 48 i.len else x.pc

/-- The group control word of the issuing group. -/
def gcwOf (s : State) (i : Iss) : Option Word := (groupAt s i.core i.slot).map (·.gcw)

/-- Each active lane's registers from `d` hold the values `v` gives for it; a team-shared register has taken the write of
the lowest active lane (R140). -/
def Wrote (s t : State) (i : Iss) (d : Nat) (v : Nat → List Reg) : Prop :=
  (∀ l, l ∈ i.active → ∀ k r, (v l)[k]? = some r → d + k < 1016 → t.fab.reg i.core i.slot l (d + k) = r) ∧
  (∀ l ls, i.active = l :: ls → ∀ k r x, (v l)[k]? = some r → 1016 ≤ d + k →
    (teamAt s i.core).bind (fun tm => tm.shared[d + k - 1016]?) = some x →
    (teamAt t i.core).bind (fun tm => tm.shared[d + k - 1016]?) = some (x.write i.slot s.fab.ac r))

/-! ## Instructions that compute in the lanes -/

/-- The extended form in which an S3, SI or XR instruction computes (R256, R263). -/
def asXr : Enc → Option (BitVec 8 × XrForm)
  | .s3 o f => some (o, f.toXr)
  | .si o f => some (o, f.toXr)
  | .xr o f => some (o, f)
  | _ => none
/-- The extended form in which a branch of format SB or XB acts (R256). -/
def asXb : Enc → Option (BitVec 8 × XbForm)
  | .sb o f => some (o, f.toXb)
  | .xb o f => some (o, f)
  | _ => none
/-- What an opcode of chapter 13 computes from the registers of one lane. -/
def laneInstr (opc : Nat) : Option LaneOp :=
  match opc with
  | 0x59 => some opOrdf
  | 0x5A => some opTagset
  | 0x5B => some opTagq
  | n => laneOp n
/-- The sticky flags that the conditions raised by lanes set (Table 7.7). -/
def stickyOf (cs : List (Nat × Conds)) : Word :=
  (if cs.any (fun x => x.2.dz) then 0x100 else 0) ||| (if cs.any (fun x => x.2.inv) then 0x200 else 0) |||
    (if cs.any (fun x => x.2.fdz) then 0x400 else 0) ||| (if cs.any (fun x => x.2.ovf) then 0x800 else 0) |||
    (if cs.any (fun x => x.2.unf) then 0x1000 else 0)
/-- The trap of the lowest cause whose condition a lane has raised and the control word enables, with the lanes that raised
it (R155, Table 7.7). -/
def arithTrap (gcw : Word) (cs : List (Nat × Conds)) : Option Trap :=
  ([5, 6, 7, 8].find? (fun c => gcwEnables gcw c && cs.any (fun x => x.2.has c))).map
    (fun c => .plain c 0 ((cs.filter (fun x => x.2.has c)).map (·.1)))
/-- The state that follows when an instruction has retired in a state and then takes a trap, if any (R155). -/
def thenTrap (t : State) (i : Iss) : Option Trap → State
  | none => t
  | some tr => { t with fab := t.fab.trapHere t.ctl i tr }

/-! ## Float values (R222-R227, R271-R278) -/

/-- A decoded value is finite and is the number `x`. -/
def IsReal (v : FVal) (x : ℝ) : Prop :=
  match v with | .num n m e => x = (if n then -1 else 1) * m * 2 ^ e | _ => False
/-- An infinity. -/
def IsInf (v : FVal) : Prop := ∃ n, v = .inf n
/-- A zero. -/
def IsZero (v : FVal) : Prop := ∃ n e, v = .num n 0 e
/-- The magnitude `y` of a value of a sign, rounded under a mode of Table 11.3 to a multiple of 2^q, is k 2^q. -/
def RoundsAt (mode : RMode) (neg : Bool) (y : ℝ) (q : ℤ) (k : ℕ) : Prop :=
  match mode, neg with
  | .rne, _ => |y - k * 2 ^ q| ≤ 2 ^ q / 2 ∧ (|y - k * 2 ^ q| = 2 ^ q / 2 → k % 2 = 0)
  | .rtz, _ => k * 2 ^ q ≤ y ∧ y < (k + 1) * 2 ^ q
  | .rup, true => k * 2 ^ q ≤ y ∧ y < (k + 1) * 2 ^ q
  | .rup, false => (k - 1) * 2 ^ q < y ∧ y ≤ k * 2 ^ q
  | .rdn, true => (k - 1) * 2 ^ q < y ∧ y ≤ k * 2 ^ q
  | .rdn, false => k * 2 ^ q ≤ y ∧ y < (k + 1) * 2 ^ q
/-- A format's values near the magnitude `y` are the multiples of 2^q: of the least step below the smallest normal number, and of the last
place of `y` from there on. -/
def Spacing (f : Fmt) (y : ℝ) (q : ℤ) : Prop :=
  (y < 2 ^ f.emin ∧ q = f.emin - f.fb) ∨ (2 ^ f.emin ≤ y ∧ 2 ^ (q + f.fb) ≤ y ∧ y < 2 ^ (q + f.fb + 1))
/-- A magnitude that is not zero is tiny: rounded as if exponents had no bound, it lies below the smallest normal number (R224). -/
def Tiny (f : Fmt) (mode : RMode) (neg : Bool) (y : ℝ) : Prop :=
  ∃ (q : ℤ) (k : ℕ), 2 ^ (q + f.fb) ≤ y ∧ y < 2 ^ (q + f.fb + 1) ∧ RoundsAt mode neg y q k ∧ k * 2 ^ q < (2 : ℝ) ^ f.emin
/-- A result is the number `x` rounded once to a format, with its flags (R223, R224): where the rounded magnitude lies above every finite
one, what Table 11.3 delivers on overflow, with SOVF; else the rounded number, with SUNF where it is tiny and inexact, and no other flag. `neg`
is the sign of `x`, and of the result where `x` is zero. -/
def Rounded (f : Fmt) (mode : RMode) (neg : Bool) (x : ℝ) (r : Nat × FFlags) : Prop :=
  (x < 0 → neg = true) ∧ (0 < x → neg = false) ∧ ∃ (q : ℤ) (k : ℕ), Spacing f |x| q ∧ RoundsAt mode neg |x| q k ∧
    ((2 : ℝ) ^ (f.emax + 1) ≤ k * 2 ^ q →
      let infinite := mode = .rne ∨ (mode = .rup ∧ neg = false) ∨ (mode = .rdn ∧ neg = true)
      r = (f.signBit neg + (if infinite then f.infBits else f.infBits - 1), ⟨false, false, true, false⟩)) ∧
    (k * 2 ^ q < (2 : ℝ) ^ (f.emax + 1) → r.1 < 2 ^ f.width ∧ (∃ m e, f.unpack r.1 = .num neg m e ∧ (m : ℝ) * 2 ^ e = k * 2 ^ q) ∧
      r.2.inv = false ∧ r.2.dz = false ∧ r.2.ovf = false ∧ (r.2.unf = true ↔ |x| ≠ k * 2 ^ q ∧ Tiny f mode neg |x|))
/-- A NaN result of operands one of which is a NaN: the canonical one, with SINV where one signals (R272). -/
def NanResult (f : Fmt) (vs : List FVal) (r : Nat × FFlags) : Prop := r = (f.nanBits, if .nan true ∈ vs then .invalid else .none)
/-- An infinite result, without a flag. -/
def Infinite (f : Fmt) (neg : Bool) (r : Nat × FFlags) : Prop := r = (f.signBit neg + f.infBits, .none)
/-- The result of an invalid operation. -/
def Invalid (f : Fmt) (r : Nat × FFlags) : Prop := r = (f.nanBits, .invalid)
/-- The sum of two values (R222, R271, R272): an exact sum of zero is +0, unless both are negative. -/
def IsSum (f : Fmt) (x y : FVal) (r : Nat × FFlags) : Prop :=
  match x, y with
  | .nan _, _ => NanResult f [x, y] r
  | _, .nan _ => NanResult f [x, y] r
  | .inf a, .inf b => if a = b then Infinite f a r else Invalid f r
  | .inf a, .num .. => Infinite f a r
  | .num .., .inf b => Infinite f b r
  | .num n _ _, .num n' _ _ => ∀ X Y, IsReal x X → IsReal y Y → ∃ neg, (X + Y = 0 → neg = (n && n')) ∧ Rounded f .rne neg (X + Y) r
/-- A product of zero and infinity. -/
def BadProduct (x y : FVal) : Prop := (IsZero x ∧ IsInf y) ∨ (IsInf x ∧ IsZero y)
/-- The exact product of two values that are not NaN and make no bad product. -/
def ExactProduct (x y p : FVal) : Prop :=
  match p with
  | .nan _ => False
  | .inf s => (IsInf x ∨ IsInf y) ∧ s = (x.neg != y.neg)
  | .num n _ _ => n = (x.neg != y.neg) ∧ ∃ X Y, IsReal x X ∧ IsReal y Y ∧ IsReal p (X * Y)
/-- The product of two values. -/
def IsProduct (f : Fmt) (x y : FVal) (r : Nat × FFlags) : Prop :=
  if x.isNan || y.isNan then NanResult f [x, y] r
  else (BadProduct x y → Invalid f r) ∧ (¬BadProduct x y → ∃ p, ExactProduct x y p ∧
    match p with | .num n _ _ => ∀ P, IsReal p P → Rounded f .rne n P r | p => Infinite f p.neg r)
/-- A product plus a third value, rounded once: zero times infinity is invalid whatever is added (R272). -/
def IsFused (f : Fmt) (x y z : FVal) (r : Nat × FFlags) : Prop :=
  if x.isNan || y.isNan then NanResult f [x, y, z] r
  else (BadProduct x y → Invalid f r) ∧ (¬BadProduct x y → ∃ p, ExactProduct x y p ∧ IsSum f p z r)
/-- The quotient of two values. -/
def IsQuotient (f : Fmt) (x y : FVal) (r : Nat × FFlags) : Prop :=
  match x, y with
  | .nan _, _ => NanResult f [x, y] r
  | _, .nan _ => NanResult f [x, y] r
  | .inf _, .inf _ => Invalid f r
  | .inf a, .num b _ _ => Infinite f (a != b) r
  | .num a _ _, .inf b => r = (f.signBit (a != b), .none)
  | .num a m _, .num b m' _ =>
    if m' = 0 then (if m = 0 then Invalid f r else r = (f.signBit (a != b) + f.infBits, .divz))
    else ∀ X Y, IsReal x X → IsReal y Y → Rounded f .rne (a != b) (X / Y) r
/-- The square root. -/
def IsRoot (f : Fmt) (x : FVal) (r : Nat × FFlags) : Prop :=
  match x with
  | .nan _ => NanResult f [x] r
  | .inf n => if n then Invalid f r else Infinite f false r
  | .num n m _ => if m = 0 then r = (f.signBit n, .none) else if n then Invalid f r else ∀ X, IsReal x X → Rounded f .rne false (Real.sqrt X) r
/-- The reciprocal square root (Table 13.4). -/
def IsInverseRoot (f : Fmt) (x : FVal) (r : Nat × FFlags) : Prop :=
  match x with
  | .nan _ => NanResult f [x] r
  | .inf n => if n then Invalid f r else r = (0, .none)
  | .num n m _ => if m = 0 then r = (f.signBit n + f.infBits, .divz) else if n then Invalid f r
    else ∀ X, IsReal x X → Rounded f .rne false (1 / Real.sqrt X) r
/-- Whether two values within 1 part in 2^10000 of a value round apart to a format: it lies that near to a place where rounding changes. -/
def NearBoundary (f : Fmt) (x : ℝ) : Prop :=
  ∃ neg a b r s, |a - x| ≤ |x| / 2 ^ 10000 ∧ |b - x| ≤ |x| / 2 ^ 10000 ∧ Rounded f .rne neg a r ∧ Rounded f .rne neg b s ∧ r ≠ s
/-- The base-2 logarithm (Table 13.4): a power of two has an integer, rounded once; any other has the logarithm rounded once, or, only where it
lies within 1 part in 2^10000 of a place where rounding changes, the zero that the model gives where no precision it tries has decided (log 75). -/
def IsLog (f : Fmt) (x : FVal) (r : Nat × FFlags) : Prop :=
  match x with
  | .nan _ => NanResult f [x] r
  | .inf n => if n then Invalid f r else Infinite f false r
  | .num n m _ => if m = 0 then r = (f.signBit true + f.infBits, .divz) else if n then Invalid f r
    else ∀ X, IsReal x X → ((∀ k : ℤ, X ≠ 2 ^ k) ∧ NearBoundary f (Real.logb 2 X) ∧ r = (0, .none)) ∨ ∃ neg, (X = 1 → neg = false) ∧ Rounded f .rne neg (Real.logb 2 X) r
/-- 2 to the power of a product less a third value (Table 13.4): an integer exponent gives a power of two, rounded once; any other the power
rounded once, or, only where it lies within 1 part in 2^10000 of a place where rounding changes, the zero that the model gives where no precision
it tries has decided (log 75). -/
def IsPower (f : Fmt) (x y z : FVal) (r : Nat × FFlags) : Prop :=
  if x.isNan || y.isNan then NanResult f [x, y, z] r
  else (BadProduct x y → Invalid f r) ∧ (¬BadProduct x y → ∃ p, ExactProduct x y p ∧
    match p, z with
    | _, .nan _ => NanResult f [z] r
    | .inf a, .inf b => if a = b then Invalid f r else if a then r = (0, .none) else Infinite f false r
    | .inf a, _ => if a then r = (0, .none) else Infinite f false r
    | _, .inf b => if b then Infinite f false r else r = (0, .none)
    | _, _ => ∀ P Z, IsReal p P → IsReal z Z → ((∀ k : ℤ, P - Z ≠ k) ∧ NearBoundary f ((2 : ℝ) ^ (P - Z)) ∧ r = (0, .none)) ∨ Rounded f .rne false ((2 : ℝ) ^ (P - Z)) r)
/-- The class bit of a pattern (R275). -/
def IsClass (f : Fmt) (v : Nat) (r : Nat × FFlags) : Prop :=
  r.2 = .none ∧ match f.unpack v with
  | .nan s => r.1 = 2 ^ (if s then 8 else 9)
  | .inf n => r.1 = 2 ^ (if n then 0 else 7)
  | .num n m e => if m = 0 then r.1 = 2 ^ (if n then 3 else 4)
    else r.1 = 2 ^ (if n then 2 else 5) ∧ (m : ℝ) * 2 ^ e < 2 ^ f.emin ∨ r.1 = 2 ^ (if n then 1 else 6) ∧ (2 : ℝ) ^ f.emin ≤ m * 2 ^ e
/-- A pattern's value rounded to an integral value of its format, its sign kept, without a flag but SINV of a signalling NaN (R276). -/
def IsIntegral (f : Fmt) (mode : RMode) (v : Nat) (r : Nat × FFlags) : Prop :=
  match f.unpack v with
  | .nan s => NanResult f [.nan s] r
  | .inf _ => r = (v, .none)
  | .num n m e => if m = 0 then r = (v, .none)
    else r.2 = .none ∧ r.1 < 2 ^ f.width ∧ ∃ (k : ℕ) (m' : ℕ) (e' : ℤ), RoundsAt mode n (m * 2 ^ e) 0 k ∧ f.unpack r.1 = .num n m' e' ∧ (m' : ℝ) * 2 ^ e' = k
/-- The formats of Table 13.5 from code 4. -/
def cvtFormat (code : Nat) : Fmt := if code = 4 then .f32 else if code = 5 then .f64 else if code = 6 then .h16 else .b16
/-- The integer that a pattern of a type of Table 13.5 is. -/
def cvtInteger (code v : Nat) : Int :=
  if code = 0 then (BitVec.ofNat 32 v).toInt else if code = 1 then ((v % 2 ^ 32 : Nat) : Int)
  else if code = 2 then (BitVec.ofNat 64 v).toInt else ((v % 2 ^ 64 : Nat) : Int)
/-- The nearest integer of such a type. -/
def cvtNearest (code : Nat) (v : Int) : Int :=
  let lo : Int := if code = 0 then -2 ^ 31 else if code = 2 then -2 ^ 63 else 0
  let hi : Int := if code = 0 then 2 ^ 31 - 1 else if code = 1 then 2 ^ 32 - 1 else if code = 2 then 2 ^ 63 - 1 else 2 ^ 64 - 1
  max lo (min hi v)
/-- One value converted between the formats of two codes of Table 13.5 (R227, R278). -/
def IsConverted (df sf : Nat) (mode : RMode) (v : Nat) (r : Nat × FFlags) : Prop :=
  let gives (n : Int) (fl : FFlags) : Prop := cvtInteger df r.1 = cvtNearest df n ∧ r.1 < 2 ^ (if df < 2 then 32 else 64) ∧ r.2 = fl
  let g := cvtFormat df
  if sf < 4 then
    (df < 4 → gives (cvtInteger sf v) .none) ∧ (4 ≤ df → Rounded g mode (decide (cvtInteger sf v < 0)) (cvtInteger sf v) r)
  else match (cvtFormat sf).unpack v with
    | .nan s => (df < 4 → r = (0, .invalid)) ∧ (4 ≤ df → NanResult g [.nan s] r)
    | .inf n => (df < 4 → gives (if n then -2 ^ 64 else 2 ^ 64) .invalid) ∧ (4 ≤ df → Infinite g n r)
    | .num n m e =>
      (df < 4 → ∃ k : ℕ, RoundsAt mode n (m * 2 ^ e) 0 k ∧ let w : Int := if n then -k else k
        gives w (if cvtNearest df w = w then .none else .invalid)) ∧
      (4 ≤ df → ∀ X, IsReal (.num n m e) X → Rounded g mode n X r)
/-- What an instruction of a float format writes, and the conditions it raises: the result of the whole value, or in a packed format of each
half by itself, with the flags of both (R225, R271). -/
def FloatWrites (code : Nat) (tag : Tag) (n : Nat) (rel : Fmt → Nat → Nat → Nat → Nat × FFlags → Prop) (a b c : List Reg) (out : List Reg × Conds) : Prop :=
  let x := regsNat a
  let y := regsNat b
  let z := regsNat c
  let conds (f : FFlags) : Conds := ⟨false, f.inv, f.dz, f.ovf, f.unf⟩
  if code = 0 ∨ code = 3 then ∃ r, rel (if code = 0 then .f32 else .f64) x y z r ∧ out = (natRegs tag n r.1, conds r.2)
  else let f := if code = 1 then Fmt.h16 else .b16
    ∃ lo hi, rel f (x % 65536) (y % 65536) (z % 65536) lo ∧ rel f (x / 65536) (y / 65536) (z / 65536) hi ∧
      out = (natRegs tag n (lo.1 + 65536 * hi.1), conds ⟨lo.2.inv || hi.2.inv, lo.2.dz || hi.2.dz, lo.2.ovf || hi.2.ovf, lo.2.unf || hi.2.unf⟩)

/-! ## Instructions that reach memory or an engine -/

/-- How an instruction whose lanes reach memory does so: alignment, bytes, kind of access, and what delays its issue (R160,
R309, R330, R350). -/
def memForm (opc : Nat) (f : XmForm) : Option (Nat × Nat × Access × (Iss → Fab → Bool)) :=
  let n := sizeBytes f.size.toNat
  match opc with
  | 0x80 => some (n, n, .load, gateLd)
  | 0x81 => some (n, n, .store, gateSt)
  | 0x82 => some (n, n, .atomic, gateAtom f)
  | 0x83 => some (n, n, .atomic, gateLdSt)
  | 0x85 => some (1, 1, .load, gateLd)
  | 0x86 => some (1, 1, .load, gateSt)
  | 0x87 => some (1, 1, .load, gateSt)
  | 0x92 => some (1, 1, .load, gatePres f)
  | 0xA4 => some (8, 8, .load, gateMem)
  | _ => none
/-- The address that a lane of an XM instruction forms (R141, R308). -/
def addrOf (s : State) (i : Iss) (f : XmForm) (l : Nat) : Nat := i.addr s.fab f.as.toNat f.a.toNat (xmOff f) l
/-- The accesses of the active lanes have passed the stages of R309: they land at `locs`, and the fabric after translation is
`fab`. -/
def Reached (s : State) (e : Enc) (i : Iss) (f : XmForm) (align n : Nat) (acc : Access) (locs : List (Nat × Loc)) (fab : Fab) : Prop :=
  (moved s e i).reach s.ctl i (i.wants (moved s e i) f align) n acc = .ok locs fab
/-- Every sector of a scratchpad that they touch is present (R164). -/
def Present (s : State) (e : Enc) (i : Iss) (f : XmForm) (align n : Nat) (locs : List (Nat × Loc)) (fab : Fab) : Prop :=
  fab.absentLanes (i.wants (moved s e i) f align) locs n = []
/-- The group as it waits without issuing (R107, R164): held until it can issue, and else unchanged. -/
def waiting (s : State) (i : Iss) : State := { s with fab := s.fab.modGroup i.core i.slot (fun g => { g with hold := some (g.hold.getD .retry) }) }
/-- A core's TLB holds a leaf that permits an access, with A, and for a write D, already set, of an address that may be
accessed (R199-R202). -/
def TlbHit (ctl : Ctl) (f : Fab) (c ctx va : Nat) (acc : Access) (e : TlbEntry) : Prop :=
  (∃ x, f.ctx? ctx = some x) ∧ (f.core c).tlb.find? (fun e => e.covers ctx va) = some e ∧ ptePermits e.pte.toNat acc = true ∧
  e.pte.getLsbD 4 = true ∧ (accWrites acc = true → e.pte.getLsbD 5 = true) ∧
  ctl.refuses (leafPa e.pte.toNat e.level va) (BitVec.ofNat 12 (bitsOf e.pte.toNat 59 48)) = false

/-- The tile instructions: format, what delays the issue, acting units, the registers that name their descriptors, and the
instruction's conditions on the tiles (R319, R321, R331-R337, R342, R343). -/
def tileUse (s : State) (i : Iss) : Instr → Option (XtForm × (Iss → Fab → Bool) × List (List Nat) × List RegNo × (List Tile → Bool))
  | .cptXt f => some (f, gateCopy, [i.active], [f.a, f.b], fun ts => match ts with
      | [x, y] => cptOk f (match s.fab.gridOf i.core with | some g => g.hitch | none => 0) (if cptMode f = 0 then none else s.fab.routine i.ctx f.h) x y
      | _ => false)
  | .bldXt f => some (f, gateMx, [i.active], [f.a], fun ts => ts.all bldOk)
  | .mmaXt f => some (f, gateMx, i.quarterUnits, [f.a, f.d], mmaOk false (viewOf f))
  | .mbinXt f => some (f, gateMx, i.quarterUnits, [f.a, f.d], mmaOk true (viewOf f))
  | .mretXt f => some (f, gateMx, i.quarterUnits, if f.flags.getLsbD 0 then [f.a, f.b, f.d] else [f.a, f.d],
      mretOk (f.flags.getLsbD 0) (f.flags.getLsbD 2) (if f.flags.getLsbD 0 then s.fab.routine i.ctx f.h else none))
  | .mretSendXt f => some (f, gateSend, i.quarterUnits, if f.flags.getLsbD 0 then [f.a, f.b] else [f.a],
      sendOk (f.flags.getLsbD 0) f.fmt.toNat (if f.flags.getLsbD 0 then s.fab.routine i.ctx f.h else none))
  | .mclrXt f => some (f, gateMx, i.quarterUnits, [f.d], mclrOk)
  | .foldXt f => some (f, gateMx, [i.active], [f.a, f.d], fun ts => (s.fab.routine i.ctx f.h).isSome && foldOk (f.sub == 1) ts)
  | .scanXt f => some (f, gateMx, [i.active], [f.a, f.d], fun ts => (s.fab.routine i.ctx f.h).isSome && scanOk ts)
  | .zipXt f => some (f, gateMx, [i.active], [f.a, f.b, f.d], fun ts => (s.fab.routine i.ctx f.h).isSome && zipOk ts)
  | .zipMergeXt f => some (f, gateMx, [i.active], [f.a, f.b, f.d], fun ts => (s.fab.routine i.ctx f.h).isSome && mergeOk ts)
  | .outrXt f => some (f, gateMx, [i.active], [f.a, f.b, f.d], fun ts => (s.fab.routine i.ctx f.h).isSome && outrOk ts)
  | _ => none
where
  viewOf (f : XtForm) : SlotView := match (s.fab.core i.core).team with
    | some t => t.views.getD f.h.toNat ⟨false, 0, 0, 0, 0⟩
    | none => ⟨false, 0, 0, 0, 0⟩
/-- The units that an instruction reads, each with the scratchpad addresses of its descriptors. -/
def descAddrs (s : State) (i : Iss) (us : List (List Nat)) (regs : List RegNo) : List (List Nat × List Nat) :=
  us.map (fun ls => (ls, regs.map (fun r => (s.fab.reg i.core i.slot (ls.headD 0) r.toNat).val.toNat)))
/-- The descriptors that the registers `regs` of each acting unit's lowest lane name have been read and satisfy the
instruction's conditions (R319): the units with their tiles. -/
def TilesRead (s : State) (i : Iss) (us : List (List Nat)) (regs : List RegNo) (ok : List Tile → Bool) (ts : List (List Nat × List Tile)) : Prop :=
  ∃ ds, s.fab.descs i (descAddrs s i us regs) = .ok ds ∧ parseDescs i.core ds ok = .inl ts
/-- A copy has entered the engine: it stands last among the core's copies with the lanes, control word and context of its
issue, belongs to the group's open batch, and has made the sectors it writes (`touched`) absent with one more copy pending;
every other sector, and every scratchpad byte, is as before (R162, R164). -/
def CopyTakes (s : State) (h : Fab) (i : Iss) (g : Group) (kind : CopyKind) (receivers : List Nat) (touched : Nat → Nat → Prop) : Prop :=
  (∃ o g', (h.core i.core).copies = (s.fab.core i.core).copies ++ [o] ∧ o.slot = i.slot ∧ o.seq = g.nextSeq ∧ o.lanes = maskOf i.active ∧
    o.pc = i.pc ∧ o.gcw = i.gcw ∧ o.ctx = i.ctx ∧ o.kind = kind ∧ o.receivers = receivers ∧ o.handed = false ∧
    (∀ c k, (∃ p ∈ o.pend, p.core = c ∧ p.sector = k) ↔ touched c k) ∧
    h.group? i.core i.slot = some g' ∧ o.id ∈ g'.openBatch ∧ g'.openBatch.length ≤ 64 ∧ g'.nextSeq = g.nextSeq + 1) ∧
  ∀ c tm, teamAt s c = some tm → ∃ tm', (h.core c).team = some tm' ∧ tm'.scratch = tm.scratch ∧ ∀ k,
    let old := Table.getD tm.sectors k ⟨true, 0⟩
    (touched c k → Table.getD tm'.sectors k ⟨true, 0⟩ = ⟨false, old.pending + 1⟩) ∧ (¬touched c k → Table.getD tm'.sectors k ⟨true, 0⟩ = old)
/-- A matrix or higher-order operation has entered the engine's queue, behind every other, for the active lanes, with the
control word and the routine as they were at issue; only the group's numbers, its lanes' places and, for `bld`, the issue view of
a slot have changed beside it (R160, R171, R174, R334). -/
def EngineTakes (s : State) (h : Fab) (i : Iss) (g : Group) (routine : Option Routine) (op : EngOp) : Prop :=
  SameButCore i.core h s.fab ∧ ({ h.core i.core with team := none, mxq := [] } : Core) = { s.fab.core i.core with team := none, mxq := [] } ∧
  (h.core i.core).mxq = (s.fab.core i.core).mxq ++ [⟨i.slot, g.nextSeq, g.issuedMx + 1, maskOf i.active, i.pc, i.gcw, routine, op, 0, 0, [], []⟩] ∧
  ∃ tm tm' g', teamAt s i.core = some tm ∧ (h.core i.core).team = some tm' ∧
    ({ tm' with groups := [], views := [] } : Team) = { tm with groups := [], views := [] } ∧ tm'.groups[i.slot]? = some g' ∧
    (∀ k, k ≠ i.slot → tm'.groups[k]? = tm.groups[k]?) ∧ g'.nextSeq = g.nextSeq + 1 ∧ g'.issuedMx = g.issuedMx + 1 ∧ g'.r = g.r ∧ g'.gcw = g.gcw ∧
    g'.loads = g.loads ∧ g'.storeQ = g.storeQ ∧ g'.rem = g.rem ∧
    ∀ l x, g.lanes[l]? = some x → ∃ x', g'.lanes[l]? = some x' ∧ x'.pc = past i l x ∧ x'.regs = x.regs ∧ x'.status = x.status ∧ x'.park = x.park

/-! ## What a matrix or higher-order operation writes (R174, R175, R341) -/

/-- Writes a value, where there is one, at each place of a list, in order. -/
def putsAt {α β : Type} (put : β → α → Fab → Eng Unit) : List (β × Option α) → Fab → Eng Unit
  | [], f => .ok () f
  | (p, some v) :: l, f => (put p v f).bind (fun _ f => putsAt put l f)
  | (_, none) :: l, f => putsAt put l f
/-- A work writes what its elements became at their places, and then does the rest, `tail`; where an element's routine has faulted, the first
fault is the work's, and of the other elements some are written (R175). -/
def Lays {β : Type} (put : β → Retired → Fab → Eng Unit) (places : List β) (l : List Retired) (g : Fab) (tail : Fab → Eng Unit) (w : Eng Unit) : Prop :=
  let start : Fab := { g with nextId := g.nextId + 1 }
  ((∀ e, Retired.fault e ∉ l) → w = (putsAt put (places.zip (l.map some)) start).bind (fun _ h => tail h)) ∧
  (∀ (n : Nat) (e : EngErr), l[n]? = some (Retired.fault e) → (∀ m : Nat, m < n → ∀ x, l[m]? ≠ some (Retired.fault x)) → ∃ keep : Nat → Bool,
    w = (putsAt put (places.zip (l.mapIdx (fun k x => if keep k then some x else none))) start).bind (fun _ h => .fault e h))
/-- What a combination of two values leaves: a dropped one leaves its left operand (R174). -/
def Combines (h : Nat → Nat → Applied) (x y v : Nat) : Prop := h x y = .value v ∨ (h x y = .dropped ∧ v = x)
/-- The fault of an application at a place. -/
def FaultsAt (h : Nat → Nat → Applied) (x y : Nat) (p : Nat × Nat) (e : EngErr) : Prop := ∃ c k, h x y = .fault c k ∧ e = ⟨c, 0, some p, some k⟩
/-- A fold from the left over values with their places (R174). -/
inductive LeftFolds (h : Nat → Nat → Applied) : Nat → List (Nat × Nat × Nat) → Folded → Prop
  | done (acc : Nat) : LeftFolds h acc [] (.value acc)
  | go (acc x : Nat) (p : Nat × Nat) (l : List (Nat × Nat × Nat)) (v : Nat) (r : Folded) : Combines h acc x v → LeftFolds h v l r → LeftFolds h acc ((x, p) :: l) r
  | stop (acc x : Nat) (p : Nat × Nat) (l : List (Nat × Nat × Nat)) (e : EngErr) : FaultsAt h acc x p e → LeftFolds h acc ((x, p) :: l) (.fault e)
/-- One level of the pairwise tree: elements 2i and 2i + 1 combine, at the place of the left one, and an unpaired last passes up (R174). -/
inductive PairsUp (h : Nat → Nat → Applied) : List (Nat × Nat × Nat) → List (Nat × Nat × Nat) → Prop
  | none : PairsUp h [] []
  | one (a : Nat × Nat × Nat) : PairsUp h [a] [a]
  | two (x y v : Nat) (p q : Nat × Nat) (l m : List (Nat × Nat × Nat)) : Combines h x y v → PairsUp h l m → PairsUp h ((x, p) :: (y, q) :: l) ((v, p) :: m)
/-- The fixed pairwise tree (R174, R175). -/
inductive TreeFolds (h : Nat → Nat → Applied) : List (Nat × Nat × Nat) → Folded → Prop
  | one (x : Nat) (p : Nat × Nat) : TreeFolds h [(x, p)] (.value x)
  | up (l m : List (Nat × Nat × Nat)) (r : Folded) : 2 ≤ l.length → PairsUp h l m → TreeFolds h m r → TreeFolds h l r
  | stop (l m rest : List (Nat × Nat × Nat)) (x y : Nat) (p q : Nat × Nat) (e : EngErr) : l.length % 2 = 0 → PairsUp h l m → FaultsAt h x y p e →
      TreeFolds h (l ++ (x, p) :: (y, q) :: rest) (.fault e)
/-- A fold of values with their places under a routine's header (R174). -/
def Folds (r : Routine) (h : Nat → Nat → Applied) (l : List (Nat × Nat × Nat)) (y : Folded) : Prop :=
  match l with
  | [] => y = .value (if 6 ≤ r.out ∧ r.out ≤ 8 then r.ident.toNat else r.ident.toNat % 2 ^ 32)
  | (x, p) :: rest => if r.assoc then TreeFolds h ((x, p) :: rest) y else LeftFolds h x rest y
/-- The values of a tile's elements as they enter a routine, of a merge pair the value, each with its place, row-major (R341). -/
def entered (t : Tile) (es : List Elt) : List (Nat × Nat × Nat) := (t.coords.zip es).map (fun p => (if t.fmt = 11 then p.2.raw / 2 ^ 32 else p.2.raw, p.1))
/-- A value in an output format, by its FMT or 12 for an unsigned 32-bit integer, as an element of an IEEE or i32 format, rounded once under a mode
(R322, R336). -/
def ConvertsTo (k df : Nat) (mode : RMode) (raw v : Nat) : Prop :=
  let fmt (n : Nat) : Fmt := [Fmt.f64, .f32, .h16, .b16].getD n .f32
  if df = 6 then v = raw % 2 ^ 32
  else if k = 6 then ∃ r, Rounded (fmt df) mode (decide ((BitVec.ofNat 32 raw).toInt < 0)) ((BitVec.ofNat 32 raw).toInt) r ∧ v = r.1
  else if k = 12 then ∃ r, Rounded (fmt df) mode false ((raw % 2 ^ 32 : Nat) : ℝ) r ∧ v = r.1
  else if k = df then v = raw % 2 ^ (fmt k).width
  else match (fmt k).unpack (raw % 2 ^ (fmt k).width) with
    | .nan _ => v = (fmt df).nanBits
    | .inf n => v = (fmt df).signBit n + (fmt df).infBits
    | .num n m e => ∀ X, IsReal (.num n m e) X → ∃ r, Rounded (fmt df) mode n X r ∧ v = r.1

/-! ## Events of the module -/

/-- The lifetime record after one more event of a counter, which stays at its largest value once there (R70). -/
def counted (f : Fab) (off : Nat) : Fab :=
  let n := Table.getD f.life off 0
  { f with life := Table.set f.life off (if n = BitVec.allOnes 64 then n else n + 1) }
/-- An orderly shutdown has happened: nothing runs, no context, grid or team is left, memory's keys stand, and the lifetime record is in
flash (R21). -/
def ShutDown (s t : State) : Prop :=
  t.ctl.shutdown = true ∧ t.ctl.harts = false ∧ t.ctl.scheduler = false ∧ t.ctl.keys = [] ∧ t.ctl.flashLife = t.fab.life ∧ t.fab.ctxs = [] ∧
  t.fab.grids = [] ∧ t.fab.cores = [] ∧ t.fab.l2 = [] ∧ t.ctl.flash = s.ctl.flash ∧ t.ctl.fuses = s.ctl.fuses ∧ t.ctl.retClu = s.ctl.retClu
/-- The module runs: it has power and has not shut down. -/
abbrev Runs (s : State) : Prop := s.ctl.powered = true ∧ s.ctl.shutdown = false
/-- A write of one of the service range's registers reaches it, and its low half (R380). -/
abbrev Writes (s : State) (w : RegWrite) (reg : Nat) : Prop := s.hits w reg = true ∧ writesLow w = true
/-- The state in which a write has been taken off the list of those that wait. -/
def taken (s : State) (w : RegWrite) : State := { s with fab := { s.fab with regWrites := s.fab.regWrites.erase w } }

/-! ## Memories in canonical form -/

/-- The memories of a team are in canonical form: its scratchpad and its B slots. -/
def TeamOk (t : Team) : Prop := t.scratch.wf = true ∧ ∀ b ∈ t.slots, b.bytes.wf = true
/-- Every memory of the fabric is in canonical form: physical memory, the lines of L2 and of every L1, and the memories of the
teams on cores and of those saved. -/
def MemOk (f : Fab) : Prop :=
  f.mem.wf = true ∧ (∀ l ∈ f.l2, l.bytes.wf = true) ∧
  (∀ p ∈ f.cores, (∀ l ∈ p.2.l1, l.bytes.wf = true) ∧ ∀ t, p.2.team = some t → TeamOk t) ∧ ∀ g ∈ f.grids, ∀ p ∈ g.saved, TeamOk p.2

/-! ## The invariant of the control part -/

/-- Retired slices of a die. -/
def retiredSlices (c : Ctl) (d : Nat) : Nat := ((List.range 48).filter (fun k => c.retSlc.getLsbD (48 * d + k))).length

/-- The control part stays within its rules: CAP lies in 800-2,600 W (R24), the 64 fuses bound the rollback floor (R53), the
module has 18 ports (R26), at least one cluster is in service and at most 16 slices of a die are retired (R69); and a
retirement that has started leaves these limits standing when it ends. -/
def CtlOk (c : Ctl) : Prop :=
  800 ≤ c.cap ∧ c.cap ≤ 2600 ∧ c.fuses ≤ 64 ∧ c.ports.length = 18 ∧
  (∃ k, k < 48 ∧ c.retClu.getLsbD k = false) ∧ (∀ d, d < 8 → retiredSlices c d ≤ 16) ∧
  (c.repBusy = true ∧ c.repStarted = true ∧ c.repOp = 1 ∧ c.repKind = 0 →
    ∃ k, k < 48 ∧ k ≠ c.repIndex.toNat ∧ c.retClu.getLsbD k = false) ∧
  (c.repBusy = true ∧ c.repStarted = true ∧ c.repOp = 1 ∧ c.repKind = 1 →
    ((List.range 48).filter (fun k => 48 * (c.repIndex.toNat / 48) + k != c.repIndex.toNat &&
      c.retSlc.getLsbD (48 * (c.repIndex.toNat / 48) + k))).length < 16)

end Sys2Proof.Safety
end

