-- ==== Sys2Proof/Certificates/Slice0/Obligations.lean ====
section
/-!
DEFINITION. The statements for the provers: encoding and the step, the integer and float instructions, cross-lane
instructions, control, tasks, system, memory, copies, matrix and remote instructions, and the events of the module.
-/
open Sys2Proof Sys2Proof.Machine Sys2Proof.Safety

/-! ## The machine: reset, encoding, the step, invariants -/

/-- R13, R24, R28, R54, R56, R57, R61, R65, R68, R71: what reset leaves, for the fields whose reset value the spec gives. -/
def Obligations.ResetLeavesSpecValues : Prop :=  State.reset.fab.time = 0 ∧ State.reset.ctl.cap = 2600 ∧ State.reset.ctl.capped = false ∧
  State.reset.ctl.hart0 = 0xF00000000000 ∧ State.reset.ctl.harts = false ∧ State.reset.ctl.scheduler = false ∧
  State.reset.ctl.boot = .rom ∧ State.reset.ctl.meas = 0 ∧ State.reset.ctl.kid = 0 ∧ State.reset.ctl.kstate = 0 ∧ State.reset.ctl.kresult = 0 ∧
  State.reset.ctl.kbusy = false ∧ State.reset.ctl.uzResult = 0 ∧ State.reset.ctl.uzBusy = false ∧ State.reset.ctl.repBusy = false ∧
  State.reset.ctl.repResult = 0 ∧ State.reset.ctl.repKind = 0 ∧ State.reset.ctl.repIndex = 0 ∧
  State.reset.ctl.readReg 0xF00000200040 = .reg 0 ∧ State.reset.ctl.readReg 0xF00000301000 = .reg 0 ∧
  (∃ v, State.reset.ctl.readReg 0xF00000300008 = .reg v ∧ v.extractLsb' 0 32 = 0#32) ∧ State.reset.ctl.readReg 0xF00000302000 = .reg 0xA28 ∧
  (∀ p, p < 18 → State.reset.ctl.readReg (0xF00000401000 + 16 * p) = .reg 0) ∧
  State.reset.ctl.leaves = false ∧ State.reset.ctl.pcktab = 0 ∧ State.reset.ctl.uzqroot = 0 ∧
  State.reset.ctl.himpbase.getLsbD 0 = false ∧ State.reset.ctl.fuseAdv = false ∧
  (∀ k : BitVec 12, k ≠ 0 → State.reset.ctl.keyState k = .empty) ∧
  State.reset.ctl.ports.length = 18 ∧ (∀ p ∈ State.reset.ctl.ports, p.replays = 0 ∧ p.lanes = 0 ∧ p.state = 0 ∧ p.retrain = false ∧ p.disable = false) ∧
  (∀ c, (State.reset.fab.core c).team = none) ∧ State.reset.fab.ctxs = [] ∧ State.reset.fab.issuer = none

/-- Words written out from the encodings and examples of chapters 12 to 16 decode to the instructions they stand for (R244, R246, R247, R248,
R249, R250). -/
def Obligations.ExampleWordsDecode : Prop :=  decode [0x01000900] = .ok (.faddS3 ⟨false, 1, 0, 2, none⟩) ∧
  decode [0xFF0FFC08] = .ok (.waitSw ⟨15, 15, 0, 31, 31⟩) ∧
  decode [0x015050B7, 0x00005800, 0, 0x96, 0] = .ok (.lop3Xr ⟨0, 21, 20, 0, false, 0, 0, 0, 0, 22, ⟨false, false, 0⟩, some 0x96⟩) ∧
  decode [0x00601561, 0x40, 0x40000000] = .ok (.cvtXr ⟨0, 6, 5, 1, false, 0, 0, 0, 0x40, 0, ⟨false, false, 0⟩, none⟩) ∧
  decode [0x00801601, 0x01100040, 0x0C00] = .ok (.ldXm ⟨0, 8, 5, 0, false, 0, 2, 1, 0x40, 3, 0, ⟨false, false, 0⟩, none⟩) ∧
  decode [0x004016C5, 0xC00, 0] = .ok (.mmaXt ⟨0, 4, 5, 0, false, 0, 0, 3, 0, 0, 0, ⟨false, false, 0⟩⟩) ∧
  decode [0x000001BD, 0, 0xC0000000] = .ok (.jwaitXr ⟨0, 0, 0, 3, false, 0, 0, 0, 0, 0, ⟨false, false, 0⟩, none⟩)

/-- R242, R257: when the group that issues next has the words of a well-formed instruction at its PC, the step is that instruction's meaning on
the state in which the words have been fetched and the group is issuing, followed by what every step ends with; whether the move is named by
the agenda or by the picker. -/
def Obligations.StepRunsDecodedInstruction : Prop :=  ∀ (s : State) (c slot : Nat) (i : Iss) (ws : List Word) (f : Fab) (j : Instr),
    s.fab.issuing c slot = some i → s.fab.fetch s.ctl c i.ctx i.pc.toNat = (.words ws, f) → decode ws = .ok j →
    (∀ rest, s.agenda = .issue c slot :: rest →
      step s = settleStep (.issue c slot) (exec j { s with fab := { f with issuer := some (c, slot) }, agenda := rest })) ∧
    (s.agenda = [] → s.fab.pick = some (c, slot) →
      step s = settleStep (.issue c slot) (exec j { s with fab := { f with issuer := some (c, slot) } }))

/-- R241-R255: every well-formed instruction is decoded from its own words, with every operand at every value the encoding admits. -/
def Obligations.DecodeOfEncode : Prop := ∀ i : Instr, i.wellFormed = true → decode (encode i) = .ok i

/-- R241-R257: whatever words the decoder accepts, it gives a well-formed instruction, and (an unassigned opcode apart) the words it has read
are that instruction's own: every bit of them has a meaning. -/
def Obligations.EncodeOfDecode : Prop :=  ∀ (ws : List Word) (i : Instr), decode ws = .ok i →
    i.wellFormed = true ∧ ((∀ o, i ≠ .illegalOpcode o) → ws.take (encode i).length = encode i)

/-- R24, R26, R53, R69: every step, from any state that meets the invariant of the control part, leaves a state that meets it: CAP stays from
800 to 2,600, at least one cluster stays in service, at most 16 slices of a die are retired. -/
def Obligations.ControlInvariantKept : Prop := ∀ s t : State, CtlOk s.ctl → step s = .next t → CtlOk t.ctl

/-- R2, R184, R207 (log 1): every step keeps every memory in canonical form, so that equal contents are equal data: physical memory, cache
lines, scratchpads and B slots. -/
def Obligations.MemoriesCanonicalKept : Prop := ∀ s t : State, MemOk s.fab → step s = .next t → MemOk t.fab

/-- The control part meets its invariant at reset. Every memory is in canonical form at reset. -/
def Obligations.InvariantsAtReset : Prop := (
  CtlOk State.reset.ctl) ∧ (
  MemOk State.reset.fab)

/-- R380, 00: no core instruction, whatever it does, changes the control part or the agenda: a core reaches device registers only through the
writes that it leaves in the fabric. R258, R107: with no group issuing, or none of its lanes in the frontier, every core instruction stops
by name (log 7: the hardware never issues then). -/
def Obligations.CoreInstructionsKeepControl : Prop := (
  ∀ (j : Instr) (e : Enc) (s t : State), j.enc? = some e → exec j s = .next t → t.ctl = s.ctl ∧ t.agenda = s.agenda) ∧ (
  ∀ (j : Instr) (e : Enc) (s : State), j.enc? = some e → s.fab.iss e.pred e.length = none → exec j s = .fault .noIssuer)

/-! ## Integer, float, conversion and tag instructions (chapter 13) -/

/-- R134, R139, R155, R158, R262: every instruction of chapter 13 that works lane by lane (add, sub, mul, mulh, mad, div, rem, min, max, abs,
neg, cmp, sel, lop3, shl, shr, sar, fshl, fshr, pcnt, clz, ctz, brev, bfe, bfi, mov, lea, prmt, fadd, fsub, fmul, ffma, fmin, fmax, fabs,
fneg, fcmp, fdiv, fsqrt, frcp, frsq, ex2s, lg2, fcls, frnd, cvt, ordf, tagset, tagq, in every form) retires: each active lane's destination
holds the result of its operation on that lane's routed operands, all read in the state before; the sticky flags of the conditions raised
are set; and then the lowest enabled cause traps with its lanes. -/
def Obligations.LanewiseResult : Prop :=  ∀ (j : Instr) (e : Enc) (o : BitVec 8) (f : XrForm) (op : LaneOp) (u : XrUse) (s : State) (i : Iss),
    j.enc? = some e → asXr e = some (o, f) → laneInstr o.toNat = some op → xrUse o.toNat f = some u → Issues s e noGate i →
    let res (l : Nat) : List Reg × Conds := let (a, b, c, d) := i.operands s.fab u f l; op f a b c d
    let cs := i.active.map (fun l => (l, (res l).2))
    ∃ t, exec j s = .next (thenTrap t i (arithTrap i.gcw cs)) ∧ Wrote s t i f.d.toNat (fun l => (res l).1) ∧
      gcwOf t i = some (i.gcw ||| stickyOf cs)

/-- R136, R139, R242, R262: what those instructions leave alone. They write as many registers as the destination names, in the active lanes
alone, and of the rest of the machine nothing but the control word and the bookkeeping of an issue. -/
def Obligations.LanewiseFrame : Prop :=  ∀ (j : Instr) (e : Enc) (o : BitVec 8) (f : XrForm) (op : LaneOp) (u : XrUse) (s : State) (i : Iss),
    j.enc? = some e → asXr e = some (o, f) → laneInstr o.toNat = some op → xrUse o.toNat f = some u → Issues s e noGate i →
    ∃ t tr, exec j s = .next (thenTrap t i tr) ∧ RegFrame s t i f.d.toNat (dstRegs i.w u.d)

/-- R263, R264: the integer operations on A, B and C as n-bit numbers, n = 32 or 64 by SUB: sums, differences and products modulo 2^n, the high
half of the exact product, the smaller and the larger in the type, magnitude and negation; each writes the type's tag and raises nothing. -/
def Obligations.IntegerValues : Prop :=  ∀ (f : XrForm) (a b c d : List Reg), f.s < 4 →
    let n := if f.s < 2 then 32 else 64
    let x := BitVec.ofNat n (regsNat a)
    let y := BitVec.ofNat n (regsNat b)
    let z := BitVec.ofNat n (regsNat c)
    let out (v : BitVec n) : List Reg × Conds := (natRegs (tyTag f.s) (n / 32) v.toNat, .none_)
    let less (v w : BitVec n) : Bool := if f.s % 2 = 0 then v.slt w else v.ult w
    opAdd f a b c d = out (x + y) ∧ opSub f a b c d = out (x - y) ∧ opMul f a b c d = out (x * y) ∧
    opMad f a b c d = out (x * y + z) ∧
    opMulh f a b c d = out (if f.s % 2 = 0 then ((x.signExtend (2 * n) * y.signExtend (2 * n)).extractLsb' n n)
      else ((x.zeroExtend (2 * n) * y.zeroExtend (2 * n)).extractLsb' n n)) ∧
    opMin f a b c d = out (if less y x then y else x) ∧ opMax f a b c d = out (if less x y then y else x) ∧
    (f.s % 2 = 0 → opNeg f a b c d = out (-x) ∧ opAbs f a b c d = out (if x.msb then -x else x))

/-- R265: in each active lane `div` and `rem` write the quotient truncated towards zero or the remainder with the dividend's sign; a division by
zero gives all ones and the dividend, and the most negative value by -1 gives itself and 0, and both of these set SDZ; where TDZ is set they
trap with cause 0x05, naming those lanes, after every active lane is written. -/
def Obligations.DivideRemainder : Prop :=  ∀ (rem : Bool) (f : XrForm) (s : State) (i : Iss),
    let j : Instr := if rem then .remXr f else .divXr f
    let e : Enc := .xr (if rem then 0x26 else 0x25) f
    Issues s e noGate i →
    let n := if f.s < 2 then 32 else 64
    let a (l : Nat) : BitVec n := BitVec.ofNat n (i.srcA s.fab f (n / 32) l)
    let b (l : Nat) : BitVec n := BitVec.ofNat n (i.srcB s.fab f (n / 32) l)
    let spills (l : Nat) : Bool := f.s % 2 == 0 && a l == BitVec.twoPow n (n - 1) && b l == BitVec.allOnes n
    let flag (l : Nat) : Bool := b l == 0 || spills l
    let q (l : Nat) : BitVec n := if b l = 0 then BitVec.allOnes n else if spills l then a l
      else if f.s % 2 = 0 then (a l).sdiv (b l) else a l / b l
    let r (l : Nat) : BitVec n := if b l = 0 then a l else if spills l then 0
      else if f.s % 2 = 0 then (a l).srem (b l) else a l % b l
    let bad := i.active.filter flag
    ∃ t, exec j s = .next (thenTrap t i (if i.gcw.getLsbD 0 ∧ bad ≠ [] then some (.plain 0x05 0 bad) else none)) ∧
      Wrote s t i f.d.toNat (fun l => natRegs (tyTag f.s) (n / 32) (if rem then r l else q l).toNat) ∧
      gcwOf t i = some (if bad = [] then i.gcw else i.gcw ||| 0x100)

/-- R266, R264: `cmp` writes 1 or 0 as n32 for equality, inequality and order in its type; `sel` and `mov` move registers with their tags. R267:
each bit of `lop3` is the bit of the table that the bits of D, A and C at its place choose, D the least significant; bits of the table above
7 do not enter. R270: byte i of `prmt` is zero where ZERO says so, else eight copies of the top bit of the byte that SEL chooses where SPRD
says so, else that byte; bytes 0 to 3 of the source come from B and 4 to 7 from A. -/
def Obligations.SelectLogicPermute : Prop := (
    ∀ (f : XrForm) (a b c d : List Reg),
      (let n := if f.s / 4 < 2 then 32 else 64
       let x := BitVec.ofNat n (regsNat a)
       let y := BitVec.ofNat n (regsNat b)
       let less := if f.s / 4 % 2 = 0 then x.slt y else x.ult y
       let holds := if f.s % 4 = 0 then x == y else if f.s % 4 = 1 then x != y else if f.s % 4 = 2 then less else less || x == y
       opCmp f a b c d = ([⟨if holds then 1 else 0, .n32⟩], .none_)) ∧
      opSel f a b c d = (if regsNat c = 0 then b else a, .none_) ∧ opMov f a b c d = (b, .none_)) ∧ (
    ∀ (f : XrForm) (x y z t : Reg), ∃ w : Word, opLop3 f [y] [t] [z] [x] = ([⟨w, .bits⟩], .none_) ∧
      ∀ b, b < 32 → w.getLsbD b = t.val.getLsbD ((x.val.getLsbD b).toNat + 2 * (y.val.getLsbD b).toNat + 4 * (z.val.getLsbD b).toNat)) ∧ (
    ∀ (f : XrForm) (x y z w : Reg), ∃ v : Word, opPrmt f [x] [y] [z] [w] = ([⟨v, .bits⟩], .none_) ∧
      ∀ k, k < 4 →
        let src : BitVec 64 := x.val ++ y.val
        let byte : Byte := src.extractLsb' (8 * (z.val.extractLsb' (3 * k) 3).toNat) 8
        v.extractLsb' (8 * k) 8 = if z.val.getLsbD (12 + k) then 0 else if z.val.getLsbD (16 + k) then (if byte.msb then 0xFF else 0) else byte)

/-- R264: shifts by B modulo n, funnel shifts by C modulo 32, counts of ones and of leading and trailing zeros (n for zero), and the reversal of
bits. R268, R269: `bfe` and `bfi` take the position B mod 32 and the length C[5:0] cut at bit 31: the field extracted fills with zeros or
with its top bit, the field inserted replaces those bits of D; `lea` adds B, sign- or zero-extended and shifted, to a pair modulo 2^64. -/
def Obligations.ShiftsCountsFields : Prop := (
    ∀ (f : XrForm) (a b c d : List Reg) (x : BitVec f.n), regsNat a = x.toNat →
      let k := regsNat b % f.n
      opShl f a b c d = (natRegs .bits f.rn (x <<< k).toNat, .none_) ∧
      opShr f a b c d = (natRegs .bits f.rn (x >>> k).toNat, .none_) ∧
      opSar f a b c d = (natRegs (if f.n = 64 then .i64 else .i32) f.rn (x.sshiftRight k).toNat, .none_) ∧
      (∀ v y w : Reg, opFshl f [v] [y] [w] d =
          ([⟨((v.val ++ y.val : BitVec 64) <<< (w.val.toNat % 32)).extractLsb' 32 32, .bits⟩], .none_) ∧
        opFshr f [v] [y] [w] d = ([⟨((v.val ++ y.val : BitVec 64) >>> (w.val.toNat % 32)).extractLsb' 0 32, .bits⟩], .none_)) ∧
      (∃ v, opPcnt f a b c d = ([⟨BitVec.ofNat 32 v, .n32⟩], .none_) ∧ v = ((List.range f.n).filter (fun i => x.getLsbD i)).length) ∧
      (∃ v, opClz f a b c d = ([⟨BitVec.ofNat 32 v, .n32⟩], .none_) ∧ v ≤ f.n ∧ (∀ i, i < f.n → f.n - v ≤ i → x.getLsbD i = false) ∧
        (v < f.n → x.getLsbD (f.n - 1 - v) = true)) ∧
      (∃ v, opCtz f a b c d = ([⟨BitVec.ofNat 32 v, .n32⟩], .none_) ∧ v ≤ f.n ∧ (∀ i, i < v → x.getLsbD i = false) ∧
        (v < f.n → x.getLsbD v = true)) ∧
      (∃ y : BitVec f.n, opBrev f a b c d = (natRegs .bits f.rn y.toNat, .none_) ∧ ∀ i, i < f.n → y.getLsbD i = x.getLsbD (f.n - 1 - i))) ∧ (
    ∀ (f : XrForm) (x y z w : Reg),
      let p := y.val.toNat % 32
      let k := min (z.val.toNat % 64) (32 - p)
      (f.s < 2 → ∃ v : Word, opBfe f [x] [y] [z] [w] = ([⟨v, if f.s = 0 then .n32 else .i32⟩], .none_) ∧
        ∀ b, b < 32 → v.getLsbD b = if b < k then x.val.getLsbD (p + b) else f.s == 1 && decide (k ≠ 0) && x.val.getLsbD (p + k - 1)) ∧
      (∃ v : Word, opBfi f [x] [y] [z] [w] = ([⟨v, .bits⟩], .none_) ∧
        ∀ b, b < 32 → v.getLsbD b = if p ≤ b ∧ b < p + k then x.val.getLsbD (b - p) else w.val.getLsbD b) ∧
      (∀ base : BitVec 64, f.s % 8 < 5 → ∃ v : BitVec 64, opLea f (natRegs .n64 2 base.toNat) [y] [z] [w] = (natRegs .n64 2 v.toNat, .none_) ∧
        v = base + ((if f.s < 8 then y.val.signExtend 64 else y.val.zeroExtend 64) <<< (f.s % 8))))

/-- R225, R273, R274: in each format, and each half of a packed one by itself, on values that are not NaN `fabs` clears and `fneg` inverts the
sign bit, `fmin` and `fmax` take the smaller and the larger in the order that places -0 below +0, and the four comparisons follow the order
in which the zeros are equal, a packed one with its results in bits 0 and 16; with a NaN the results are the canonical NaN, `.un` alone
holds, and `.lt` and `.le` raise invalid. `fabs` and `fneg` set no flag. R279: `ordf` of an f32 or f64 pattern is the signed 64-bit number
in whose order -0 lies below +0, negative values by falling magnitude lie below both and NaNs beyond the infinities of their sign; it sets
no flag; and `ordf` in the other direction gives the bits back. R137, R138, R139, R280: `tagset` keeps a value and replaces its tag, `tagq`
reads the tag's code as n32 with the value 0 to 9, a code and its tag determine each other, and a register of any tag passes the tag check
of its own family and of no family of another width. -/
def Obligations.FloatOrderAndTags : Prop := (
    ∀ (f : XrForm) (a b c d : List Reg),
      let mag (g : Fmt) (v : Nat) : Nat := v % 2 ^ (g.width - 1)
      let nan (g : Fmt) (v : Nat) : Prop := g.infBits < mag g v
      let sig (g : Fmt) (v : Nat) : Prop := nan g v ∧ mag g v < g.nanBits
      let key (g : Fmt) (v : Nat) : Int := if 2 ^ (g.width - 1) ≤ v then -1 - mag g v else mag g v
      let either (p : Prop) [Decidable p] : FFlags := if p then .invalid else .none
      let regs (n : Nat) : Prop := a.length = n ∧ b.length = n
      let writes (op : LaneOp) (rel : Fmt → Nat → Nat → Nat → Nat × FFlags → Prop) : Prop :=
        FloatWrites f.s ([Tag.f32, .h16x2, .b16x2, .f64].getD f.s .f32) (if f.s = 3 then 2 else 1) rel a b c (op f a b c d)
      (f.s < 4 → regs (if f.s = 3 then 2 else 1) →
        writes opFabs (fun g x _ _ r => r = (if nan g x then g.nanBits else mag g x, .none)) ∧
        writes opFneg (fun g x _ _ r => r = (if nan g x then g.nanBits else if 2 ^ (g.width - 1) ≤ x then mag g x else 2 ^ (g.width - 1) + mag g x, .none)) ∧
        writes opFmin (fun g x y _ r => r = (if nan g x ∨ nan g y then g.nanBits else if key g y < key g x then y else x, either (sig g x ∨ sig g y))) ∧
        writes opFmax (fun g x y _ r => r = (if nan g x ∨ nan g y then g.nanBits else if key g x < key g y then y else x, either (sig g x ∨ sig g y)))) ∧
      (f.s < 16 → regs (if f.s / 4 = 3 then 2 else 1) →
        FloatWrites (f.s / 4) .n32 1 (fun g x y _ r =>
          let un := nan g x ∨ nan g y
          let eq := x = y ∨ (mag g x = 0 ∧ mag g y = 0)
          let lt := key g x < key g y ∧ ¬eq
          r = (if (if f.s % 4 = 0 then ¬un ∧ eq else if f.s % 4 = 1 then ¬un ∧ lt else if f.s % 4 = 2 then ¬un ∧ (lt ∨ eq) else un) then 1 else 0,
            either (if f.s % 4 = 1 ∨ f.s % 4 = 2 then un else sig g x ∨ sig g y))) a b c (opFcmp f a b c d))) ∧ (
    ∀ (f : XrForm) (b c d : List Reg),
      (f.s = 0 → ∀ x : Word, ∃ v : BitVec 64, opOrdf f [⟨x, .f32⟩] b c d = (natRegs .i64 2 v.toNat, .none_) ∧
        v.toInt = if x.msb then -1 - ((x.extractLsb' 0 31).toNat : Int) else (x.extractLsb' 0 31).toNat) ∧
      (f.s = 2 → ∀ x : BitVec 64, ∃ v : BitVec 64, opOrdf f (natRegs .f64 2 x.toNat) b c d = (natRegs .i64 2 v.toNat, .none_) ∧
        v.toInt = if x.msb then -1 - ((x.extractLsb' 0 63).toNat : Int) else (x.extractLsb' 0 63).toNat) ∧
      (∀ g : XrForm, f.s = 0 → g.s = 1 → ∀ x : Word, opOrdf g (opOrdf f [⟨x, .f32⟩] b c d).1 b c d = ([⟨x, .f32⟩], .none_)) ∧
      (∀ g : XrForm, f.s = 2 → g.s = 3 → ∀ x : BitVec 64,
        opOrdf g (opOrdf f (natRegs .f64 2 x.toNat) b c d).1 b c d = (natRegs .f64 2 x.toNat, .none_))) ∧ (
    (∀ t : Tag, Tag.ofCode t.code = t ∧ t.code < 10) ∧ (∀ n, n < 10 → (Tag.ofCode n).code = n) ∧
    (∀ (f g : XrForm) (r : Reg) (b c d : List Reg), f.s < 10 →
      opTagset f [r] b c d = ([⟨r.val, Tag.ofCode f.s⟩], .none_) ∧
      opTagq g (opTagset f [r] b c d).1 b c d = ([⟨BitVec.ofNat 32 f.s, .n32⟩], .none_)) ∧
    (∀ t : Tag, famAccepts .any t = true ∧ (famAccepts .int32 t = true ↔ t.code ∈ [0, 1, 2, 9]) ∧
      (famAccepts .int64 t = true ↔ t.code ∈ [0, 7, 8]) ∧ (famAccepts .f32 t = true ↔ t.code ∈ [0, 3]) ∧
      (famAccepts .h16x2 t = true ↔ t.code ∈ [0, 4]) ∧ (famAccepts .b16x2 t = true ↔ t.code ∈ [0, 5]) ∧
      (famAccepts .f64 t = true ↔ t.code ∈ [0, 6])))

/-- R222-R225, R271, R272: `fadd`, `fsub`, `fmul`, `ffma`, `fdiv`, `fsqrt`, `frcp` and `frsq` write, in each format and each half of a packed
one, the exact sum, difference, product, product plus addend, quotient, root, reciprocal or reciprocal root of the operands, rounded once to
nearest even, with SOVF on overflow and SUNF on a tiny inexact result and no other flag; or, for NaN operands the canonical NaN (SINV where
one signals), for an invalid operation the canonical NaN and SINV, for infinities and for divisions by zero (SFDZ) what IEEE 754 and Table
13.4 give. -/
def Obligations.FloatArithmetic : Prop :=  ∀ (f : XrForm) (a b c d : List Reg), f.s < 4 →
    let writes (op : LaneOp) (rel : Fmt → Nat → Nat → Nat → Nat × FFlags → Prop) : Prop :=
      FloatWrites f.s ([Tag.f32, .h16x2, .b16x2, .f64].getD f.s .f32) (if f.s = 3 then 2 else 1) rel a b c (op f a b c d)
    let minus (v : FVal) : FVal := match v with | .nan s => .nan s | .inf n => .inf (!n) | .num n m e => .num (!n) m e
    writes opFadd (fun g x y _ r => IsSum g (g.unpack x) (g.unpack y) r) ∧ writes opFsub (fun g x y _ r => IsSum g (g.unpack x) (minus (g.unpack y)) r) ∧
    writes opFmul (fun g x y _ r => IsProduct g (g.unpack x) (g.unpack y) r) ∧
    writes opFfma (fun g x y z r => IsFused g (g.unpack x) (g.unpack y) (g.unpack z) r) ∧
    writes opFdiv (fun g x y _ r => IsQuotient g (g.unpack x) (g.unpack y) r) ∧ writes opFsqrt (fun g x _ _ r => IsRoot g (g.unpack x) r) ∧
    writes opFrcp (fun g x _ _ r => IsQuotient g (.num false 1 0) (g.unpack x) r) ∧ writes opFrsq (fun g x _ _ r => IsInverseRoot g (g.unpack x) r)

/-- R223-R225, R271, R272, R275: `ex2s` and `lg2` write 2^(A x B - C), with the exponent exact, and the base-2 logarithm of A, rounded once to
nearest even, with the special operands of Table 13.4; only where an irrational value lies within 1 part in 2^10000 of a place where
rounding changes may the model's precision not have decided, and it gives a zero there, the model's choice (log 75). `fcls` writes the one
class bit of each value, without a flag. R227, R276, R277, R278: `frnd` rounds to an integral value of the format under its mode, keeping
the sign; `cvt` converts each source between the formats of its selector: integers are exact or the nearest bound, without a flag; a float
from an integer or from a float is rounded once under the mode, with SOVF and SUNF; an integer from a float is rounded and then the nearest
in range, with SINV outside it, and 0 with SINV for a NaN. -/
def Obligations.FloatFunctionsAndConversions : Prop := (
    ∀ (f : XrForm) (a b c d : List Reg), f.s < 4 →
      let tag := [Tag.f32, .h16x2, .b16x2, .f64].getD f.s .f32
      let n := if f.s = 3 then 2 else 1
      FloatWrites f.s tag n (fun g x y z r => IsPower g (g.unpack x) (g.unpack y) (g.unpack z) r) a b c (opEx2s f a b c d) ∧
      FloatWrites f.s tag n (fun g x _ _ r => IsLog g (g.unpack x) r) a b c (opLg2 f a b c d) ∧
      FloatWrites f.s .n32 1 (fun g x _ _ r => IsClass g x r) a b c (opFcls f a b c d)) ∧ (
    ∀ (f : XrForm) (a b c d : List Reg),
      let mode (n : Nat) : RMode := [RMode.rne, .rtz, .rup, .rdn].getD n .rne
      (f.s < 16 → FloatWrites (f.s % 4) ([Tag.f32, .h16x2, .b16x2, .f64].getD (f.s % 4) .f32) (if f.s % 4 = 3 then 2 else 1)
        (fun g x _ _ r => IsIntegral g (mode (f.s / 4)) x r) a b c (opFrnd f a b c d)) ∧
      (let df := f.b.toNat % 16
       let sf := f.b.toNat / 16 % 16
       let tag := [Tag.i32, .n32, .i64, .n64, .f32, .f64, .h16x2, .b16x2].getD df .raw
       let pick (v : Nat) : Nat := if sf < 6 then v else if f.b.getLsbD 8 then v / 65536 else v % 65536
       let conds (x : FFlags) : Conds := ⟨false, x.inv, x.dz, x.ovf, x.unf⟩
       f.s < 4 → df < 8 → sf < 8 →
         (df < 6 → ∃ r, IsConverted df sf (mode f.s) (pick (regsNat a)) r ∧
           opCvt f a b c d = (natRegs tag (if df = 2 ∨ df = 3 ∨ df = 5 then 2 else 1) r.1, conds r.2)) ∧
         (6 ≤ df → ∃ lo hi, IsConverted df sf (mode f.s) (pick (regsNat a)) lo ∧ IsConverted df sf (mode f.s) (pick (regsNat c)) hi ∧
           opCvt f a b c d = (natRegs tag 1 (lo.1 + 65536 * hi.1), conds ⟨lo.2.inv || hi.2.inv, lo.2.dz || hi.2.dz, lo.2.ovf || hi.2.ovf, lo.2.unf || hi.2.unf⟩))))

/-! ## Cross-lane instructions (R281-R285) -/

/-- R283: `lscan` passes the active lanes in ascending order; each takes the combination of the lanes before it, from the identity, with its own
value (without it under `.ex`), with the tag of Table 13.6; inactive lanes neither enter nor change; no flag is set; sources are checked in
the 32-bit integer family. -/
def Obligations.LaneScan : Prop :=  ∀ (f : XrForm) (s : State) (i : Iss), Issues s (.xr 0x60 f) noGate i →
    let k := f.s % 8
    let op (a b : Word) : Word := if k = 0 then a + b else if k = 1 then (if b.slt a then b else a) else if k = 2 then (if a.slt b then b else a)
      else if k = 3 then (if b.ult a then b else a) else if k = 4 then (if a.ult b then b else a)
      else if k = 5 then a &&& b else if k = 6 then a ||| b else a ^^^ b
    let one : Word := if k = 1 then 0x7FFFFFFF else if k = 2 then 0x80000000 else if k = 3 ∨ k = 5 then 0xFFFFFFFF else 0
    let tag : Tag := if k < 3 then .i32 else if k < 5 then .n32 else .bits
    let a (l : Nat) : Word := BitVec.ofNat 32 (i.srcA s.fab f 1 l)
    let before (l : Nat) : Word := ((i.active.filter (fun m => m < l)).map a).foldl op one
    (∀ x ∈ ((Enc.xr 0x60 f).names i.w).srcs, x.code = 1 → x.fam = .int32) ∧
    ∃ t, exec (.lscanXr f) s = .next t ∧ RegFrame s t i f.d.toNat 1 ∧ gcwOf t i = some i.gcw ∧
      Wrote s t i f.d.toNat (fun l => [⟨if f.s < 8 then op (before l) (a l) else before l, tag⟩])

/-- R284, R273: `lred` gives every active lane the reduction of the active lanes' values. For the integer operations it is the reduction in any
order; for `.fadd`, `.fmin` and `.fmax` it is the pairwise tree over all lanes with inactive ones at the identity, whose conditions every
active lane raises. -/
def Obligations.LaneReduce : Prop :=  ∀ (f : XrForm) (s : State) (i : Iss), Issues s (.xr 0x61 f) noGate i →
    let a (l : Nat) : Word := BitVec.ofNat 32 (i.srcA s.fab f 1 l)
    let op (x y : Word) : Word := if f.s = 0 then x + y else if f.s = 1 then (if y.slt x then y else x) else if f.s = 2 then (if x.slt y then y else x)
      else if f.s = 3 then (if y.ult x then y else x) else if f.s = 4 then (if x.ult y then y else x)
      else if f.s = 5 then x &&& y else if f.s = 6 then x ||| y else x ^^^ y
    let one : Word := if f.s = 1 then 0x7FFFFFFF else if f.s = 2 then 0x80000000 else if f.s = 3 ∨ f.s = 5 then 0xFFFFFFFF else 0
    (f.s < 8 → ∀ as, List.Perm as i.active → ∃ t, exec (.lredXr f) s = .next t ∧ gcwOf t i = some i.gcw ∧
      Wrote s t i f.d.toNat (fun _ => [⟨(as.map a).foldl op one, laneTag f.s⟩])) ∧
    (f.s = 11 → ∃ t, exec (.lredXr f) s = .next t ∧ gcwOf t i = some i.gcw ∧
      Wrote s t i f.d.toNat (fun _ => natRegs .i64 2 (((i.active.map (fun l => i.srcA s.fab f 2 l)).sum) % 2 ^ 64))) ∧
    (8 ≤ f.s ∧ f.s < 11 →
      let tree := treeFold f.s i.w ((List.range i.w).map (fun l => if l ∈ i.active then i.srcA s.fab f 1 l else laneIdentity f.s))
      let cs := i.active.map (fun l => (l, tree.2.conds))
      ∃ t, exec (.lredXr f) s = .next (thenTrap t i (arithTrap i.gcw cs)) ∧ gcwOf t i = some (i.gcw ||| stickyOf cs) ∧
        Wrote s t i f.d.toNat (fun _ => natRegs .f32 1 tree.1))

/-- R285, R282: `vote`, `bal` and `match` over the active lanes: whether A is not zero in some, in all, in all or none, or in how many lanes;
the mask of those lanes, or of those below the receiving one; the mask of the lanes whose A has the same bits, or the lowest of them. A mask
is a pair in a group of 64 lanes and one register elsewhere. R281, R230, R232, R233: in each segment of 16 lanes with an active lane `kpack`
converts the sixteen f32 values read through A into a block and spreads its image over words 0 to 4, and `kunp` reads the image from the
segment's first five lanes and gives lane j element j as f32; inactive live lanes contribute. -/
def Obligations.VoteBallotKnot : Prop := (
    ∀ (j : Instr) (o : BitVec 8) (f : XrForm) (s : State) (i : Iss), j.enc? = some (.xr o f) → o ∈ [0x62#8, 0x63#8, 0x64#8] →
      Issues s (.xr o f) noGate i →
      let a (l : Nat) : Nat := i.srcA s.fab f (if o = 0x64 ∧ 2 ≤ f.s then 2 else 1) l
      let yes := i.active.filter (fun l => a l ≠ 0)
      let mask (p : Nat → Bool) (rs : List Reg) : Prop := rs.length = (if i.w = 64 then 2 else 1) ∧ (∀ r ∈ rs, r.tag = .bits) ∧
        ∀ b, b < 32 * rs.length → (regsNat rs).testBit b = p b
      ∃ t v, exec j s = .next t ∧ gcwOf t i = some i.gcw ∧ Wrote s t i f.d.toNat v ∧ ∀ l, l ∈ i.active →
        (o = 0x62 → v l = natRegs .n32 1 (if f.s = 0 then (if yes = [] then 0 else 1) else if f.s = 1 then (if yes = i.active then 1 else 0)
          else if f.s = 2 then (if yes = i.active ∨ yes = [] then 1 else 0) else yes.length)) ∧
        (o = 0x63 → mask (fun b => decide (b ∈ yes) && (f.s == 0 || decide (b < l))) (v l)) ∧
        (o = 0x64 → f.s % 2 = 0 → mask (fun b => decide (b ∈ i.active) && a b == a l) (v l)) ∧
        (o = 0x64 → f.s % 2 = 1 → ∃ m, v l = natRegs .n32 1 m ∧ m ∈ i.active ∧ a m = a l ∧ ∀ k ∈ i.active, a k = a l → m ≤ k)) ∧ (
    ∀ (f : XrForm) (s : State) (i : Iss),
      let x (g k : Nat) : Word := (i.segReg s.fab f g k).val
      (Issues s (.xr 0x5C f) noGate i → i.segFails s.fab f .f32 16 = [] →
        let block (g : Nat) := knotPack (knotWidth f.s) ((List.range 16).map (fun k => Fmt.f32.unpack (x g k).toNat))
        ∃ t, exec (.kpackXr f) s = .next t ∧ gcwOf t i = some i.gcw ∧ Wrote s t i f.d.toNat (fun l =>
          natRegs .bits 1 (if i.w / 16 ≤ l / 16 then 0 else if l % 16 < 4 then (block (l / 16)).1 / 2 ^ (32 * (l % 16)) else if l % 16 = 4 then (block (l / 16)).2 else 0))) ∧
      (Issues s (.xr 0x5D f) noGate i → i.segFails s.fab f .int32 5 = [] →
        let image (g : Nat) : BitVec 128 := x g 3 ++ x g 2 ++ x g 1 ++ x g 0
        ∃ t, exec (.kunpXr f) s = .next t ∧ gcwOf t i = some i.gcw ∧ Wrote s t i f.d.toNat (fun l =>
          natRegs .f32 1 (Fmt.f32.ofVal .rne (knotVal (knotWidth f.s) ((image (l / 16)).toNat % 2 ^ (16 * knotWidth f.s))
            ((x (l / 16) 4).toNat % 65536) (l % 16))).1)))

/-- R282, R136, R242: what the cross-lane and knot instructions and `jmov` leave alone: they write their destination in the active lanes, and
nothing else but their flags and the bookkeeping of an issue. -/
def Obligations.CrossLaneFrame : Prop :=  ∀ (j : Instr) (o : BitVec 8) (f : XrForm) (u : XrUse) (s : State) (i : Iss), j.enc? = some (.xr o f) →
    o ∈ [0x5C#8, 0x5D#8, 0x60#8, 0x61#8, 0x62#8, 0x63#8, 0x64#8, 0x71#8] → xrUse o.toNat f = some u → Issues s (.xr o f) noGate i →
    (o = 0x5C → i.segFails s.fab f .f32 16 = []) → (o = 0x5D → i.segFails s.fab f .int32 5 = []) →
    ∃ t tr, exec j s = .next (thenTrap t i tr) ∧ RegFrame s t i f.d.toNat (dstRegs i.w u.d)

/-! ## Control (R145-R147, R286-R290, R303, R304) -/

/-- R145, R136: what issues is the frontier entry of the highest priority, and among those of the lowest PC: the lanes that may issue at that
PC, of which those that the predicate keeps are active. R145: merging changes nothing but the priorities of waiting lanes: each takes the
largest priority of the waiting lanes at its PC, where in trap mode handler lanes and the others merge among themselves. -/
def Obligations.FrontierAndMerge : Prop := (
    ∀ (f : Fab) (p : Pred) (len : Nat) (i : Iss) (g : Group), f.iss p len = some i → f.group? i.core i.slot = some g →
      (∀ l, l ∈ i.entry ↔ ∃ x, g.lanes[l]? = some x ∧ g.mayIssue l x = true ∧ x.pc = i.pc) ∧
      (∃ m y, g.lanes[m]? = some y ∧ g.mayIssue m y = true ∧ y.pc = i.pc ∧ ∀ l x, g.lanes[l]? = some x → g.mayIssue l x = true →
        x.prio < y.prio ∨ (x.prio = y.prio ∧ i.pc ≤ x.pc)) ∧
      i.active = i.entry.filter (fun l => !p.pe || ((f.reg i.core i.slot l p.p.toNat).val != 0) != p.pn)) ∧ (
    ∀ (f : Fab) (i : Iss) (g : Group), f.group? i.core i.slot = some g →
      let side (l : Nat) : Bool := match g.trap with | none => true | some t => inMask t.handlers l
      ∃ g', (f.mergeHere i).group? i.core i.slot = some g' ∧ ({ g' with lanes := [] } : Group) = { g with lanes := [] } ∧
        ∀ l x, g.lanes[l]? = some x → ∃ x', g'.lanes[l]? = some x' ∧ ({ x' with prio := 0 } : Lane) = { x with prio := 0 } ∧
          (x.ready = false → x'.prio = x.prio) ∧
          (x.ready = true →
            (∃ m y, g.lanes[m]? = some y ∧ y.ready = true ∧ y.pc = x.pc ∧ side m = side l ∧ x'.prio = y.prio) ∧
            ∀ m y, g.lanes[m]? = some y → y.ready = true → y.pc = x.pc → side m = side l → y.prio ≤ x'.prio))

/-- R136, R290, R257, R298, R301, R307, R331: with no active lane, a core instruction that issues has no effect but that its lanes pass it
(`rend`, `rdrop` and unassigned opcodes trap instead). That no count, space or older operation then holds the instruction back, and that
`jwait`, `jstr` and `bnd`, whose rules speak of a release or of dominated lanes, only pass, is the model's reading (logs 38, 39). -/
def Obligations.NoActiveLane : Prop :=  ∀ (j : Instr) (e : Enc) (s : State) (i : Iss), j.enc? = some e → e.opc ∉ [0xC8, 0xC9] → (∀ o, e ≠ .bad o) →
    Issues s e noGate i → i.active = [] → ∃ t, exec j s = .next t ∧ RegFrame s t i 0 0 ∧ gcwOf t i = some i.gcw

/-- R286, R288, R146, R245, R250: `jmp`, `call`, `bnz` and `bz` move their taking lanes to PC + offset with the encoding's priority; the entry's
other lanes go on after the instruction with theirs; `call` alone writes, the pair PC + 12 with tag n64. R288, R242: `brx` (whose pair is D)
and `ret` (whose pair is A, routed) move each active lane to the value of its pair; values of 2^48 and more trap with 0x0A for their lanes,
else values that are no multiple of 4 with 0x0B, and no lane then moves; `ret` keeps priorities. -/
def Obligations.BranchTargets : Prop := (
    ∀ (j : Instr) (e : Enc) (o : BitVec 8) (f : XbForm) (s : State) (i : Iss),
      j.enc? = some e → asXb e = some (o, f) → o ∈ [0x68#8, 0x69#8, 0x6B#8, 0x6C#8] → Issues s e noGate i →
      let cond (l : Nat) : Word := (s.fab.reg i.core i.slot l f.d.toNat).val
      let taken := i.active.filter (fun l => if o = 0x6B then cond l != 0 else if o = 0x6C then cond l == 0 else true)
      ∃ g, exec j s = .next (retired s i g) ∧
        FrameBut s { s with fab := g } i f.d.toNat (if o = 0x69 then 2 else 0) (fun l x x' =>
          x'.park = x.park ∧ x'.enrolled = x.enrolled ∧ x'.arrived = x.arrived ∧
          x'.pc = (if l ∈ taken then i.pc + f.tgt.signExtend 48 else if l ∈ i.entry then i.pc + BitVec.ofNat 48 i.len else x.pc) ∧
          x'.prio = (if l ∈ taken then f.prio else x.prio)) ∧
        (o = 0x69 → Wrote s { s with fab := g } i f.d.toNat (fun _ => natRegs .n64 2 (i.pc + 12).toNat))) ∧ (
    ∀ (j : Instr) (e : Enc) (value : Nat → Nat) (prio : Option Byte) (s : State) (i : Iss),
      ((∃ f, j = .brxXb f ∧ e = .xb 0x6D f ∧ (value = fun l => regsNat (s.fab.source i f.d.toNat 2 0 l)) ∧ prio = some f.prio) ∨
       (∃ f, j = .retXr f ∧ e = .xr 0x6A f ∧ (value = fun l => regsNat (s.fab.source i f.a.toNat 2 f.ra l)) ∧ prio = none)) →
      Issues s e noGate i →
      let wide := i.active.filter (fun l => 2 ^ 48 ≤ value l)
      let odd := i.active.filter (fun l => value l % 4 ≠ 0)
      (∀ l ls, wide = l :: ls → exec j s = .next (trapped s i (.addr 0x0A wide (value l)))) ∧
      (wide = [] → ∀ l ls, odd = l :: ls → exec j s = .next (trapped s i (.addr 0x0B odd (value l)))) ∧
      (wide = [] → odd = [] → ∃ g, exec j s = .next (retired s i g) ∧ FrameBut s { s with fab := g } i 0 0 (fun l x x' =>
        x'.park = x.park ∧ x'.enrolled = x.enrolled ∧ x'.arrived = x.arrived ∧
        x'.pc = (if l ∈ i.active then BitVec.ofNat 48 (value l) else if l ∈ i.entry then i.pc + BitVec.ofNat 48 i.len else x.pc) ∧
        x'.prio = (if l ∈ i.active then prio.getD x.prio else x.prio))))

/-- R147, R289: `jenr` enrols the active lanes in mask SUB; `jwait` traps with 0x15 for active lanes that are not enrolled, else they arrive and
park; `jstr` clears both bits; and where every enrolled lane has then arrived the mask releases: arrived bits clear and waiting lanes go on.
`jmov` reads the enrolled bits. -/
def Obligations.RejoinMasks : Prop :=  ∀ (f : XrForm) (s : State) (i : Iss) (g : Group), groupAt s i.core i.slot = some g → i.active ≠ [] →
    let enr (l : Nat) : Bool := match g.lanes[l]? with | some x => x.enrolled.getLsbD f.s | none => false
    let bit : BitVec 16 := 1#16 <<< f.s
    let next : Addr := i.pc + BitVec.ofNat 48 i.len
    (Issues s (.xr 0x6E f) noGate i → ∃ h, exec (.jenrXr f) s = .next (retired s i h) ∧ FrameBut s { s with fab := h } i 0 0 (fun l x x' =>
      x'.park = x.park ∧ x'.arrived = x.arrived ∧ x'.pc = past i l x ∧ x'.prio = x.prio ∧
      x'.enrolled = (if l ∈ i.active then x.enrolled ||| bit else x.enrolled))) ∧
    (Issues s (.xr 0x6F f) noGate i →
      let bad := i.active.filter (fun l => !enr l)
      let full := ∀ l x, g.lanes[l]? = some x → x.status = .live → x.enrolled.getLsbD f.s = true → x.arrived.getLsbD f.s = true ∨ l ∈ i.active
      (bad ≠ [] → exec (.jwaitXr f) s = .next (trapped s i (.plain 0x15 0 bad))) ∧
      (bad = [] → ∃ h, exec (.jwaitXr f) s = .next (retired s i h) ∧ FrameBut s { s with fab := h } i 0 0 (fun l x x' =>
        x'.enrolled = x.enrolled ∧ x'.prio = x.prio ∧
        (full → l ∈ i.active → x'.arrived = x.arrived &&& ~~~bit ∧ x'.park = none ∧ x'.pc = next) ∧
        (full → l ∉ i.active → x.arrived.getLsbD f.s = true → x'.arrived = x.arrived &&& ~~~bit ∧
          (x.park = some (.jwait f.sub) → x'.park = none ∧ x'.pc = x.parkNext) ∧
          (x.park ≠ some (.jwait f.sub) → x'.park = x.park ∧ x'.pc = past i l x)) ∧
        (¬full → l ∈ i.active → x'.arrived = x.arrived ||| bit ∧ x'.park = some (.jwait f.sub) ∧ x'.parkNext = next) ∧
        (l ∉ i.active → (¬full ∨ x.arrived.getLsbD f.s = false) → x'.arrived = x.arrived ∧ x'.park = x.park ∧ x'.pc = past i l x)))) ∧
    (Issues s (.xr 0x70 f) noGate i →
      let full := (∃ l x, g.lanes[l]? = some x ∧ x.status = .live ∧ l ∉ i.active ∧ x.arrived.getLsbD f.s = true) ∧
        ∀ l x, g.lanes[l]? = some x → x.status = .live → l ∉ i.active → x.enrolled.getLsbD f.s = true → x.arrived.getLsbD f.s = true
      ∃ h, exec (.jstrXr f) s = .next (retired s i h) ∧ FrameBut s { s with fab := h } i 0 0 (fun l x x' =>
        x'.prio = x.prio ∧
        (l ∈ i.active → x'.enrolled = x.enrolled &&& ~~~bit ∧ x'.arrived = x.arrived &&& ~~~bit ∧ x'.park = x.park ∧ x'.pc = next) ∧
        (l ∉ i.active → x'.enrolled = x.enrolled) ∧
        (full → l ∉ i.active → x.arrived.getLsbD f.s = true → x'.arrived = x.arrived &&& ~~~bit ∧
          (x.park = some (.jwait f.sub) → x'.park = none ∧ x'.pc = x.parkNext) ∧
          (x.park ≠ some (.jwait f.sub) → x'.park = x.park ∧ x'.pc = past i l x)) ∧
        (l ∉ i.active → (¬full ∨ x.arrived.getLsbD f.s = false) → x'.arrived = x.arrived ∧ x'.park = x.park ∧ x'.pc = past i l x))) ∧
    (Issues s (.xr 0x71 f) noGate i → ∃ t v, exec (.jmovXr f) s = .next t ∧ gcwOf t i = some i.gcw ∧ Wrote s t i f.d.toNat (fun _ => v) ∧
      v.length = (if i.w = 64 then 2 else 1) ∧ (∀ r ∈ v, r.tag = .bits) ∧ ∀ b, b < 32 * v.length → (regsNat v).testBit b = enr b)

/-- R303, R290: `sid` writes the value of Table 14.3 that IMM8, or B in the lowest active lane, selects: TIME as an n64 pair (an odd D traps
with 0x02), every other value as n32; a selector of 14 or more traps with 0x02. That the traps name every active lane is the model's reading
(log 20). -/
def Obligations.IdentityRead : Prop :=  ∀ (j : Instr) (e : Enc) (f : XrForm) (s : State) (i : Iss) (tm : Team) (gr : Grid) (g : Group),
    ((j = .sidXr f ∧ e = .xr 0x0D f) ∨ (∃ h : SiForm, j = .sidSi h ∧ e = .si 0x0D h ∧ f = h.toXr)) → Issues s e noGate i → i.active ≠ [] →
    teamAt s i.core = some tm → s.fab.grid? tm.grid = some gr → groupAt s i.core i.slot = some g →
    let v := i.srcB s.fab f 1 i.lowest
    let value (l : Nat) : Nat := if v = 0 then l else if v = 1 then i.slot else if v = 2 then tm.index else if v = 3 then gr.firstSeq.toNat
      else if v = 4 then g.lanes.length else if v = 5 then i.slot else if v = 6 then (if g.consumer then 1 else 0) else if v = 7 then i.core
      else if v = 8 then i.core / 8 else if v = 9 then i.core / 48 else if v = 10 then s.ctl.hdevid.toNat else if v = 12 then gr.nteams
      else gr.gprod + gr.gcons
    (14 ≤ v ∨ (v = 11 ∧ f.d.toNat % 2 = 1) → exec j s = .next (trapped s i (.plain 0x02 0 i.active))) ∧
    (v < 14 → v ≠ 11 → ∃ t, exec j s = .next t ∧ RegFrame s t i f.d.toNat 1 ∧ gcwOf t i = some i.gcw ∧
      Wrote s t i f.d.toNat (fun l => [⟨BitVec.ofNat 32 (value l), .n32⟩])) ∧
    (v = 11 → f.d.toNat % 2 = 0 → ∃ t, exec j s = .next t ∧ RegFrame s t i f.d.toNat 2 ∧ gcwOf t i = some i.gcw ∧
      Wrote s t i f.d.toNat (fun _ => natRegs .n64 2 s.fab.time.toNat))

/-- R304, R158: `gctl` gives every active lane the word before, as n32, and sets the word to B, or to its union or difference with B (B read in
the lowest active lane), in the RW bits [4:0] and [12:8] alone; `gctl.rd` leaves it. R158: a `gctl` write takes the new value in the RW bits
and leaves RO and reserved bits. -/
def Obligations.ControlWordAccess : Prop := (
    ∀ (f : XrForm) (s : State) (i : Iss), Issues s (.xr 0x0F f) noGate i → i.active ≠ [] →
      let b := BitVec.ofNat 32 (i.srcB s.fab f 1 i.lowest)
      let new := if f.s = 0 then i.gcw else if f.s = 1 then b else if f.s = 2 then i.gcw ||| b else i.gcw &&& ~~~b
      ∃ t w, exec (.gctlXr f) s = .next t ∧ RegFrame s t i f.d.toNat 1 ∧ Wrote s t i f.d.toNat (fun _ => [⟨i.gcw, .n32⟩]) ∧ gcwOf t i = some w ∧
        ∀ n, n < 32 → w.getLsbD n = if n ≤ 4 ∨ (8 ≤ n ∧ n ≤ 12) then new.getLsbD n else i.gcw.getLsbD n) ∧ (
    ∀ (old new : Word), (∀ b, b < 32 → (b ≤ 4 ∨ (8 ≤ b ∧ b ≤ 12)) → (gcwWrite old new).getLsbD b = new.getLsbD b) ∧
      (∀ b, b < 32 → ¬(b ≤ 4 ∨ (8 ≤ b ∧ b ≤ 12)) → (gcwWrite old new).getLsbD b = old.getLsbD b))

/-! ## Waiting, regions, exceptions, services and tasks (chapters 6, 7 and 14) -/

/-- R291, R162: `nop` has no effect; `seal` closes the group's open batch, and the batches at the front whose copies have all been delivered
leave the class. R161, R162, R177, R291, R346: a `wait` with a cp threshold below 15 first seals a batch that is open, where cp has room. It
then delivers the completion that it covers as a trap, with that completion taken from the group; without one it goes on once every counter
is at or below its threshold (and the batch has been sealed), without the negative completions that it covers where TRNG is clear, and else
holds the group where it stands, whatever other lanes become ready meanwhile. -/
def Obligations.NopSealWait : Prop := (
    (∀ (j : Instr) (e : Enc) (s : State) (i : Iss), ((j = .nopSz ∧ e = .sz 0x01) ∨ ∃ f, j = .nopXr f ∧ e = .xr 0x01 f) → Issues s e noGate i →
      ∃ t, exec j s = .next t ∧ RegFrame s t i 0 0 ∧ gcwOf t i = some i.gcw) ∧
    (∀ (j : Instr) (e : Enc) (s : State) (i : Iss) (g : Group), ((j = .sealSz ∧ e = .sz 0x03) ∨ ∃ f, j = .sealXr f ∧ e = .xr 0x03 f) →
      Issues s e gateSeal i → i.active ≠ [] → groupAt s i.core i.slot = some g →
      let busy (b : List Nat) : Prop := ∃ id ∈ b, ∃ o ∈ (s.fab.core i.core).copies, o.id = id
      ∃ h g', exec j s = .next (retired s i h) ∧ GroupFrame s { s with fab := h } i g g' ∧ g'.openBatch = [] ∧ g'.sealedCp = g.sealedCp + 1 ∧
        ∃ n, g'.batches = (g.batches ++ [g.openBatch]).drop n ∧ (∀ b ∈ (g.batches ++ [g.openBatch]).take n, ¬busy b) ∧
          (g.undel = [] → ∀ b, g'.batches.head? = some b → busy b))) ∧ (
    ∀ (f : SwForm) (s : State) (i : Iss) (g0 g : Group), Issues s (.sw f) noGate i → groupAt s i.core i.slot = some g0 →
      let must := f.cp ≠ 15 ∧ g0.openBatch ≠ []
      let closed : Fab := if must ∧ g0.cp < 15 then s.fab.sealBatch i.core i.slot else s.fab
      closed.group? i.core i.slot = some g →
      let above := (must ∧ g0.cp = 15) ∨ f.ld.toNat < g.ld ∨ f.st.toNat < g.st ∨ f.cp.toNat < g.cp ∨ f.mx.toNat < closed.mx i.core i.slot ∨ f.cl.toNat < g.cl
      (g.delivers f = none → ¬above → ∃ h g', exec (.waitSw f) s = .next (retired s i h) ∧ GroupFrame s { s with fab := h } i g0 g' ∧
        SameQueues g' (g.sift f) ∧ (g.gcw.getLsbD 4 = true → g.sift f = g) ∧ g'.gcw = g0.gcw ∧ g'.r = g0.r ∧ g'.hold = g0.hold ∧
        ∀ l x, g0.lanes[l]? = some x → ∃ x', g'.lanes[l]? = some x' ∧ x'.pc = past i l x ∧ x'.regs = x.regs ∧ x'.status = x.status ∧ x'.park = x.park) ∧
      (g.delivers f = none → above → exec (.waitSw f) s = .next { s with fab := (closed.modGroup i.core i.slot (fun g => { g with hold := some (.wait (maskOf i.entry) i.pc f) })) }) ∧
      (∀ u, g.delivers f = some u →
        let took := closed.modGroup i.core i.slot (fun g => { g with undel := g.undel.erase u })
        exec (.waitSw f) s = .next { s with fab := ((took.trapHere s.ctl i u.trap).flushHeld s.ctl i.core i.slot) }))

/-- R149, R151, R293, R300: outside trap mode `rgn` makes itself the head of each active lane's region, with a checkpoint of the live-in
registers its literal names, the priority and the rejoin bits, and closes the deferral window; in trap mode it does nothing. R103, R104,
R106, R151, R294: `grow` and `shrink` with n = 8v: a value out of range or the wrong direction traps with 0x02; the same count only opens
windows; a `grow` beyond the core's capacity, or that has to wait with a window open, traps with 0x12, else it is granted with the new
registers zero and raw, or queues; `shrink` takes effect at once. Registers below both counts stand. That 0x02 and 0x12 name every active
lane is the model's reading (log 20). -/
def Obligations.RegionsAndRegisterCounts : Prop := (
    ∀ (lit : DWord) (s : State) (i : Iss) (g : Group), Issues s (.rgn lit) noGate i → groupAt s i.core i.slot = some g →
      (i.trapMode = true → ∃ t, exec (.rgnSz lit) s = .next t ∧ RegFrame s t i 0 0) ∧
      (i.trapMode = false → ∃ h g', exec (.rgnSz lit) s = .next (retired s i h) ∧ GroupFrame s { s with fab := h } i g g' ∧ SameQueues g' g ∧
        g'.gcw = g.gcw ∧ g'.r = g.r ∧ ∀ l x, g.lanes[l]? = some x → ∃ x', g'.lanes[l]? = some x' ∧
          ({ x' with pc := 0, window := none, ck := x.ck } : Lane) = { x with pc := 0, window := none } ∧ x'.pc = past i l x ∧
          (l ∉ i.active → x'.ck = x.ck) ∧
          (l ∈ i.active → x'.window = none ∧ x'.ck =
            ⟨lit, (liveIns lit).map (fun n => x.priv i.core i.slot l n), i.pc, x.prio, x.enrolled, x.arrived, none⟩))) ∧ (
    ∀ (j : Instr) (e : Enc) (f : XrForm) (grow : Bool) (s : State) (i : Iss) (g : Group),
      (asXr e = some (if grow then 0x05 else 0x06, f) ∧ j.enc? = some e) → Issues s e noGate i → i.active ≠ [] → groupAt s i.core i.slot = some g →
      let v := i.srcB s.fab f 1 i.lowest
      let r := 8 * v
      let opens (l : Nat) (x x' : Lane) : Prop := if l ∈ i.active ∧ i.trapMode = false then
        x'.window = some (match x.window with | some n => n + 1 | none => 0) else True
      let granted : Prop := ∃ h g', exec j s = .next (retired s i h) ∧ GroupFrame s { s with fab := h } i g g' ∧ SameQueues g' g ∧ g'.r = r ∧
        g'.hold = g.hold ∧ ∀ l x, g.lanes[l]? = some x → ∃ x', g'.lanes[l]? = some x' ∧ x'.status = x.status ∧ x'.pc = past i l x ∧ x'.ck = x.ck ∧
          opens l x x' ∧ (x.status = .live → ∀ m, m < r → x'.priv i.core i.slot l m = if m < i.r then x.priv i.core i.slot l m else .zero)
      (v = 0 ∨ 127 < v → exec j s = .next (trapped s i (.plain 0x02 0 i.active))) ∧
      (1 ≤ v ∧ v ≤ 127 →
        ((if grow then r < i.r else i.r < r) → exec j s = .next (trapped s i (.plain 0x02 0 i.active))) ∧
        (r = i.r → granted) ∧
        (grow = false → r < i.r → granted) ∧
        (grow = true → i.r < r → s.fab.growFits i r = false → exec j s = .next (trapped s i (.plain 0x12 0 i.active))) ∧
        (grow = true → i.r < r → s.fab.growFits i r = true →
          ((s.fab.core i.core).regQueue = [] ∧ (r - i.r) * i.w ≤ s.fab.freeRegs i.core → granted) ∧
          (¬((s.fab.core i.core).regQueue = [] ∧ (r - i.r) * i.w ≤ s.fab.freeRegs i.core) →
            ((∃ (l : Nat) (x : Lane), g.lanes[l]? = some x ∧ x.status = .live ∧ x.window ≠ none) → exec j s = .next (trapped s i (.plain 0x12 0 i.active))) ∧
            ((∀ (l : Nat) (x : Lane), g.lanes[l]? = some x → x.status = .live → x.window = none) → ∃ h, exec j s = .next (retired s i h) ∧
              (∃ q ∈ (h.core i.core).regQueue, q.slot = i.slot ∧ q.regs = (r - i.r) * i.w) ∧
              (h.group? i.core i.slot).map (fun k => (k.r, k.hold)) = some (g.r, some (.grow (maskOf i.entry) (maskOf i.active) i.pc r)))))))

/-- R211, R292, R183: a `fence` at a scope of `.grp` or `.core` only retires; from `.clu` on no byte of the core's L1 is dirty when it has
retired; a scope code above 5 traps with 0x02 (for every active lane, log 20). R302, R97: `sleep` parks the group until TIME reaches the
value (the literal of an SI form, else A of the lowest active lane) or, in mode 1, TIME at issue plus the value; a mode above 1 traps with
0x02 (for every active lane, log 20). R305, R147: `exit` ends each active lane: it has exited, is in no mask, and holds no task and no
bound. The frame is stated for exits of lanes that hold no task: no other lane ends and none of their registers change, nor does the
outstanding-task count. -/
def Obligations.FenceSleepExit : Prop := (
    ∀ (j : Instr) (e : Enc) (f : XrForm) (s : State) (i : Iss), asXr e = some (0x07, f) → j.enc? = some e → Issues s e gateMem i → i.active ≠ [] →
      let v := i.srcB s.fab f 1 i.lowest
      (5 < v → exec j s = .next (trapped s i (.plain 0x02 0 i.active))) ∧
      (v < 2 → ∃ t, exec j s = .next t ∧ RegFrame s t i 0 0) ∧
      (2 ≤ v ∧ v ≤ 5 → ∃ t, exec j s = .next t ∧ t.ctl = s.ctl ∧ ∀ k ∈ (t.fab.core i.core).l1, k.dirty = 0)) ∧ (
    ∀ (j : Instr) (e : Enc) (f : XrForm) (lit : Option DWord) (s : State) (i : Iss) (g : Group),
      ((j = .sleepXr f ∧ e = .xr 0x10 f ∧ lit = none) ∨ ∃ h : SiForm, j = .sleepSi h ∧ e = .si 0x10 h ∧ f = h.sleepXr ∧ lit = h.lit) →
      Issues s e noGate i → i.active ≠ [] → groupAt s i.core i.slot = some g →
      let mode := i.srcB s.fab f 1 i.lowest
      let value := match lit with | some t => t.toNat | none => i.srcA s.fab f 2 i.lowest
      (1 < mode → exec j s = .next (trapped s i (.plain 0x02 0 i.active))) ∧
      (mode ≤ 1 → ∃ h g', exec j s = .next (retired s i h) ∧ GroupFrame s { s with fab := h } i g g' ∧ SameQueues g' g ∧ g'.gcw = g.gcw ∧
        g'.hold = some (.sleep (maskOf i.entry) i.pc (if mode = 1 then s.fab.time.toNat + value else value)) ∧
        ∀ l x, g.lanes[l]? = some x → ∃ x', g'.lanes[l]? = some x' ∧ x'.pc = past i l x ∧ x'.regs = x.regs ∧ x'.park = x.park ∧ x'.status = x.status)) ∧ (
    ∀ (j : Instr) (e : Enc) (s : State) (i : Iss) (g : Group), ((j = .exitSz ∧ e = .sz 0x0E) ∨ ∃ f, j = .exitXr f ∧ e = .xr 0x0E f) → Issues s e noGate i →
      groupAt s i.core i.slot = some g → (∀ l x, l ∈ i.active → g.lanes[l]? = some x → x.task = false) →
      ∃ h, exec j s = .next (retired s i h) ∧ h.grids = s.fab.grids ∧ h.mem = s.fab.mem ∧
        (∀ l x, g.lanes[l]? = some x → ∃ x', h.lane? i.core i.slot l = some x' ∧
          (l ∈ i.active → x'.status = .exited ∧ x'.enrolled = 0 ∧ x'.arrived = 0 ∧ x'.bound = none ∧ x'.task = false ∧ x'.regs = []) ∧
          (l ∉ i.active → x'.status = x.status ∧ x'.regs = x.regs ∧ x'.enrolled = x.enrolled)))

/-- R298, R257, R259, R290: `trap #n` takes trap 0x10 with subcause n, and `brk` trap 0x11, for the active lanes, with nothing written; `rend`,
`rdrop` and an unassigned opcode take trap 0x01 for the lanes of the entry. That an XR form's value above 255 takes 0x02, for every active
lane, is the model's reading (log 20). -/
def Obligations.SoftwareTraps : Prop :=  (∀ (j : Instr) (e : Enc) (f : XrForm) (s : State) (i : Iss), asXr e = some (0x08, f) → j.enc? = some e → Issues s e noGate i → i.active ≠ [] →
    let v := i.srcB s.fab f 1 i.lowest
    exec j s = .next (trapped s i (if v ≤ 255 then .plain 0x10 v i.active else .plain 0x02 0 i.active))) ∧
  (∀ (j : Instr) (e : Enc) (s : State) (i : Iss), ((j = .brkSz ∧ e = .sz 0x0C) ∨ ∃ f, j = .brkXr f ∧ e = .xr 0x0C f) → Issues s e noGate i → i.active ≠ [] →
    exec j s = .next (trapped s i (.plain 0x11 0 i.active))) ∧
  (∀ (j : Instr) (len : Nat) (s : State) (i : Iss), ((∃ o, j = .illegalOpcode o ∧ len = 4) ∨ (∃ f, (j = .rendXr f ∨ j = .rdropXr f) ∧ len = 12)) →
    s.fab.iss Pred.none_ len = some i → s.fab.handlerLate i = false → s.fab.overdue i = [] →
    exec j s = .next (trapped s i (.plain 0x01 0 i.entry)))

/-- R153, R154: taking an exception: where the table entry of the cause and FRAMES are read and the frame is written, the handler lanes that
wait stand at the entry's PC in trap mode, with their registers, priority and checkpoint as before, the other lanes wait as before, and the
group is held by nothing. R153, R157: a trap in trap mode other than a translation fault, and a trap whose table entry is zero, end the
context with a fatal fault. R154, Table 7.5: the trap frame of a group of W lanes has 64 + 72W bytes: PC at 0, CAUSE at 8, SUB at 9, LANES
at 16, FADDR at 24, EREC at 32, GCW at 40, register i of lane l at 64 + 4(Wi + l), and the lanes' tags from 64 + 64W. -/
def Obligations.ExceptionEntry : Prop := (
    ∀ (ctl : Ctl) (f f0 f1 f2 : Fab) (c s : Nat) (p : PendTrap) (t : Team) (g g2 : Group) (x : Ctx) (b0 b1 w : List Byte),
      (f.core c).team = some t → f.group? c s = some g → g.trap = none → f.ctx? t.ctx = some x →
      f.coreRead ctl c t.ctx x.trapTab.toNat 8 .load = (.ok b0, f0) →
      f0.coreRead ctl c t.ctx (x.trapTab.toNat + 16 * p.cause) 8 .load = (.ok b1, f1) → BitVec.ofNat 48 (leNat b1) ≠ 0#48 →
      let frame := leNat b0 % 2 ^ 48 + (c * 32 + s) * 8192
      f1.coreWrite ctl c t.ctx frame 1 (f1.frameBytes c s g (if p.erec = 0 then p else { p with erec := BitVec.ofNat 64 frame + p.erec })) = (.ok w, f2) →
      f2.group? c s = some g2 →
      let handler (l : Nat) : Prop := inMask p.handlers l = true ∧ ∃ y, g2.lanes[l]? = some y ∧ y.ready = true
      (∃ l, handler l) → g2.lanes.length ≤ 64 →
      ∃ g' m, (f.takeTrap ctl c s p).group? c s = some g' ∧ g'.trap = some ⟨m, 0, BitVec.ofNat 48 frame⟩ ∧
        (∀ l, l < 64 → (m.getLsbD l = true ↔ handler l)) ∧
        g'.pendTrap = none ∧ g'.hold = none ∧ g'.gcw = g2.gcw ∧ g'.r = g2.r ∧ SameQueues g' g2 ∧
        ∀ l y, g2.lanes[l]? = some y → ∃ y', g'.lanes[l]? = some y' ∧ y'.regs = y.regs ∧ y'.ck = y.ck ∧ y'.park = y.park ∧ y'.status = y.status ∧
          (handler l → y'.pc = BitVec.ofNat 48 (leNat b1)) ∧ (¬handler l → y'.pc = y.pc)) ∧ (
    ∀ (ctl : Ctl) (f : Fab) (c s : Nat) (p : PendTrap) (t : Team) (g : Group) (x : Ctx), (f.core c).team = some t → f.group? c s = some g →
      (g.trap ≠ none → f.takeTrap ctl c s p = f.fatal ctl t.ctx (f.grid? t.grid) p.cause p.pc) ∧
      (∀ f0 f1 b0 b1, g.trap = none → f.ctx? t.ctx = some x → f.coreRead ctl c t.ctx x.trapTab.toNat 8 .load = (.ok b0, f0) →
        f0.coreRead ctl c t.ctx (x.trapTab.toNat + 16 * p.cause) 8 .load = (.ok b1, f1) → BitVec.ofNat 48 (leNat b1) = 0#48 →
        f.takeTrap ctl c s p = f1.fatal ctl t.ctx (f1.grid? t.grid) p.cause p.pc)) ∧ (
    ∀ (f : Fab) (c s : Nat) (g : Group) (p : PendTrap), p.cause < 256 →
      let w := g.lanes.length
      let b := f.frameBytes c s g p
      b.length = 64 + 72 * w ∧ fieldAt b 0 8 = p.pc.toNat ∧ fieldAt b 8 1 = p.cause ∧ fieldAt b 9 1 = p.sub.toNat ∧ fieldAt b 10 6 = 0 ∧
      fieldAt b 16 8 = p.lanes.toNat ∧ fieldAt b 24 8 = p.faddr.toNat ∧ fieldAt b 32 8 = p.erec.toNat ∧ fieldAt b 40 4 = g.gcw.toNat ∧ fieldAt b 44 20 = 0 ∧
      (∀ i l, i < 16 → l < w → fieldAt b (64 + 4 * (w * i + l)) 4 = (f.frameReg c s g.r l i).val.toNat) ∧
      (∀ i l, i < 16 → l < w → fieldAt b (64 + 64 * w + 8 * l) 8 / 2 ^ (4 * i) % 16 = (f.frameReg c s g.r l i).tag.code) ∧
      (∀ i l x, i < 16 → i < g.r → f.lane? c s l = some x → f.frameReg c s g.r l i = if x.status = .live then x.priv c s l i else .zero))

/-- R156, R299, R150: `rti` and `rti.next` give each active handler lane the frame's `v0`-`v15` and tags and its PC, or the PC after the
instruction there; `rti.rgn` restarts it at its region head and leaves the counters as they are; each leaves trap mode for those lanes; a
frame PC of 2^48 or more traps with 0x0A, else one that is no multiple of 4 with 0x0B. -/
def Obligations.ReturnFromTrap : Prop :=  (∀ (j : Instr) (e : Enc) (next : Bool) (s : State) (i : Iss) (g0 : Group) (t : TrapMode) (b : List Byte) (f1 : Fab),
    ((next = false ∧ ((j = .rtiSz ∧ e = .sz 0x09) ∨ ∃ f, j = .rtiXr f ∧ e = .xr 0x09 f)) ∨ (next = true ∧ ∃ f, j = .rtiNextXr f ∧ e = .xr 0x09 f)) →
    Issues s e gateRti i → i.active ≠ [] → groupAt s i.core i.slot = some g0 → g0.trap = some t →
    (moved s e i).coreRead s.ctl i.core i.ctx t.frame.toNat (64 + 72 * i.w) .load = (.ok b, f1) →
    let pc := fieldAt b 0 8
    (2 ^ 48 ≤ pc → exec j s = .next (trapped s i (.addr 0x0A i.active pc))) ∧
    (pc < 2 ^ 48 → pc % 4 ≠ 0 → exec j s = .next (trapped s i (.addr 0x0B i.active pc))) ∧
    (pc < 2 ^ 48 → pc % 4 = 0 → ∀ f2 w g, (if next then f1.fetchWord s.ctl i.core i.ctx pc = (.ok w, f2) else f2 = f1) →
      f2.group? i.core i.slot = some g → ∀ t2, g.trap = some t2 →
      let past := pc + (if next then (match w.toNat % 4 with | 0 => 4 | 3 => 20 | _ => 12) else 0)
      ∃ h g', exec j s = .next (retired s i h) ∧ h.group? i.core i.slot = some g' ∧
        (g'.trap = none ↔ t2.handlers &&& ~~~maskOf i.active = 0#64) ∧ (∀ t', g'.trap = some t' → t'.handlers = t2.handlers &&& ~~~maskOf i.active) ∧
        ∀ l x, g.lanes[l]? = some x → ∃ x', g'.lanes[l]? = some x' ∧ x'.prio = x.prio ∧ x'.ck = x.ck ∧
          (l ∉ i.active → x'.pc = x.pc ∧ x'.regs = x.regs) ∧
          (l ∈ i.active → x.status = .live → x'.pc = BitVec.ofNat 48 past ∧
            (∀ n, n < 16 → n < i.r → x'.priv i.core i.slot l n = ⟨BitVec.ofNat 32 (fieldAt b (64 + 4 * (i.w * n + l)) 4),
              Tag.ofCode (fieldAt b (64 + 64 * i.w + 8 * l) 8 / 2 ^ (4 * n) % 16)⟩) ∧
            ∀ n, (16 ≤ n ∨ i.r ≤ n) → x'.priv i.core i.slot l n = x.priv i.core i.slot l n))) ∧
  (∀ (f : XrForm) (s : State) (i : Iss) (g : Group), Issues s (.xr 0x09 f) noGate i → i.active ≠ [] → groupAt s i.core i.slot = some g →
    ∃ h g', exec (.rtiRgnXr f) s = .next (retired s i h) ∧ h.group? i.core i.slot = some g' ∧ h.ctxs = s.fab.ctxs ∧ h.mem = s.fab.mem ∧
      (∀ t, g.trap = some t → g'.trap.map (·.handlers) =
        if t.handlers &&& ~~~maskOf i.active = 0#64 then none else some (t.handlers &&& ~~~maskOf i.active)) ∧
      g'.loads.map (fun o => (o.seq, o.pieces.length)) = g.loads.map (fun o => (o.seq, o.pieces.length)) ∧ g'.storeQ = g.storeQ ∧ g'.batches = g.batches ∧
      g'.rem = g.rem ∧ g'.countFrom = g.countFrom ∧
      ∀ l x, g.lanes[l]? = some x → ∃ x', g'.lanes[l]? = some x' ∧ x'.ck = x.ck ∧ x'.status = x.status ∧
        (l ∉ i.active → x'.pc = past i l x ∧ x'.regs = x.regs ∧ x'.prio = x.prio) ∧
        (l ∈ i.active → x'.pc = x.ck.head ∧ x'.prio = x.ck.prio ∧ x'.park = none ∧ x'.enrolled = x.ck.enrolled ∧ x'.arrived = x.ck.arrived ∧
          ∀ n r, Table.get? x.ck.table n = some r → x'.priv i.core i.slot l n = r))

/-- R94, R301: each active lane of `syscall` parks with a request that carries the context, its PC, core, slot and lane, TIME and its `v0`-`v7`;
a value other than 0 traps with 0x02 (for every active lane, log 20). R78, R89, R96, R301: `irq #c` posts one KIND 2 event with the code,
the core, the slot, the mask of the active lanes and the PC to the context's event queue, and the group is held until it has been posted; a
code above 255 traps with 0x02 (for every active lane, log 20). That nothing is posted where EVQ names no event queue is the model's choice:
R89 lets no such context be made. -/
def Obligations.SystemCallAndInterrupt : Prop := (
    ∀ (j : Instr) (e : Enc) (f : XrForm) (s : State) (i : Iss) (c : Ctx), asXr e = some (0x0A, f) → j.enc? = some e → Issues s e noGate i → i.active ≠ [] →
      (i.srcB s.fab f 1 i.lowest ≠ 0 → exec j s = .next (trapped s i (.plain 0x02 0 i.active))) ∧
      (i.srcB s.fab f 1 i.lowest = 0 → s.fab.ctx? i.ctx = some c → i.ctx < 2 ^ 32 → i.core < 2 ^ 16 → i.slot < 2 ^ 48 → ∃ h, exec j s = .next (retired s i h) ∧
        ∀ l, l ∈ i.active → l < 256 → ∃ x tok b, h.lane? i.core i.slot l = some x ∧ x.park = some (.syscall tok b) ∧
          x.parkNext = i.pc + BitVec.ofNat 48 i.len ∧ (∀ k, tok = some k → fieldAt b 0 4 = k.toNat) ∧ fieldAt b 4 4 = i.ctx ∧
          fieldAt b 8 8 = i.pc.toNat + 2 ^ 56 * l ∧ fieldAt b 16 8 = i.core + 2 ^ 16 * i.slot ∧ fieldAt b 24 8 = s.fab.time.toNat ∧
          ∀ n, n < 8 → fieldAt b (32 + 4 * n) 4 = (s.fab.reg i.core i.slot l n).val.toNat)) ∧ (
    ∀ (j : Instr) (e : Enc) (f : XrForm) (s : State) (i : Iss) (c : Ctx) (tm : Team) (gr : Grid) (g : Group), asXr e = some (0x0B, f) → j.enc? = some e →
      Issues s e noGate i → i.active ≠ [] → s.fab.ctx? i.ctx = some c → teamAt s i.core = some tm → s.fab.grid? tm.grid = some gr →
      groupAt s i.core i.slot = some g →
      let v := i.srcB s.fab f 1 i.lowest
      let isQueue := ∃ q, Table.get? s.fab.queues c.evq = some q ∧ q.valid = true ∧ q.event = true
      (255 < v → exec j s = .next (trapped s i (.plain 0x02 0 i.active))) ∧
      (v ≤ 255 → isQueue → ∃ h g' data, exec j s = .next (retired s i (h.post s.ctl ⟨c.evq, eventBytes 2 0 i.ctx gr.seq gr.queue data,
          some (c.irqHart, c.irqId, i.core, i.slot)⟩)) ∧ GroupFrame s { s with fab := h } i g g' ∧ g'.hold = some (.irq (maskOf i.entry) (maskOf i.active) i.pc) ∧
        fieldAt data 0 1 = v ∧ fieldAt data 2 2 = i.core % 65536 ∧ fieldAt data 4 1 = i.slot % 256 ∧ fieldAt data 8 8 = (maskOf i.active).toNat ∧
        fieldAt data 16 8 = i.pc.toNat) ∧
      (v ≤ 255 → ¬isQueue → ∃ h g', exec j s = .next (retired s i h) ∧ GroupFrame s { s with fab := h } i g g' ∧ SameQueues g' g))

/-- R126, R128, R295: `tspawn` traps with 0x02 for a queue at or above NTQ and with 0x0B for lanes whose record has a misaligned PC; else, where
the descriptor is reached, it is a release at `.mod` and enqueues the records of the active lanes in ascending order, and the lanes that
find the queue full take trap 0x14 afterwards. That it performs as it issues (log 54), and that a queue at or above NTQ traps for every
active lane (log 20), is the model's choice. R128, R295, Table 6.4: a lane's record: PC from A and A+1, INCIDX, BOUNDED and PRIO from A+1
with the reserved bits zero, BOUND from A+2 and A+3, and twelve arguments; a bounded lane's record takes its incumbent and the worse of the
two bounds. -/
def Obligations.TaskSpawn : Prop := (
    ∀ (f : XrForm) (s : State) (i : Iss) (tm : Team) (gr : Grid), Issues s (.xr 0x74 f) gateMem i → i.active ≠ [] → teamAt s i.core = some tm →
      s.fab.grid? tm.grid = some gr →
      let fab := moved s (.xr 0x74 f) i
      let cleaned := fab.l1Release s.ctl i.core 4
      let recs := i.active.map (fun l => (l, fab.taskRecord i f.a.toNat l))
      let odd := recs.filter (fun p => fieldAt p.2 0 6 % 4 ≠ 0)
      (gr.ntq ≤ f.s → exec (.tspawnXr f) s = .next (trapped s i (.plain 0x02 0 i.active))) ∧
      (f.s < gr.ntq → ∀ p ps, odd = p :: ps → exec (.tspawnXr f) s = .next (trapped s i (.addr 0x0B (odd.map (·.1)) (fieldAt p.2 0 6)))) ∧
      (f.s < gr.ntq → odd = [] → ∀ desc f1, i.queueAt s.ctl cleaned (gr.tqs.getD f.s 0).toNat 2 true i.active.length = .at_ desc f1 →
        let r := f1.spawn s.ctl i desc recs
        exec (.tspawnXr f) s = .next (thenTrap (retired s i (r.2.commit i i.active)) i (if r.1 = [] then none else some (.plain 0x14 0 r.1))))) ∧ (
    ∀ (f : Fab) (i : Iss) (a l : Nat) (x : Lane) (c : Ctx), f.lane? i.core i.slot l = some x → f.ctx? i.ctx = some c →
      let w (k : Nat) : Word := (f.reg i.core i.slot l (a + k)).val
      let b := f.taskRecord i a l
      let own : DWord := w 3 ++ w 2
      b.length = 64 ∧ fieldAt b 0 6 = (w 0).toNat + 2 ^ 32 * ((w 1).toNat % 65536) ∧ fieldAt b 7 1 = (w 1).toNat / 2 ^ 24 ∧
      fieldAt b 6 1 / 32 = 0 ∧ (∀ k, k < 12 → fieldAt b (16 + 4 * k) 4 = (w (4 + k)).toNat) ∧
      (x.bound = none → fieldAt b 6 1 = (w 1).toNat / 2 ^ 16 % 32 ∧ fieldAt b 8 8 = own.toNat) ∧
      (∀ bd k, x.bound = some (bd, k) → fieldAt b 6 1 = 16 + k.toNat ∧
        fieldAt b 8 8 = (if c.incMax k.toNat then (if bd.slt own then bd else own) else (if own.slt bd then bd else own)).toNat))

/-- R127, R129, R130: one lane's turn of `tnext`: with no task outstanding it ends with the done status at the next PC, unbound; with an empty
queue it parks with an empty region at the `tnext`; an entry that is not dominated is installed: PC, priority, bound and twelve raw
arguments; a malformed one leaves the lane at the `tnext` and is reported. R129, R296: `tnext` traps with 0x02 for a queue at or above NTQ;
else each active lane in ascending order gives back its task and takes its turn (without the queue, where no task is left), and malformed
records trap with 0x02 afterwards for their lanes, with the first one's first eight bytes as FADDR. That it performs as it issues (log 54),
that a queue at or above NTQ traps for every active lane (log 20), and whose record FADDR holds (log 72), is the model's choice. -/
def Obligations.TaskNext : Prop := (
    ∀ (ctl : Ctl) (f : Fab) (ctx gid c s l : Nat) (tpc : Addr) (q n : Nat) (desc : Loc) (gr : Grid) (x : Lane), f.grid? gid = some gr → f.lane? c s l = some x →
      (gr.tasks = 0 → ∃ f' x', f.takeTask ctl ctx gid c s l tpc q desc (n + 1) = (.done, f') ∧ f'.lane? c s l = some x' ∧
        x'.pc = tpc + 12 ∧ x'.bound = none ∧ x'.task = false ∧ x'.park = none ∧ x'.prio = x.prio ∧ x'.regs = x.regs) ∧
      (gr.tasks ≠ 0 → ∀ qd f1, f.dequeue ctl (some c) ctx desc = (.empty qd, f1) →
        f.takeTask ctl ctx gid c s l tpc q desc (n + 1) = (.parked, (f1.modLane c s l (fun x => x.tnextPark tpc q desc)).waiterAdd ctl ctx desc qd c s l)) ∧
      (gr.tasks ≠ 0 → ∀ b f1 x1, f.dequeue ctl (some c) ctx desc = (.entry b, f1) → f1.lane? c s l = some x1 →
        (∀ bd k y, recBound b = some (bd, k) → f1.ctx? ctx = some y → y.dominated k.toNat bd (f1.coreInc c ctx k.toNat) = false) →
        ∃ took f' x', f.takeTask ctl ctx gid c s l tpc q desc (n + 1) = (took, f') ∧ f'.lane? c s l = some x' ∧
          took = (if recMalformed b then .malformed (BitVec.ofNat 64 (fieldAt b 0 8)) else .installed) ∧
          x'.pc = (if recMalformed b then tpc else BitVec.ofNat 48 (fieldAt b 0 6)) ∧ x'.prio = BitVec.ofNat 8 (fieldAt b 7 1) ∧
          x'.bound = (if fieldAt b 6 1 / 16 % 2 = 1 then some (BitVec.ofNat 64 (fieldAt b 8 8), BitVec.ofNat 4 (fieldAt b 6 1)) else none) ∧
          x'.task = true ∧ x'.park = none ∧ x'.lastTnext = some (tpc, q) ∧
          ∀ k, k < 12 → Table.get? x'.regs k = some ⟨BitVec.ofNat 32 (fieldAt b (16 + 4 * k) 4), .raw⟩)) ∧ (
    ∀ (f : XrForm) (s : State) (i : Iss) (tm : Team) (gr : Grid), Issues s (.xr 0x75 f) noGate i → i.active ≠ [] → teamAt s i.core = some tm →
      s.fab.grid? tm.grid = some gr →
      let fab := moved s (.xr 0x75 f) i
      (gr.ntq ≤ f.s → exec (.tnextXr f) s = .next (trapped s i (.plain 0x02 0 i.active))) ∧
      (f.s < gr.ntq → ∀ desc f1,
        (let left := gr.tasks.toNat - (if fab.holdsTask i i.lowest then 1 else 0)
         if left = 0 then desc = .scr 0 0 ∧ f1 = fab else i.queueAt s.ctl fab (gr.tqs.getD f.s 0).toNat 2 false (2 ^ 20) = .at_ desc f1) →
        let r := i.active.foldl (Fab.tnextLane s.ctl i f.s desc) ([], f1)
        exec (.tnextXr f) s = .next (thenTrap (retired s i r.2) i (match r.1 with
          | [] => none
          | b :: bs => some ⟨0x02, 1, maskOf ((b :: bs).map (·.1)), b.2, 0⟩))))

/-- R297, R121: `bnd` gives each active lane the bound of its B operand and incumbent SUB, or with K[0] makes it unbound; then the core's
dominated lanes are cancelled. R114, R116, R121, R297: a value improves an incumbent when it is above it for a maximum, below it for a
minimum; only then the core's replica takes it, and dominated lanes are cancelled; where no lane of the core is dominated, cancelling
changes nothing. R121, R122, R124, R125, R127: cancelling a lane leaves what Table 6.3 says. The lane is cancelled, and in no mask; its
registers, bound and window are gone; its stores, atomics and queue requests that have not left the store queue, its loads and its lanes of
copies still in the coalescer are dropped; its task is given back, CANC and its counter rise by 1; other lanes of the group keep their
registers, bounds and checkpoints, and memory stands. A lane that has retired a `tnext` becomes idle there, with priority 0 and an empty
region at that `tnext`, and ends where no task is left; any other has ended. A core cancels exactly its dominated lanes, of groups that are
resident. Stated for a lane that is parked nowhere and does not give back the last task. R116, R132, R297: `incx` makes one offer of the
best value that the active lanes offer, after a release at `.mod` where K[0] asks for it; `incr` gives every active lane the core replica's
value, as an i64 pair, and changes nothing else without K[0]. -/
def Obligations.BoundsAndIncumbents : Prop := (
    ∀ (f : XrForm) (s : State) (i : Iss) (g : Group), Issues s (.xr 0x76 f) noGate i → i.active ≠ [] → groupAt s i.core i.slot = some g →
      ∃ h g', exec (.bndXr f) s = .next (retired s i (h.cancelCore s.ctl i.core)) ∧ GroupFrame s { s with fab := h } i g g' ∧ SameQueues g' g ∧ g'.gcw = g.gcw ∧
        ∀ l x, g.lanes[l]? = some x → ∃ x', g'.lanes[l]? = some x' ∧ x'.status = x.status ∧ x'.regs = x.regs ∧ x'.pc = past i l x ∧
          x'.bound = (if l ∈ i.active then (if f.c.getLsbD 0 then none else some (BitVec.ofNat 64 (i.srcB s.fab f 2 l), f.sub)) else x.bound)) ∧ (
    ∀ (ctl : Ctl) (f : Fab) (core ctx k : Nat) (v : DWord) (c : Ctx), f.ctx? ctx = some c →
      let cur := f.coreInc core ctx k
      let max := (c.incCfg.getD k 0).getLsbD 0
      let better := if max then cur.slt v else v.slt cur
      (better = false → f.offer ctl core ctx k v = f) ∧
      (better = true → f.offer ctl core ctx k v = (f.setCoreInc core ctx k v).cancelCore ctl core) ∧
      (f.setCoreInc core ctx k v).coreInc core ctx k = v ∧
      ((∀ (t : Team) (slot : Nat) (g : Group) (l : Nat) (x : Lane), (f.core core).team = some t → t.groups[slot]? = some g → g.lanes[l]? = some x → f.laneDominated core t.ctx x = false) →
        f.cancelCore ctl core = f)) ∧ (
    ∀ (ctl : Ctl) (f : Fab) (c slot l : Nat) (t : Team) (g : Group) (x : Lane), (f.core c).team = some t → t.groups[slot]? = some g → g.lanes[l]? = some x →
      x.park = none → (x.task = true → ∃ y, f.grid? t.grid = some y ∧ 1 < y.tasks.toNat) →
      (∃ (u : Fab) (g' : Group) (x' : Lane),
        f.cancelLane ctl c slot l = (match x.lastTnext, f.grid? t.grid with | some (tpc, q), some _ => u.goIdle ctl c slot l tpc q | _, _ => u.reportEnd c) ∧
        u.group? c slot = some g' ∧ g'.lanes[l]? = some x' ∧ x'.status = .cancelled ∧ x'.park = none ∧ x'.bound = none ∧ x'.task = false ∧ x'.regs = [] ∧
        x'.window = none ∧ x'.enrolled = 0 ∧ x'.arrived = 0 ∧
        (∀ (m : Nat) (y : Lane), m ≠ l → g.lanes[m]? = some y → ∃ y' : Lane, g'.lanes[m]? = some y' ∧ y'.status = y.status ∧ y'.regs = y.regs ∧ y'.bound = y.bound ∧
          y'.task = y.task ∧ y'.ck = y.ck) ∧
        g'.storeQ = g.storeQ.map (fun o => match o.kind with
          | .store _ | .atom .. | .cas _ | .qenq .. | .qdeq .. => { o with pieces := o.pieces.filter (fun p => p.lane != l) }
          | _ => o) ∧
        (∀ o ∈ g'.loads, ∀ p ∈ o.pieces, p.lane = l → p.dropped = true ∧ p.done = true) ∧
        (∀ o ∈ (u.core c).copies, o.slot = slot → o.handed = false → ∀ n parts, o.kind = .cpl n parts → ∀ p ∈ parts, p.lane = l → p.dropped = true) ∧
        g'.gcw = g.gcw ∧ g'.rem = g.rem ∧ u.mem = f.mem ∧ u.l2 = f.l2 ∧ u.life = (counted f 0x710).life ∧
        u.grids = f.grids.map (fun y => if y.id = t.grid then { y with canc := y.canc + 1, tasks := if x.task then y.tasks - 1 else y.tasks } else y)) ∧
      (∀ (h : Fab) (y : Lane) tpc q, h.lane? c slot l = some y → ∃ (h1 : Fab) (y1 : Lane), h.goIdle ctl c slot l tpc q = h1.idleTake ctl c slot l tpc q ∧
        h1.lane? c slot l = some y1 ∧ y1.status = .live ∧ y1.idle = true ∧ y1.prio = 0 ∧ y1.pc = tpc ∧ y1.bound = y.bound ∧ y1.ck.head = tpc ∧ y1.ck.table = []) ∧
      (∀ (h : Fab) tm gr tpc q, (h.core c).team = some tm → h.grid? tm.grid = some gr → gr.tasks = 0 → h.idleTake ctl c slot l tpc q = h.exitLane ctl c slot l) ∧
      (g.stopped = false → g.awaiting = false → x.lastTnext = none → f.laneDominated c t.ctx x = true →
        (∀ (s' m : Nat) (g2 : Group) (y : Lane), t.groups[s']? = some g2 → g2.lanes[m]? = some y → (s', m) ≠ (slot, l) → f.laneDominated c t.ctx y = false) →
        f.cancelCore ctl c = f.cancelLane ctl c slot l)) ∧ (
    ∀ (f : XrForm) (s : State) (i : Iss) (c : Ctx), i.active ≠ [] → s.fab.ctx? i.ctx = some c →
      (Issues s (.xr 0x77 f) (gateIncx f) i → ∃ v, (∃ l ∈ i.active, v = BitVec.ofNat 64 (i.srcB s.fab f 2 l)) ∧
        (∀ l ∈ i.active, c.improves f.s (BitVec.ofNat 64 (i.srcB s.fab f 2 l)) v = false) ∧
        let m := moved s (.xr 0x77 f) i
        exec (.incxXr f) s = .next (retired s i ((if f.c.getLsbD 0 then m.l1Release s.ctl i.core 4 else m).offer s.ctl i.core i.ctx f.s v))) ∧
      (Issues s (.xr 0x78 f) noGate i → ∃ t, exec (.incrXr f) s = .next t ∧ Wrote s t i f.d.toNat (fun _ => natRegs .i64 2 (s.fab.coreInc i.core i.ctx f.s).toNat) ∧
        (f.c.getLsbD 0 = false → RegFrame s t i f.d.toNat 2 ∧ gcwOf t i = some i.gcw)))

/-! ## Memory, barriers, queues (chapters 9, 10 and 15) -/

/-- R309, R141, R307, R308: the first stage that any active lane fails traps for the lanes that fail it, with the first one's address:
scratchpad range 0x0C, bits [63:48] of a global address 0x0A, alignment 0x0B; a translation or permission failure ends it as the stage says;
and nothing of the instruction is then written. R141, R308, R309: scratchpad accesses (AS 1 and 2) that are in range and aligned pass every
stage with no effect: AS 1 lands in the core's own scratchpad, AS 2 in that of the hitch member that address bits [23:20] number. R199-R202:
where the core's TLB holds a leaf that permits the access, with its accessed bit and, for a write, its dirty bit set, the translation gives
the leaf's physical address, key, HOME and CACHE, and changes nothing. R164: an instruction whose accesses touch an absent sector of a
scratchpad waits without issuing; a load remembers since when, for which lanes, and the lowest one's address. -/
def Obligations.AddressStages : Prop := (
    ∀ (j : Instr) (o : BitVec 8) (f : XmForm) (align n : Nat) (acc : Access) (gate : Iss → Fab → Bool) (s : State) (i : Iss),
      j.enc? = some (.xm o f) → memForm o.toNat f = some (align, n, acc, gate) → Issues s (.xm o f) gate i →
      let as := f.as.toNat
      let a := addrOf s i f
      let range := i.active.filter (fun l => as ≠ 0 ∧ as ≠ 3 ∧ s.fab.scrValid i.core as (a l) = false)
      let wide := i.active.filter (fun l => (as = 0 ∨ as = 3) ∧ 2 ^ 48 ≤ a l)
      let odd := i.active.filter (fun l => a l % align ≠ 0)
      (∀ l ls, range = l :: ls → exec j s = .next (trapped s i (.addr 0x0C range (a l)))) ∧
      (range = [] → ∀ l ls, wide = l :: ls → exec j s = .next (trapped s i (.addr 0x0A wide (a l)))) ∧
      (range = [] → wide = [] → ∀ l ls, odd = l :: ls → exec j s = .next (trapped s i (.addr 0x0B odd (a l)))) ∧
      (i.active ≠ [] → ∀ r, (moved s (.xm o f) i).reach s.ctl i (i.wants (moved s (.xm o f) i) f align) n acc = .stop r →
        exec j s = match r with
          | .trap t => .next (trapped s i t)
          | .xlate lanes va acc r k => .next { s with fab := s.fab.parkFault s.ctl i.core i.slot i.entry lanes i.pc va acc r k (.group i.core i.slot) }
          | .fault x => .fault x
          | _ => exec j s)) ∧ (
    ∀ (o : BitVec 8) (f : XmForm) (align n : Nat) (acc : Access) (s : State) (i : Iss) (tm : Team), (f.as = 1 ∨ f.as = 2) → 0 < align →
      teamAt s i.core = some tm →
      let a := addrOf s i f
      (∀ l, l ∈ i.active → s.fab.scrValid i.core f.as.toNat (a l) = true ∧ a l % align = 0) →
      Reached s (.xm o f) i f align n acc (i.active.map (fun l => (l,
        if f.as = 1 then .scr i.core (a l) else .scr (tm.mates.getD (a l / 2 ^ 20 % 16) i.core) (a l % 2 ^ 20)))) (moved s (.xm o f) i)) ∧ (
    ∀ (ctl : Ctl) (f : Fab) (c ctx va : Nat) (acc : Access) (e : TlbEntry), TlbHit ctl f c ctx va acc e →
      let p := e.pte.toNat
      let k := if e.level = 0 then 38 else if e.level = 1 then 27 else 16
      f.translate ctl (some c) ctx va acc = (.ok (.glob (BitVec.ofNat 48 va) (BitVec.ofNat 48 (p / 2 ^ k % 2 ^ (48 - k) * 2 ^ k + va % 2 ^ k))
        (BitVec.ofNat 12 (p / 2 ^ 48 % 2 ^ 12)) (BitVec.ofNat 4 (p / 2 ^ 60 % 2 ^ 4)) (BitVec.ofNat 2 (p / 2 ^ 10 % 2 ^ 2))) p, f)) ∧ (
    ∀ (j : Instr) (o : BitVec 8) (f : XmForm) (align n : Nat) (acc : Access) (gate : Iss → Fab → Bool) (s : State) (i : Iss) (locs : List (Nat × Loc)) (fab : Fab),
      j.enc? = some (.xm o f) → o ≠ 0x92 → memForm o.toNat f = some (align, n, acc, gate) → Issues s (.xm o f) gate i → i.active ≠ [] →
      Reached s (.xm o f) i f align n acc locs fab → ∀ p ps, fab.absentLanes (i.wants (moved s (.xm o f) i) f align) locs n = p :: ps →
      exec j s = .next (if o = 0x80 then waiting { s with fab := s.fab.modGroup i.core i.slot (fun g => { g with
          absentSince := some (match g.absentSince with | some x => x.1 | none => s.fab.ac, maskOf ((p :: ps).map (·.1)), BitVec.ofNat 64 p.2) }) } i
        else waiting s i))

/-- R160, R310, R311, R315, R316: `ld`, `st`, `pin`, `unpin` and `cfl` whose accesses are reached, with every sector present, enter the class
that counts them with the group's next number and their lanes' locations; `st` holds the low bytes of its B registers. No memory changes by
it: the entry acts when it leaves its class. R314: `pf` retires whatever its addresses are, and changes no register and no flag. R316:
`cinv.iall` empties the core's instruction cache and `cinv.i` drops the words of the lines that its lanes name; `cinv.d`, whose lanes' pages
are in the TLB, invalidates the sectors of their L1 lines that hold no dirty byte. -/
def Obligations.LoadsAndStoresEnter : Prop := (
    ∀ (f : XmForm) (s : State) (i : Iss) (locs : List (Nat × Loc)) (fab : Fab), i.active ≠ [] →
      let n := 2 ^ f.size.toNat
      let load (k : LoadKind) (d : RegNo) (n : Nat) (sg : Bool) (tag : Tag) (sc : Nat) : Fab := fab.modGroup i.core i.slot (fun g => { g with
        loads := g.loads ++ [⟨g.nextSeq, i.pc, sc, k, d, n, sg, tag, locs.map (fun p => ⟨p.1, p.2, false, false⟩)⟩], nextSeq := g.nextSeq + 1 })
      let store (k : StoreKind) (sc : Nat) (data : Nat → List Byte) : Fab := fab.modGroup i.core i.slot (fun g => { g with
        storeQ := g.storeQ ++ [⟨g.nextSeq, i.pc, sc, k, locs.map (fun p => ⟨p.1, p.2, data p.1, []⟩)⟩], nextSeq := g.nextSeq + 1 })
      let ok (o : BitVec 8) (align n : Nat) (acc : Access) (gate : Iss → Fab → Bool) : Prop :=
        Issues s (.xm o f) gate i ∧ Reached s (.xm o f) i f align n acc locs fab ∧ Present s (.xm o f) i f align n locs fab
      (ok 0x80 n n .load gateLd → exec (.ldXm f) s = .next (retired s i
        (load (.mem (f.sub == 1)) f.d n (f.aux.getLsbD 4) (Tag.ofCode (f.aux.toNat % 16)) f.scope.toNat))) ∧
      (ok 0x81 n n .store gateSt → exec (.stXm f) s = .next (retired s i
        (store (.store (f.sub == 1)) f.scope.toNat (fun l => leBytes n (regsNat (fab.source i f.b.toNat ((n + 3) / 4) 0 l)))))) ∧
      (ok 0x85 1 1 .load gateLd → exec (.pinXm f) s = .next (retired s i (load .pin f.d 1 false .n32 0))) ∧
      (ok 0x86 1 1 .load gateSt → exec (.unpinXm f) s = .next (retired s i (store .unpin 0 (fun _ => [])))) ∧
      (ok 0x87 1 1 .load gateSt → exec (.cflXm f) s = .next (retired s i (store (.cfl (f.sub == 1)) 0 (fun _ => []))))) ∧ (
    ∀ (f : XmForm) (s : State) (i : Iss), Issues s (.xm 0x84 f) noGate i → ∃ t, exec (.pfXm f) s = .next t ∧ t.ctl = s.ctl ∧
      gcwOf t i = some i.gcw ∧ ∀ c slot l n, t.fab.reg c slot l n = s.fab.reg c slot l n) ∧ (
    ∀ (f : XmForm) (s : State) (i : Iss), Issues s (.xm 0x88 f) noGate i → i.active ≠ [] →
      (2 ≤ f.sub.toNat → ∃ t, exec (.cinvXm f) s = .next t ∧ (t.fab.core i.core).icache = []) ∧
      (f.sub = 0 → f.as = 0 → (∀ l ∈ i.active, addrOf s i f l < 2 ^ 48) → ∃ t, exec (.cinvXm f) s = .next t ∧
        ∀ w, w ∈ (t.fab.core i.core).icache ↔ w ∈ (s.fab.core i.core).icache ∧ ¬(w.ctx = i.ctx ∧ ∃ l ∈ i.active, addrOf s i f l / 256 = w.va / 256)) ∧
      (f.sub = 1 → f.as = 0 → (∀ l ∈ i.active, addrOf s i f l < 2 ^ 48 ∧ ∃ e, TlbHit s.ctl s.fab i.core i.ctx (addrOf s i f l) .load e) →
        ∃ t, exec (.cinvXm f) s = .next t ∧ ∀ l ∈ i.active, ∀ e, TlbHit s.ctl s.fab i.core i.ctx (addrOf s i f l) .load e →
          let pa := leafPa e.pte.toNat e.level (addrOf s i f l) % 2 ^ 48
          paKind pa = .mem → ∀ k, (t.fab.core i.core).l1Find (pa / 256) = some k → ∀ n, n < 4 →
            k.dirty &&& runMask (64 * n) 64 = 0 → k.filled.getLsbD n = false))

/-- R207, R160, R312, R313: `atom` and `cas` enter the store queue with each lane's operand bytes (and expected bytes), a returning form enters
the loads under the same number, and the deferral windows of the active lanes open. R312, Table 15.2: the new value of each `atom` operation
on an n-bit value x with operand y. -/
def Obligations.AtomicOperations : Prop := (
    ∀ (f : XmForm) (s : State) (i : Iss) (locs : List (Nat × Loc)) (fab : Fab), i.active ≠ [] →
      let n := 2 ^ f.size.toNat
      let op := f.aux.toNat % 16
      let bytes (r : RegNo) (l : Nat) : List Byte := leBytes n (regsNat (fab.source i r.toNat ((n + 3) / 4) 0 l))
      let enter (k : StoreKind) (expect : Nat → List Byte) (ret : Option Tag) : Fab := (fab.modGroup i.core i.slot (fun g => { g with
        loads := g.loads ++ (match ret with
          | some t => [⟨g.nextSeq, i.pc, f.scope.toNat, .ret, f.d, n, false, t, locs.map (fun p => ⟨p.1, p.2, false, false⟩)⟩]
          | none => [])
        storeQ := g.storeQ ++ [⟨g.nextSeq, i.pc, f.scope.toNat, k, locs.map (fun p => ⟨p.1, p.2, bytes f.b p.1, expect p.1⟩)⟩]
        nextSeq := g.nextSeq + 1 })).commit i i.active
      (Issues s (.xm 0x82 f) (gateAtom f) i → Reached s (.xm 0x82 f) i f n n .atomic locs fab → Present s (.xm 0x82 f) i f n n locs fab →
        exec (.atomXm f) s = .next (retired s i (enter (.atom op f.sub.toNat (f.aux.getLsbD 4)) (fun _ => [])
          (if f.aux.getLsbD 4 then some (atomTag op n) else none)))) ∧
      (Issues s (.xm 0x83 f) gateLdSt i → Reached s (.xm 0x83 f) i f n n .atomic locs fab → Present s (.xm 0x83 f) i f n n locs fab →
        exec (.casXm f) s = .next (retired s i (enter (.cas f.sub.toNat) (bytes f.d) (some .raw))))) ∧ (
    ∀ (n : Nat) (x y : BitVec n), (n = 32 ∨ n = 64) →
      let v (op : Nat) : Nat := atomValue op n x.toNat y.toNat
      v 0 = (x + y).toNat ∧ v 1 = (if y.slt x then y else x).toNat ∧ v 2 = (if x.slt y then y else x).toNat ∧
      v 3 = (if y.ult x then y else x).toNat ∧ v 4 = (if x.ult y then y else x).toNat ∧ v 5 = (x &&& y).toNat ∧ v 6 = (x ||| y).toNat ∧
      v 7 = (x ^^^ y).toNat ∧ v 8 = y.toNat ∧ v 9 = (Fmt.f32.add .rne (Fmt.f32.unpack x.toNat) (Fmt.f32.unpack y.toNat)).1)

/-- R207, R161: STORE_DRAIN takes the head of a group's store queue out and performs it, when every older load has performed; else nothing
happens. A part that would arrive under a RETIRING key ID is not performed, nor the rest: its lanes go back to the instruction and trap 0x0A
is pending. A plain store to scratchpads changes the bytes its lanes store, a later lane's over an earlier one's, and no other byte of any
scratchpad. R161, R189, R207, R212, R310: LOAD_COMPLETE does nothing for a load behind an older one or behind a store that it must see
applied, or to a line of a request answered REMAP. One with a part that would arrive under a RETIRING key ID (R58) is not performed: it
leaves, and trap 0x0A of its lanes is pending. Else, after the acquire of an acquiring load, the parts named are read in order, from global
memory and from any hitch member's scratchpad alike, and are done: each lane's destination takes the words read, in the load's tag, one
register for each word, and one register, zero- or sign-extended, below a word; `pin` and `pres.q` write 1 or 0. A byte that an older store
of the group still holds is read from it. R182, R183: bytes that a core stores at `.grp` or `.core` scope within a line cached in L1 are
what its next loads of them return; and where the store displaces no line of its L1, every other byte reads as before. -/
def Obligations.StoresAndLoadsPerform : Prop := (
    ∀ (core slot : Nat) (s : State) (t : Team) (g : Group), (s.fab.core core).team = some t → s.fab.group? core slot = some g →
      (g.storeQ = [] → exec (.storeDrain core slot) s = .next s) ∧
      (∀ o rest, g.storeQ = o :: rest → (∃ l ∈ g.loads, l.seq < o.seq ∧ l.kind.fromMemory = true ∧ l.finished = false) →
        exec (.storeDrain core slot) s = .next s) ∧
      (∀ o rest late, g.storeQ = o :: rest → s.fab.mayDrain core g = true → (o.pieces.map (fun p => (p.lane, p.loc))).filter (fun p => s.ctl.lateAt p.2) = late → late ≠ [] →
        (g.pendTrap ≠ none → exec (.storeDrain core slot) s = .next s) ∧
        (g.pendTrap = none → (∀ p ∈ o.pieces, ∃ x, g.lanes[p.lane]? = some x ∧ x.status = .live ∧ x.idle = false ∧ x.park = none) →
          ∃ u g' p, exec (.storeDrain core slot) s = .next u ∧ u.fab.mem = s.fab.mem ∧ u.fab.l2 = s.fab.l2 ∧ groupAt u core slot = some g' ∧ g'.storeQ = rest ∧ late.head? = some p ∧
            g'.pendTrap = some ⟨0x0A, 0, maskOf (late.map (·.1)), maskOf (o.pieces.map (·.lane)), BitVec.ofNat 64 p.2.va.toNat, 0, o.pc⟩ ∧
            ∀ l x, g.lanes[l]? = some x → ∃ x', g'.lanes[l]? = some x' ∧ x'.regs = x.regs ∧ x'.pc = (if l ∈ o.pieces.map (·.lane) then o.pc else x.pc))) ∧
      (∀ o rest rel, g.storeQ = o :: rest → o.kind = .store rel → (∀ l ∈ g.loads, l.seq < o.seq → l.kind.fromMemory = true → l.finished = true) →
        MemOk s.fab → (∀ p ∈ o.pieces, ∃ c a tm, p.loc = .scr c a ∧ teamAt s c = some tm) →
        ∃ u, exec (.storeDrain core slot) s = .next u ∧ (u.fab.group? core slot).map (·.storeQ) = some rest ∧
          ∀ c a, (teamAt s c).isSome = true → u.fab.scrRead c a 1 = o.pieces.foldl (fun b p => match p.loc with
            | .scr c' a' => if c' = c ∧ a' ≤ a ∧ a < a' + p.data.length then [p.data.getD (a - a') 0] else b
            | .glob .. => b) (s.fab.scrRead c a 1))) ∧ (
    ∀ (core slot k : Nat) (lanes : BitVec 64) (s : State) (tm : Team) (g : Group) (o : LoadOp), teamAt s core = some tm →
      groupAt s core slot = some g → g.loads[k]? = some o →
      (g.loadReady k = false ∨ (∃ p ∈ o.pieces, s.fab.locHeld core slot p.loc = true) → exec (.loadComplete core slot k lanes) s = .next s) ∧
      (g.loadReady k = true → (∀ p ∈ o.pieces, s.fab.locHeld core slot p.loc = false) → g.pendTrap = none → o.late s.ctl ≠ [] →
        (∀ p ∈ o.pieces, p.done = false ∧ p.dropped = false ∧ ∃ x, g.lanes[p.lane]? = some x ∧ x.status = .live ∧ x.idle = false ∧ x.park = none) →
        ∃ u g' p, exec (.loadComplete core slot k lanes) s = .next u ∧ u.fab.mem = s.fab.mem ∧ u.fab.l2 = s.fab.l2 ∧ groupAt u core slot = some g' ∧ (∀ x ∈ g'.loads, x.seq ≠ o.seq) ∧
          (o.late s.ctl).head? = some p ∧ g'.pendTrap = some ⟨0x0A, 0, maskOf ((o.late s.ctl).map (·.1)), maskOf (o.pieces.map (·.lane)), BitVec.ofNat 64 p.2.va.toNat, 0, o.pc⟩ ∧
          ∀ (l : Nat) (x : Lane), g.lanes[l]? = some x → ∃ x' : Lane, g'.lanes[l]? = some x' ∧ x'.regs = x.regs) ∧
      (g.loadReady k = true → (∀ p ∈ o.pieces, s.fab.locHeld core slot p.loc = false) → o.late s.ctl = [] → (o.pieces.map (·.lane)).Nodup →
        o.bytes ∈ [1, 2, 4, 8, 16, 32, 64] → (o.kind = .pin ∨ o.kind = .presq → o.bytes = 1 ∧ o.signed = false) → o.d.toNat + (o.bytes + 3) / 4 ≤ 1016 →
        let read (h : Fab) (p : LoadPiece) : List Byte × Fab := match o.kind with
          | .pin => let x := h.pinLine s.ctl core tm.ctx p.loc; ([if x.1 then 1 else 0], x.2)
          | .presq => ([match p.loc with | .scr c a => if h.present c a 1 then 1 else 0 | .glob .. => 0], h)
          | _ => h.loadBytes s.ctl core slot tm.ctx o.seq p.loc o.bytes
        let r := (o.pieces.filter (fun p => !p.done && inMask lanes p.lane)).foldl (fun (r : List (Nat × Nat) × Fab) p =>
          let x := read r.2 p
          (r.1 ++ [(p.lane, leNat x.1)], x.2)) ([], if o.kind = .mem true then s.fab.l1Acquire s.ctl core o.scope else s.fab)
        ∃ t, exec (.loadComplete core slot k lanes) s = .next t ∧
          (groupAt t core slot).map (·.loads) = some ((g.loads.modify k (fun o => { o with
            pieces := o.pieces.map (fun p => if inMask lanes p.lane then { p with done := true } else p) })).dropWhile (·.finished)) ∧
          ∀ v ∈ r.1, (∃ p ∈ o.pieces, p.lane = v.1 ∧ p.dropped = false) → (∃ x, g.lanes[v.1]? = some x ∧ x.status = .live) →
            (4 ≤ o.bytes → ∀ j, j < o.bytes / 4 → t.fab.reg core slot v.1 (o.d.toNat + j) = ⟨BitVec.ofNat 32 (v.2 / 2 ^ (32 * j)), o.tag⟩) ∧
            (o.bytes < 4 → t.fab.reg core slot v.1 o.d.toNat = ⟨if o.signed = true ∧ 2 ^ (8 * o.bytes - 1) ≤ v.2
              then BitVec.ofNat 32 (v.2 + 2 ^ 32 - 2 ^ (8 * o.bytes)) else BitVec.ofNat 32 v.2, o.tag⟩)) ∧
      (∀ (h : Fab) (y : Group) (seq n : Nat) (loc : Loc), h.group? core slot = some y → 0 < n →
        ((∀ j, j < n → y.queued seq (loc.plus j) = none) → h.loadBytes s.ctl core slot tm.ctx seq loc n = match loc with
          | .scr c a => (h.scrRead c a n, h)
          | .glob _ pa key home cache => if paKind pa.toNat = .mem then h.load s.ctl core tm.ctx key home cache pa.toNat n
            else let x := s.ctl.mmioRead h pa.toNat n; (x.1.getD (List.replicate n 0), x.2)) ∧
        (∀ c a j b, loc = .scr c a → j < n → y.queued seq (loc.plus j) = some b → (h.loadBytes s.ctl core slot tm.ctx seq loc n).1[j]? = some b))) ∧ (
    ∀ (ctl : Ctl) (f : Fab) (c ctx : Nat) (key : BitVec 12) (home : BitVec 4) (scope pa q : Nat) (bs : List Byte), MemOk f → scope < 2 →
      pa % 256 + bs.length ≤ 256 →
      let after := ((f.store ctl c ctx key home 0 scope pa bs).load ctl c ctx key home 0 q 1).1
      (pa ≤ q → q < pa + bs.length → after = [bs.getD (q - pa) 0]) ∧
      ((q < pa ∨ pa + bs.length ≤ q) → ((f.core c).l1.filter (fun l => l.line != pa / 256)).length < 1024 → after = (f.load ctl c ctx key home 0 q 1).1))

/-- R165, R166, R325, R330: barrier and presence instructions that name valid places: `bari` with 1 to 65,535 arrivals, `barv` and `barx` enter
the store queue once for the group (another count traps with 0x02); `barw` goes on where the phase differs from B[0] and parks every active
lane where not, behind the group's own updates of that barrier; `pres.q` enters the loads, `pres.set` and `pres.clr` the store queue,
`pres.clr` waiting while a pending count would pass 15; `pres.set` of a hitch scratchpad carries the scope `.clu` of its release. That a bad
count of `bari` traps for every active lane is the model's reading (log 20). -/
def Obligations.BarriersAndPresence : Prop :=  ∀ (f : XmForm) (s : State) (i : Iss) (tm : Team) (g : Group), i.active ≠ [] → (f.as = 1 ∨ f.as = 2) → teamAt s i.core = some tm → groupAt s i.core i.slot = some g →
    let low := i.lowest
    let b := (s.fab.reg i.core i.slot low f.b.toNat).val
    let at_ (l : Nat) : Loc := let a := addrOf s i f l
      if f.as = 1 then .scr i.core a else .scr (tm.mates.getD (a / 2 ^ 20 % 16) i.core) (a % 2 ^ 20)
    let good (l : Nat) : Prop := s.fab.scrValid i.core f.as.toNat (addrOf s i f l) = true
    let put (o : BitVec 8) (k : StoreKind) (ps : List Piece) : Fab := (moved s (.xm o f) i).modGroup i.core i.slot (fun g => { g with
      storeQ := g.storeQ ++ [⟨g.nextSeq, i.pc, if k = .presSet ∧ f.as = 2 then 2 else 1, k, ps⟩], nextSeq := g.nextSeq + 1 })
    (good low → addrOf s i f low % 16 = 0 →
      (Issues s (.xm 0x8B f) gateSt i → exec (.bariXm f) s = .next (if b = 0 ∨ 65536 ≤ b.toNat then trapped s i (.plain 0x02 0 i.active)
        else retired s i (put 0x8B (.bari (b.setWidth 16)) [⟨low, at_ low, [], []⟩]))) ∧
      (Issues s (.xm 0x8C f) gateSt i → exec (.barvXm f) s = .next (retired s i ((put 0x8C .barv [⟨low, at_ low, [], []⟩]).commit i i.active))) ∧
      (Issues s (.xm 0x8E f) gateSt i → exec (.barxXm f) s = .next (retired s i ((put 0x8E (.barx b) [⟨low, at_ low, [], []⟩]).commit i i.active))) ∧
      (Issues s (.xm 0x8D f) noGate i → ∀ c a, at_ low = .scr c a →
        ((∃ q ∈ g.storeQ, q.kind.onBar = true ∧ ∃ p ∈ q.pieces, p.loc = at_ low) → exec (.barwXm f) s = .next (waiting s i)) ∧
        ((∀ q ∈ g.storeQ, q.kind.onBar = true → ∀ p ∈ q.pieces, p.loc ≠ at_ low) →
          (s.fab.barPhase c a ≠ b.getLsbD 0 → c = i.core → ∃ t, exec (.barwXm f) s = .next t ∧ RegFrame s t i 0 0) ∧
          (s.fab.barPhase c a ≠ b.getLsbD 0 → c ≠ i.core →
            exec (.barwXm f) s = .next (retired s i ((moved s (.xm 0x8D f) i).l1Acquire s.ctl i.core 2))) ∧
          (s.fab.barPhase c a = b.getLsbD 0 → ∃ h, exec (.barwXm f) s = .next (retired s i h) ∧ FrameBut s { s with fab := h } i 0 0 (fun l x x' =>
            x'.pc = past i l x ∧ x'.prio = x.prio ∧ x'.park = (if l ∈ i.active then some (.barw c a (b.getLsbD 0)) else x.park) ∧
            (l ∈ i.active → x'.parkNext = past i l x)))))) ∧
    ((∀ l ∈ i.active, good l) → Issues s (.xm 0x92 f) (gatePres f) i →
      (f.sub = 0 → exec (.presXm f) s = .next (retired s i ((moved s (.xm 0x92 f) i).modGroup i.core i.slot (fun g => { g with
        loads := g.loads ++ [⟨g.nextSeq, i.pc, 1, .presq, f.d, 1, false, .n32, i.active.map (fun l => ⟨l, at_ l, false, false⟩)⟩], nextSeq := g.nextSeq + 1 })))) ∧
      (f.sub = 1 → exec (.presXm f) s = .next (retired s i (put 0x92 .presSet (i.active.map (fun l => ⟨l, at_ l, [], []⟩))))) ∧
      (2 ≤ f.sub.toNat → exec (.presXm f) s = .next (if s.fab.pendFull (i.active.map at_) then waiting s i
        else retired s i (put 0x92 .presClr (i.active.map (fun l => ⟨l, at_ l, [], []⟩))))))

/-- R166, Table 8.2: a barrier object keeps its fields in its bytes, and its reserved bits; an update after which arrivals and bytes equal what
is expected completes the phase: it flips, and the counts but XARRV clear. R164, R330: presence of a sector: clearing adds 1 to its pending
count and makes it absent; setting takes 1 from a count that is not zero and makes it present at zero, and has no effect at zero. -/
def Obligations.BarrierObjectAndSectors : Prop := (
    (∀ (b : Bar) (old : List Byte), Bar.ofBytes (b.bytes old) = b ∧ (b.bytes old).length = 16 ∧
      fieldAt (b.bytes old) 12 4 / 2 = fieldAt old 12 4 / 2) ∧
    (∀ b : Bar, b.settle = if b.arrv = b.xarrv ∧ b.abytes = b.xbytes
      then { xarrv := b.xarrv, arrv := 0, xbytes := 0, abytes := 0, phase := !b.phase } else b)) ∧ (
    ∀ (f : Fab) (c sec : Nat) (t : Team), (f.core c).team = some t →
      let before := Table.getD t.sectors sec ⟨true, 0⟩
      let after (g : Fab) : Option Sector := (g.core c).team.map (fun t => Table.getD t.sectors sec ⟨true, 0⟩)
      after (f.sectorClear c sec) = some ⟨false, before.pending + 1⟩ ∧
      (before.pending = 0 → f.sectorSet c sec = f.modTeam c (fun t => t)) ∧
      (before.pending = 1 → after (f.sectorSet c sec) = some ⟨true, 0⟩) ∧
      (1 < before.pending → after (f.sectorSet c sec) = some ⟨before.present, before.pending - 1⟩))

/-- R192, R193: a slice queue: an enqueue hands its entry to the oldest waiter that the slice holds; without one it changes nothing where the
ring is full, and with room stores the entry at TAIL and counts TAIL up; a dequeue takes the entry at HEAD and counts HEAD up, or finds the
queue empty; a bad descriptor has no effect. A `qdeq` lane holds an entry that it is handed until it reaches the core, as time passes, which
writes its block (a team-shared register takes the value of the lowest active lane alone, R140) and unparks it; a lane that ends before
returns it to stand at HEAD - 1 (R328). That the oldest waiter of the queue takes a returned entry at once, and that entries reach their
cores before the ring has no place for one to come back to, is the model's choice (log 54). R160, R207, R326-R329: `qenq` and `qdeq` whose
descriptor passes stages 1 to 5 enter the store queue with one part per active lane, `qenq` with the lane's block, and their active lanes
park; `qpoll` gives every active lane the number of entries. A descriptor address of 2^48 or more, or a page without R and W for `qpoll` as
for the others, traps with 0x0A; an address that is no multiple of 64 with 0x0B. That `qpoll` performs as it issues, and does not count in
ld, is the model's choice (log 54). R192, R207, R212, R326-R328: a queue request at the head of a group's store queue, when STORE_DRAIN
takes it out: a release before it leaves, where its order asks for one; where the descriptor or an entry that it would use is bad, nothing
is performed and its lanes take trap 0x0A at their instruction; else its lanes act in ascending order. An enqueue writes its lane 1 or,
where the queue was full, 0; a dequeue writes its lane the entry (its team-shared registers take the lowest lane's alone), or has it wait on
the queue; then follows the acquire that the order asks for, and each answered lane unparks with its deferral window open. That a request
which has left its queue traps or unparks at its own instruction is the model's choice (log 54). -/
def Obligations.SliceQueues : Prop := (
    ∀ (ctl : Ctl) (f f1 : Fab) (core : Option Nat) (ctx : Nat) (desc : Loc) (b : List Byte),
      (f.queueGet ctl core ctx desc = (none, f1) → f.enqueue ctl core ctx desc b = (.bad, f1) ∧ f.dequeue ctl core ctx desc = (.bad, f1)) ∧
      (∀ q, f.queueGet ctl core ctx desc = (some q, f1) →
        (∀ w ws, f1.waitersOf desc = w :: ws →
          let h := f1.queuePut ctl core ctx desc { q with head := q.head + 1, tail := q.tail + 1, waiters := q.waiters - 1 }
          f.enqueue ctl core ctx desc b = (.ok, (({ h with waiters := h.waiters.erase w } : Fab).handOff ctl w b).keepRoom ctl desc q)) ∧
        ((q.tail - q.head).toNat = 0 → f.dequeue ctl core ctx desc = (.empty q, f1)) ∧
        (∀ c, core = some c → ∀ loc f2, f1.entryLoc ctl ctx q (q.head - 1) = (some loc, f2) → let h := f2.sliceWrite ctl none ctx loc b
          (h.waitersOf desc = [] → f.giveBack ctl c ctx desc b = h.queuePut ctl core ctx desc { q with head := q.head - 1 }) ∧
          (∀ w ws, h.waitersOf desc = w :: ws → f.giveBack ctl c ctx desc b =
            ({ h.queuePut ctl core ctx desc { q with waiters := q.waiters - 1 } with waiters := h.waiters.erase w } : Fab).handOff ctl w b)) ∧
        (f1.waitersOf desc = [] → 2 ^ q.logcap ≤ (q.tail - q.head).toNat → f.enqueue ctl core ctx desc b = (.full, f1)) ∧
        (f1.waitersOf desc = [] → (q.tail - q.head).toNat < 2 ^ q.logcap → ∀ loc f2, f1.entryLoc ctl ctx q q.tail = (some loc, f2) →
          f.enqueue ctl core ctx desc b = (.ok, ((f2.sliceWrite ctl none ctx loc b).queuePut ctl core ctx desc { q with tail := q.tail + 1 }).keepRoom ctl desc { q with tail := q.tail + 1 })) ∧
        f.keepRoom ctl desc q = (if 2 ^ q.logcap < (q.tail - q.head).toNat + (f.holders desc).length then
          (f.holders desc).foldl (fun h x => h.landEntry ctl x.1 x.2.1 x.2.2) f else f) ∧
        ((q.tail - q.head).toNat ≠ 0 → ∀ loc f2 e f3, f1.entryLoc ctl ctx q q.head = (some loc, f2) →
          f2.sliceRead ctl none ctx loc (16 * 2 ^ q.esize) = (e, f3) →
          f.dequeue ctl core ctx desc = (.entry e, f3.queuePut ctl core ctx desc { q with head := q.head + 1 }))) ∧
      (∀ c s l t x d acq seq lower n, (f.core c).team = some t → f.lane? c s l = some x →
        (x.park = some (.qdeq desc d n acq seq lower) → ∀ w : Waiter, w.core = c → w.slot = s → w.lane = l → f.handOff ctl w b =
          f.modLane c s l (fun x => { x with park := some (.handed desc d acq seq lower (b.take (4 * n))) })) ∧
        (x.park = some (.handed desc d acq seq lower b) →
          let vals : List Reg := (List.range (b.length / 4)).map (fun k => ⟨BitVec.ofNat 32 (fieldAt b (4 * k) 4), .raw⟩)
          let h := ((f.writeRegs c s d.toNat [(l, if lower = 0 then vals else vals.take (1016 - d.toNat))]).modLane c s l (fun x => { x with park := none, pc := x.parkNext })).openWindow c s l
          f.landEntry ctl c s l = match acq with | none => h | some sc => h.l1Acquire ctl c sc))) ∧ (
    ∀ (f : XmForm) (s : State) (i : Iss), i.active ≠ [] →
      let va := i.addr s.fab 0 f.a.toNat (xmOff f) i.lowest
      let size := f.aux.toNat % 4
      let enter (fab : Fab) (k : StoreKind) (desc : Loc) (data : Nat → List Byte) : Fab :=
        i.active.foldl (fun h l => h.modLane i.core i.slot l (fun x => { x with park := some .queue, parkNext := x.pc }))
          (fab.modGroup i.core i.slot (fun g => { g with
            storeQ := g.storeQ ++ [⟨g.nextSeq, i.pc, f.scope.toNat, k, i.active.map (fun l => ⟨l, desc, data l, []⟩)⟩], nextSeq := g.nextSeq + 1 }))
      (∀ (j : Instr) (o : BitVec 8) (gate : Iss → Fab → Bool), ((o = 0x8F ∧ j = .qenqXm f ∧ gate = gateSt) ∨ (o = 0x90 ∧ j = .qdeqXm f ∧ gate = gateSt) ∨
          (o = 0x91 ∧ j = .qpollXm f ∧ gate = gateQpoll)) → Issues s (.xm o f) gate i →
        (2 ^ 48 ≤ va → exec j s = .next (trapped s i (.addr 0x0A i.active va))) ∧
        (va < 2 ^ 48 → va % 64 ≠ 0 → exec j s = .next (trapped s i (.addr 0x0B i.active va)))) ∧
      (∀ desc fab, Issues s (.xm 0x8F f) gateSt i → i.descAt s.ctl (moved s (.xm 0x8F f) i) va .atomic = .at_ desc fab →
        exec (.qenqXm f) s = .next (retired s i (enter fab (.qenq size f.sub.toNat f.d) desc
          (fun l => leBytes (16 * 2 ^ size) (regsNat (s.fab.source i f.b.toNat ((16 * 2 ^ size + 3) / 4) 0 l)))))) ∧
      (∀ desc fab, Issues s (.xm 0x90 f) gateSt i → i.descAt s.ctl (moved s (.xm 0x90 f) i) va .atomic = .at_ desc fab →
        exec (.qdeqXm f) s = .next (retired s i (enter fab (.qdeq size f.sub.toNat f.d) desc (fun _ => [])))) ∧
      (∀ loc pte f1, Issues s (.xm 0x91 f) gateQpoll i → va < 2 ^ 48 → va % 64 = 0 →
        (moved s (.xm 0x91 f) i).translate s.ctl (some i.core) i.ctx va .load = (.ok loc pte, f1) → ptePermits pte .atomic = false →
        exec (.qpollXm f) s = .next (trapped s i (.addr 0x0A i.active va))) ∧
      (∀ loc pte f1 q f2, Issues s (.xm 0x91 f) gateQpoll i → va < 2 ^ 48 → va % 64 = 0 →
        (moved s (.xm 0x91 f) i).translate s.ctl (some i.core) i.ctx va .load = (.ok loc pte, f1) → paKind loc.phys.1 = .mem → ptePermits pte .atomic = true →
        f1.queueGet s.ctl (some i.core) i.ctx loc = (some q, f2) →
        exec (.qpollXm f) s = .next (retired s i (i.put (if f.sub = 1 then f2.l1Acquire s.ctl i.core f.scope.toNat else f2) f.d.toNat
          (i.active.map (fun l => (l, [⟨q.tail - q.head, .n32⟩]))))))) ∧ (
    ∀ (core slot : Nat) (s : State) (t : Team) (g : Group) (o : StoreOp) (rest : List StoreOp) (p : Piece) (ps : List Piece) (size order : Nat) (d : RegNo) (enq : Bool),
      (s.fab.core core).team = some t → s.fab.group? core slot = some g → g.storeQ = o :: rest → o.pieces = p :: ps → s.fab.mayDrain core g = true → o.late s.ctl = [] →
      o.kind = (if enq then .qenq size order d else .qdeq size order d) →
      let left := s.fab.modGroup core slot (fun g => { g with storeQ := rest })
      let left := if 2 ≤ order then left.l1Release s.ctl core o.scope else left
      let acq := order = 1 ∨ order = 3
      (∀ h, left.queueCheck s.ctl (some core) t.ctx p.loc size enq o.pieces.length = (false, h) →
        ∃ h' : Fab, exec (.storeDrain core slot) s = .next { s with fab := h'.reportEnd core } ∧
          ∀ k, h.group? core slot = some k → ∃ k', h'.group? core slot = some k' ∧
            k'.pendTrap = some ⟨0x0A, 0, maskOf (o.pieces.map (·.lane)), maskOf (o.pieces.map (·.lane)), BitVec.ofNat 64 p.loc.va.toNat, 0, o.pc⟩ ∧
            ∀ l x, k.lanes[l]? = some x → k'.lanes[l]? = some (if l ∈ o.pieces.map (·.lane) then { x with park := none, pc := o.pc } else x)) ∧
      (∀ h, left.queueCheck s.ctl (some core) t.ctx p.loc size enq o.pieces.length = (true, h) →
        let below (x : Nat) : BitVec 64 := maskOf ((o.pieces.map (·.lane)).filter (· < x))
        let entry (x : Nat) (b : List Byte) : List Reg :=
          let vals : List Reg := (List.range ((b.take (16 * 2 ^ size)).length / 4)).map (fun k => ⟨BitVec.ofNat 32 (fieldAt (b.take (16 * 2 ^ size)) (4 * k) 4), .raw⟩)
          if below x = 0 then vals else vals.take (1016 - d.toNat)
        let wait (x : Nat) (y : Lane) : Lane := { y with park := some (.qdeq p.loc d (4 * 2 ^ size) (if acq then some o.scope else none) o.seq (below x)) }
        let one (r : List (Nat × List Reg) × Fab) (q : Piece) : List (Nat × List Reg) × Fab :=
          if enq then
            let a := r.2.enqueue s.ctl (some core) t.ctx p.loc q.data
            (r.1 ++ [(q.lane, [⟨if a.1 = .ok then 1 else 0, .n32⟩])], a.2)
          else match r.2.dequeue s.ctl (some core) t.ctx p.loc with
            | (.entry b, h) => (r.1 ++ [(q.lane, entry q.lane b)], h)
            | (.empty x, h) => (r.1, (h.modLane core slot q.lane (wait q.lane)).waiterAdd s.ctl t.ctx p.loc x core slot q.lane)
            | (.bad, h) => (r.1, h)
        let r := o.pieces.foldl one ([], h)
        let h := r.2.writeRegs core slot d.toNat r.1
        let h := if acq ∧ r.1 ≠ [] then h.l1Acquire s.ctl core o.scope else h
        exec (.storeDrain core slot) s = .next { s with fab :=
          (r.1.foldl (fun h v => (h.modLane core slot v.1 (fun x => x.unpark)).openWindow core slot v.1) h).reportEnd core }))

/-! ## Copies, tiles, routines and remote instructions (chapters 8, 11, 15 and 16) -/

/-- R162-R164, R214, R320: `cpl` traps as its stages of checks say; it waits while a pending count would pass 15; else one copy enters with each
active lane's source address and space, destination and barrier, and the sectors it writes become absent. R162-R164, R319, R321: `cpt` whose
tiles are read and fit checks its destination and barrier last (0x0C, 0x0B), waits while a pending count would pass 15, and else enters as
one copy for its receivers: the hitch members of MMASK, or the one place its addresses name. -/
def Obligations.CopiesEnter : Prop := (
    ∀ (f : XmForm) (s : State) (i : Iss) (g : Group), Issues s (.xm 0x89 f) gateCopy i → i.active ≠ [] → groupAt s i.core i.slot = some g →
      let n := 2 ^ f.size.toNat
      let das := if f.aux.getLsbD 0 then 2 else 1
      let dst (l : Nat) : Nat := (s.fab.reg i.core i.slot l f.b.toNat).val.toNat
      let bar (l : Nat) : Nat := (s.fab.reg i.core i.slot l f.d.toNat).val.toNat
      let ws : List Want := i.active.flatMap (fun l => [⟨l, f.as.toNat, addrOf s i f l, n⟩, ⟨l, das, dst l, n⟩] ++
        (if f.aux.getLsbD 1 then [⟨l, 1, bar l, 16⟩] else []))
      let lands (l : Nat) : Nat × Nat := match s.fab.scrLoc i.core das (dst l) with | .scr c a => (c, a) | .glob .. => (0, 0)
      let parts := i.active.map (fun l => (⟨l, f.as.toNat, addrOf s i f l, (lands l).1, (lands l).2, if f.aux.getLsbD 1 then some (bar l) else none, false⟩ : CplPart))
      let ps := parts.foldl (fun ps p => addPart ps p.core (p.dst / 64) p.bar n) []
      (∀ t, s.fab.stages123 i.core ws = some t → exec (.cplXm f) s = .next (trapped s i t)) ∧
      (s.fab.stages123 i.core ws = none → s.fab.partsFit ps = false → exec (.cplXm f) s = .next (waiting s i)) ∧
      (s.fab.stages123 i.core ws = none → s.fab.partsFit ps = true → ∃ h, exec (.cplXm f) s = .next (retired s i h) ∧
        CopyTakes s h i g (.cpl n parts) [] (fun c k => ∃ l ∈ i.active, (lands l).1 = c ∧ (lands l).2 / 64 = k))) ∧ (
    ∀ (f : XtForm) (us : List (List Nat)) (regs : List RegNo) (ok : List Tile → Bool) (s : State) (i : Iss) (g : Group) (tm : Team) (gr : Grid) (u : List Nat) (x y : Tile),
      tileUse s i (.cptXt f) = some (f, gateCopy, us, regs, ok) → Issues s (.xt 0x8A f) gateCopy i → i.active ≠ [] → groupAt s i.core i.slot = some g →
      teamAt s i.core = some tm → s.fab.grid? tm.grid = some gr → TilesRead s i us regs ok [(u, [x, y])] →
      let bar := if f.flags.getLsbD 0 then some (s.fab.reg i.core i.slot i.lowest f.d.toNat).val.toNat else none
      let receivers := if f.flags.getLsbD 1 then
        (List.range gr.hitch).filterMap (fun j => if f.aux.getLsbD j then some (tm.mates.getD j i.core) else none) else []
      let ps := y.runs.foldl (fun ps p => (s.fab.landing y receivers p.1).foldl (fun ps q => (runSectors q.2 p.2).foldl (fun ps r => addPart ps q.1 r.1 bar r.2) ps) ps) []
      (∀ t, s.fab.cptAddr i y bar = some t → exec (.cptXt f) s = .next (trapped s i t)) ∧
      (s.fab.cptAddr i y bar = none → s.fab.partsFit ps = false → exec (.cptXt f) s = .next (waiting s i)) ∧
      (s.fab.cptAddr i y bar = none → s.fab.partsFit ps = true → ∃ h, exec (.cptXt f) s = .next (retired s i h) ∧
        CopyTakes s h i g (.cpt x y (f.sub.toNat % 4) (f.flags.toNat / 4 % 4) (if f.flags.toNat / 4 % 4 = 0 then none else s.fab.routine i.ctx f.h)) receivers
          (fun c k => ∃ p ∈ y.runs, ∃ q ∈ s.fab.landing y receivers p.1, q.1 = c ∧ ∃ r ∈ runSectors q.2 p.2, r.1 = k)))

/-- R319, R331, R332: a tile instruction whose descriptor addresses fail traps, or waits for absent sectors, as a load does; a unit whose
descriptors are malformed, or fail the instruction's own conditions, traps with 0x02 for its lanes; nothing has then been issued. R160,
R171, R174, R214, R333-R336, R342, R343: a matrix or higher-order instruction whose descriptors are read and satisfy its conditions enters
the engine's queue with its tiles: `bld` (which also sets the slot's issue view), `mma` and `mbin` (once the A tiles are present), `mret`,
`mclr`, `fold`, `scan`, `zip`, `outr` and `zip.merge`; overflow words and the merge control block that lie out of range or misaligned trap
last. A zip into knot tiles in global memory, which may keep elements as they stand there, makes the L1's release first. -/
def Obligations.MatrixOperationsEnter : Prop := (
    ∀ (j : Instr) (e : Enc) (f : XtForm) (gate : Iss → Fab → Bool) (us : List (List Nat)) (regs : List RegNo) (ok : List Tile → Bool) (s : State) (i : Iss) (tm : Team) (gr : Grid),
      j.enc? = some e → tileUse s i j = some (f, gate, us, regs, ok) → Issues s e gate i → i.active ≠ [] → teamAt s i.core = some tm →
      s.fab.grid? tm.grid = some gr →
      (∀ t, s.fab.descs i (descAddrs s i us regs) = .stop (.trap t) → exec j s = .next (trapped s i t)) ∧
      (∀ h, s.fab.descs i (descAddrs s i us regs) = .stop (.wait h) → exec j s = .next (waiting { s with fab := h s.fab } i)) ∧
      (∀ ds, s.fab.descs i (descAddrs s i us regs) = .ok ds →
        let bad := ds.filter (fun u => !(match u.2.mapM (Tile.parse i.core) with | some ts => ok ts | none => false))
        bad ≠ [] → bad.flatMap (·.1) ≠ [] → exec j s = .next (trapped s i (.plain 0x02 0 (bad.flatMap (·.1)))))) ∧ (
    ∀ (j : Instr) (e : Enc) (f : XtForm) (us : List (List Nat)) (regs : List RegNo) (ok : List Tile → Bool) (s : State) (i : Iss) (g : Group) (ts : List (List Nat × List Tile)),
      j.enc? = some e → tileUse s i j = some (f, gateMx, us, regs, ok) → Issues s e gateMx i → i.active ≠ [] → groupAt s i.core i.slot = some g →
      TilesRead s i us regs ok ts →
      let enters (routine : Option Routine) (op : EngOp) : Prop := ∃ h, exec j s = .next (retired s i h) ∧ EngineTakes s h i g routine op
      let quarter (u : List Nat × List Tile) : Nat := u.1.headD 0 / 8
      let r := s.fab.routine i.ctx f.h
      (j = .bldXt f → ∀ u t, ts = [(u, [t])] → ∃ h, exec j s = .next (retired s i h) ∧ EngineTakes s h i g none (.bld f.h.toNat t) ∧
        ∀ tm tm', teamAt s i.core = some tm → (h.core i.core).team = some tm' →
          tm'.views = tm.views.set f.h.toNat ⟨true, t.nsp, t.fmt, t.cols, t.rows⟩) ∧
      (∀ b, (j = .mmaXt f ∧ b = none) ∨ (j = .mbinXt f ∧ b = some (f.sub == 1)) →
        let words := stageTrap (ts.flatMap (fun u => match u.2 with | [_, c] => if c.fmt = 6 then s.fab.wordFails u.1 c else [] | _ => []))
        (∀ t, words = some t → exec j s = .next (trapped s i t)) ∧
        (words = none → (∃ u ∈ ts, u.1 ≠ [] ∧ ∃ a c, u.2 = [a, c] ∧ s.fab.tilePresent a = false) → exec j s = .next (waiting s i)) ∧
        (words = none → (∀ u ∈ ts, ∀ a c, u.2 = [a, c] → s.fab.tilePresent a = true) → enters none (.mma f.h.toNat b
          (ts.filterMap (fun u => match u.2 with | [a, c] => some (quarter u, a, c) | _ => none))))) ∧
      (j = .mretXt f →
        let words := stageTrap (if f.flags.getLsbD 2 then ts.flatMap (fun u => (u.2.head?.toList ++ u.2.getLast?.toList).flatMap (s.fab.wordFails u.1)) else [])
        (∀ t, words = some t → exec j s = .next (trapped s i t)) ∧
        let q := ts.filterMap (fun u => match u.2 with
          | [a, d] => some (quarter u, a, d, none)
          | [a, b, d] => some (quarter u, a, d, some b)
          | _ => none)
        let op : EngOp := .mret q (f.sub.toNat % 4) (f.flags.getLsbD 2)
        let reads := f.flags.getLsbD 0 = true ∧ ∃ u ∈ q, u.2.2.1.as = 0 ∧ u.2.2.1.fmt ∈ [7, 8, 9]
        (words = none → ¬reads → enters (if f.flags.getLsbD 0 then r else none) op) ∧
        (words = none → reads → exec j s = .next (retired s i (i.pushMx ((moved s e i).l1Release s.ctl i.core 3) r op)))) ∧
      (j = .mclrXt f →
        let words := stageTrap (ts.flatMap (fun u => u.2.flatMap (fun t => if t.fmt = 6 then s.fab.wordFails u.1 t else [])))
        (∀ t, words = some t → exec j s = .next (trapped s i t)) ∧
        (words = none → enters none (.mclr (ts.filterMap (fun u => u.2.head?.map (fun t => (quarter u, t))))))) ∧
      (∀ u a d, ts = [(u, [a, d])] → (j = .foldXt f → enters r (.fold (f.sub == 1) d a)) ∧ (j = .scanXt f → enters r (.scan (f.sub == 1) d a))) ∧
      (∀ u a b d, ts = [(u, [a, b, d])] → (j = .zipXt f → enters r (.zip d a b)) ∧ (j = .outrXt f → enters r (.outr d a b)) ∧
        (j = .zipMergeXt f →
          let c := (s.fab.reg i.core i.slot i.lowest f.c.toNat).val.toNat
          let valid := s.fab.scrValid i.core 1 c
          (valid = false → exec j s = .next (trapped s i (.addr 0x0C i.active c))) ∧
          (valid = true → c % 16 ≠ 0 → exec j s = .next (trapped s i (.addr 0x0B i.active c))) ∧
          (valid = true → c % 16 = 0 → enters r (.merge d a b c (f.flags.getLsbD 0) (f.flags.getLsbD 1) (f.flags.getLsbD 2))))))

/-- R234, R238-R240: one block update of an i32 accumulator: for i8 and u8 elements the sum of the accumulator and every product, wrapped to 32
bits, with the overflow condition when the exact sum is out of range; for bits the number of ones of XOR, or of AND, is added. In every
format an absent element of the slot enters as a stored zero does. R237: one block update of an f32 accumulator by a knot block: a block of
either side whose exponent is 0xFF gives the canonical NaN; else the exact sum P of the products of the elements' signed integers, where it
is zero, changes nothing, and otherwise is scaled by the exponents, rounded once to f32 and added to the accumulator with a second rounding.
Formats 7, 8 and 9 are K2, K4 and K7, in any mix. R238: one block update of a float accumulator by a block of exact products, in f64 to f64
and in f32, h16 and b16 to f32: with a product that is NaN or 0 x infinity, or with both infinities, it becomes the canonical NaN; with
infinite products of one sign, that infinity is added; with zero products alone it stands; else each product is cut towards -infinity to the
window of 160, 80, 48 or 48 bits under the greatest product's leading bit, the exact sum of what is left, with half a unit where anything
was cut, is rounded once to the accumulator's format, and is added to the accumulator with a second rounding. An absent element of the slot
is a zero. R271, R226, R227: the rounding of an exact value to the nearest multiple of 2^k goes to the nearest, and of two equally near to
the even one; a value that is a multiple is not changed and not reported inexact. -/
def Obligations.BlockUpdatesAndRounding : Prop := (
    ∀ (af bf eb : Nat) (acc : Word) (xs : List Elt) (ys : List (Option Elt)),
      let byte (fmt : Nat) (x : Elt) : Int := if fmt = 4 then (BitVec.ofNat 8 x.raw).toInt else ((x.raw % 256 : Nat) : Int)
      ((af = 4 ∨ af = 5) → (bf = 4 ∨ bf = 5) →
        let sum : Int := acc.toInt + ((xs.zip ys).map (fun p => match p.2 with | some y => byte af p.1 * byte bf y | none => 0)).sum
        blockUpdate none af bf eb acc.toNat xs ys = ((BitVec.ofInt 32 sum).toNat, decide (sum < -2147483648 ∨ 2147483647 < sum))) ∧
      (∀ and_ : Bool, blockUpdate (some and_) af bf eb acc.toNat xs ys =
        ((acc.toNat + ((xs.zip ys).map (fun p => let y := match p.2 with | some y => y.raw | none => 0
          if and_ then p.1.raw &&& y else p.1.raw ^^^ y)).sum) % 2 ^ 32, false)) ∧
      (∀ binary, blockUpdate binary af bf eb acc.toNat xs ys = blockUpdate binary af bf eb acc.toNat xs (ys.map (fun y => some (y.getD ⟨0, 0, 0⟩))))) ∧ (
    ∀ (af bf eb ea : Nat) (acc : Word) (xs : List Elt) (ys : List (Option Elt)), af ∈ [7, 8, 9] → bf ∈ [7, 8, 9] → xs ≠ [] → (∀ x ∈ xs, x.e = ea) →
      let w (fmt : Nat) : Nat := if fmt = 7 then 3 else if fmt = 8 then 5 else 8
      let int (fmt : Nat) (x : Elt) : Int :=
        (if x.raw / 2 ^ (w fmt - 1) % 2 = 1 then -1 else 1) * ((x.raw % 2 ^ (w fmt - 1) : Nat) : Int) * (if x.mu = 0 then 2 else 1)
      let P : Int := ((xs.zip ys).map (fun p => match p.2 with | some y => int af p.1 * int bf y | none => 0)).sum
      let r := blockUpdate none af bf eb acc.toNat xs ys
      (∀ x ∈ xs, x.mu ≤ 1) → (∀ y, some y ∈ ys → y.mu ≤ 1) →
      (ea = 255 ∨ eb = 255 → r = (Fmt.f32.nanBits, false)) ∧
      (ea ≠ 255 → eb ≠ 255 → P = 0 → r = (acc.toNat, false)) ∧
      (ea ≠ 255 → eb ≠ 255 → P ≠ 0 → ∃ x t, Rounded .f32 .rne (decide (P < 0))
          ((P : ℝ) * (2 : ℝ) ^ ((ea : ℤ) + eb - 254 - ((w af : ℤ) - 2) - ((w bf : ℤ) - 2) - 2)) x ∧
        IsSum .f32 (Fmt.f32.unpack acc.toNat) (Fmt.f32.unpack x.1) t ∧ r = (t.1, false))) ∧ (
    ∀ (fmt eb acc : Nat) (xs : List Elt) (ys : List (Option Elt)), fmt < 4 →
      let fm : Fmt := if fmt = 0 then .f64 else .f32
      let g : Fmt := [Fmt.f64, .f32, .h16, .b16].getD fmt .f32
      let L : ℤ := [160, 80, 48, 48].getD fmt 48
      let pairs : List (FVal × FVal) := (xs.zip ys).map (fun p => (g.unpack p.1.raw, match p.2 with | some y => g.unpack y.raw | none => .num false 0 0))
      let bad := ∃ p ∈ pairs, p.1.isNan = true ∨ p.2.isNan = true ∨ BadProduct p.1 p.2
      let r := blockUpdate none fmt fmt eb acc xs ys
      (bad → r = (fm.nanBits, false)) ∧
      (¬bad → ∀ ps : List FVal, List.Forall₂ (fun (p : FVal × FVal) v => ExactProduct p.1 p.2 v) pairs ps →
        (.inf true ∈ ps → .inf false ∈ ps → r = (fm.nanBits, false)) ∧
        (∀ s, .inf s ∈ ps → .inf (!s) ∉ ps → ∃ t, IsSum fm (fm.unpack acc) (.inf s) t ∧ r = (t.1, false)) ∧
        ((∀ p ∈ ps, IsZero p) → r = (acc, false)) ∧
        (∀ zs : List ℝ, List.Forall₂ IsReal ps zs → ∀ e : ℤ, (∃ z ∈ zs, (2 : ℝ) ^ e ≤ |z|) → (∀ z ∈ zs, |z| < (2 : ℝ) ^ (e + 1)) →
          let u : ℝ := 2 ^ (e - L + 1)
          let S : ℝ := (zs.map (fun z => (⌊z / u⌋ : ℝ) * u)).sum
          ∀ sticky : ℝ, ((∃ z ∈ zs, z ≠ (⌊z / u⌋ : ℝ) * u) → sticky = 1) → ((∀ z ∈ zs, z = (⌊z / u⌋ : ℝ) * u) → sticky = 0) →
            ∃ neg x t, (S + sticky * u / 2 = 0 → neg = false) ∧ Rounded fm .rne neg (S + sticky * u / 2) x ∧
              IsSum fm (fm.unpack acc) (fm.unpack x.1) t ∧ r = (t.1, false)))) ∧ (
    ∀ (neg : Bool) (m k : Nat), 0 < k →
      let r := roundShift .rne neg m k
      2 * (r.1 * 2 ^ k - m) ≤ 2 ^ k ∧ 2 * (m - r.1 * 2 ^ k) ≤ 2 ^ k ∧
      ((2 * (r.1 * 2 ^ k - m) = 2 ^ k ∨ 2 * (m - r.1 * 2 ^ k) = 2 ^ k) → r.1 % 2 = 0) ∧ (r.2 = false ↔ m % 2 ^ k = 0))

/-- R338-R340: `rdef` reads the image at the address of A, traps with 0x0A for bits [63:48] and 0x0B for a misaligned address, and with 0x02 for
a bad header or body, a handle above 255 or one in use; else the routine is the context's under that handle. `rdel` removes it. That 0x02
names every active lane is the model's reading (log 20). A body with words that do not decode is left out here. R338, R339, R341: a routine
gets its inputs from `v0` on in the header's input tag, its other registers a raw zero. A source tag of another family faults with 0x04;
else each instruction does what it does in one lane, and the lowest enabled cause 0x05-0x08 it raises faults; `rdrop` drops where its
predicate passes, and `rend` gives its register or pair, or faults with 0x04. A body that satisfies R339 ends with no other fault. The
example of R338 adds two f32 values. R174, R175, R341, R342: what `fold`, `scan`, `zip` and `outr` write: element by element, f(A, B),
f(A[0][r], B[0][c]), the fold of a row or of all elements, left to right or by the fixed pairwise tree where the header declares ASSOC, or
the value accumulated along the row from A[r][0] or the identity. A dropped combination keeps its left operand, a dropped element what the
destination held; the first fault in application order is the operation's, and formats that do not map fault with 0x04 before the first
element. R235, R343: what `zip.merge` writes: of two streams whose keys ascend, in ascending order, each pair whose key stands in one alone
and, for a key in both, the routine's value, unless dropped or, with DZ, a zero; then COUNT. Lengths or a capacity out of range fault with
0x02 and nothing written, a key that does not ascend faults with 0x02 and its index, a routine's fault names both indexes, and then COUNT is
not written. -/
def Obligations.RoutineStore : Prop := (
    (∀ (f : XrForm) (s : State) (i : Iss), Issues s (.xr 0xC0 f) gateMem i → i.active ≠ [] →
      let va := i.srcA s.fab f 2 i.lowest
      let h := i.srcB s.fab f 1 i.lowest
      (2 ^ 48 ≤ va → exec (.rdefXr f) s = .next (trapped s i (.addr 0x0A i.active va))) ∧
      (va < 2 ^ 48 → va % 16 ≠ 0 → exec (.rdefXr f) s = .next (trapped s i (.addr 0x0B i.active va))) ∧
      (va < 2 ^ 48 → va % 16 = 0 → ∀ b f1, (moved s (.xr 0xC0 f) i).coreRead s.ctl i.core i.ctx va 16 .load = (.ok b, f1) →
        (routineHeader b = none → exec (.rdefXr f) s = .next (trapped s i (.plain 0x02 0 i.active))) ∧
        (∀ len r ws k f2 body c x, routineHeader b = some (len, r) → f1.readBody s.ctl i.core i.ctx len (va + 16) = (.ok x, ws, k, f2) →
          ws.mapM (fun w => (decode w).toOption) = some body → f2.ctx? i.ctx = some c →
          let taken := 256 ≤ h ∨ (∃ q ∈ c.routines, q.handle.toNat = h) ∨ bodyOk r.out body = false
          (taken → exec (.rdefXr f) s = .next (trapped s i (.plain 0x02 0 i.active))) ∧
          (¬taken → exec (.rdefXr f) s = .next (retired s i (f2.modCtx i.ctx (fun c => { c with
            routines := c.routines ++ [{ r with handle := BitVec.ofNat 8 h, body := body }] }))))))) ∧
    (∀ (f : XrForm) (s : State) (i : Iss), Issues s (.xr 0xC1 f) noGate i → i.active ≠ [] →
      let h := i.srcB s.fab f 1 i.lowest
      (256 ≤ h → exec (.rdelXr f) s = .next (trapped s i (.plain 0x02 0 i.active))) ∧
      (h < 256 → ∃ g, exec (.rdelXr f) s = .next (retired s i g) ∧ g.mem = s.fab.mem ∧ ∀ c, s.fab.ctx? i.ctx = some c →
        ∃ c', g.ctx? i.ctx = some c' ∧ ∀ q, q ∈ c'.routines ↔ q ∈ c.routines ∧ q.handle.toNat ≠ h))) ∧ (
    (∀ (r : Routine) (gcw : Word) (x y : Nat), ∃ rs : List Reg, rs.length = 16 ∧ r.apply gcw x y = routineRun gcw r.out 0 r.body rs ∧
      let n := if 6 ≤ r.inp ∧ r.inp ≤ 8 then 2 else 1
      let put (v k : Nat) : Reg := ⟨BitVec.ofNat 32 (v / 2 ^ (32 * k)), Tag.ofCode r.inp⟩
      ∀ k, k < 16 → rs[k]? = some (if k < n then put x k else if k < 2 * n then put y (k - n) else ⟨0, .raw⟩)) ∧
    (∀ (gcw : Word) (out k : Nat) (i : Instr) (e : Enc) (o : BitVec 8) (f : XrForm) (rest : List Instr) (rs : List Reg),
      i.enc? = some e → asXr e = some (o, f) → rs.length = 16 →
      let run := routineRun gcw out k (i :: rest) rs
      let regs (r n : Nat) : List Reg := (rs.drop r).take n
      let accepts (m : Fam) (v : List Reg) : Bool := v.all (fun x => famAccepts m x.tag)
      (o = 0xC8 →
        let n := if 6 ≤ out ∧ out ≤ 8 then 2 else 1
        let fam : Fam := [Fam.any, .int32, .int32, .f32, .h16x2, .b16x2, .f64, .int64, .int64, .int32].getD out .int32
        let v := regs f.a.toNat n
        f.a.toNat + n ≤ 16 → (accepts fam v = true → run = .value (regsNat v)) ∧ (accepts fam v = false → run = .fault 4 k)) ∧
      (o = 0xC9 → ∀ x, rs[f.pred.p.toNat]? = some x →
        let passes := f.pred.pe = false ∨ (x.val ≠ 0 ↔ f.pred.pn = false)
        (passes → run = .dropped) ∧ (¬passes → run = routineRun gcw out (k + 1) rest rs)) ∧
      (∀ op u, laneOp o.toNat = some op → xrUse o.toNat f = some u → (∀ q ∈ (xrNames 32 o.toNat f).regs, q.2.1 + q.2.2 ≤ 16) →
        let srcs := (xrNames 32 o.toNat f).srcs
        let n (x : Option Use) : Nat := match x with | some u => u.regs | none => 0
        let b := match f.lit with | some v => natRegs .raw (n u.b) v.toNat | none => regs f.b.toNat (n u.b)
        let res := op f (regs f.a.toNat (n u.a)) b (regs f.c.toNat (n u.c)) (if u.dSrc then regs f.d.toNat 1 else [])
        let raised (c : Nat) : Prop := gcwEnables gcw c = true ∧ res.2.has c = true
        ((∃ s ∈ srcs, accepts s.fam (regs s.reg s.regs) = false) → run = .fault 4 k) ∧
        ((∀ s ∈ srcs, accepts s.fam (regs s.reg s.regs) = true) →
          (∀ c, c ∈ [5, 6, 7, 8] → raised c → (∀ d, d ∈ [5, 6, 7, 8] → d < c → ¬raised d) → run = .fault c k) ∧
          ((∀ c, c ∈ [5, 6, 7, 8] → ¬raised c) → ∃ rs' : List Reg, rs'.length = 16 ∧ run = routineRun gcw out (k + 1) rest rs' ∧
            ∀ m, m < 16 → rs'[m]? = if f.d.toNat ≤ m ∧ m < f.d.toNat + res.1.length then res.1[m - f.d.toNat]? else rs[m]?)))) ∧
    (∀ (r : Routine) (gcw : Word) (x y c k : Nat), bodyOk r.out r.body = true → r.apply gcw x y = .fault c k →
      k < r.body.length ∧ (c = 4 ∨ (c ∈ [5, 6, 7, 8] ∧ gcwEnables gcw c = true))) ∧
    (∀ (i j : Instr) (r : Routine) (x y : Nat), decode [0x01000900#32] = .ok i → decode [0x00200321#32, 0#32, 0#32] = .ok j → r.inp = 3 → r.out = 3 →
      r.body = [i, j] → x < 2 ^ 32 → y < 2 ^ 32 → ∃ q, IsSum .f32 (Fmt.f32.unpack x) (Fmt.f32.unpack y) q ∧ r.apply 0 x y = .value q.1)) ∧ (
    ∀ (ctl : Ctl) (ctx : Nat) (gcw : Word) (r : Routine) (d a b : Tile) (f : Fab),
      let h := r.apply gcw
      let enters (t : Tile) : Bool := [(0, [6]), (1, [3]), (2, [4]), (3, [5]), (6, [1, 2, 9]), (11, [3])].any (fun p => p.1 == t.fmt && p.2.contains r.inp)
      let leaves : Bool := [(0, [6]), (1, [3]), (2, [4]), (3, [5]), (6, [1, 2, 9]), (11, [3])].any (fun p => p.1 == d.fmt && p.2.contains r.out)
      let put (rc : Nat × Nat) (x : Retired) (g : Fab) : Eng Unit := match x with | .value _ v => g.outPut ctl ctx d rc v | _ => .ok () g
      let lays (l : List Retired) (g : Fab) (w : Eng Unit) : Prop := Lays put d.coords l g (fun g => .ok () g) w
      let became (x y : Nat) (p : Nat × Nat) (z : Retired) : Prop :=
        (∀ v, h x y = .value v → z = .value 0 v) ∧ (h x y = .dropped → z = .dropped) ∧ ∀ e, FaultsAt h x y p e → z = .fault e
      let folded (y : Folded) : Retired := match y with | .value v => .value 0 v | .fault e => .fault e
      let mapFault (w : Eng Unit) : Prop := ∃ e, w = .fault e f ∧ e.cause = 4 ∧ e.elem = none
      ((enters a = false ∨ leaves = false) → mapFault (f.foldWork ctl ctx gcw r false d a) ∧ mapFault (f.foldWork ctl ctx gcw r true d a) ∧
        mapFault (f.scanWork ctl ctx gcw r false d a) ∧ mapFault (f.scanWork ctl ctx gcw r true d a)) ∧
      ((enters a = false ∨ enters b = false ∨ leaves = false) → mapFault (f.zipWork ctl ctx gcw r d a b) ∧ mapFault (f.outrWork ctl ctx gcw r d a b)) ∧
      (enters a = true → leaves = true → ∀ es g, f.tileElts ctl ctx a = .ok es g →
        let xs := entered a es
        let row (k : Nat) : List (Nat × Nat × Nat) := (xs.drop (k * a.cols)).take a.cols
        (∃ y, Folds r h (xs.mapIdx (fun k x => (x.1, 0, k))) y ∧ lays [folded y] g (f.foldWork ctl ctx gcw r true d a)) ∧
        (∃ ys : List Folded, ys.length = a.rows ∧ (∀ k y, ys[k]? = some y → Folds r h (row k) y) ∧ lays (ys.map folded) g (f.foldWork ctl ctx gcw r false d a)) ∧
        (∀ ex : Bool, ∃ l : List Retired, l.length = a.rows * a.cols ∧ lays l g (f.scanWork ctl ctx gcw r ex d a) ∧ ∀ k, k < a.rows →
          let out (c : Nat) : Option Retired := l[k * a.cols + c]?
          (∀ x, (row k)[0]? = some x → out 0 = some (.value 0 (if ex then (if 6 ≤ r.out ∧ r.out ≤ 8 then r.ident.toNat else r.ident.toNat % 2 ^ 32) else x.1))) ∧
          ∀ c acc x, c + 1 < a.cols → out c = some (.value 0 acc) → (row k)[if ex then c else c + 1]? = some x →
            (∀ v, Combines h acc x.1 v → out (c + 1) = some (.value 0 v)) ∧
            ∀ u k, h acc x.1 = .fault u k → ∃ p, out (c + 1) = some (.fault ⟨u, 0, some p, some k⟩))) ∧
      (enters a = true → enters b = true → leaves = true → ∀ es g es' g', f.tileElts ctl ctx a = .ok es g → g.tileElts ctl ctx b = .ok es' g' →
        let xs := entered a es
        let ys := entered b es'
        (∃ l : List Retired, l.length = min xs.length ys.length ∧ lays l g' (f.zipWork ctl ctx gcw r d a b) ∧
          ∀ (n : Nat) z x y, l[n]? = some z → xs[n]? = some x → ys[n]? = some y → became x.1 y.1 x.2 z) ∧
        (∃ l : List Retired, l.length = xs.length * ys.length ∧ lays l g' (f.outrWork ctl ctx gcw r d a b) ∧
          ∀ (m n : Nat) z x y, l[m * ys.length + n]? = some z → xs[m]? = some x → ys[n]? = some y → became x.1 y.1 (m, n) z))) ∧ (
    ∀ (ctl : Ctl) (ctx : Nat) (gcw : Word) (r : Routine) (d a b : Tile) (at_ : Nat) (dz la lb : Bool) (f : Fab), r.inp = 3 → r.out = 3 →
      ∀ c g, f.engRead ctl d.core ctx 1 at_ 16 = .ok c g →
      let na := if la then fieldAt c 4 4 else a.cols
      let nb := if lb then fieldAt c 8 4 else b.cols
      let w := f.mergeWork ctl ctx gcw r d a b at_ dz la lb
      let put (n : Nat) (p : Nat × Nat) (g : Fab) : Eng Unit := g.tilePut ctl ctx d (0, n) (p.1 + 2 ^ 32 * p.2)
      let start (g : Fab) : Fab := { g with nextId := g.nextId + 1 }
      (a.cols < na → w = .fault ⟨2, 0, some (0xFFFFFFFE, 0), none⟩ g) ∧
      (na ≤ a.cols → b.cols < nb → w = .fault ⟨2, 0, some (0xFFFFFFFE, 1), none⟩ g) ∧
      (na ≤ a.cols → nb ≤ b.cols → d.cols < na + nb → ∃ e, w = .fault e g ∧ e.cause = 2) ∧
      (na ≤ a.cols → nb ≤ b.cols → na + nb ≤ d.cols → ∀ xs ys g1 g2, g.pairs ctl ctx a na = .ok xs g1 → g1.pairs ctl ctx b nb = .ok ys g2 →
        let ascends (l : List (Nat × Nat)) : Prop := l.Pairwise (fun p q => p.1 < q.1)
        let faults (e : EngErr) : Prop := ∃ (out : List (Nat × Nat)) (keep : Nat → Bool),
          w = (putsAt put (out.mapIdx (fun k x => (k, if keep k then some x else none))) (start g2)).bind (fun _ h => .fault e h)
        (ascends xs → ascends ys → (∀ k v v', (k, v) ∈ xs → (k, v') ∈ ys → ∀ c j, r.apply gcw v v' ≠ .fault c j) → ∃ out : List (Nat × Nat), ascends out ∧
          (∀ k z, (k, z) ∈ out ↔ ((k, z) ∈ xs ∧ ∀ v, (k, v) ∉ ys) ∨ ((k, z) ∈ ys ∧ ∀ v, (k, v) ∉ xs) ∨
            ∃ v v', (k, v) ∈ xs ∧ (k, v') ∈ ys ∧ r.apply gcw v v' = .value z ∧ ¬(dz = true ∧ z % 2 ^ 31 = 0)) ∧
          w = (putsAt put (out.mapIdx (fun k x => (k, some x))) (start g2)).bind (fun _ h => h.engWrite ctl d.core ctx 1 at_ (leBytes 4 out.length))) ∧
        (ascends xs → ascends ys → ∀ (i j : Nat) k v v' c n, xs[i]? = some (k, v) → ys[j]? = some (k, v') → r.apply gcw v v' = .fault c n →
          (∀ (i' j' : Nat) k' u u' c' n', xs[i']? = some (k', u) → ys[j']? = some (k', u') → r.apply gcw u u' = .fault c' n' → k ≤ k') →
          faults ⟨c, 0, some (i, j), some n⟩) ∧
        (¬(ascends xs ∧ ascends ys) → (∀ v v' c j, r.apply gcw v v' ≠ .fault c j) → ∃ e, faults e ∧ e.cause = 2 ∧
          ∃ (n : Nat) (p q : Nat × Nat), q.1 ≤ p.1 ∧ ((e.elem = some (n + 1, 0xFFFFFFFF) ∧ xs[n]? = some p ∧ xs[n + 1]? = some q) ∨
            (e.elem = some (0xFFFFFFFF, n + 1) ∧ ys[n]? = some p ∧ ys[n + 1]? = some q)))))

/-- R345: a peer target is an integer sum of the pair's VA field and the signed offset: pair bits [63:60], a VA outside 0 to 2^48 - 1, or for
`rmc` a device other than 0 fails with 0x0A, else misalignment with 0x0B; of all failures the first stage (0x0C, 0x0A, 0x0B) that any lane
fails traps for the lanes that fail it. R344-R349, R351, R352: `rwr`, `rrd`, `radd`, `rsig`, `rmc` and `racc` trap with the first stage that
a lane's target, signal word, record or scratchpad line fails; they wait for absent sectors of their lines; else they enter class cl with
one packet per lane (`rmc` and `racc` once for the group), addressed to the pair's device at its VA with the instruction's flow, `rrd` as a
load as well. What a packet's AUX holds for `racc` (log 44), and that `radd`'s operand travels as data and `rsig`'s value in AUX (log 36),
is the model's choice. R217, R350: a `swait` whose words are reached reads them in lane order at L2: a lane whose word is at or above its
threshold goes on, the others park on their word; where any goes on the core acquires at `.sys`. -/
def Obligations.RemoteOperationsEnter : Prop := (
    (∀ (f : XmForm) (pair align l : Nat) (zero : Bool), 0 < align →
      let va : Int := ((pair % 2 ^ 48 : Nat) : Int) + (match f.lit with | some v => v.toInt | none => f.ofs.toInt)
      let bad := 2 ^ 60 ≤ pair ∨ va < 0 ∨ 2 ^ 48 ≤ va ∨ (zero = true ∧ pair / 2 ^ 48 % 4096 ≠ 0)
      (bad → ∃ x, peerFails f pair align zero l = [(l, 0x0A, x)]) ∧
      (¬bad → va % align ≠ 0 → peerFails f pair align zero l = [(l, 0x0B, va.toNat)]) ∧
      (¬bad → va % align = 0 → peerFails f pair align zero l = [])) ∧
    (∀ xs : List (Nat × Nat × Nat), (∀ x ∈ xs, x.2.1 ∈ [0x0C, 0x0A, 0x0B]) → let of (c : Nat) := xs.filter (fun x => x.2.1 == c)
      (xs = [] → stageTrap xs = none) ∧
      (∀ c, c ∈ [0x0C, 0x0A, 0x0B] → ∀ x r, of c = x :: r → (c ≠ 0x0C → of 0x0C = []) → (c = 0x0B → of 0x0A = []) →
        stageTrap xs = some (.addr c ((of c).map (·.1)).eraseDups x.2.2)))) ∧ (
    ∀ (j : Instr) (o : BitVec 8) (f : XmForm) (s : State) (i : Iss), j.enc? = some (.xm o f) → i.active ≠ [] →
      let m := moved s (.xm o f) i
      let pair (r : RegNo) (l : Nat) : Nat := i.pair s.fab r l
      let word (r : RegNo) (l : Nat) : Nat := (s.fab.reg i.core i.slot l r.toNat).val.toNat
      let low := i.lowest
      let line := 16 * 2 ^ f.size.toNat
      let n := 2 ^ f.size.toNat
      let flow := f.aux.toNat % 8
      let va (p : Nat) : Addr := BitVec.ofNat 48 (peerVa f p).toNat
      let pk (p op aux bytes : Nat) (data : List Byte) : Packet :=
        makePacket i.ctx (peerDev p) (BitVec.ofNat 3 flow) (BitVec.ofNat 8 op) (va p) (BitVec.ofNat 64 aux) bytes data
      let each (h : Nat → Packet) : List RemPart := i.active.map (fun l => RemPart.of l [l] [h l] none)
      let runs (gate : Iss → Fab → Bool) (fails lines : List (Nat × Nat × Nat)) (g : Fab) : Prop := Issues s (.xm o f) gate i →
        (∀ t, stageTrap fails = some t → exec j s = .next (trapped s i t)) ∧
        (stageTrap fails = none → (∃ x ∈ lines, s.fab.present i.core x.2.1 x.2.2 = false) → exec j s = .next (waiting s i)) ∧
        (stageTrap fails = none → (∀ x ∈ lines, s.fab.present i.core x.2.1 x.2.2 = true) → exec j s = .next (retired s i g))
      (o = 0xA0 → let sig := f.sub.getLsbD 0
        let mem := f.sub.getLsbD 1
        let k := if mem then line else n
        let g := i.pushRem s.ctl m (each (fun l => pk (pair f.a l) (if sig then 0x02 else 0x01) (if sig then pair f.d l else 0) k
          (if mem then s.fab.scrRead i.core (word f.b l) k else i.regBytes s.fab f.b.toNat k l))) none flow false false
        runs gateRem (i.active.flatMap (fun l => peerFails f (pair f.a l) (if mem then 16 else n) false l ++
            (if sig then vaFails (pair f.d l) 8 l else []) ++ (if mem then s.fab.lineFails i.core (word f.b l) k l else [])))
          (if mem then i.active.map (fun l => (l, word f.b l, k)) else []) (if sig then g.commit i i.active else g)) ∧
      (o = 0xA1 → runs gateRrd (i.active.flatMap (fun l => peerFails f (pair f.a l) n false l)) []
        (i.pushRem s.ctl (m.modGroup i.core i.slot (fun g => { g with loads := g.loads ++ [⟨g.nextSeq, i.pc, 5, .rrd, f.d, n, false,
            Tag.ofCode (f.aux.toNat / 8 % 16), i.active.map (fun l => ⟨l, .scr i.core 0, false, false⟩)⟩] }))
          (each (fun l => pk (pair f.a l) 0x03 0 n [])) none flow true false)) ∧
      (o = 0xA2 → runs gateRem (i.active.flatMap (fun l => peerFails f (pair f.a l) n false l)) []
        ((i.pushRem s.ctl m (each (fun l => pk (pair f.a l) 0x05 0 n (i.regBytes s.fab f.b.toNat n l))) none flow false false).commit i i.active)) ∧
      (o = 0xA3 → runs gateRem (i.active.flatMap (fun l => peerFails f (pair f.a l) 8 false l)) []
        ((i.pushRem s.ctl m (each (fun l => pk (pair f.a l) 0x06 (pair f.b l) 1 [])) none flow false false).commit i i.active)) ∧
      (o = 0xA5 → let sig := f.sub.getLsbD 0
        let fl := f.sub.toNat / 2
        let p := pair f.a low
        let sva := pair (f.b + 2) low
        runs gateRem (i.active.flatMap (fun l => peerFails f p 16 true l ++ (if sig then vaFails sva 8 l else []) ++ vaFails (pair f.d low) 32 l ++
            s.fab.lineFails i.core (word f.b low) line l)) (i.active.map (fun l => (l, word f.b low, line)))
          ((i.pushRem s.ctl m [RemPart.of low i.active [] none] (some ⟨some (f.aux.toNat, makePacket i.ctx 0 (BitVec.ofNat 3 fl) 0x07 (va p)
            (if sig then BitVec.ofNat 64 (2 ^ 63 + sva) else 0) line (s.fab.scrRead i.core (word f.b low) line)), BitVec.ofNat 48 (pair f.d low), 0, 0, [], [], []⟩)
            fl false false).commit i i.active)) ∧
      (o = 0xA6 → runs gateRem (i.active.flatMap (fun l => peerFails f (pair f.a low) 8 false l ++ s.fab.lineFails i.core (word f.b low) line l))
          (i.active.map (fun l => (l, word f.b low, line)))
          ((i.pushRem s.ctl m [RemPart.of low i.active [pk (pair f.a low) 0x08 (word f.d low % 4096 + 4096 * (f.sub.toNat % 2)) line
            (s.fab.scrRead i.core (word f.b low) line)] none] none flow false false).commit i i.active))) ∧ (
    ∀ (f : XmForm) (s : State) (i : Iss) (locs : List (Nat × Loc)) (fab : Fab), Issues s (.xm 0xA4 f) gateMem i → i.active ≠ [] →
      Reached s (.xm 0xA4 f) i f 8 8 .load locs fab → Present s (.xm 0xA4 f) i f 8 8 locs fab →
      let one (r : Bool × Fab) (p : Nat × Loc) : Bool × Fab :=
        let v := r.2.swaitRead s.ctl i.core i.ctx p.2
        let threshold := regsNat (v.2.source i f.b.toNat 2 0 p.1)
        if threshold ≤ v.1 then (true, v.2)
        else (r.1, v.2.modLane i.core i.slot p.1 (fun x => { x with park := some (.swait p.2 (BitVec.ofNat 64 threshold)), parkNext := x.pc }))
      let r := locs.foldl one (false, fab)
      exec (.swaitXm f) s = .next (retired s i (if r.1 then r.2.l1Acquire s.ctl i.core 5 else r.2)))

/-- R337: `mret.send` whose tiles are read traps for a quarter's address pairs (bits out of range 0x0A, misaligned 0x0B), and else enters both
the matrix engine and class cl, one part per quarter with the signal packet of that quarter, whose AUX carries the addend 1 (the model's
choice, log 36). R171, R175, R240, R335, R336: what `mma`, `mbin`, `mret` and `mclr` write for one quarter. `mma` updates each accumulator
element by its block products, K-blocks in ascending order, writes them all, and sets the overflow word where R239's condition held; an
empty slot faults with 0x02. `mret` converts each element of the accumulator, or what its routine made of it with B's element, to the
destination's format, a dropped one keeping what the destination held, and with OVR hands the overflow word on and clears it; to a knot
destination it forms each block from its 16 values. `mclr` writes zeros. R318, R341: an element of a dense tile in a scratchpad, of a format
of whole bytes, in each layout: once written it reads as the value written, and every other as before. In a merge pair a routine's output
changes the value at +4 alone. -/
def Obligations.RetireAndSendEnters : Prop := (
    ∀ (f : XtForm) (us : List (List Nat)) (regs : List RegNo) (ok : List Tile → Bool) (s : State) (i : Iss) (g : Group) (ts : List (List Nat × List Tile)),
      tileUse s i (.mretSendXt f) = some (f, gateSend, us, regs, ok) → Issues s (.xt 0xB3 f) gateSend i → i.active ≠ [] → groupAt s i.core i.slot = some g →
      TilesRead s i us regs ok ts →
      let at_ (u : List Nat × List Tile) (k : Nat) : Nat := regsNat (s.fab.source i (f.d.toNat + k) 2 0 (u.1.headD 0))
      let fails := ts.flatMap (fun u => u.1.flatMap (fun l => (if at_ u 0 / 2 ^ 60 ≠ 0 then [(l, 0x0A, at_ u 0)]
        else if at_ u 0 % 2 ^ 48 % (eltBits f.fmt.toNat / 8) ≠ 0 then [(l, 0x0B, at_ u 0 % 2 ^ 48)] else []) ++ vaFails (at_ u 2) 8 l))
      let flow := f.aux.toNat % 8
      let m := moved s (.xt 0xB3 f) i
      let queued := m.setCore i.core { m.core i.core with mxq := (m.core i.core).mxq ++ [⟨i.slot, g.nextSeq, g.issuedCl + 1, maskOf i.active, i.pc, i.gcw,
        if f.flags.getLsbD 0 then s.fab.routine i.ctx f.h else none,
        .send (ts.map (fun u => (u.1.headD 0 / 8, u.2.headD default, (u.2.drop 1).head?, BitVec.ofNat 64 (at_ u 0), BitVec.ofNat 64 (at_ u 2)))) f.fmt.toNat
          (f.sub.toNat % 4) flow, 0, 0, [], []⟩] }
      (∀ t, stageTrap fails = some t → exec (.mretSendXt f) s = .next (trapped s i t)) ∧
      (stageTrap fails = none → exec (.mretSendXt f) s = .next (retired s i (i.pushRem s.ctl queued (ts.map (fun u => RemPart.of (u.1.headD 0) u.1 []
        (some (makePacket i.ctx (peerDev (at_ u 0)) (BitVec.ofNat 3 flow) 0x06 (BitVec.ofNat 48 (at_ u 2)) 1 1 [])))) none flow false true)))) ∧ (
    (∀ (ctl : Ctl) (ctx : Nat) (binary : Option Bool) (s : BSlot) (a c : Tile) (start count : Nat) (f : Fab),
      let w := f.mmaQuarter ctl ctx binary s a c start count
      (s.valid = false → ∃ e, w = .fault e f ∧ e.cause = 2) ∧
      (s.valid = true → ∀ xs g cs h, f.tileElts ctl ctx a = .ok xs g → g.tileElts ctl ctx c = .ok cs h →
        let len := if binary = none then 16 else 128
        ∃ out : List (Nat × Bool), out.length = c.coords.length ∧
          (∀ (n : Nat) r col x, c.coords[n]? = some (r, col) → cs[n]? = some x → ∃ q : Nat → Nat × Bool, q 0 = (x.raw, false) ∧ out[n]? = some (q count) ∧
            ∀ j, j < count → let k := (start + j) * len
              let u := blockUpdate binary a.fmt s.fmt (s.scale k col / 256) (q j).1 ((((xs.drop (r * a.cols)).take a.cols).drop k).take len)
                ((List.range len).map (fun m => s.elt (k + m) col))
              q (j + 1) = (u.1, (q j).2 || u.2)) ∧
          w = (putsAt (fun rc v g => g.tilePut ctl ctx c rc v) (c.coords.zip (out.map (fun x => some x.1))) h).bind (fun _ h =>
            if out.any (·.2) then h.engWrite ctl c.core ctx c.as c.after (leBytes 4 1) else .ok () h))) ∧
    (∀ (ctl : Ctl) (ctx : Nat) (gcw : Word) (routine : Option Routine) (mode : RMode) (ovr : Bool) (a d : Tile) (b : Option Tile) (f : Fab),
      let w := f.mretQuarter ctl ctx gcw routine mode ovr a d b
      let tail (h : Fab) : Eng Unit :=
        if ovr then (h.engRead ctl a.core ctx a.as a.after 4).bind (fun o h => (h.engWrite ctl d.core ctx d.as d.after o).bind (fun _ h => h.engWrite ctl a.core ctx a.as a.after (leBytes 4 0)))
        else .ok () h
      let put (rc : Nat × Nat) (x : Retired) (g : Fab) : Eng Unit := match x with | .value k raw => g.tilePut ctl ctx d rc (outConv k d.fmt mode raw) | _ => .ok () g
      let putBlock (p : Nat × Nat) (items : List Retired) (g : Fab) : Eng Unit :=
        (engMap (fun (x : (Nat × Nat) × Retired) g => match x.2 with
          | .value k raw => .ok (outVal k raw) g
          | _ => (g.tileElt ctl ctx d x.1).bind (fun e g => .ok (eltVal d.fmt e) g)) ((d.blockCoords p.1 p.2).zip items) g).bind (fun vs g =>
            g.blockPut ctl ctx d p.1 p.2 (knotPack (eltBits d.fmt) vs))
      let blocks := (List.range d.geometry.2).flatMap (fun line => (List.range d.blocks).map (fun k => (line, k)))
      let retires (l : List Retired) (g : Fab) : Prop :=
        (isKnot d.fmt = false → Lays put d.coords l g tail w) ∧
        (isKnot d.fmt = true → (∀ e, .fault e ∉ l) → w = (putsAt putBlock (blocks.map (fun p => (p, some ((d.blockCoords p.1 p.2).map (fun rc =>
          l.getD (rc.1 * d.cols + rc.2) .dropped))))) { g with nextId := g.nextId + 1 }).bind (fun _ h => tail h))
      (∀ es g, f.tileElts ctl ctx a = .ok es g →
        (routine = none → b = none → retires (es.map (fun x => .value a.fmt x.raw)) g) ∧
        (∀ r t es' g', routine = some r → b = some t → retireFits routine a b d.fmt = true → g.tileElts ctl ctx t = .ok es' g' → ∃ l : List Retired,
          l.length = a.coords.length ∧ retires l g' ∧ ∀ (n : Nat) z rc x y, l[n]? = some z → a.coords[n]? = some rc → es[n]? = some x → (entered t es')[n]? = some y →
            (∀ v, r.apply gcw x.raw y.1 = .value v → ∃ k, z = .value k v ∧ outFmt r.out = some k) ∧ (r.apply gcw x.raw y.1 = .dropped → z = .dropped) ∧
            ∀ e, FaultsAt (r.apply gcw) x.raw y.1 rc e → z = .fault e)) ∧
      (∀ r t, routine = some r → b = some t → retireFits routine a b d.fmt = false → ∃ e, w = .fault e f ∧ e.cause = 4)) ∧
    (∀ k df mode raw, outPair k df = true → isKnot df = false → k ∈ [0, 1, 2, 3, 6, 12] → ConvertsTo k df mode raw (outConv k df mode raw)) ∧
    (∀ (ctl : Ctl) (ctx : Nat) (t : Tile) (f : Fab), f.mclrQuarter ctl ctx t =
      (putsAt (fun rc v g => g.tilePut ctl ctx t rc v) (t.coords.map (fun rc => (rc, some 0))) f).bind (fun _ h =>
        if t.fmt = 6 then h.engWrite ctl t.core ctx t.as t.after (leBytes 4 0) else .ok () h))) ∧ (
    ∀ (ctl : Ctl) (ctx : Nat) (t : Tile) (f g : Fab) (rc : Nat × Nat) (v : Nat), MemOk f → f.copying = none → t.as ∈ [1, 2] → t.nsp = 0 →
      t.fmt ∈ [0, 1, 2, 3, 4, 5, 6, 11] → t.layout ≤ 2 → t.lineBytes ≤ t.rstride → (t.layout = 2 → t.rstride % 256 = 0) →
      (∀ k o, f.scrLoc t.core t.as (t.base.toNat % 2 ^ 32) = .scr k o → (f.core k).team ≠ none) →
      t.base.toNat % 2 ^ 20 + (t.geometry.2 - 1) * t.rstride + (t.lineBytes + 255) / 256 * 256 ≤ 2 ^ 20 → rc ∈ t.coords → ∀ x, f.tileElt ctl ctx t rc = .ok x f →
      let reads (raw : Nat) : Prop := g.tileElt ctl ctx t rc = .ok ⟨raw, 0, 0⟩ g ∧
        ∀ q ∈ t.coords, q ≠ rc → ∀ y, f.tileElt ctl ctx t q = .ok y f → g.tileElt ctl ctx t q = .ok y g
      (f.tilePut ctl ctx t rc v = .ok () g → reads (v % 2 ^ eltBits t.fmt)) ∧
      (f.outPut ctl ctx t rc v = .ok () g → reads (if t.fmt = 11 then x.raw % 2 ^ 32 + 2 ^ 32 * (v % 2 ^ 32) else v % 2 ^ eltBits t.fmt)))

/-! ## Events of the module (chapters 1 to 6, 9) -/

/-- R21-R24, R70: supply, temperature, coolant and power. A low input, a coolant loss or 115 degrees shuts the module down in order once its
time has passed; above 56 V power goes; an excursion of 1 ms counts once; 105 degrees, or a power above CAP when the two are compared, once
every 1 ms, leaves 2 or 3 issue slots until the cause ends. The lifetime record goes to flash when 600 s have passed since it last did, at
the end of any step. Its counters rise by 1, those of a powered second once for each second of TIME, which does not pass one before it is
counted. -/
def Obligations.BoardEvents : Prop :=  ∀ (s : State) (n : Nat) (b : Bool),
    let now := s.fab.time.toNat
    let c := s.ctl
    (∃ t, exec (.supplyInputChange n) s = .next t ∧ t.fab = s.fab ∧ t.ctl.supply = n ∧
      t.ctl.lowSince = (if n < 47000 then some (match c.lowSince with | some x => x | none => now) else none) ∧
      (t.ctl.bandSince.isSome = true ↔ (47000 ≤ n ∧ n < 48000) ∨ (54000 < n ∧ n ≤ 56000))) ∧
    (∀ x, c.lowSince = some x → x + 1000000 ≤ now → Runs s → ∃ t, exec .supplyLowTimeout s = .next t ∧ ShutDown s t) ∧
    (∀ x, c.lowSince = some x → now < x + 1000000 → exec .supplyLowTimeout s = .next s) ∧
    (56000 < c.supply → ∃ t, exec .supplyOvervoltage s = .next t ∧ t.ctl.powered = false ∧ t.fab.life = c.flashLife ∧ t.fab.cores = []) ∧
    (∀ x, c.bandSince = some x → x + 1000000 ≤ now → Runs s → exec .supplyExcursionCount s = .next (if c.bandCounted then s else
      { s with ctl := { c with bandCounted := true }, fab := counted s.fab 0x30 })) ∧
    (105 ≤ n → ∃ t, exec (.thermalThrottle n) s = .next t ∧ t.ctl.thermal = true ∧ t.ctl.temp = n ∧ 2 ≤ t.fab.issueSlots ∧ t.fab.issueSlots < 4) ∧
    (n < 100 → ∃ t, exec (.thermalRelease n) s = .next t ∧ t.ctl.thermal = false ∧ (c.capped = false → t.fab.issueSlots = 4)) ∧
    (115 ≤ n → Runs s → ∃ t, exec (.thermalShutdown n) s = .next t ∧ ShutDown s t) ∧
    exec (.coolantFlowChange n) s = .next { s with ctl := { c with coolant := n, coolantSince := (if n < 1000 then some (match c.coolantSince with | some x => x | none => now) else none) } } ∧
    (∀ x, c.coolantSince = some x → x + 100000000 ≤ now → Runs s → ∃ t, exec .coolantFlowTimeout s = .next t ∧ ShutDown s t) ∧
    (n < 65536 → Runs s → (∀ x, c.comparedAt = some x → x + 1000000 ≤ now) → ∃ t, exec (.powerCompare n) s = .next t ∧ t.ctl.meas = n ∧
      t.ctl.cap = c.cap ∧ t.ctl.capped = decide (c.cap < n) ∧ t.ctl.comparedAt = some now ∧
      (c.cap < n → 2 ≤ t.fab.issueSlots ∧ t.fab.issueSlots < 4) ∧ (n ≤ c.cap → c.thermal = false → t.fab.issueSlots = 4)) ∧
    (∀ x, c.comparedAt = some x → now < x + 1000000 → exec (.powerCompare n) s = .next s) ∧
    (Runs s → c.flushedAt + 600000000000 ≤ (now : Int) → exec .lifetimeFlush s = .next { s with ctl := { c with flashLife := s.fab.life, flushedAt := now } }) ∧
    ((now : Int) < c.flushedAt + 600000000000 → exec .lifetimeFlush s = .next s) ∧
    (∀ m t, settleStep m (.next s) = .next t → Runs s → c.flushedAt + 600000000000 ≤ (now : Int) → t.ctl.flushedAt = now) ∧
    (n < 160 → exec (.supplyDroop n) s = .next { s with fab := counted s.fab (0x600 + 8 * (n / 10)) }) ∧
    (n < 12 → exec (.eccEvent n b) s = .next { s with fab := counted s.fab (0x100 + 16 * n + (if b then 0 else 8)) }) ∧
    (Runs s → c.secondAt + 1000000000 ≤ (now : Int) → ∃ t, exec (.poweredSecond n) s = .next t ∧ t.ctl.secondAt = c.secondAt + 1000000000 ∧
      t.ctl.replaySeen = s.fab.life.replays ∧ t.ctl.temp = n ∧
      ∀ k ∈ [8, 0x500 + 8 * min 15 (Nat.log2 (s.fab.life.replays - c.replaySeen)), 0x580 + 8 * min 15 ((n - 40) / 5)],
        Table.getD t.fab.life k 0 = Table.getD (counted s.fab k).life k 0) ∧
    (Runs s → (now : Int) < c.secondAt + 1000000000 → exec (.poweredSecond n) s = .next s) ∧
    (Runs s → (now : Int) ≤ c.secondAt + 1000000000 → ∀ acs, ((s.fab.elapse (s.secondRoom acs)).time.toNat : Int) ≤ c.secondAt + 1000000000)

/-- R53, R58, R28, R24, R60, R61, R72, R380: writes of the service range and DMA. A write leaves the list of those that wait as the event that
it is, and then acts on its register alone: CAP is clamped to 800-2,600 (a write by anyone but a privileged hart changes nothing, log 64),
FUSEADV takes machine mode only, LOAD needs an EMPTY key ID and clears KEYDATA, RETIRE a LOADED one and ends once no access under the key is
left (log 58), QUERY reports (for key ID 0 with RESULT 0, log 34), HPSTAT acts on its port (a RETRAIN from any STATE, log 43); a doorbell in
a pause or before boot is kept (log 31); a DMA request without a valid entry, or that its IOMMU refuses, ends as unsupported (the IOMMU's
mapping is the model's free value, log 57), and a module whose outputs are in reset takes none. A message to an interrupt file leaves one
pending entry of its hart, file and identity (log 42). -/
def Obligations.RegisterWrites : Prop :=  ∀ (s : State) (w : RegWrite),
    let u := taken s w
    let c := s.ctl
    let v := (writeData w).toNat
    let k := BitVec.ofNat 12 v
    let key (op : Nat) : Prop := Writes s w 0xF00000200040 ∧ c.kbusy = false ∧ v / 2 ^ 24 % 4 = op
    (Writes s w 0xF00000302000 → privileged w.by_ = true →
      exec (.pwrcapWrite w) s = .next { u with ctl := { c with cap := max 800 (min 2600 (v % 4096)) } }) ∧
    (Writes s w 0xF00000302000 → privileged w.by_ = false → exec (.pwrcapWrite w) s = .next u) ∧
    (∀ j e, (j, e) ∈ [(Instr.registerWrite w, RegEvent.plain), (.pwrcapWrite w, .cap), (.fuseadvWrite w, .fuseadv), (.keyLoad w, .keyLoad), (.keyRetire w, .keyRetire),
      (.keyQuery w, .keyQuery), (.uzbellWrite w, .bell), (.hpstatRetrain w, .retrain), (.hpstatDisable w, .disable), (.liveUpdate w, .update),
      (.repairRetire w, .repRetire), (.repairRestore w, .repRestore), (.repairRetrain w, .repRetrain)] → regEvent w ≠ e → exec j s = .next s) ∧
    (s.hits w 0xF00000300000 = true → w.bytes = 8 → exec (.registerWrite w) s = .next { u with ctl := { c with uzimg := w.data } }) ∧
    (∀ h file n, imsicMessage w = some (h, file, n) → s.hits w (writeReg w) = true → regEvent w = .plain → h < 16 ∧ ∃ t, exec (.registerWrite w) s = .next t ∧ t.ctl = c ∧
      (1 ≤ n → n < 2048 → t.fab.msis.count (h, file, n) = 1) ∧ ∀ m, m ≠ (h, file, n) → t.fab.msis.count m = s.fab.msis.count m) ∧
    (s.hits w 0xF00000300010 = true → w.bytes = 8 → c.belled = false →
      exec (.registerWrite w) s = .next { u with ctl := { c with uzqroot := (c.uzqroot &&& ~~~(0xFFFFFFFFF000#64)) ||| (w.data &&& 0xFFFFFFFFF000#64) } }) ∧
    (s.hits w 0xF00000300010 = true → c.belled = true → exec (.registerWrite w) s = .next u) ∧
    (s.hits w 0xF00000100100 = true → v % 2 = 1 → exec (.fuseadvWrite w) s = .next (if w.by_ = .machine then { u with ctl := { c with fuseAdv := true } } else u)) ∧
    (key 1 → ∃ t, exec (.keyLoad w) s = .next t ∧ t.fab = u.fab ∧ t.ctl.keyData = 0 ∧ t.ctl.kid = k ∧
      (k = 0 → t.ctl.kresult = 3 ∧ t.ctl.keys = c.keys) ∧
      (k ≠ 0 → c.keyState k = .empty → t.ctl.kresult = 0 ∧ t.ctl.keyState k = .loaded ∧ t.ctl.keyMat k = c.keyData) ∧
      (k ≠ 0 → c.keyState k ≠ .empty → t.ctl.kresult = 1 ∧ t.ctl.keys = c.keys)) ∧
    (key 2 → ∃ t, exec (.keyRetire w) s = .next t ∧ t.fab = u.fab ∧ t.ctl.kid = k ∧
      (k ≠ 0 → c.keyState k = .loaded → t.ctl.kresult = 0 ∧ t.ctl.kbusy = true ∧ t.ctl.keyRefused k = true ∧ t.ctl.keyMat k = c.keyMat k) ∧
      (k ≠ 0 → c.keyState k ≠ .loaded → t.ctl.kresult = 2 ∧ t.ctl.keys = c.keys)) ∧
    (key 3 → let st := if c.keyState k = .empty then 0 else if c.keyState k = .loaded then 1 else 2
      exec (.keyQuery w) s = .next { u with ctl := { c with kid := k, kresult := 0, kstate := st } }) ∧
    (s.fab.keyInUse c.kid = true → exec .keyRetireDone s = .next s) ∧
    (c.kbusy = true → s.fab.keyInUse c.kid = false → ∃ t, exec .keyRetireDone s = .next t ∧ t.ctl.kbusy = false ∧ t.ctl.kstate = 0 ∧ t.ctl.keyState c.kid = .empty ∧
      ∀ l ∈ t.fab.l2, l.key ≠ c.kid) ∧
    (Writes s w 0xF00000300018 → c.uzRuns = false → exec (.uzbellWrite w) s = .next { u with ctl := { c with belled := true, bells := c.bells ++ [v % 64] } }) ∧
    (Writes s w 0xF00000300018 → c.uzRuns = true → ∃ t, exec (.uzbellWrite w) s = .next t ∧ t.ctl = { c with belled := true } ∧ (Table.get? t.fab.queues (v % 64)).isSome = true) ∧
    (∀ p x, Writes s w (0xF00000401000 + 16 * p) → c.ports[p]? = some x → p < 18 →
      (v / 4 % 2 = 0 → ∃ t y, exec (.hpstatDisable w) s = .next t ∧ t.ctl.ports[p]? = some y ∧ y.disable = decide (v / 2 % 2 = 1)) ∧
      (v / 4 % 2 = 1 → ∃ t y, exec (.hpstatRetrain w) s = .next t ∧ t.ctl.ports[p]? = some y ∧ y.retrain = true ∧ (v / 2 % 2 = 0 → y.state = 3))) ∧
    (∀ r : DmaReq, c.runs = false → exec (.dmaRequest r) s = .next s) ∧
    (∀ r : DmaReq, Runs s → c.pcktab.getLsbD 0 = false → exec (.dmaRequest r) s = .next { s with fab := { s.fab with dmaDone := s.fab.dmaDone ++ [(r, none)] } }) ∧
    (∀ (r : DmaReq) k f, Runs s → s.dmaKey r.rid = (some k, { s with fab := f }) →
      let n := f.nextId
      let g : Fab := { f with nextId := n + 1 }
      let ends (h : Fab) (x : Option (List Byte)) : State := { s with fab := { h with dmaDone := h.dmaDone ++ [(r, x)] } }
      (∀ a b, Config.iommuPeer n r.port r.rid r.addr r.write.isSome = some a → Config.iommuPeer n (1 - r.port) r.rid a r.write.isSome = some b →
        exec (.dmaRequest r) s = .next { s with fab := { g with peerOut := g.peerOut ++ [(1 - r.port, { r with addr := b })] } }) ∧
      (Config.iommuPeer n r.port r.rid r.addr r.write.isSome = none →
        (Config.iommu n r.port r.rid r.addr r.write.isSome = none → exec (.dmaRequest r) s = .next (ends g none)) ∧
        (∀ pa : Addr, Config.iommu n r.port r.rid r.addr r.write.isSome = some pa →
          (∀ bs, r.write = some bs → memRange pa.toNat bs.length = true →
            exec (.dmaRequest r) s = .next (if c.keyRefused k then ends g none else ends (g.agentWrite c k pa.toNat bs) (some []))) ∧
          (r.write = none → memRange pa.toNat r.len = true → c.keyRefused k = false → ∀ b h, g.agentRead c k pa.toNat r.len = (b, h) →
            exec (.dmaRequest r) s = .next (ends h (some b))))))

/-- R21, R53, R54, R63-R69, R77: reset and boot, live update, repair, and the restart of Uzoman. A reset keeps retirements and fuses, blows a
scheduled fuse bit, and ends running or, with no image accepted, failed; an update pauses once no record is in hand and ends with the new
version or the old; BUSY turns a second repair away; a repair's refusals and results are those of Table 3.6; a cluster's retirement waits
for a permit of its link and for the cluster to be empty; after Uzoman's restart every context has ended. When a record counts as in hand
and an update as dead, Uzoman's halves and the table's number, and the retiring of a retired unit are the model's choices (logs 13, 14, 34). -/
def Obligations.BootUpdateRepair : Prop :=  ∀ (s : State) (w : RegWrite) (pass : Bool),
    let u := taken s w
    let c := s.ctl
    let v := (writeData w).toNat
    let idx := v % 65536
    let kind := v / 2 ^ 26 % 4
    (∃ t, exec .moduleReset s = .next t ∧ t.fab.ctxs = [] ∧ t.fab.cores = [] ∧ t.ctl.retClu = c.retClu ∧ t.ctl.retSlc = c.retSlc ∧
      t.ctl.fuses = (if c.fuseAdv = true ∧ c.fuses < 64 then c.fuses + 1 else c.fuses) ∧ t.ctl.cap = 2600 ∧ t.ctl.keyData = 0 ∧
      (c.supply < 48000 ∨ 56000 < c.supply → t.ctl.boot = .off ∧ t.ctl.harts = false) ∧
      (48000 ≤ c.supply → c.supply ≤ 56000 → (t.ctl.boot = .running ∧ t.ctl.harts = true ∧ t.ctl.scheduler = true ∧ t.ctl.leaves = true) ∨
        (t.ctl.boot = .failed ∧ t.ctl.harts = false ∧ t.ctl.scheduler = false ∧ t.ctl.keys = []))) ∧
    (∀ image, (c.boot ≠ .failed → exec (.bootImageI3c image) s = .next s) ∧
      (c.boot = .failed → ∃ t, exec (.bootImageI3c image) s = .next t ∧ ((t.ctl.boot = .running ∧ t.ctl.harts = true) ∨ (t.ctl.boot = .failed ∧ t.ctl.keys = [])))) ∧
    (Writes s w 0xF00000300008 → v % 2 = 1 → c.scheduler = true →
      (c.uzBusy = true → exec (.liveUpdate w) s = .next u) ∧
      (c.uzBusy = false → ∃ t, exec (.liveUpdate w) s = .next t ∧ ((t.ctl.uzBusy = true ∧ t.ctl.updPhase = .verified) ∨
        (t.ctl.uzBusy = false ∧ (t.ctl.uzResult = 2 ∨ t.ctl.uzResult = 3))))) ∧
    (c.updPhase = .verified → (c.repBusy = true ∨ s.fab.recordInHand = true → exec .updatePause s = .next s) ∧
      (c.repBusy = false → s.fab.recordInHand = false → ∃ t, exec .updatePause s = .next t ∧ t.ctl = { c with updPhase := .paused, updAt := s.fab.time.toNat, tableNo := c.tableNo + 1 } ∧ t.ctl.uzRuns = false)) ∧
    (c.updPhase = .paused → (s.updateDead = false → ∃ t, exec .updateAlive s = .next t ∧ t.ctl.updPhase = .idle ∧ t.ctl.uzBusy = false ∧
        t.ctl.uzResult = 1 ∧ t.ctl.runver = c.updVer ∧ t.ctl.uzHalf = (c.uzHalf + 1) % 2 ∧ t.ctl.bells = []) ∧
      (s.updateDead = true → ∃ t, exec .updateWatchdog s = .next t ∧ t.ctl.updPhase = .idle ∧ t.ctl.uzBusy = false ∧
        (t.ctl.uzResult = 4 ∨ t.ctl.uzResult = 5) ∧ t.ctl.runver = c.runver ∧ t.ctl.uzHalf = c.uzHalf)) ∧
    (c.uzRuns = true → ∃ t, exec .uzomanWatchdogRestart s = .next t ∧ t.fab.cmds = [] ∧ t.fab.placement = [] ∧
      ∀ x ∈ s.fab.ctxs, ∀ y, t.fab.ctx? x.id = some y → y.ended = true) ∧
    (∀ j op, (op = 1 ∧ j = .repairRetire w) ∨ (op = 2 ∧ j = .repairRestore w) ∨ (op = 3 ∧ j = .repairRetrain w) →
      Writes s w 0xF00000301000 → v / 2 ^ 20 % 4 = op →
      (c.repBusy = true → exec j s = .next u) ∧
      (c.repBusy = false → c.updPhase ≠ .paused →
        let units := if kind = 0 then 48 else if kind = 1 then 384 else if kind = 2 then 18 else 0
        let ends (r : Nat) : Prop := ∃ t, exec j s = .next t ∧ t.fab = u.fab ∧ t.ctl.repBusy = false ∧ t.ctl.repResult = r
        (units ≤ idx ∨ (op = 3 ∧ kind ≠ 2) → ends 2) ∧
        (op = 1 → kind = 0 → idx < 48 → (∀ m, m < 48 → m ≠ idx → c.retClu.getLsbD m = true) → ends 3) ∧
        (op = 2 → kind = 1 → idx < 384 → c.retSlc.getLsbD idx = false → ends 4) ∧
        (op = 3 → kind = 2 → idx < 18 → ∃ t, exec j s = .next t ∧ t.ctl.repBusy = true ∧ t.ctl.repStarted = true) ∧
        (op = 1 → kind = 2 → idx < 18 → c.ports.length = 18 → ∃ t y, exec j s = .next t ∧ t.ctl.repBusy = true ∧ t.ctl.ports[idx]? = some y ∧ y.disable = true) ∧
        (op = 2 → kind = 0 → idx < 48 → c.retClu.getLsbD idx = true → ∃ t, exec j s = .next t ∧ t.ctl.repBusy = true ∧ t.ctl.repStarted = true) ∧
        (op = 1 → kind = 0 → idx < 48 → (∃ m, m < 48 ∧ m ≠ idx ∧ c.retClu.getLsbD m = false) → ∃ t, exec j s = .next t ∧ t.ctl.repBusy = true ∧
          t.ctl.repStarted = s.fab.downFree idx ∧ t.fab = (if s.fab.downFree idx then u.fab.sendDown idx ⟨0x06, 0, 0, 0, 0, 0, 0, 0, 0, true⟩ else u.fab)) ∧
        (op = 1 → kind = 1 → idx < 384 → c.repairLimit 1 idx = false → ∃ t, exec j s = .next t ∧ t.ctl.repBusy = true ∧ t.ctl.retiringSlc = some idx ∧
          t.fab = { u.fab with ctxs := u.fab.ctxs.map (fun x => { x with gen := x.gen + 1 }) }))) ∧
    (c.repBusy = true → c.repStarted = true →
      (c.repOp = 2 → c.repKind < 3 → pass = false → exec (.repairDone pass) s = .next { s with ctl := { c with repBusy := false, repStarted := false, repResult := 5 } }) ∧
      (c.repOp = 1 → c.repKind = 1 → c.repIndex.toNat < 384 → ∃ t, exec (.repairDone pass) s = .next t ∧ t.ctl.repBusy = false ∧ t.ctl.repResult = 0 ∧
        ∀ m, m < 384 → t.ctl.retSlc.getLsbD m = (c.retSlc.getLsbD m || m == c.repIndex.toNat)) ∧
      (c.repOp = 1 → c.repKind = 0 → s.fab.clusterEmpty c.repIndex.toNat = false → exec (.repairDone pass) s = .next s) ∧
      (c.repOp = 1 → c.repKind = 0 → c.repIndex.toNat < 48 → s.fab.clusterEmpty c.repIndex.toNat = true → ∃ t, exec (.repairDone pass) s = .next t ∧
        t.ctl.repBusy = false ∧ t.ctl.repResult = 0 ∧ ∀ m, m < 48 → t.ctl.retClu.getLsbD m = (c.retClu.getLsbD m || m == c.repIndex.toNat)) ∧
      (c.repOp = 2 → c.repKind = 0 → pass = true → c.repIndex.toNat < 48 → ∃ t, exec (.repairDone pass) s = .next t ∧ t.ctl.repBusy = false ∧ t.ctl.repResult = 0 ∧
        ∀ m, m < 48 → t.ctl.retClu.getLsbD m = (c.retClu.getLsbD m && m != c.repIndex.toNat)))

/-- R26-R31, R34, R367: halyard ports. A port trains to 8 or 4 lanes or stays down; a flit with a bad CRC, or ahead of its sequence, is
discarded and answered by a negative acknowledge; the next one in sequence is taken and its credit returned; one of an unassigned KIND or
virtual channel is discarded and counted; a negative acknowledge resends what follows the named flit; eight replays start a retrain, three
failed ones end the port, whose packets go back to the switch, which never sends one by the port on which it came; a packet in transit loses
a hop or is discarded; a plane's reports are kept. While outputs are in reset nothing moves. That each accepted flit is answered by one KIND
5 without a number of its own and that a retrain sends again what is unacknowledged (log 43), and that a KIND 5 returns a credit (log 68),
is the model's choice. -/
def Obligations.LinkEvents : Prop :=  ∀ (p good : Nat) (s : State) (x : Port), s.ctl.ports[p]? = some x → (s.ctl.runs = false → ∀ j ∈ [Instr.portTrain p good, .flitReceive p default, .flitNak p 0,
      .linkRetrain p, .retrainDone p good, .switchGroupReport p 0 true], exec j s = .next s) ∧ (s.ctl.runs = true →
    let port (y : Port) : State := { s with ctl := { s.ctl with ports := s.ctl.ports.set p y } }
    let lanes := if 8 ≤ good then 8 else if 4 ≤ good then 4 else 0
    let nak : Port := { x with awaitReplay := true, wire := x.wire ++ [makeFlit 6 0 x.txSeq (x.rxSeq - 1) []] }
    (x.disable = false → x.state = 0 → exec (.portTrain p good) s = .next (port { x with state := 1 })) ∧
    (x.disable = false → x.state = 1 → exec (.portTrain p good) s = .next (port { x with lanes := lanes, state := if lanes = 0 then 0 else 2 })) ∧
    (∀ f : Flit, x.state = 2 →
      (crc32c (flitBytes f) ≠ f.crc → exec (.flitReceive p f) s = .next (port nak)) ∧
      (crc32c (flitBytes f) = f.crc →
        let sent := x.sent.filter (fun q => !serialLe q.flit.lseq f.lack)
        let bad : Fab := counted s.fab (0x200 + 32 * p + 16)
        (7 ≤ f.kind.toNat → exec (.flitReceive p f) s = .next { s with fab := bad }) ∧
        (4 ≤ f.vc.toNat → f.kind = 0 ∨ f.kind = 5 ∨ f.kind = 6 → exec (.flitReceive p f) s = .next { s with fab := bad }) ∧
        (f.kind = 5 → f.vc.toNat < 4 → exec (.flitReceive p f) s = .next (port { x with sent := sent, spent := x.spent.modify f.vc.toNat (· - 1) })) ∧
        (1 ≤ f.kind.toNat → f.kind.toNat ≤ 4 →
          (4 ≤ f.vc.toNat → f.lseq = x.rxSeq → ∃ t y, exec (.flitReceive p f) s = .next t ∧ t.fab = bad ∧ t.ctl.ports[p]? = some y ∧ y.rxSeq = x.rxSeq + 1) ∧
          (f.vc.toNat < 4 →
            (f.lseq ≠ x.rxSeq → x.awaitReplay = false → serialLt f.lseq x.rxSeq = false → exec (.flitReceive p f) s = .next (port { nak with sent := sent })) ∧
            (f.lseq ≠ x.rxSeq → serialLt f.lseq x.rxSeq = true → exec (.flitReceive p f) s = .next (port { x with sent := sent })) ∧
            (f.lseq = x.rxSeq → ∃ t y, exec (.flitReceive p f) s = .next t ∧ t.ctl.ports[p]? = some y ∧ y.rxSeq = x.rxSeq + 1 ∧ y.awaitReplay = false ∧
              y.sent = sent ∧ y.wire = x.wire ++ [makeFlit 5 f.vc x.txSeq x.rxSeq []] ∧ (f.kind = 4 → let k := parsePacket f.payload
                k.hops ≠ 0 → (s.ctl.mine k = true → packetOk k = true) → t.fab.arrived = s.fab.arrived ++ [(p, k)])))))) ∧
    (∀ named, x.state = 2 → ∃ t y, exec (.flitNak p named) s = .next t ∧ t.ctl.ports[p]? = some y ∧
      y.wire = x.wire ++ (x.sent.filter (fun q => !serialLe q.flit.lseq named)).map (·.flit)) ∧
    (x.state = 2 → x.disable = false → (∃ q ∈ x.sent, 8 ≤ q.replays) → ∃ t y, exec (.linkRetrain p) s = .next t ∧ t.ctl.ports[p]? = some y ∧ y.state = 3 ∧
      y.sent.map (·.flit) = x.sent.map (·.flit)) ∧
    ((∀ q ∈ x.sent, q.replays < 8) → exec (.linkRetrain p) s = .next s) ∧
    (x.state = 3 →
      (4 ≤ good → exec (.retrainDone p good) s = .next (port { x with state := 2, lanes := lanes, retrain := false, failedRetrains := 0, wire := x.wire ++ x.sent.map (·.flit) })) ∧
      (good < 4 → x.failedRetrains < 2 → exec (.retrainDone p good) s = .next (port { x with failedRetrains := x.failedRetrains + 1 })) ∧
      (good < 4 → 2 ≤ x.failedRetrains → ∃ t y, exec (.retrainDone p good) s = .next t ∧ t.ctl.ports[p]? = some y ∧ y.state = 4 ∧ y.sent = [] ∧
        t.fab.outbox.map (·.came) = s.fab.outbox.map (·.came) ++ (wholePackets [] x.sent).map (·.1))) ∧
    (∀ e n, s.fab.outbox = [e] → e.only = none → e.came = some n → s.flushOutbox.ctl.ports[n]? = s.ctl.ports[n]?) ∧
    (∀ k q, s.fab.arrived[k]? = some (p, q) → s.ctl.mine q = false →
      let out : State := { s with fab := { s.fab with arrived := s.fab.arrived.eraseIdx k } }
      let ps := (s.ctl.mask q.dst).filter (fun n => n != p)
      (q.hops = 0 ∨ ps = [] → exec (.packetTransit k) s = .next out) ∧
      (q.hops ≠ 0 → ∀ n y, ps = [n] → s.ctl.ports[n]? = some y → y.takes { q with hops := q.hops - 1 } = true →
        exec (.packetTransit k) s = .next { out with ctl := { s.ctl with ports := s.ctl.ports.set n (y.push { q with hops := q.hops - 1 } (some p)) } })) ∧
    (∀ id, ¬(id ∈ x.groups) → x.groups.length < 1024 → exec (.switchGroupReport p id true) s = .next (port { x with groups := x.groups ++ [id] })) ∧
    (∀ id, exec (.switchGroupReport p id false) s = .next (port { x with groups := x.groups.filter (fun g => g != id) })))

/-- R33-R36, R39, R45, R47, R379: packets for this device. A duplicate is answered as before and not applied; one whose number is neither before
nor after the next is discarded; an early one of an ordered flow waits; the next one, and any new one of an unordered flow, is decided by
the checks of R39 and settled; a handle without a live import entry answers REVOKED; acknowledgements and negative ones complete the
sender's packets (which ones an acknowledgement after a rejection covers is the model's choice, log 61); 20 µs resend, 2 ms give up; offers
leave at most once per 1 µs, for each live member of the group that can be reached (an entry that cannot be read counts as a dropped offer,
log 67), and land only where they improve. That an offer's VA holds its index and its AUX the value, and that duplicates are acknowledged
again, is the model's choice (log 36). -/
def Obligations.PacketEvents : Prop :=  ∀ (k : Nat) (s : State) (port : Nat) (p : Packet), s.fab.arrived[k]? = some (port, p) → s.ctl.mine p = true →
    let f : Fab := { s.fab with arrived := s.fab.arrived.eraseIdx k }
    let x := f.recvFlow p
    let put (h : Fab) : State := { s with fab := h }
    (isRequest p.op.toNat = true →
      (p.seq - x.next = 2 ^ 31 → exec (.packetReceive k) s = .next (put f)) ∧
      (serialLt p.seq x.next = true ∨ (p.seq ∈ x.decided ∧ p.seq - x.next ≠ 2 ^ 31) →
        (∀ r, x.rejected.find? (fun r => r.1 == p.seq) = some r → exec (.packetReceive k) s = .next (put { f with outbox := f.outbox ++ [⟨none, none, nakFor p r.2⟩] })) ∧
        ((∀ r ∈ x.rejected, r.1 ≠ p.seq) → ¬(p.seq ∈ f.openSeqs p) → exec (.packetReceive k) s = .next (put (f.ackFlow p)))) ∧
      (serialLt p.seq x.next = false → p.seq - x.next ≠ 2 ^ 31 → ¬(p.seq ∈ x.decided) → p.ord = true → p.seq ≠ x.next → (∀ q ∈ x.early, q.seq ≠ p.seq) →
        f.reorderUsed (homeDie p.src p.sctx p.flow) < 4096 → exec (.packetReceive k) s = .next (put (f.putFlow { x with early := x.early ++ [p] }))) ∧
      (¬(p.seq ∈ x.decided) → p.ord = true → p.seq = x.next → (∀ q ∈ x.early, q.seq ≠ x.next + 1) →
        let f1 := f.putFlow { x with next := x.next + 1, early := x.early.filter (fun q => q.seq != p.seq) }
        ∀ c d f2, f1.judge s.ctl p (f1.behindParked p f1.nextId) = (c, d, f2) → exec (.packetReceive k) s = .next (put (f2.settleDecision s.ctl p c d))) ∧
      (serialLt p.seq x.next = false → p.seq - x.next ≠ 2 ^ 31 → ¬(p.seq ∈ x.decided) → p.ord = false → x.decided.Nodup →
        ∀ n, (∀ m, m < n → x.next + BitVec.ofNat 32 m ∈ x.decided ++ [p.seq]) → ¬(x.next + BitVec.ofNat 32 n ∈ x.decided ++ [p.seq]) → ∃ y : RecvFlow,
          y.next = x.next + BitVec.ofNat 32 n ∧ y.early = x.early ∧ y.rejected = x.rejected ∧
          (∀ q, q ∈ y.decided ↔ (q ∈ x.decided ∨ q = p.seq) ∧ ∀ m, m < n → q ≠ x.next + BitVec.ofNat 32 m) ∧
          ∀ c d f2, (f.putFlow y).judge s.ctl p false = (c, d, f2) → exec (.packetReceive k) s = .next (put (f2.settleDecision s.ctl p c d)))) ∧
    (∀ (h : Fab) (b : Bool), h.importEntry s.ctl p.handle = none → h.judge s.ctl p b = (none, .neg 1, h) ∧
      (h.settleDecision s.ctl p none (.neg 1)).outbox = h.outbox ++ [⟨none, none, nakFor p 1⟩]) ∧
    (p.op = 0x0A →
      let mine (y : SentPacket) : Bool := !y.waiting && y.pk.sctx == p.sctx && y.pk.dst == p.src && y.pk.flow == p.flow && y.pk.op != 3 &&
        serialLe y.pk.seq p.seq && (p.aux == 0 || decide ((p.seq - y.pk.seq).toNat < p.aux.toNat))
      exec (.packetAck k) s = .next (put ((s.fab.sent.filter mine).foldl (fun h y => h.answered s.ctl y none (if y.pk.seq = p.seq then p.data else [])) f)) ∧
      ((∀ y ∈ s.fab.sent, y.owner = none) → exec (.packetAck k) s = .next (put ((s.fab.sent.filter mine).foldl (fun h y => h.unsend y) f)))) ∧
    (p.op = 0x04 → exec (.packetAck k) s = .next (put ((s.fab.sent.filter (fun y => !y.waiting && y.pk.sctx == p.sctx && y.pk.dst == p.src && y.pk.flow == p.flow &&
      y.pk.op == 3 && y.pk.seq == p.seq)).foldl (fun h y => h.answered s.ctl y none p.data) f))) ∧
    (p.op = 0x0B → ∀ y, s.fab.sent.find? (fun y => !y.waiting && y.pk.sctx == p.sctx && y.pk.dst == p.src && y.pk.flow == p.flow && y.pk.seq == p.seq) = some y →
      exec (.packetNak k) s = .next (put (f.answered s.ctl y (some (p.aux.toNat % 8)) []))) ∧
    (∀ id y, s.fab.sent.find? (fun y => y.id == id) = some y → y.waiting = false →
      let now := s.fab.time.toNat
      (now < y.lastAt + 20000 → exec (.packetResendTimeout id) s = .next s) ∧
      (y.lastAt + 20000 ≤ now → ∃ t, exec (.packetResendTimeout id) s = .next t ∧ t.fab.outbox = s.fab.outbox ++ [⟨y.port, none, y.pk⟩] ∧
        t.fab.sent = s.fab.sent.map (fun z => if z.id = id then { z with lastAt := now } else z)) ∧
      (now < y.firstAt + 2000000 → exec (.packetUnreachableTimeout id) s = .next s) ∧
      (y.firstAt + 2000000 ≤ now → exec (.packetUnreachableTimeout id) s = .next (put (s.fab.answered s.ctl y (some 2) [])))) ∧
    (∀ ctx i c, s.fab.ctx? ctx = some c → i < 16 →
      (c.offerDue.getD i false = false ∨ c.ended = true → exec (.offerSend ctx i) s = .next s) ∧
      (∀ t0, c.offerAt.getD i none = some t0 → s.fab.time.toNat < t0 + 1000 → exec (.offerSend ctx i) s = .next s) ∧
      (c.offerDue.getD i false = true → c.ended = false → (∀ t0, c.offerAt.getD i none = some t0 → t0 + 1000 ≤ s.fab.time.toNat) →
        let g := s.fab.modCtx ctx (fun y => { y with offerDue := y.offerDue.set i false, offerAt := y.offerAt.set i (some s.fab.time.toNat) })
        let link := (c.incLink.getD i 0).toNat
        (∀ g1, g.ctxRead s.ctl ctx (c.mcastT.toNat + 16 * (link % 256)) 16 = (none, g1) → exec (.offerSend ctx i) s = .next (put (counted g1 0x720))) ∧
        (∀ b g1, g.ctxRead s.ctl ctx (c.mcastT.toNat + 16 * (link % 256)) 16 = (some b, g1) → exec (.offerSend ctx i) s = .next (put
          (if fieldAt b 0 8 / 2 ^ 16 % 2 = 0 then g1 else ((List.range (fieldAt b 0 8 % 2 ^ 13)).map (fun n => fieldAt b 8 8 + 8 * n)).foldl
            (Fab.offerTo s.ctl ctx (link / 2 ^ 8 % 16) (c.incMod.getD i 0)) g1))))) ∧
    (∀ (h : Fab) ctx slot v va, (∀ h1, h.ctxRead s.ctl ctx va 8 = (none, h1) → Fab.offerTo s.ctl ctx slot v h va = counted h1 0x720) ∧
      (∀ e h1, h.ctxRead s.ctl ctx va 8 = (some e, h1) →
        let dev := BitVec.ofNat 12 (leNat e)
        let live : Bool := leNat e / 2 ^ 32 % 4 == 1
        (live = false ∨ s.ctl.reaches dev = false → Fab.offerTo s.ctl ctx slot v h va = h1) ∧
        (live = true → s.ctl.reaches dev = true → ∃ q, Fab.offerTo s.ctl ctx slot v h va = { h1 with outbox := h1.outbox ++ [⟨none, none, q⟩] } ∧ q.op = 9 ∧ q.dst = dev ∧
          q.src = s.ctl.hdevid ∧ q.sctx = 0 ∧ q.handle = BitVec.ofNat 20 (leNat e / 2 ^ 12) ∧ q.va = BitVec.ofNat 48 slot ∧ q.aux = v))) ∧
    (∀ h : Fab, ∀ ctx i c v, h.ctx? ctx = some c → c.linked i = false → ∃ d, (h.offerModule ctx i v).ctx? ctx = some d ∧
      d.incMod = (if c.improves i v (c.incMod.getD i 0) = true then c.incMod.set i v else c.incMod)) ∧
    (p.op = 0x09 → (f.importEntry s.ctl p.handle = none → exec (.offerReceive k) s = .next (put (counted f 0x720))) ∧
      (∀ ctx key, f.importEntry s.ctl p.handle = some (ctx, key) → f.descheduled ctx = false →
        exec (.offerReceive k) s = .next (put (f.offerModule ctx (p.va.toNat % 16) p.aux))) ∧
      (∀ ctx key, f.importEntry s.ctl p.handle = some (ctx, key) → f.descheduled ctx = true → ∀ ok h, f.park s.ctl ctx key p none = (ok, h) →
        exec (.offerReceive k) s = .next (put (if ok then h else counted h 0x720))))

/-- R80-R95, Table 4.4: commands. One that fails its checks completes with its status, without effect or signal; else it starts and does what
its row says: NOP completes, CREATE makes a context, DESTROY removes one, RESUME starts a grid or completes with 2 or 5, PREEMPT takes a
running grid's hitches off the placement queue and asks the clusters that hold or expect its teams to stop them (waiting for a permit of
each link), completes an unstarted RESUME with 7, or ends with 2, CALL checks its buffer and is refused with 3 at depth 4 or where the
buffer overlaps one of its own chain, REPLY writes RESULT to v0 of its token's lane, which goes on with a new window unless it runs a
handler, or answers 9 or 2, STAMP writes TIME. A semaphore that cannot be read ends its command with 2 and its store; a record of a buffer
whose CALL has failed never starts. A PREEMPT to clusters that only expect a team (log 33), its waiting with a reset start (log 56), status
2 of a misaligned CALL and the image of an unstarted RESUME (log 31) are the model's choices. -/
def Obligations.CommandEvents : Prop :=  ∀ (id : Nat) (s : State) (c : Cmd), s.ctl.uzRuns = true → s.fab.cmd? id = some c →
    let f := s.fab.modCmd id (fun x => { x with started := true })
    let put (h : Fab) : State := { s with fab := h }
    let op := c.rec_.op.toNat
    let ctx := c.rec_.ctxId
    let o (i : Nat) : Nat := fieldAt c.rec_.opnd i 8
    let v := s.fab.verdict c.rec_
    let ends (j : Instr) (st : Nat) (data : List Byte) : Prop := exec j s = .next (put (f.complete s.ctl id st true data))
    (s.fab.startable c = true →
      (v ≠ 0 → ∀ j, (j, op) ∈ [(Instr.cmdNop id, 1), (.cmdCreate id, 2), (.cmdDestroy id, 3), (.cmdResume id, 4), (.cmdPreempt id, 5), (.cmdCall id, 6), (.cmdReply id, 7), (.cmdStamp id, 8)] →
        exec j s = .next (put (s.fab.complete s.ctl id v false []))) ∧
      (v = 0 →
        (op = 1 → ends (.cmdNop id) 0 []) ∧
        (op = 2 → ((∃ x, s.fab.ctx? ctx = some x) → ends (.cmdCreate id) 4 []) ∧
          (s.fab.ctx? ctx = none → memRange (o 0) 512 = false → ends (.cmdCreate id) 2 []) ∧
          (s.fab.ctx? ctx = none → memRange (o 0) 512 = true → ∀ b f1, f.agentRead s.ctl 0 (o 0) 512 = (b, f1) →
            let y := Ctx.ofBytes ctx b
            let f2 := f1.readDesc s.ctl y.evq
            y.acceptable = true → f2.eventQueue y.evq = true →
              exec (.cmdCreate id) s = .next (put (({ f2.forgetCtx ctx with ctxs := f2.ctxs ++ [y] } : Fab).complete s.ctl id 0 true [])))) ∧
        (op = 3 → ∃ t, exec (.cmdDestroy id) s = .next t ∧ t.fab.ctx? ctx = none ∧ ∀ g ∈ t.fab.grids, g.ctx ≠ ctx) ∧
        (op = 4 → ∀ r f1, f.ctxRead s.ctl ctx (o 0) 256 = (r, f1) →
          (r = none → exec (.cmdResume id) s = .next (put (f1.complete s.ctl id 2 true (leBytes 16 0)))) ∧
          (∀ b, r = some b → (ImgHead.parse b).ok b = false → exec (.cmdResume id) s = .next (put (f1.complete s.ctl id 5 true (leBytes 16 0)))) ∧
          (∀ b, r = some b → (ImgHead.parse b).ok b = true → (ImgHead.parse b).full = false → ∃ g,
            exec (.cmdResume id) s = .next (put (({ f1 with nextId := f1.nextId + 1, grids := f1.grids ++ [g] } : Fab).enterHitch ⟨g.id, 0, true⟩)) ∧
            g.id = f1.nextId ∧ g.cmd = id ∧ g.ctx = ctx ∧ g.exitedTeams = 0 ∧ g.nextTeam = 0 ∧ g.ended = false ∧ g.saved = [])) ∧
        (op = 5 → (f.named c = none → ends (.cmdPreempt id) 2 []) ∧ (∀ y, f.named c = some y →
          (y.rec_.op.toNat ≠ 4 → ends (.cmdPreempt id) 2 []) ∧
          (y.rec_.op.toNat = 4 → y.started = true →
            ((∀ g ∈ f.grids, g.cmd = y.id → g.ended = true) → ends (.cmdPreempt id) 2 []) ∧
            (∀ g, f.grids.find? (fun g => g.cmd == y.id && !g.ended) = some g → g.preempt = none →
              let asked := f.clustersOf g.id
              let h := asked.foldl (fun (h : Fab) cl => h.sendDown cl ⟨0x04, 0, g.ctx, g.seq, g.id, 0, 0, 0, 0, false⟩)
                (({ f with placement := f.placement.filter (fun x => x.grid != g.id) } : Fab).modGrid g.id
                  (fun x => { x with preempt := some (id, BitVec.ofNat 64 (o 8), asked), preempted := true }))
              (asked.all f.downFree = false → exec (.cmdPreempt id) s = .next (put (f.modCmd id (fun x => { x with started := false })))) ∧
              (asked.all f.downFree = true → exec (.cmdPreempt id) s = .next (put (h.preemptFinish s.ctl g.id)) ∧
                (asked ≠ [] → exec (.cmdPreempt id) s = .next (put h))))) ∧
          (y.rec_.op.toNat = 4 → y.started = false → ∀ b f1, f.ctxRead s.ctl y.rec_.ctxId (fieldAt y.rec_.opnd 0 8) 256 = (some b, f1) → (ImgHead.parse b).full = true →
            let g : Grid := { (ImgHead.parse b).grid f1.nextId y [] with ended := true, preempted := true }
            ∀ ok f2, ({ f1 with grids := f1.grids ++ [g], nextId := f1.nextId + 1 } : Fab).ctxWrite s.ctl ctx (o 8) b = (ok, f2) → exec (.cmdPreempt id) s =
              .next (put ((f2.complete s.ctl y.id 7 true (sliceBytes b 0xB8 16)).complete s.ctl id (if ok then 0 else 2) true []))))) ∧
        (op = 6 → let n := fieldAt c.rec_.opnd 8 2
          (o 0 % 64 ≠ 0 ∨ n = 0 ∨ 4096 < n → ends (.cmdCall id) 2 []) ∧
          (o 0 % 64 = 0 → n ≠ 0 → n ≤ 4096 → (4 ≤ c.depth ∨ ∃ r ∈ c.chain, r.1 < o 0 + 64 * n ∧ o 0 < r.1 + r.2) → ends (.cmdCall id) 3 []) ∧
          (o 0 % 64 = 0 → n ≠ 0 → n ≤ 4096 → c.depth < 4 → (∀ r ∈ c.chain, ¬(r.1 < o 0 + 64 * n ∧ o 0 < r.1 + r.2)) →
            exec (.cmdCall id) s = .next (put (f.modCmd id (fun x => { x with count := n, chain := x.chain ++ [(o 0, 64 * n)] }))))) ∧
        (op = 7 → let tok := BitVec.ofNat 32 (fieldAt c.rec_.opnd 0 4)
          (∀ k sl l, f.tokenLane ctx tok = some (k, sl, l) →
            let h := (f.writeReg k sl 0 [(l, ⟨BitVec.ofNat 32 (fieldAt c.rec_.opnd 4 4), .raw⟩)]).modLane k sl l (fun x => { x with park := none, pc := x.parkNext })
            exec (.cmdReply id) s = .next (put ((h.openWindow k sl l).complete s.ctl id 0 true [])) ∧
            ∀ g, h.group? k sl = some g → (h.openWindow k sl l).group? k sl = some (
              if (∃ x, g.trap = some x ∧ x.handlers.getLsbD l = true) then g
              else { g with lanes := g.lanes.modify l (fun x => if x.window = none then { x with window := some 0 } else x) })) ∧
          (∀ x, f.tokenLane ctx tok = none → s.fab.ctx? ctx = some x → ¬(tok ∈ x.stale) → ends (.cmdReply id) 2 []) ∧
          (∀ x, f.tokenLane ctx tok = none → s.fab.ctx? ctx = some x → tok ∈ x.stale → exec (.cmdReply id) s =
            .next (put ((f.modCtx ctx (fun x => { x with stale := x.stale.erase tok })).complete s.ctl id 9 true [])))) ∧
        (op = 8 → ∀ ok f1, f.ctxWrite s.ctl ctx (o 0) (leBytes 8 s.fab.time.toNat) = (ok, f1) →
          exec (.cmdStamp id) s = .next (put (f1.complete s.ctl id (if ok then 0 else 2) true []))))) ∧
    (s.fab.inOrder c = true → v = 0 → c.rec_.flags.getLsbD 1 = true → c.semOk = false → ∀ x f1, s.fab.semRead s.ctl c.rec_ = (some x, f1) →
      exec (.commandSemaphoreStart id) s = .next (put (if c.rec_.wval.toNat ≤ x then f1.modCmd id (fun x => { x with semOk := true }) else f1))) ∧
    (s.fab.inOrder c = true → v = 0 → c.rec_.flags.getLsbD 1 = true → c.semOk = false → ∀ f1, s.fab.semRead s.ctl c.rec_ = (none, f1) →
      exec (.commandSemaphoreStart id) s = .next (put (f1.complete s.ctl id 2 true []))) ∧
    ((∃ p y, c.parent = some p ∧ s.fab.cmd? p = some y ∧ y.failed.isSome = true) → s.fab.startable c = false) ∧
    (∀ q, (∀ p ∈ s.fab.posts, p.queue ≠ q) → exec (.eventQueueRecheck q) s = .next s) ∧
    (∀ q d p ps, Table.get? s.fab.queues q = some d → s.fab.posts = p :: ps → p.queue = q → (∀ p ∈ ps, p.queue ≠ q) → p.irq = none →
      (s.fab.queueRoom s.ctl d = false → exec (.eventQueueRecheck q) s = .next s) ∧
      (s.fab.queueRoom s.ctl d = true → ∃ t, exec (.eventQueueRecheck q) s = .next t ∧ t.fab.posts = ps ∧
        t.fab.msis = (s.fab.msi d.hart d.msiid).msis ∧ (Table.get? t.fab.queues q).map (·.last) = some (d.last + 1)))

/-- R98-R102, R108, R109, R111: placement and lanyard messages. The first eligible hitch goes to the lowest cluster with room, over a link with
a permit; a leaf controller places it on the lowest free cores, or gives it back where a retirement has left none; it holds what it has no
permit to answer; PREEMPT and RETIRE ask the groups of every resident team that they name, whose hitch has not ended, to stop, and a cluster
without one answers at once; a hitch that has ended frees its cores; SAVED answers a PREEMPT, which completes once every cluster has, or
brings its hitch back to the queue; permits return with messages, or alone after 1 µs. Passing over a hitch that does not fit and the SAVED
of a cluster without a team (log 33), that PERMIT takes no permit (log 51), and a PLACE given back (log 56) are the model's choices. -/
def Obligations.SchedulerEvents : Prop :=  ∀ (s : State) (cl : Nat) (k : Lanyard), s.fab.links[cl]? = some k →
    let put (h : Fab) : State := { s with fab := h }
    let link (h : Fab) (y : Lanyard) : Fab := { h with links := h.links.set cl y }
    let now := s.fab.time.toNat
    (s.ctl.uzRuns = true → (s.fab.placement = [] → exec .hitchPlace s = .next s) ∧
      (∀ h hs g, s.fab.placement = h :: hs → s.fab.grid? h.grid = some g →
        let rest (h : Hitch) (g : Grid) (hs : List Hitch) : List Hitch := if h.more = true ∧ h.index < g.nteams / g.hitch - 1 then { h with index := h.index + 1 } :: hs else hs
        let place (h : Hitch) (g : Grid) : LanyardMsg := ⟨0x01, 0, g.ctx, g.seq, g.id, h.index * g.hitch, g.hitch, g.image, 0, false⟩
        (g.hitchOver h.index = true → exec .hitchPlace s = .next (put { s.fab with placement := rest h g hs })) ∧
        (g.hitchOver h.index = false → g.placeable h.index = true → ∀ c, s.fab.clusterFor s.ctl g.hitch = some c →
          exec .hitchPlace s = .next (put (if s.fab.downFree c then ({ s.fab with placement := rest h g hs } : Fab).sendDown c (place h g) else s.fab))) ∧
        (g.hitchOver h.index = false → s.fab.clusterFor s.ctl g.hitch = none ∨ g.placeable h.index = false → ∀ h2 hs2 g2 c, hs = h2 :: hs2 → h2.grid ≠ h.grid → s.fab.grid? h2.grid = some g2 →
          g2.hitchOver h2.index = false → g2.placeable h2.index = true → s.fab.clusterFor s.ctl g2.hitch = some c → s.fab.downFree c = true →
          exec .hitchPlace s = .next (put (({ s.fab with placement := h :: rest h2 g2 hs2 } : Fab).sendDown c (place h2 g2)))))) ∧
    (∀ m ms, k.down = m :: ms →
      let h := s.fab.tookDown cl m
      let free := k.upPermits + m.pret ≠ 0
      (m.type = 0x01 ∨ m.type = 0x04 → k.held ≠ [] ∨ ¬free → ∀ j, (j = .lanyardPlace cl ∧ m.type = 0x01) ∨ (j = .lanyardPreempt cl ∧ m.type = 0x04) →
        exec j s = .next (put { h with links := h.links.modify cl (fun y => { y with held := y.held ++ [m] }) })) ∧
      (m.type = 0x01 → k.held = [] → free → ∀ g, s.fab.grid? m.grid = some g → g.ended = false →
        let cores := (s.fab.freeCores s.ctl cl).take g.hitch
        (g.hitch ≤ cores.length → g.placeable (m.team / g.hitch) = true → exec (.lanyardPlace cl) s = .next (put ((h.placeHitch s.ctl g m.team cores).sendUp cl
          ⟨0x02, 0, g.ctx, g.seq, g.id, m.team, 0, 0, BitVec.ofNat 8 (cores.foldl (fun a c => a + 2 ^ (c % 8)) 0), false⟩))) ∧
        (cores.length < g.hitch ∨ g.placeable (m.team / g.hitch) = false → g.preempt = none → exec (.lanyardPlace cl) s = .next (put (h.enterHitch ⟨g.id, m.team / g.hitch, false⟩)))) ∧
      (∀ j, (j = .lanyardPreempt cl ∧ m.type = 0x04 ∧ k.held = [] ∧ free) ∨ (j = .lanyardRetire cl ∧ m.type = 0x06) →
        let asked (c : Nat) : Prop := 8 * cl ≤ c ∧ c < 8 * cl + 8 ∧ ∃ x, teamAt s c = some x ∧ (m.clusterScope = true ∨ x.grid = m.grid) ∧
          ∃ d ∈ x.mates, ∃ y, teamAt s d = some y ∧ y.exited = false
        (∃ t, exec j s = .next t ∧ t.ctl = s.ctl ∧ ∀ c slot, (asked c → groupAt t c slot = (groupAt s c slot).map (fun g => if g.ended then g else { g with stop := some .preempt })) ∧
          (¬asked c → groupAt t c slot = groupAt s c slot)) ∧
        ((∀ c, ¬asked c) → exec j s = .next (put (if m.type = 0x04 then h.sendUp cl ⟨0x05, 0, m.ctx, m.seq, m.grid, 0, 0, 0, 0, false⟩ else h)))) ∧
      (m.type = 0x07 → exec (.lanyardPermit cl false) s = .next (put h)) ∧
      (7 < m.type.toNat ∨ m.type = 0 → exec (.lanyardLinkError cl false) s = .next (put ((counted s.fab 0x760).tookDown cl m))) ∧
      h = link s.fab { k with down := ms, upPermits := k.upPermits + m.pret, owedUp := (if m.type = 0x07 then k.owedUp else k.owedUp + 1), owedUpAt := (if k.owedUp = 0 then now else k.owedUpAt) }) ∧
    (∀ m ms, k.up = m :: ms →
      let h := s.fab.tookUp cl m
      h = link s.fab { k with up := ms, downPermits := k.downPermits + m.pret, owedDown := (if m.type = 0x07 then k.owedDown else k.owedDown + 1), owedDownAt := (if k.owedDown = 0 then now else k.owedDownAt) } ∧
      (7 < m.type.toNat ∨ m.type = 0 → exec (.lanyardLinkError cl true) s = .next (put ((counted s.fab 0x760).tookUp cl m))) ∧
      (s.ctl.uzRuns = true →
        (m.type = 0x02 → exec (.lanyardPlaced cl) s = .next (put h)) ∧
        (m.type = 0x03 →
          let n := (s.fab.cores.filter (fun c => match c.2.team with | some x => x.grid == m.grid && x.index - x.j == m.team | none => false)).length
          ∃ t, exec (.lanyardTeamend cl) s = .next t ∧
            (∀ c x, teamAt s c = some x → x.grid = m.grid → x.index - x.j = m.team → teamAt t c = none) ∧
            ∀ g, s.fab.grid? m.grid = some g → g.ended = false → g.preempt = none → ∃ y, t.fab.grid? m.grid = some y ∧ y.exitedTeams = g.exitedTeams + n ∧
              y.ended = decide (g.nteams ≤ g.exitedTeams + n)) ∧
        (m.type = 0x05 → ((s.fab.grid? m.grid = none ∨ ∃ g, s.fab.grid? m.grid = some g ∧ g.ended = true) → exec (.lanyardSaved cl) s = .next (put h)) ∧
          (∀ g, s.fab.grid? m.grid = some g → g.ended = false →
            (g.preempt = none → exec (.lanyardSaved cl) s = .next (put (h.enterHitch ⟨g.id, m.team / g.hitch, false⟩))) ∧
            (∀ cmd image asked, g.preempt = some (cmd, image, asked) →
              let y := h.modGrid g.id (fun x => { x with preempt := x.preempt.map (fun q => (q.1, q.2.1, q.2.2.filter (· != cl))) })
              exec (.lanyardSaved cl) s = .next (put (y.preemptFinish s.ctl g.id)) ∧
              ((∃ d ∈ asked, d ≠ cl) → exec (.lanyardSaved cl) s = .next (put y))))) ∧
        (m.type = 0x07 → exec (.lanyardPermit cl true) s = .next (put h)))) ∧
    (∀ (h : Fab) gid g cmd image c, h.grid? gid = some g → g.preempt = some (cmd, image, []) → h.anyResident gid = false → h.underway gid = false → h.cmd? cmd = some c →
      ∀ ok f1, h.writeImage s.ctl c.rec_.ctxId image.toNat { g with nextTeam := g.firstFresh } = (ok, f1) →
        h.preemptFinish s.ctl gid = ((((f1.modGrid gid (fun x => { x with ended := true, preempt := none, preempted := true, saved := [] })).complete s.ctl cmd
          (if ok then 0 else 2) true []).complete s.ctl g.cmd 7 true g.countBytes).endPreempts s.ctl g 2)) ∧
    (exec (.permitReturnTimeout cl true) s = .next (if k.owedUp ≠ 0 ∧ k.owedUpAt + 1000 ≤ now then
      put (link s.fab { k with up := k.up ++ [⟨0x07, k.owedUp, 0, 0, 0, 0, 0, 0, 0, false⟩], owedUp := 0 }) else s)) ∧
    (s.ctl.uzRuns = true → exec (.permitReturnTimeout cl false) s = .next (if k.owedDown ≠ 0 ∧ k.owedDownAt + 1000 ≤ now then
      put (link s.fab { k with down := k.down ++ [⟨0x07, k.owedDown, 0, 0, 0, 0, 0, 0, 0, false⟩], owedDown := 0 }) else s))

/-- R94, R97, R103, R107, R108, R110, R129, R195: groups. A group stops only when it is asked and quiet: a completion that it has not delivered
is delivered first, once it is in the ring; else it keeps its lanes at their region heads with their checkpoints, and its hitch is saved and
frees its cores once every group of it has stopped and a permit is free. Registers are granted in order; sleepers wake at their target,
which TIME passes by no more than 1,000 ns while they sleep; no cycle passes while a picker has a slot and a group for it, and no more than
one, or its GAP, while a group could issue; a malformed record traps its lanes; a posted request of `syscall` takes its lane's token, with
an interrupt; a ring packet that has waited 32 fc enters the escape channel. Saved teams kept by the grid (log 32), one SAVED for a hitch
(log 33), a save that waits for a permit (log 56) and whose record FADDR holds (log 72) are the model's choices. R115-R117, Table 6.2: at
every stage of the propagation, each replica of the stage's kind that the source reaches takes the source's value where that improves it,
and keeps its own otherwise: cores to their cluster (2), clusters to their die (3), a die to the other seven dies and the module value (4),
to its own six clusters (5), a cluster to its eight cores, whose dominated lanes are cancelled (6), the module value to every die (7). -/
def Obligations.GroupEvents : Prop := (
    ∀ (s : State),
      let put (h : Fab) : State := { s with fab := h }
      let now := s.fab.time.toNat
      (∀ c slot g tm, teamAt s c = some tm → groupAt s c slot = some g →
        (g.stop = none → g.stopped = false → g.ended = false → exec (.groupStop c slot) s = .next s) ∧
        (g.stopped = false → g.ended = false → s.fab.quiet c g = false → exec (.groupStop c slot) s = .next s) ∧
        (g.stopped = true ∨ g.ended = true → exec (.groupStop c slot) s = .next (put (s.fab.saveHitch c))) ∧
        (g.stopped = false → g.ended = false → s.fab.quiet c g = true → (∃ u ∈ g.undel, u.isHeld = true) → (g.undel.filter Undel.inRing).length < 64 → g.roused.frontier ≠ none →
          exec (.groupStop c slot) s = .next s) ∧
        (g.stopped = false → g.ended = false → g.stop ≠ none → s.fab.quiet c g = true → g.ringOwed = false → ∀ u ls pc, g.undelivered = some u → g.roused.frontier = some (ls, pc) →
          exec (.groupStop c slot) s = .next (put (((s.fab.modGroup c slot (fun g => { g.roused with undel := g.undel.erase u, hold := none })).takeTrap s.ctl c slot
            (u.trap.pend ls pc)).flushHeld s.ctl c slot))) ∧
        (g.stopped = false → g.ended = false → g.stop = some .preempt → s.fab.quiet c g = true → g.undel = [] → ∃ (h : Fab) (g' : Group), exec (.groupStop c slot) s = .next (put (h.saveHitch c)) ∧
          h.group? c slot = some g' ∧ g'.stopped = true ∧ g'.hold = none ∧ g'.storeQ = [] ∧ g'.loads = [] ∧ g'.rem = [] ∧ g'.ringCount = 0 ∧
          ∀ (l : Nat) (x : Lane), g.lanes[l]? = some x → ∃ x' : Lane, g'.lanes[l]? = some x' ∧ x'.status = x.status ∧ x'.ck = x.ck ∧ x'.task = x.task ∧
            (x.status = .live → x'.pc = x.ck.head ∧ x'.prio = x.ck.prio ∧ x'.regs = x.ck.table ∧ x'.park = none)) ∧
        (∀ entry pc target acs, g.hold = some (.sleep entry pc target) → now ≤ target + 1000 → (s.fab.elapse acs).time.toNat ≤ target + 1000) ∧
        (∀ acs, s.fab.pick ≠ none → (s.fab.elapse acs).ac = s.fab.ac ∧ (s.fab.elapse acs).time = s.fab.time) ∧
        (∀ acs, s.fab.ready c tm g = true → (s.fab.elapse acs).ac ≤ max (s.fab.ac + 1) g.gapUntil) ∧
        (∀ entry pc target, g.hold = some (.sleep entry pc target) → ∃ t, exec (.sleepWake c slot) s = .next t ∧
          (∀ c' n, groupAt t c' n = if c' = c ∧ n = slot ∧ target ≤ now then some { g with hold := none } else groupAt s c' n)) ∧
        (g.malformed = 0 → exec (.malformedTaskTrap c slot) s = .next s) ∧
        (g.malformed ≠ 0 → g.pendTrap = none → (g.hold = none ∨ g.hold = some .retry ∨ ∃ e pc x, g.hold = some (.wait e pc x)) → exec (.malformedTaskTrap c slot) s = .next (put ((s.fab.modGroup c slot (fun g => { g with malformed := 0, malformedWords := [] })).takeTrap s.ctl c slot
          ⟨0x02, 1, g.malformed, g.malformed, (match g.malformedWords with | w :: _ => w.2 | [] => 0), 0, match (g.numbered.filter (fun p => inMask g.malformed p.1)).head? with | some p => p.2.pc | none => 0⟩))) ∧
        ((∀ x ∈ g.lanes, ∀ b, x.park ≠ some (.syscall none b)) → exec (.syscallRequestPost c slot) s = .next s) ∧
        (∀ l x b y h, g.lanes[l]? = some x → x.park = some (.syscall none b) → (∀ n z b', n ≠ l → g.lanes[n]? = some z → z.park ≠ some (.syscall none b')) →
          s.fab.ctx? tm.ctx = some y →
          (s.fab.enqueueVa s.ctl y.id y.sysQ.toNat b = (.ok, h) → h.cores = s.fab.cores →
            let t := (h.modLane c slot l (fun z => { z with park := some (.syscall (some (requestToken b)) b) }))
            exec (.syscallRequestPost c slot) s = .next (put (t.msi y.sysHart y.sysId))) ∧
          (s.fab.enqueueVa s.ctl y.id y.sysQ.toNat b = (.full, h) → exec (.syscallRequestPost c slot) s = .next (put h))) ∧
        (∀ q qs, (s.fab.core c).regQueue = q :: qs → q.slot = slot → q.readmit = false → q.regs ≤ s.fab.freeRegs c → ∀ entry active pc r, g.hold = some (.grow entry active pc r) →
          ∃ t g', exec (.registerGrant c) s = .next t ∧ (t.fab.core c).regQueue = qs ∧ groupAt t c slot = some g' ∧ g'.hold = none ∧ g'.r = r)) ∧
      (∀ (h : Fab) c tm, (h.core c).team = some tm →
        (h.hitchStopped tm = false ∨ h.upFree (c / 8) = false → h.saveHitch c = h) ∧
        (h.hitchStopped tm = true → h.upFree (c / 8) = true → (∀ d ∈ tm.mates, ((h.saveHitch c).core d).team = none) ∧
          (h.saveHitch c).links = h.links.modify (c / 8) (fun y => y.sendUp ⟨0x05, 0, tm.ctx, h.gridSeq tm.grid, tm.grid, tm.index - tm.j, 0, 0, 0, false⟩) ∧
          (tm.mates = [c] → ∀ g ∈ (h.saveHitch c).grids, g.id = tm.grid → ∃ y, (tm.index, y) ∈ g.saved ∧ y.scratch = tm.scratch ∧ y.sectors = tm.sectors ∧ y.slots = tm.slots ∧
            y.groups.map (fun x => (x.lanes, x.gcw)) = tm.groups.map (fun x => (x.lanes, x.gcw))))) ∧
      (∀ n p, s.fab.ring[n]? = some p → exec (.escapeChannel n) s = .next (if p.stop ≠ p.dst ∧ p.since + 64 ≤ s.fab.ac then
        put { s.fab with ring := s.fab.ring.set n { p with escape := true } } else s))) ∧ (
    ∀ (s : State) (ctx i n : Nat) (x : Ctx), s.fab.ctx? ctx = some x → i < 16 →
      let best (v old : DWord) : DWord := if x.improves i v old then v else old
      let rep (k : Nat) : DWord := s.fab.replica k ctx i
      let inc (c : Nat) : DWord := s.fab.coreInc c ctx i
      (n < 384 → ∃ t, exec (.incumbentPropagate ctx i 2 n) s = .next t ∧ t.fab.replica (n / 8) ctx i = best (inc n) (rep (n / 8))) ∧
      (n < 48 → ∃ t, exec (.incumbentPropagate ctx i 3 n) s = .next t ∧ t.fab.replica (48 + n / 6) ctx i = best (rep n) (rep (48 + n / 6))) ∧
      (n < 8 → ∃ t y, exec (.incumbentPropagate ctx i 4 n) s = .next t ∧
        (∀ d, d < 8 → d ≠ n → t.fab.replica (48 + d) ctx i = best (rep (48 + n)) (rep (48 + d))) ∧
        t.fab.ctx? ctx = some y ∧ y.incMod = x.incMod.set i (best (rep (48 + n)) (x.incMod.getD i 0))) ∧
      (n < 8 → ∃ t, exec (.incumbentPropagate ctx i 5 n) s = .next t ∧ ∀ k, k < 48 → k / 6 = n → t.fab.replica k ctx i = best (rep (48 + n)) (rep k)) ∧
      (n < 48 →
        exec (.incumbentPropagate ctx i 6 n) s = .next { s with fab := (List.range 8).foldl (fun h j => h.offer s.ctl (8 * n + j) ctx i (h.replica n ctx i)) s.fab } ∧
        ((∀ c, c / 8 = n → ∀ tm, teamAt s c = some tm → ∀ g ∈ tm.groups, ∀ y ∈ g.lanes, y.bound = none) →
          ∃ t, exec (.incumbentPropagate ctx i 6 n) s = .next t ∧ ∀ c, c / 8 = n → t.fab.coreInc c ctx i = best (rep n) (inc c))) ∧
      (∃ t, exec (.incumbentPropagate ctx i 7 n) s = .next t ∧ ∀ d, d < 8 → t.fab.replica (48 + d) ctx i = best (x.incMod.getD i 0) (rep (48 + d))))

/-- R11, R164, R168, R171, R184, R187, R188, R194, R199, R204, R205: slices, walks, fault slots and engines. A request goes to the slice that
its requester's map names, over the ring to another die; that slice serves it or, out of service, answers REMAP, on which the requester
refreshes its map and sends again, while its group's later requests to the line wait; a walk that fails takes a slot; 2^24 ac on an absent
sector traps with 0x13; a record waits for room; a response retries, delivers or ends its requesters and frees the slot; a copy delivers
sector by sector; a multicast reads each source line once, into a bight of its cluster, as one is free, and takes the line's bytes from
there until no sector left needs it; the matrix engine's oldest operation works quarter by quarter, each faulting for itself, and completes
with the last. Quarters that fault each for itself and the pieces of their work (log 37), the ring stop of a device's requests (log 60) and
what DELIVER does (log 35) are the model's choices. -/
def Obligations.MemoryEvents : Prop :=  ∀ (s : State),
    let put (h : Fab) : State := { s with fab := h }
    (∀ r : SliceReq,
      let line := r.pa.toNat / 256
      let sl := s.fab.sliceFor s.ctl r
      ((∃ x ∈ s.fab.remaps, x.req.core = r.core ∧ x.req.slot = r.slot ∧ x.req.pa.toNat / 256 = line) → exec (.sliceRequest r) s = .next s) ∧
      (s.ctl.keyRefused r.key = true → exec (.sliceRequest r) s = .next s) ∧
      (memRange r.pa.toNat r.len = true → s.ctl.keyRefused r.key = false → s.fab.lineHeld r.core r.slot line (some sl) = false → s.fab.sendable s.ctl r = true →
        (dieStop (sl / 48) ≠ reqStop r → exec (.sliceRequest r) s = .next (put (s.fab.ringSend (reqStop r) (dieStop (sl / 48)) r.ctx (line % 8) true (.request r sl (s.fab.reqGen s.ctl r))))) ∧
        (dieStop (sl / 48) = reqStop r →
          (s.ctl.sliceOut sl = true → exec (.sliceRequest r) s = .next (put { s.fab with remaps := s.fab.remaps ++ [⟨r, s.fab.reqGen s.ctl r⟩] })) ∧
          (s.ctl.sliceOut sl = false → ∀ b, r.write = some b → exec (.sliceRequest r) s = .next (put (s.fab.l2Write s.ctl r.core r.ctx r.key r.home r.pa.toNat b))) ∧
          (s.ctl.sliceOut sl = false → r.write = none → ∀ b f1, s.fab.l2Read s.ctl r.core r.ctx r.key r.home r.pa.toNat r.len = (b, f1) →
            exec (.sliceRequest r) s = .next (put { f1 with replies := f1.replies ++ [(r, b)] }))))) ∧
    (∀ n m c, s.fab.remaps[n]? = some m → m.req.core = some c →
      let r := m.req
      let g := (counted { s.fab with remaps := s.fab.remaps.eraseIdx n } 0x718).refreshMap s.ctl c r.ctx
      let behind := ({ g with remaps := s.fab.remaps.take n } : Fab).lineHeld r.core r.slot (r.pa.toNat / 256) (some (g.sliceFor s.ctl r))
      (behind = true ∨ g.sendable s.ctl r = false → exec (.remapReceive n) s = .next s) ∧
      (behind = false → g.sendable s.ctl r = true → exec (.remapReceive n) s = .next (put (g.send s.ctl r))) ∧
      (serialLe (s.fab.genOf r.ctx) (s.fab.mapOf s.ctl c r.ctx).gen = false → g.mapOf s.ctl c r.ctx = ⟨s.fab.genOf r.ctx, s.ctl.outSlices⟩)) ∧
    (∀ core ctx va acc, (∀ l p f1, s.fab.translate s.ctl (some core) ctx (BitVec.toNat (va : Addr)) acc = (.ok l p, f1) → exec (.pageWalk core ctx va acc) s = .next (put f1)) ∧
      (∀ r l f1, s.fab.translate s.ctl (some core) ctx va.toNat acc = (.fault r l, f1) → f1.faults = [] → ∃ t x n, exec (.pageWalk core ctx va acc) s = .next t ∧
        t.fab.faults = [(n, x)] ∧ n = 1024 * (core / 48) ∧ x.va = va ∧ x.reason = r ∧ x.level = l ∧ x.ctx = ctx ∧ x.enqueued = false)) ∧
    (∀ c slot g a lanes addr, groupAt s c slot = some g → g.absentSince = some (a, lanes, addr) → g.hold = some .retry →
      exec (.presenceWatchdog c slot) s = .next (if a + 16777216 < s.fab.ac then put (s.fab.takeTrap s.ctl c slot ⟨0x13, 0, lanes, maskOf g.entry, addr, 0,
        match g.entry with | l :: _ => ((g.lanes[l]?).map (·.pc)).getD 0 | [] => 0⟩) else s)) ∧
    (∀ n x, n ≠ 0xFFFF → Table.get? s.fab.faults n = some x →
      (x.enqueued = true → exec (.faultRecordEnqueue n) s = .next s) ∧
      (x.enqueued = false → ∀ ok f1, let y := { x with time := s.fab.time }
        s.fab.postRecord s.ctl x.ctx (y.bytes n) = (ok, f1) →
        exec (.faultRecordEnqueue n) s = .next (put (if ok then { f1 with faults := Table.set f1.faults n { y with enqueued := true } } else f1))) ∧
      (∀ v f1, s.fab.response s.ctl n = (some (x, v), f1) →
        let f2 : Fab := { f1 with faults := Table.erase f1.faults n }
        (v = 1 → exec (.faultRetry n) s = .next (put (x.who.foldl (fun h r => h.retryFor s.ctl n r) f2))) ∧
        (v = 2 → exec (.faultDeliver n) s = .next (put (x.who.foldl (fun h r => h.deliverFor s.ctl x n r) f2))) ∧
        (2 < v → exec (.faultEnd n) s = .next (put (f2.fatal s.ctl x.ctx (f2.faultGrid x) 0x09 x.pc))) ∧
        (v = 0 → exec (.faultRetry n) s = .next (put f1) ∧ exec (.faultDeliver n) s = .next (put f1) ∧ exec (.faultEnd n) s = .next (put f1)))) ∧
    (∀ c op piece o p, s.fab.copy? c op = some o → s.fab.copyWaits c op = false → o.pend[piece]? = some p →
      let line := p.sector / 4
      let unread := o.unread s.ctl line
      let busy (h : Fab) := 16 ≤ (h.bights.filter (fun b => b.core / 8 == c / 8)).length
      let read := (o.receivers = [] ∧ o.handed = true) ∨ (o.receivers ≠ [] ∧ line ∈ o.ready)
      (o.receivers ≠ [] → unread ≠ [] → busy s.fab → exec (.copySectorDeliver c op piece) s = .next s) ∧
      (∀ l, l ∈ unread ↔ ¬(line ∈ o.ready) ∧ l ∈ o.sources s.ctl [line] ∧ Table.get? o.lines l = none) ∧
      (∀ (h : Fab) l b, h.copy? c op = some o → ((h.holdLine c op [(l, b)]).copy? c op).bind (fun x => Table.get? x.lines l) = some b ∧
        (h.holdLine c op [(l, b)]).bights = if busy h then h.bights else h.bights ++ [⟨c, op, l⟩]) ∧
      (∀ (h h1 : Fab) ls b as a n locs, h.copying = some ls → h.engLocs s.ctl c o.ctx as a n .load = .ok locs h1 → h1.copying = some ls → b.length = 256 →
        Table.get? ls (engAddr as a / 256) = some b → engAddr as a % 256 + n ≤ 256 → engAddr as a + n ≤ (if as = 0 then 2 ^ 64 else 2 ^ 32) →
        h.engRead s.ctl c o.ctx as a n = .ok ((b.drop (engAddr as a % 256)).take n) h1) ∧
      (∀ h : Fab, ∀ b, b ∈ (h.freeBights s.ctl c o).bights ↔ b ∈ h.bights ∧ ((b.core = c ∧ b.op = o.id) → o.lines ≠ [] ∧ b.line ∈ o.sources s.ctl o.linesLeft)) ∧
      (read → o.pend.eraseIdx piece ≠ [] → ∃ t, exec (.copySectorDeliver c op piece) s = .next t ∧ t.ctl = s.ctl ∧
        (t.fab.copy? c op).map (·.pend) = some (o.pend.eraseIdx piece)) ∧
      (read → o.pend.eraseIdx piece = [] → ∃ t, exec (.copySectorDeliver c op piece) s = .next t ∧ t.fab.copy? c op = none) ∧
      (o.receivers ≠ [] → ¬(line ∈ o.ready) → unread = [] ∨ ¬busy s.fab → ∀ o' f1, Fab.bightHand s.ctl s.fab c o line = .ok o' f1 →
        exec (.copySectorDeliver c op piece) s = .next (put (f1.deliverPart s.ctl c o' piece)) ∧ line ∈ o'.ready)) ∧
    (∀ (h : Fab) c tm o rest, (h.core c).team = some tm → (h.core c).mxq = o :: rest →
      (o.quarter < o.op.quarters → (h.mxWaits c = true ∨ ∃ x ∈ o.op.reads o.quarter, h.tilePresent x = false) → h.mxUnit s.ctl c true = h) ∧
      (o.quarter < o.op.quarters → h.mxWaits c = false → (∀ x ∈ o.op.reads o.quarter, h.tilePresent x = true) →
        let work := Eng.denying o.denied (Fab.mxWork s.ctl c tm.ctx o (h.mxBlocks c o.op - o.blocks)) h
        (∀ b f1, work = .ok b f1 → h.mxUnit s.ctl c true = f1.mxHead c (fun o => o.next (some b))) ∧
        (∀ e f1, work = .fault e f1 → h.mxUnit s.ctl c true = ((f1.mxHead c (fun o => o.next none)).bldEmpty c o).engFault s.ctl c o.slot o.seq o.op.cls o.ord o.lanes
          (e.record 1 (BitVec.ofNat 8 o.op.cls) (match o.routine with | some r => r.handle | none => 0) o.pc))) ∧
      (o.op.quarters ≤ o.quarter →
        let q := h.core c
        h.mxPop s.ctl c = ((h.setCore c { q with mxq := rest }).sendHand s.ctl c tm.ctx o).retireHeld c o.slot) ∧
      (o.quarter < o.op.quarters → h.mxPop s.ctl c = h)) ∧
    (∀ c o rest, (s.fab.core c).mxq = o :: rest → exec (.matrixOpComplete c) s =
      .next (put (((List.range (o.op.quarters - o.quarter)).foldl (fun f _ => f.mxUnit s.ctl c true) s.fab).mxPop s.ctl c)))
end

