-- ==== Sys2Proof/Laws/State.lean ====
section
/-!
SUPPORT. The fields of the state under each named update: one lemma per field per update, and the cores, groups and lanes
that an update of one leaves as they were.
-/
namespace Sys2Proof.Machine

/-! ## `setCore` -/

@[simp] theorem Fab.setCore_time (f : Fab) (c : Nat) (k : Core) : (f.setCore c k).time = f.time := rfl
@[simp] theorem Fab.setCore_ac (f : Fab) (c : Nat) (k : Core) : (f.setCore c k).ac = f.ac := rfl
@[simp] theorem Fab.setCore_issueSlots (f : Fab) (c : Nat) (k : Core) : (f.setCore c k).issueSlots = f.issueSlots := rfl
@[simp] theorem Fab.setCore_mem (f : Fab) (c : Nat) (k : Core) : (f.setCore c k).mem = f.mem := rfl
@[simp] theorem Fab.setCore_memKeys (f : Fab) (c : Nat) (k : Core) : (f.setCore c k).memKeys = f.memKeys := rfl
@[simp] theorem Fab.setCore_l2 (f : Fab) (c : Nat) (k : Core) : (f.setCore c k).l2 = f.l2 := rfl
@[simp] theorem Fab.setCore_marks (f : Fab) (c : Nat) (k : Core) : (f.setCore c k).marks = f.marks := rfl
@[simp] theorem Fab.setCore_dieTlb (f : Fab) (c : Nat) (k : Core) : (f.setCore c k).dieTlb = f.dieTlb := rfl
@[simp] theorem Fab.setCore_waiters (f : Fab) (c : Nat) (k : Core) : (f.setCore c k).waiters = f.waiters := rfl
@[simp] theorem Fab.setCore_ctxs (f : Fab) (c : Nat) (k : Core) : (f.setCore c k).ctxs = f.ctxs := rfl
@[simp] theorem Fab.setCore_grids (f : Fab) (c : Nat) (k : Core) : (f.setCore c k).grids = f.grids := rfl
@[simp] theorem Fab.setCore_replicas (f : Fab) (c : Nat) (k : Core) : (f.setCore c k).replicas = f.replicas := rfl
@[simp] theorem Fab.setCore_faults (f : Fab) (c : Nat) (k : Core) : (f.setCore c k).faults = f.faults := rfl
@[simp] theorem Fab.setCore_engPosts (f : Fab) (c : Nat) (k : Core) : (f.setCore c k).engPosts = f.engPosts := rfl
@[simp] theorem Fab.setCore_remaps (f : Fab) (c : Nat) (k : Core) : (f.setCore c k).remaps = f.remaps := rfl
@[simp] theorem Fab.setCore_replies (f : Fab) (c : Nat) (k : Core) : (f.setCore c k).replies = f.replies := rfl
@[simp] theorem Fab.setCore_ring (f : Fab) (c : Nat) (k : Core) : (f.setCore c k).ring = f.ring := rfl
@[simp] theorem Fab.setCore_ringFlows (f : Fab) (c : Nat) (k : Core) : (f.setCore c k).ringFlows = f.ringFlows := rfl
@[simp] theorem Fab.setCore_placement (f : Fab) (c : Nat) (k : Core) : (f.setCore c k).placement = f.placement := rfl
@[simp] theorem Fab.setCore_links (f : Fab) (c : Nat) (k : Core) : (f.setCore c k).links = f.links := rfl
@[simp] theorem Fab.setCore_queues (f : Fab) (c : Nat) (k : Core) : (f.setCore c k).queues = f.queues := rfl
@[simp] theorem Fab.setCore_cmds (f : Fab) (c : Nat) (k : Core) : (f.setCore c k).cmds = f.cmds := rfl
@[simp] theorem Fab.setCore_posts (f : Fab) (c : Nat) (k : Core) : (f.setCore c k).posts = f.posts := rfl
@[simp] theorem Fab.setCore_msis (f : Fab) (c : Nat) (k : Core) : (f.setCore c k).msis = f.msis := rfl
@[simp] theorem Fab.setCore_sendFlows (f : Fab) (c : Nat) (k : Core) : (f.setCore c k).sendFlows = f.sendFlows := rfl
@[simp] theorem Fab.setCore_sent (f : Fab) (c : Nat) (k : Core) : (f.setCore c k).sent = f.sent := rfl
@[simp] theorem Fab.setCore_recvFlows (f : Fab) (c : Nat) (k : Core) : (f.setCore c k).recvFlows = f.recvFlows := rfl
@[simp] theorem Fab.setCore_arrived (f : Fab) (c : Nat) (k : Core) : (f.setCore c k).arrived = f.arrived := rfl
@[simp] theorem Fab.setCore_outbox (f : Fab) (c : Nat) (k : Core) : (f.setCore c k).outbox = f.outbox := rfl
@[simp] theorem Fab.setCore_redHeld (f : Fab) (c : Nat) (k : Core) : (f.setCore c k).redHeld = f.redHeld := rfl
@[simp] theorem Fab.setCore_bights (f : Fab) (c : Nat) (k : Core) : (f.setCore c k).bights = f.bights := rfl
@[simp] theorem Fab.setCore_bypasses (f : Fab) (c : Nat) (k : Core) : (f.setCore c k).bypasses = f.bypasses := rfl
@[simp] theorem Fab.setCore_refused (f : Fab) (c : Nat) (k : Core) : (f.setCore c k).refused = f.refused := rfl
@[simp] theorem Fab.setCore_copying (f : Fab) (c : Nat) (k : Core) : (f.setCore c k).copying = f.copying := rfl
@[simp] theorem Fab.setCore_life (f : Fab) (c : Nat) (k : Core) : (f.setCore c k).life = f.life := rfl
@[simp] theorem Fab.setCore_regWrites (f : Fab) (c : Nat) (k : Core) : (f.setCore c k).regWrites = f.regWrites := rfl
@[simp] theorem Fab.setCore_dmaDone (f : Fab) (c : Nat) (k : Core) : (f.setCore c k).dmaDone = f.dmaDone := rfl
@[simp] theorem Fab.setCore_peerOut (f : Fab) (c : Nat) (k : Core) : (f.setCore c k).peerOut = f.peerOut := rfl
@[simp] theorem Fab.setCore_nextId (f : Fab) (c : Nat) (k : Core) : (f.setCore c k).nextId = f.nextId := rfl
@[simp] theorem Fab.setCore_epoch (f : Fab) (c : Nat) (k : Core) : (f.setCore c k).epoch = f.epoch := rfl
@[simp] theorem Fab.setCore_issuer (f : Fab) (c : Nat) (k : Core) : (f.setCore c k).issuer = f.issuer := rfl

/-! ## `modTeam` -/

@[simp] theorem Fab.modTeam_time (f : Fab) (c : Nat) (h : Team → Team) : (f.modTeam c h).time = f.time := by unfold Fab.modTeam; dsimp only; split <;> rfl
@[simp] theorem Fab.modTeam_ac (f : Fab) (c : Nat) (h : Team → Team) : (f.modTeam c h).ac = f.ac := by unfold Fab.modTeam; dsimp only; split <;> rfl
@[simp] theorem Fab.modTeam_issueSlots (f : Fab) (c : Nat) (h : Team → Team) : (f.modTeam c h).issueSlots = f.issueSlots := by unfold Fab.modTeam; dsimp only; split <;> rfl
@[simp] theorem Fab.modTeam_mem (f : Fab) (c : Nat) (h : Team → Team) : (f.modTeam c h).mem = f.mem := by unfold Fab.modTeam; dsimp only; split <;> rfl
@[simp] theorem Fab.modTeam_memKeys (f : Fab) (c : Nat) (h : Team → Team) : (f.modTeam c h).memKeys = f.memKeys := by unfold Fab.modTeam; dsimp only; split <;> rfl
@[simp] theorem Fab.modTeam_l2 (f : Fab) (c : Nat) (h : Team → Team) : (f.modTeam c h).l2 = f.l2 := by unfold Fab.modTeam; dsimp only; split <;> rfl
@[simp] theorem Fab.modTeam_marks (f : Fab) (c : Nat) (h : Team → Team) : (f.modTeam c h).marks = f.marks := by unfold Fab.modTeam; dsimp only; split <;> rfl
@[simp] theorem Fab.modTeam_dieTlb (f : Fab) (c : Nat) (h : Team → Team) : (f.modTeam c h).dieTlb = f.dieTlb := by unfold Fab.modTeam; dsimp only; split <;> rfl
@[simp] theorem Fab.modTeam_waiters (f : Fab) (c : Nat) (h : Team → Team) : (f.modTeam c h).waiters = f.waiters := by unfold Fab.modTeam; dsimp only; split <;> rfl
@[simp] theorem Fab.modTeam_ctxs (f : Fab) (c : Nat) (h : Team → Team) : (f.modTeam c h).ctxs = f.ctxs := by unfold Fab.modTeam; dsimp only; split <;> rfl
@[simp] theorem Fab.modTeam_grids (f : Fab) (c : Nat) (h : Team → Team) : (f.modTeam c h).grids = f.grids := by unfold Fab.modTeam; dsimp only; split <;> rfl
@[simp] theorem Fab.modTeam_replicas (f : Fab) (c : Nat) (h : Team → Team) : (f.modTeam c h).replicas = f.replicas := by unfold Fab.modTeam; dsimp only; split <;> rfl
@[simp] theorem Fab.modTeam_faults (f : Fab) (c : Nat) (h : Team → Team) : (f.modTeam c h).faults = f.faults := by unfold Fab.modTeam; dsimp only; split <;> rfl
@[simp] theorem Fab.modTeam_engPosts (f : Fab) (c : Nat) (h : Team → Team) : (f.modTeam c h).engPosts = f.engPosts := by unfold Fab.modTeam; dsimp only; split <;> rfl
@[simp] theorem Fab.modTeam_remaps (f : Fab) (c : Nat) (h : Team → Team) : (f.modTeam c h).remaps = f.remaps := by unfold Fab.modTeam; dsimp only; split <;> rfl
@[simp] theorem Fab.modTeam_replies (f : Fab) (c : Nat) (h : Team → Team) : (f.modTeam c h).replies = f.replies := by unfold Fab.modTeam; dsimp only; split <;> rfl
@[simp] theorem Fab.modTeam_ring (f : Fab) (c : Nat) (h : Team → Team) : (f.modTeam c h).ring = f.ring := by unfold Fab.modTeam; dsimp only; split <;> rfl
@[simp] theorem Fab.modTeam_ringFlows (f : Fab) (c : Nat) (h : Team → Team) : (f.modTeam c h).ringFlows = f.ringFlows := by unfold Fab.modTeam; dsimp only; split <;> rfl
@[simp] theorem Fab.modTeam_placement (f : Fab) (c : Nat) (h : Team → Team) : (f.modTeam c h).placement = f.placement := by unfold Fab.modTeam; dsimp only; split <;> rfl
@[simp] theorem Fab.modTeam_links (f : Fab) (c : Nat) (h : Team → Team) : (f.modTeam c h).links = f.links := by unfold Fab.modTeam; dsimp only; split <;> rfl
@[simp] theorem Fab.modTeam_queues (f : Fab) (c : Nat) (h : Team → Team) : (f.modTeam c h).queues = f.queues := by unfold Fab.modTeam; dsimp only; split <;> rfl
@[simp] theorem Fab.modTeam_cmds (f : Fab) (c : Nat) (h : Team → Team) : (f.modTeam c h).cmds = f.cmds := by unfold Fab.modTeam; dsimp only; split <;> rfl
@[simp] theorem Fab.modTeam_posts (f : Fab) (c : Nat) (h : Team → Team) : (f.modTeam c h).posts = f.posts := by unfold Fab.modTeam; dsimp only; split <;> rfl
@[simp] theorem Fab.modTeam_msis (f : Fab) (c : Nat) (h : Team → Team) : (f.modTeam c h).msis = f.msis := by unfold Fab.modTeam; dsimp only; split <;> rfl
@[simp] theorem Fab.modTeam_sendFlows (f : Fab) (c : Nat) (h : Team → Team) : (f.modTeam c h).sendFlows = f.sendFlows := by unfold Fab.modTeam; dsimp only; split <;> rfl
@[simp] theorem Fab.modTeam_sent (f : Fab) (c : Nat) (h : Team → Team) : (f.modTeam c h).sent = f.sent := by unfold Fab.modTeam; dsimp only; split <;> rfl
@[simp] theorem Fab.modTeam_recvFlows (f : Fab) (c : Nat) (h : Team → Team) : (f.modTeam c h).recvFlows = f.recvFlows := by unfold Fab.modTeam; dsimp only; split <;> rfl
@[simp] theorem Fab.modTeam_arrived (f : Fab) (c : Nat) (h : Team → Team) : (f.modTeam c h).arrived = f.arrived := by unfold Fab.modTeam; dsimp only; split <;> rfl
@[simp] theorem Fab.modTeam_outbox (f : Fab) (c : Nat) (h : Team → Team) : (f.modTeam c h).outbox = f.outbox := by unfold Fab.modTeam; dsimp only; split <;> rfl
@[simp] theorem Fab.modTeam_redHeld (f : Fab) (c : Nat) (h : Team → Team) : (f.modTeam c h).redHeld = f.redHeld := by unfold Fab.modTeam; dsimp only; split <;> rfl
@[simp] theorem Fab.modTeam_bights (f : Fab) (c : Nat) (h : Team → Team) : (f.modTeam c h).bights = f.bights := by unfold Fab.modTeam; dsimp only; split <;> rfl
@[simp] theorem Fab.modTeam_bypasses (f : Fab) (c : Nat) (h : Team → Team) : (f.modTeam c h).bypasses = f.bypasses := by unfold Fab.modTeam; dsimp only; split <;> rfl
@[simp] theorem Fab.modTeam_refused (f : Fab) (c : Nat) (h : Team → Team) : (f.modTeam c h).refused = f.refused := by unfold Fab.modTeam; dsimp only; split <;> rfl
@[simp] theorem Fab.modTeam_copying (f : Fab) (c : Nat) (h : Team → Team) : (f.modTeam c h).copying = f.copying := by unfold Fab.modTeam; dsimp only; split <;> rfl
@[simp] theorem Fab.modTeam_life (f : Fab) (c : Nat) (h : Team → Team) : (f.modTeam c h).life = f.life := by unfold Fab.modTeam; dsimp only; split <;> rfl
@[simp] theorem Fab.modTeam_regWrites (f : Fab) (c : Nat) (h : Team → Team) : (f.modTeam c h).regWrites = f.regWrites := by unfold Fab.modTeam; dsimp only; split <;> rfl
@[simp] theorem Fab.modTeam_dmaDone (f : Fab) (c : Nat) (h : Team → Team) : (f.modTeam c h).dmaDone = f.dmaDone := by unfold Fab.modTeam; dsimp only; split <;> rfl
@[simp] theorem Fab.modTeam_peerOut (f : Fab) (c : Nat) (h : Team → Team) : (f.modTeam c h).peerOut = f.peerOut := by unfold Fab.modTeam; dsimp only; split <;> rfl
@[simp] theorem Fab.modTeam_nextId (f : Fab) (c : Nat) (h : Team → Team) : (f.modTeam c h).nextId = f.nextId := by unfold Fab.modTeam; dsimp only; split <;> rfl
@[simp] theorem Fab.modTeam_epoch (f : Fab) (c : Nat) (h : Team → Team) : (f.modTeam c h).epoch = f.epoch := by unfold Fab.modTeam; dsimp only; split <;> rfl
@[simp] theorem Fab.modTeam_issuer (f : Fab) (c : Nat) (h : Team → Team) : (f.modTeam c h).issuer = f.issuer := by unfold Fab.modTeam; dsimp only; split <;> rfl

/-! ## `modGroup` -/

@[simp] theorem Fab.modGroup_time (f : Fab) (c s : Nat) (h : Group → Group) : (f.modGroup c s h).time = f.time := by unfold Fab.modGroup; dsimp only; split <;> rfl
@[simp] theorem Fab.modGroup_ac (f : Fab) (c s : Nat) (h : Group → Group) : (f.modGroup c s h).ac = f.ac := by unfold Fab.modGroup; dsimp only; split <;> rfl
@[simp] theorem Fab.modGroup_issueSlots (f : Fab) (c s : Nat) (h : Group → Group) : (f.modGroup c s h).issueSlots = f.issueSlots := by unfold Fab.modGroup; dsimp only; split <;> rfl
@[simp] theorem Fab.modGroup_mem (f : Fab) (c s : Nat) (h : Group → Group) : (f.modGroup c s h).mem = f.mem := by unfold Fab.modGroup; dsimp only; split <;> rfl
@[simp] theorem Fab.modGroup_memKeys (f : Fab) (c s : Nat) (h : Group → Group) : (f.modGroup c s h).memKeys = f.memKeys := by unfold Fab.modGroup; dsimp only; split <;> rfl
@[simp] theorem Fab.modGroup_l2 (f : Fab) (c s : Nat) (h : Group → Group) : (f.modGroup c s h).l2 = f.l2 := by unfold Fab.modGroup; dsimp only; split <;> rfl
@[simp] theorem Fab.modGroup_marks (f : Fab) (c s : Nat) (h : Group → Group) : (f.modGroup c s h).marks = f.marks := by unfold Fab.modGroup; dsimp only; split <;> rfl
@[simp] theorem Fab.modGroup_dieTlb (f : Fab) (c s : Nat) (h : Group → Group) : (f.modGroup c s h).dieTlb = f.dieTlb := by unfold Fab.modGroup; dsimp only; split <;> rfl
@[simp] theorem Fab.modGroup_waiters (f : Fab) (c s : Nat) (h : Group → Group) : (f.modGroup c s h).waiters = f.waiters := by unfold Fab.modGroup; dsimp only; split <;> rfl
@[simp] theorem Fab.modGroup_ctxs (f : Fab) (c s : Nat) (h : Group → Group) : (f.modGroup c s h).ctxs = f.ctxs := by unfold Fab.modGroup; dsimp only; split <;> rfl
@[simp] theorem Fab.modGroup_grids (f : Fab) (c s : Nat) (h : Group → Group) : (f.modGroup c s h).grids = f.grids := by unfold Fab.modGroup; dsimp only; split <;> rfl
@[simp] theorem Fab.modGroup_replicas (f : Fab) (c s : Nat) (h : Group → Group) : (f.modGroup c s h).replicas = f.replicas := by unfold Fab.modGroup; dsimp only; split <;> rfl
@[simp] theorem Fab.modGroup_faults (f : Fab) (c s : Nat) (h : Group → Group) : (f.modGroup c s h).faults = f.faults := by unfold Fab.modGroup; dsimp only; split <;> rfl
@[simp] theorem Fab.modGroup_engPosts (f : Fab) (c s : Nat) (h : Group → Group) : (f.modGroup c s h).engPosts = f.engPosts := by unfold Fab.modGroup; dsimp only; split <;> rfl
@[simp] theorem Fab.modGroup_remaps (f : Fab) (c s : Nat) (h : Group → Group) : (f.modGroup c s h).remaps = f.remaps := by unfold Fab.modGroup; dsimp only; split <;> rfl
@[simp] theorem Fab.modGroup_replies (f : Fab) (c s : Nat) (h : Group → Group) : (f.modGroup c s h).replies = f.replies := by unfold Fab.modGroup; dsimp only; split <;> rfl
@[simp] theorem Fab.modGroup_ring (f : Fab) (c s : Nat) (h : Group → Group) : (f.modGroup c s h).ring = f.ring := by unfold Fab.modGroup; dsimp only; split <;> rfl
@[simp] theorem Fab.modGroup_ringFlows (f : Fab) (c s : Nat) (h : Group → Group) : (f.modGroup c s h).ringFlows = f.ringFlows := by unfold Fab.modGroup; dsimp only; split <;> rfl
@[simp] theorem Fab.modGroup_placement (f : Fab) (c s : Nat) (h : Group → Group) : (f.modGroup c s h).placement = f.placement := by unfold Fab.modGroup; dsimp only; split <;> rfl
@[simp] theorem Fab.modGroup_links (f : Fab) (c s : Nat) (h : Group → Group) : (f.modGroup c s h).links = f.links := by unfold Fab.modGroup; dsimp only; split <;> rfl
@[simp] theorem Fab.modGroup_queues (f : Fab) (c s : Nat) (h : Group → Group) : (f.modGroup c s h).queues = f.queues := by unfold Fab.modGroup; dsimp only; split <;> rfl
@[simp] theorem Fab.modGroup_cmds (f : Fab) (c s : Nat) (h : Group → Group) : (f.modGroup c s h).cmds = f.cmds := by unfold Fab.modGroup; dsimp only; split <;> rfl
@[simp] theorem Fab.modGroup_posts (f : Fab) (c s : Nat) (h : Group → Group) : (f.modGroup c s h).posts = f.posts := by unfold Fab.modGroup; dsimp only; split <;> rfl
@[simp] theorem Fab.modGroup_msis (f : Fab) (c s : Nat) (h : Group → Group) : (f.modGroup c s h).msis = f.msis := by unfold Fab.modGroup; dsimp only; split <;> rfl
@[simp] theorem Fab.modGroup_sendFlows (f : Fab) (c s : Nat) (h : Group → Group) : (f.modGroup c s h).sendFlows = f.sendFlows := by unfold Fab.modGroup; dsimp only; split <;> rfl
@[simp] theorem Fab.modGroup_sent (f : Fab) (c s : Nat) (h : Group → Group) : (f.modGroup c s h).sent = f.sent := by unfold Fab.modGroup; dsimp only; split <;> rfl
@[simp] theorem Fab.modGroup_recvFlows (f : Fab) (c s : Nat) (h : Group → Group) : (f.modGroup c s h).recvFlows = f.recvFlows := by unfold Fab.modGroup; dsimp only; split <;> rfl
@[simp] theorem Fab.modGroup_arrived (f : Fab) (c s : Nat) (h : Group → Group) : (f.modGroup c s h).arrived = f.arrived := by unfold Fab.modGroup; dsimp only; split <;> rfl
@[simp] theorem Fab.modGroup_outbox (f : Fab) (c s : Nat) (h : Group → Group) : (f.modGroup c s h).outbox = f.outbox := by unfold Fab.modGroup; dsimp only; split <;> rfl
@[simp] theorem Fab.modGroup_redHeld (f : Fab) (c s : Nat) (h : Group → Group) : (f.modGroup c s h).redHeld = f.redHeld := by unfold Fab.modGroup; dsimp only; split <;> rfl
@[simp] theorem Fab.modGroup_bights (f : Fab) (c s : Nat) (h : Group → Group) : (f.modGroup c s h).bights = f.bights := by unfold Fab.modGroup; dsimp only; split <;> rfl
@[simp] theorem Fab.modGroup_bypasses (f : Fab) (c s : Nat) (h : Group → Group) : (f.modGroup c s h).bypasses = f.bypasses := by unfold Fab.modGroup; dsimp only; split <;> rfl
@[simp] theorem Fab.modGroup_refused (f : Fab) (c s : Nat) (h : Group → Group) : (f.modGroup c s h).refused = f.refused := by unfold Fab.modGroup; dsimp only; split <;> rfl
@[simp] theorem Fab.modGroup_copying (f : Fab) (c s : Nat) (h : Group → Group) : (f.modGroup c s h).copying = f.copying := by unfold Fab.modGroup; dsimp only; split <;> rfl
@[simp] theorem Fab.modGroup_life (f : Fab) (c s : Nat) (h : Group → Group) : (f.modGroup c s h).life = f.life := by unfold Fab.modGroup; dsimp only; split <;> rfl
@[simp] theorem Fab.modGroup_regWrites (f : Fab) (c s : Nat) (h : Group → Group) : (f.modGroup c s h).regWrites = f.regWrites := by unfold Fab.modGroup; dsimp only; split <;> rfl
@[simp] theorem Fab.modGroup_dmaDone (f : Fab) (c s : Nat) (h : Group → Group) : (f.modGroup c s h).dmaDone = f.dmaDone := by unfold Fab.modGroup; dsimp only; split <;> rfl
@[simp] theorem Fab.modGroup_peerOut (f : Fab) (c s : Nat) (h : Group → Group) : (f.modGroup c s h).peerOut = f.peerOut := by unfold Fab.modGroup; dsimp only; split <;> rfl
@[simp] theorem Fab.modGroup_nextId (f : Fab) (c s : Nat) (h : Group → Group) : (f.modGroup c s h).nextId = f.nextId := by unfold Fab.modGroup; dsimp only; split <;> rfl
@[simp] theorem Fab.modGroup_epoch (f : Fab) (c s : Nat) (h : Group → Group) : (f.modGroup c s h).epoch = f.epoch := by unfold Fab.modGroup; dsimp only; split <;> rfl
@[simp] theorem Fab.modGroup_issuer (f : Fab) (c s : Nat) (h : Group → Group) : (f.modGroup c s h).issuer = f.issuer := by unfold Fab.modGroup; dsimp only; split <;> rfl

/-! ## `modLane` -/

@[simp] theorem Fab.modLane_time (f : Fab) (c s l : Nat) (h : Lane → Lane) : (f.modLane c s l h).time = f.time := by simp [Fab.modLane]
@[simp] theorem Fab.modLane_ac (f : Fab) (c s l : Nat) (h : Lane → Lane) : (f.modLane c s l h).ac = f.ac := by simp [Fab.modLane]
@[simp] theorem Fab.modLane_issueSlots (f : Fab) (c s l : Nat) (h : Lane → Lane) : (f.modLane c s l h).issueSlots = f.issueSlots := by simp [Fab.modLane]
@[simp] theorem Fab.modLane_mem (f : Fab) (c s l : Nat) (h : Lane → Lane) : (f.modLane c s l h).mem = f.mem := by simp [Fab.modLane]
@[simp] theorem Fab.modLane_memKeys (f : Fab) (c s l : Nat) (h : Lane → Lane) : (f.modLane c s l h).memKeys = f.memKeys := by simp [Fab.modLane]
@[simp] theorem Fab.modLane_l2 (f : Fab) (c s l : Nat) (h : Lane → Lane) : (f.modLane c s l h).l2 = f.l2 := by simp [Fab.modLane]
@[simp] theorem Fab.modLane_marks (f : Fab) (c s l : Nat) (h : Lane → Lane) : (f.modLane c s l h).marks = f.marks := by simp [Fab.modLane]
@[simp] theorem Fab.modLane_dieTlb (f : Fab) (c s l : Nat) (h : Lane → Lane) : (f.modLane c s l h).dieTlb = f.dieTlb := by simp [Fab.modLane]
@[simp] theorem Fab.modLane_waiters (f : Fab) (c s l : Nat) (h : Lane → Lane) : (f.modLane c s l h).waiters = f.waiters := by simp [Fab.modLane]
@[simp] theorem Fab.modLane_ctxs (f : Fab) (c s l : Nat) (h : Lane → Lane) : (f.modLane c s l h).ctxs = f.ctxs := by simp [Fab.modLane]
@[simp] theorem Fab.modLane_grids (f : Fab) (c s l : Nat) (h : Lane → Lane) : (f.modLane c s l h).grids = f.grids := by simp [Fab.modLane]
@[simp] theorem Fab.modLane_replicas (f : Fab) (c s l : Nat) (h : Lane → Lane) : (f.modLane c s l h).replicas = f.replicas := by simp [Fab.modLane]
@[simp] theorem Fab.modLane_faults (f : Fab) (c s l : Nat) (h : Lane → Lane) : (f.modLane c s l h).faults = f.faults := by simp [Fab.modLane]
@[simp] theorem Fab.modLane_engPosts (f : Fab) (c s l : Nat) (h : Lane → Lane) : (f.modLane c s l h).engPosts = f.engPosts := by simp [Fab.modLane]
@[simp] theorem Fab.modLane_remaps (f : Fab) (c s l : Nat) (h : Lane → Lane) : (f.modLane c s l h).remaps = f.remaps := by simp [Fab.modLane]
@[simp] theorem Fab.modLane_replies (f : Fab) (c s l : Nat) (h : Lane → Lane) : (f.modLane c s l h).replies = f.replies := by simp [Fab.modLane]
@[simp] theorem Fab.modLane_ring (f : Fab) (c s l : Nat) (h : Lane → Lane) : (f.modLane c s l h).ring = f.ring := by simp [Fab.modLane]
@[simp] theorem Fab.modLane_ringFlows (f : Fab) (c s l : Nat) (h : Lane → Lane) : (f.modLane c s l h).ringFlows = f.ringFlows := by simp [Fab.modLane]
@[simp] theorem Fab.modLane_placement (f : Fab) (c s l : Nat) (h : Lane → Lane) : (f.modLane c s l h).placement = f.placement := by simp [Fab.modLane]
@[simp] theorem Fab.modLane_links (f : Fab) (c s l : Nat) (h : Lane → Lane) : (f.modLane c s l h).links = f.links := by simp [Fab.modLane]
@[simp] theorem Fab.modLane_queues (f : Fab) (c s l : Nat) (h : Lane → Lane) : (f.modLane c s l h).queues = f.queues := by simp [Fab.modLane]
@[simp] theorem Fab.modLane_cmds (f : Fab) (c s l : Nat) (h : Lane → Lane) : (f.modLane c s l h).cmds = f.cmds := by simp [Fab.modLane]
@[simp] theorem Fab.modLane_posts (f : Fab) (c s l : Nat) (h : Lane → Lane) : (f.modLane c s l h).posts = f.posts := by simp [Fab.modLane]
@[simp] theorem Fab.modLane_msis (f : Fab) (c s l : Nat) (h : Lane → Lane) : (f.modLane c s l h).msis = f.msis := by simp [Fab.modLane]
@[simp] theorem Fab.modLane_sendFlows (f : Fab) (c s l : Nat) (h : Lane → Lane) : (f.modLane c s l h).sendFlows = f.sendFlows := by simp [Fab.modLane]
@[simp] theorem Fab.modLane_sent (f : Fab) (c s l : Nat) (h : Lane → Lane) : (f.modLane c s l h).sent = f.sent := by simp [Fab.modLane]
@[simp] theorem Fab.modLane_recvFlows (f : Fab) (c s l : Nat) (h : Lane → Lane) : (f.modLane c s l h).recvFlows = f.recvFlows := by simp [Fab.modLane]
@[simp] theorem Fab.modLane_arrived (f : Fab) (c s l : Nat) (h : Lane → Lane) : (f.modLane c s l h).arrived = f.arrived := by simp [Fab.modLane]
@[simp] theorem Fab.modLane_outbox (f : Fab) (c s l : Nat) (h : Lane → Lane) : (f.modLane c s l h).outbox = f.outbox := by simp [Fab.modLane]
@[simp] theorem Fab.modLane_redHeld (f : Fab) (c s l : Nat) (h : Lane → Lane) : (f.modLane c s l h).redHeld = f.redHeld := by simp [Fab.modLane]
@[simp] theorem Fab.modLane_bights (f : Fab) (c s l : Nat) (h : Lane → Lane) : (f.modLane c s l h).bights = f.bights := by simp [Fab.modLane]
@[simp] theorem Fab.modLane_bypasses (f : Fab) (c s l : Nat) (h : Lane → Lane) : (f.modLane c s l h).bypasses = f.bypasses := by simp [Fab.modLane]
@[simp] theorem Fab.modLane_refused (f : Fab) (c s l : Nat) (h : Lane → Lane) : (f.modLane c s l h).refused = f.refused := by simp [Fab.modLane]
@[simp] theorem Fab.modLane_copying (f : Fab) (c s l : Nat) (h : Lane → Lane) : (f.modLane c s l h).copying = f.copying := by simp [Fab.modLane]
@[simp] theorem Fab.modLane_life (f : Fab) (c s l : Nat) (h : Lane → Lane) : (f.modLane c s l h).life = f.life := by simp [Fab.modLane]
@[simp] theorem Fab.modLane_regWrites (f : Fab) (c s l : Nat) (h : Lane → Lane) : (f.modLane c s l h).regWrites = f.regWrites := by simp [Fab.modLane]
@[simp] theorem Fab.modLane_dmaDone (f : Fab) (c s l : Nat) (h : Lane → Lane) : (f.modLane c s l h).dmaDone = f.dmaDone := by simp [Fab.modLane]
@[simp] theorem Fab.modLane_peerOut (f : Fab) (c s l : Nat) (h : Lane → Lane) : (f.modLane c s l h).peerOut = f.peerOut := by simp [Fab.modLane]
@[simp] theorem Fab.modLane_nextId (f : Fab) (c s l : Nat) (h : Lane → Lane) : (f.modLane c s l h).nextId = f.nextId := by simp [Fab.modLane]
@[simp] theorem Fab.modLane_epoch (f : Fab) (c s l : Nat) (h : Lane → Lane) : (f.modLane c s l h).epoch = f.epoch := by simp [Fab.modLane]
@[simp] theorem Fab.modLane_issuer (f : Fab) (c s l : Nat) (h : Lane → Lane) : (f.modLane c s l h).issuer = f.issuer := by simp [Fab.modLane]

/-! ## `modCtx` -/

@[simp] theorem Fab.modCtx_time (f : Fab) (n : Nat) (h : Ctx → Ctx) : (f.modCtx n h).time = f.time := rfl
@[simp] theorem Fab.modCtx_ac (f : Fab) (n : Nat) (h : Ctx → Ctx) : (f.modCtx n h).ac = f.ac := rfl
@[simp] theorem Fab.modCtx_issueSlots (f : Fab) (n : Nat) (h : Ctx → Ctx) : (f.modCtx n h).issueSlots = f.issueSlots := rfl
@[simp] theorem Fab.modCtx_mem (f : Fab) (n : Nat) (h : Ctx → Ctx) : (f.modCtx n h).mem = f.mem := rfl
@[simp] theorem Fab.modCtx_memKeys (f : Fab) (n : Nat) (h : Ctx → Ctx) : (f.modCtx n h).memKeys = f.memKeys := rfl
@[simp] theorem Fab.modCtx_l2 (f : Fab) (n : Nat) (h : Ctx → Ctx) : (f.modCtx n h).l2 = f.l2 := rfl
@[simp] theorem Fab.modCtx_marks (f : Fab) (n : Nat) (h : Ctx → Ctx) : (f.modCtx n h).marks = f.marks := rfl
@[simp] theorem Fab.modCtx_dieTlb (f : Fab) (n : Nat) (h : Ctx → Ctx) : (f.modCtx n h).dieTlb = f.dieTlb := rfl
@[simp] theorem Fab.modCtx_waiters (f : Fab) (n : Nat) (h : Ctx → Ctx) : (f.modCtx n h).waiters = f.waiters := rfl
@[simp] theorem Fab.modCtx_cores (f : Fab) (n : Nat) (h : Ctx → Ctx) : (f.modCtx n h).cores = f.cores := rfl
@[simp] theorem Fab.modCtx_grids (f : Fab) (n : Nat) (h : Ctx → Ctx) : (f.modCtx n h).grids = f.grids := rfl
@[simp] theorem Fab.modCtx_replicas (f : Fab) (n : Nat) (h : Ctx → Ctx) : (f.modCtx n h).replicas = f.replicas := rfl
@[simp] theorem Fab.modCtx_faults (f : Fab) (n : Nat) (h : Ctx → Ctx) : (f.modCtx n h).faults = f.faults := rfl
@[simp] theorem Fab.modCtx_engPosts (f : Fab) (n : Nat) (h : Ctx → Ctx) : (f.modCtx n h).engPosts = f.engPosts := rfl
@[simp] theorem Fab.modCtx_remaps (f : Fab) (n : Nat) (h : Ctx → Ctx) : (f.modCtx n h).remaps = f.remaps := rfl
@[simp] theorem Fab.modCtx_replies (f : Fab) (n : Nat) (h : Ctx → Ctx) : (f.modCtx n h).replies = f.replies := rfl
@[simp] theorem Fab.modCtx_ring (f : Fab) (n : Nat) (h : Ctx → Ctx) : (f.modCtx n h).ring = f.ring := rfl
@[simp] theorem Fab.modCtx_ringFlows (f : Fab) (n : Nat) (h : Ctx → Ctx) : (f.modCtx n h).ringFlows = f.ringFlows := rfl
@[simp] theorem Fab.modCtx_placement (f : Fab) (n : Nat) (h : Ctx → Ctx) : (f.modCtx n h).placement = f.placement := rfl
@[simp] theorem Fab.modCtx_links (f : Fab) (n : Nat) (h : Ctx → Ctx) : (f.modCtx n h).links = f.links := rfl
@[simp] theorem Fab.modCtx_queues (f : Fab) (n : Nat) (h : Ctx → Ctx) : (f.modCtx n h).queues = f.queues := rfl
@[simp] theorem Fab.modCtx_cmds (f : Fab) (n : Nat) (h : Ctx → Ctx) : (f.modCtx n h).cmds = f.cmds := rfl
@[simp] theorem Fab.modCtx_posts (f : Fab) (n : Nat) (h : Ctx → Ctx) : (f.modCtx n h).posts = f.posts := rfl
@[simp] theorem Fab.modCtx_msis (f : Fab) (n : Nat) (h : Ctx → Ctx) : (f.modCtx n h).msis = f.msis := rfl
@[simp] theorem Fab.modCtx_sendFlows (f : Fab) (n : Nat) (h : Ctx → Ctx) : (f.modCtx n h).sendFlows = f.sendFlows := rfl
@[simp] theorem Fab.modCtx_sent (f : Fab) (n : Nat) (h : Ctx → Ctx) : (f.modCtx n h).sent = f.sent := rfl
@[simp] theorem Fab.modCtx_recvFlows (f : Fab) (n : Nat) (h : Ctx → Ctx) : (f.modCtx n h).recvFlows = f.recvFlows := rfl
@[simp] theorem Fab.modCtx_arrived (f : Fab) (n : Nat) (h : Ctx → Ctx) : (f.modCtx n h).arrived = f.arrived := rfl
@[simp] theorem Fab.modCtx_outbox (f : Fab) (n : Nat) (h : Ctx → Ctx) : (f.modCtx n h).outbox = f.outbox := rfl
@[simp] theorem Fab.modCtx_redHeld (f : Fab) (n : Nat) (h : Ctx → Ctx) : (f.modCtx n h).redHeld = f.redHeld := rfl
@[simp] theorem Fab.modCtx_bights (f : Fab) (n : Nat) (h : Ctx → Ctx) : (f.modCtx n h).bights = f.bights := rfl
@[simp] theorem Fab.modCtx_bypasses (f : Fab) (n : Nat) (h : Ctx → Ctx) : (f.modCtx n h).bypasses = f.bypasses := rfl
@[simp] theorem Fab.modCtx_refused (f : Fab) (n : Nat) (h : Ctx → Ctx) : (f.modCtx n h).refused = f.refused := rfl
@[simp] theorem Fab.modCtx_copying (f : Fab) (n : Nat) (h : Ctx → Ctx) : (f.modCtx n h).copying = f.copying := rfl
@[simp] theorem Fab.modCtx_life (f : Fab) (n : Nat) (h : Ctx → Ctx) : (f.modCtx n h).life = f.life := rfl
@[simp] theorem Fab.modCtx_regWrites (f : Fab) (n : Nat) (h : Ctx → Ctx) : (f.modCtx n h).regWrites = f.regWrites := rfl
@[simp] theorem Fab.modCtx_dmaDone (f : Fab) (n : Nat) (h : Ctx → Ctx) : (f.modCtx n h).dmaDone = f.dmaDone := rfl
@[simp] theorem Fab.modCtx_peerOut (f : Fab) (n : Nat) (h : Ctx → Ctx) : (f.modCtx n h).peerOut = f.peerOut := rfl
@[simp] theorem Fab.modCtx_nextId (f : Fab) (n : Nat) (h : Ctx → Ctx) : (f.modCtx n h).nextId = f.nextId := rfl
@[simp] theorem Fab.modCtx_epoch (f : Fab) (n : Nat) (h : Ctx → Ctx) : (f.modCtx n h).epoch = f.epoch := rfl
@[simp] theorem Fab.modCtx_issuer (f : Fab) (n : Nat) (h : Ctx → Ctx) : (f.modCtx n h).issuer = f.issuer := rfl

/-! ## `modGrid` -/

@[simp] theorem Fab.modGrid_time (f : Fab) (n : Nat) (h : Grid → Grid) : (f.modGrid n h).time = f.time := rfl
@[simp] theorem Fab.modGrid_ac (f : Fab) (n : Nat) (h : Grid → Grid) : (f.modGrid n h).ac = f.ac := rfl
@[simp] theorem Fab.modGrid_issueSlots (f : Fab) (n : Nat) (h : Grid → Grid) : (f.modGrid n h).issueSlots = f.issueSlots := rfl
@[simp] theorem Fab.modGrid_mem (f : Fab) (n : Nat) (h : Grid → Grid) : (f.modGrid n h).mem = f.mem := rfl
@[simp] theorem Fab.modGrid_memKeys (f : Fab) (n : Nat) (h : Grid → Grid) : (f.modGrid n h).memKeys = f.memKeys := rfl
@[simp] theorem Fab.modGrid_l2 (f : Fab) (n : Nat) (h : Grid → Grid) : (f.modGrid n h).l2 = f.l2 := rfl
@[simp] theorem Fab.modGrid_marks (f : Fab) (n : Nat) (h : Grid → Grid) : (f.modGrid n h).marks = f.marks := rfl
@[simp] theorem Fab.modGrid_dieTlb (f : Fab) (n : Nat) (h : Grid → Grid) : (f.modGrid n h).dieTlb = f.dieTlb := rfl
@[simp] theorem Fab.modGrid_waiters (f : Fab) (n : Nat) (h : Grid → Grid) : (f.modGrid n h).waiters = f.waiters := rfl
@[simp] theorem Fab.modGrid_cores (f : Fab) (n : Nat) (h : Grid → Grid) : (f.modGrid n h).cores = f.cores := rfl
@[simp] theorem Fab.modGrid_ctxs (f : Fab) (n : Nat) (h : Grid → Grid) : (f.modGrid n h).ctxs = f.ctxs := rfl
@[simp] theorem Fab.modGrid_replicas (f : Fab) (n : Nat) (h : Grid → Grid) : (f.modGrid n h).replicas = f.replicas := rfl
@[simp] theorem Fab.modGrid_faults (f : Fab) (n : Nat) (h : Grid → Grid) : (f.modGrid n h).faults = f.faults := rfl
@[simp] theorem Fab.modGrid_engPosts (f : Fab) (n : Nat) (h : Grid → Grid) : (f.modGrid n h).engPosts = f.engPosts := rfl
@[simp] theorem Fab.modGrid_remaps (f : Fab) (n : Nat) (h : Grid → Grid) : (f.modGrid n h).remaps = f.remaps := rfl
@[simp] theorem Fab.modGrid_replies (f : Fab) (n : Nat) (h : Grid → Grid) : (f.modGrid n h).replies = f.replies := rfl
@[simp] theorem Fab.modGrid_ring (f : Fab) (n : Nat) (h : Grid → Grid) : (f.modGrid n h).ring = f.ring := rfl
@[simp] theorem Fab.modGrid_ringFlows (f : Fab) (n : Nat) (h : Grid → Grid) : (f.modGrid n h).ringFlows = f.ringFlows := rfl
@[simp] theorem Fab.modGrid_placement (f : Fab) (n : Nat) (h : Grid → Grid) : (f.modGrid n h).placement = f.placement := rfl
@[simp] theorem Fab.modGrid_links (f : Fab) (n : Nat) (h : Grid → Grid) : (f.modGrid n h).links = f.links := rfl
@[simp] theorem Fab.modGrid_queues (f : Fab) (n : Nat) (h : Grid → Grid) : (f.modGrid n h).queues = f.queues := rfl
@[simp] theorem Fab.modGrid_cmds (f : Fab) (n : Nat) (h : Grid → Grid) : (f.modGrid n h).cmds = f.cmds := rfl
@[simp] theorem Fab.modGrid_posts (f : Fab) (n : Nat) (h : Grid → Grid) : (f.modGrid n h).posts = f.posts := rfl
@[simp] theorem Fab.modGrid_msis (f : Fab) (n : Nat) (h : Grid → Grid) : (f.modGrid n h).msis = f.msis := rfl
@[simp] theorem Fab.modGrid_sendFlows (f : Fab) (n : Nat) (h : Grid → Grid) : (f.modGrid n h).sendFlows = f.sendFlows := rfl
@[simp] theorem Fab.modGrid_sent (f : Fab) (n : Nat) (h : Grid → Grid) : (f.modGrid n h).sent = f.sent := rfl
@[simp] theorem Fab.modGrid_recvFlows (f : Fab) (n : Nat) (h : Grid → Grid) : (f.modGrid n h).recvFlows = f.recvFlows := rfl
@[simp] theorem Fab.modGrid_arrived (f : Fab) (n : Nat) (h : Grid → Grid) : (f.modGrid n h).arrived = f.arrived := rfl
@[simp] theorem Fab.modGrid_outbox (f : Fab) (n : Nat) (h : Grid → Grid) : (f.modGrid n h).outbox = f.outbox := rfl
@[simp] theorem Fab.modGrid_redHeld (f : Fab) (n : Nat) (h : Grid → Grid) : (f.modGrid n h).redHeld = f.redHeld := rfl
@[simp] theorem Fab.modGrid_bights (f : Fab) (n : Nat) (h : Grid → Grid) : (f.modGrid n h).bights = f.bights := rfl
@[simp] theorem Fab.modGrid_bypasses (f : Fab) (n : Nat) (h : Grid → Grid) : (f.modGrid n h).bypasses = f.bypasses := rfl
@[simp] theorem Fab.modGrid_refused (f : Fab) (n : Nat) (h : Grid → Grid) : (f.modGrid n h).refused = f.refused := rfl
@[simp] theorem Fab.modGrid_copying (f : Fab) (n : Nat) (h : Grid → Grid) : (f.modGrid n h).copying = f.copying := rfl
@[simp] theorem Fab.modGrid_life (f : Fab) (n : Nat) (h : Grid → Grid) : (f.modGrid n h).life = f.life := rfl
@[simp] theorem Fab.modGrid_regWrites (f : Fab) (n : Nat) (h : Grid → Grid) : (f.modGrid n h).regWrites = f.regWrites := rfl
@[simp] theorem Fab.modGrid_dmaDone (f : Fab) (n : Nat) (h : Grid → Grid) : (f.modGrid n h).dmaDone = f.dmaDone := rfl
@[simp] theorem Fab.modGrid_peerOut (f : Fab) (n : Nat) (h : Grid → Grid) : (f.modGrid n h).peerOut = f.peerOut := rfl
@[simp] theorem Fab.modGrid_nextId (f : Fab) (n : Nat) (h : Grid → Grid) : (f.modGrid n h).nextId = f.nextId := rfl
@[simp] theorem Fab.modGrid_epoch (f : Fab) (n : Nat) (h : Grid → Grid) : (f.modGrid n h).epoch = f.epoch := rfl
@[simp] theorem Fab.modGrid_issuer (f : Fab) (n : Nat) (h : Grid → Grid) : (f.modGrid n h).issuer = f.issuer := rfl

/-! ## `count` -/

@[simp] theorem Fab.count_time (f : Fab) (o : Nat) : (f.count o).time = f.time := rfl
@[simp] theorem Fab.count_ac (f : Fab) (o : Nat) : (f.count o).ac = f.ac := rfl
@[simp] theorem Fab.count_issueSlots (f : Fab) (o : Nat) : (f.count o).issueSlots = f.issueSlots := rfl
@[simp] theorem Fab.count_mem (f : Fab) (o : Nat) : (f.count o).mem = f.mem := rfl
@[simp] theorem Fab.count_memKeys (f : Fab) (o : Nat) : (f.count o).memKeys = f.memKeys := rfl
@[simp] theorem Fab.count_l2 (f : Fab) (o : Nat) : (f.count o).l2 = f.l2 := rfl
@[simp] theorem Fab.count_marks (f : Fab) (o : Nat) : (f.count o).marks = f.marks := rfl
@[simp] theorem Fab.count_dieTlb (f : Fab) (o : Nat) : (f.count o).dieTlb = f.dieTlb := rfl
@[simp] theorem Fab.count_waiters (f : Fab) (o : Nat) : (f.count o).waiters = f.waiters := rfl
@[simp] theorem Fab.count_cores (f : Fab) (o : Nat) : (f.count o).cores = f.cores := rfl
@[simp] theorem Fab.count_ctxs (f : Fab) (o : Nat) : (f.count o).ctxs = f.ctxs := rfl
@[simp] theorem Fab.count_grids (f : Fab) (o : Nat) : (f.count o).grids = f.grids := rfl
@[simp] theorem Fab.count_replicas (f : Fab) (o : Nat) : (f.count o).replicas = f.replicas := rfl
@[simp] theorem Fab.count_faults (f : Fab) (o : Nat) : (f.count o).faults = f.faults := rfl
@[simp] theorem Fab.count_engPosts (f : Fab) (o : Nat) : (f.count o).engPosts = f.engPosts := rfl
@[simp] theorem Fab.count_remaps (f : Fab) (o : Nat) : (f.count o).remaps = f.remaps := rfl
@[simp] theorem Fab.count_replies (f : Fab) (o : Nat) : (f.count o).replies = f.replies := rfl
@[simp] theorem Fab.count_ring (f : Fab) (o : Nat) : (f.count o).ring = f.ring := rfl
@[simp] theorem Fab.count_ringFlows (f : Fab) (o : Nat) : (f.count o).ringFlows = f.ringFlows := rfl
@[simp] theorem Fab.count_placement (f : Fab) (o : Nat) : (f.count o).placement = f.placement := rfl
@[simp] theorem Fab.count_links (f : Fab) (o : Nat) : (f.count o).links = f.links := rfl
@[simp] theorem Fab.count_queues (f : Fab) (o : Nat) : (f.count o).queues = f.queues := rfl
@[simp] theorem Fab.count_cmds (f : Fab) (o : Nat) : (f.count o).cmds = f.cmds := rfl
@[simp] theorem Fab.count_posts (f : Fab) (o : Nat) : (f.count o).posts = f.posts := rfl
@[simp] theorem Fab.count_msis (f : Fab) (o : Nat) : (f.count o).msis = f.msis := rfl
@[simp] theorem Fab.count_sendFlows (f : Fab) (o : Nat) : (f.count o).sendFlows = f.sendFlows := rfl
@[simp] theorem Fab.count_sent (f : Fab) (o : Nat) : (f.count o).sent = f.sent := rfl
@[simp] theorem Fab.count_recvFlows (f : Fab) (o : Nat) : (f.count o).recvFlows = f.recvFlows := rfl
@[simp] theorem Fab.count_arrived (f : Fab) (o : Nat) : (f.count o).arrived = f.arrived := rfl
@[simp] theorem Fab.count_outbox (f : Fab) (o : Nat) : (f.count o).outbox = f.outbox := rfl
@[simp] theorem Fab.count_redHeld (f : Fab) (o : Nat) : (f.count o).redHeld = f.redHeld := rfl
@[simp] theorem Fab.count_bights (f : Fab) (o : Nat) : (f.count o).bights = f.bights := rfl
@[simp] theorem Fab.count_bypasses (f : Fab) (o : Nat) : (f.count o).bypasses = f.bypasses := rfl
@[simp] theorem Fab.count_refused (f : Fab) (o : Nat) : (f.count o).refused = f.refused := rfl
@[simp] theorem Fab.count_copying (f : Fab) (o : Nat) : (f.count o).copying = f.copying := rfl
@[simp] theorem Fab.count_regWrites (f : Fab) (o : Nat) : (f.count o).regWrites = f.regWrites := rfl
@[simp] theorem Fab.count_dmaDone (f : Fab) (o : Nat) : (f.count o).dmaDone = f.dmaDone := rfl
@[simp] theorem Fab.count_peerOut (f : Fab) (o : Nat) : (f.count o).peerOut = f.peerOut := rfl
@[simp] theorem Fab.count_nextId (f : Fab) (o : Nat) : (f.count o).nextId = f.nextId := rfl
@[simp] theorem Fab.count_epoch (f : Fab) (o : Nat) : (f.count o).epoch = f.epoch := rfl
@[simp] theorem Fab.count_issuer (f : Fab) (o : Nat) : (f.count o).issuer = f.issuer := rfl

/-! ## `msi` -/

@[simp] theorem Fab.msi_time (f : Fab) (h n : Nat) : (f.msi h n).time = f.time := rfl
@[simp] theorem Fab.msi_ac (f : Fab) (h n : Nat) : (f.msi h n).ac = f.ac := rfl
@[simp] theorem Fab.msi_issueSlots (f : Fab) (h n : Nat) : (f.msi h n).issueSlots = f.issueSlots := rfl
@[simp] theorem Fab.msi_mem (f : Fab) (h n : Nat) : (f.msi h n).mem = f.mem := rfl
@[simp] theorem Fab.msi_memKeys (f : Fab) (h n : Nat) : (f.msi h n).memKeys = f.memKeys := rfl
@[simp] theorem Fab.msi_l2 (f : Fab) (h n : Nat) : (f.msi h n).l2 = f.l2 := rfl
@[simp] theorem Fab.msi_marks (f : Fab) (h n : Nat) : (f.msi h n).marks = f.marks := rfl
@[simp] theorem Fab.msi_dieTlb (f : Fab) (h n : Nat) : (f.msi h n).dieTlb = f.dieTlb := rfl
@[simp] theorem Fab.msi_waiters (f : Fab) (h n : Nat) : (f.msi h n).waiters = f.waiters := rfl
@[simp] theorem Fab.msi_cores (f : Fab) (h n : Nat) : (f.msi h n).cores = f.cores := rfl
@[simp] theorem Fab.msi_ctxs (f : Fab) (h n : Nat) : (f.msi h n).ctxs = f.ctxs := rfl
@[simp] theorem Fab.msi_grids (f : Fab) (h n : Nat) : (f.msi h n).grids = f.grids := rfl
@[simp] theorem Fab.msi_replicas (f : Fab) (h n : Nat) : (f.msi h n).replicas = f.replicas := rfl
@[simp] theorem Fab.msi_faults (f : Fab) (h n : Nat) : (f.msi h n).faults = f.faults := rfl
@[simp] theorem Fab.msi_engPosts (f : Fab) (h n : Nat) : (f.msi h n).engPosts = f.engPosts := rfl
@[simp] theorem Fab.msi_remaps (f : Fab) (h n : Nat) : (f.msi h n).remaps = f.remaps := rfl
@[simp] theorem Fab.msi_replies (f : Fab) (h n : Nat) : (f.msi h n).replies = f.replies := rfl
@[simp] theorem Fab.msi_ring (f : Fab) (h n : Nat) : (f.msi h n).ring = f.ring := rfl
@[simp] theorem Fab.msi_ringFlows (f : Fab) (h n : Nat) : (f.msi h n).ringFlows = f.ringFlows := rfl
@[simp] theorem Fab.msi_placement (f : Fab) (h n : Nat) : (f.msi h n).placement = f.placement := rfl
@[simp] theorem Fab.msi_links (f : Fab) (h n : Nat) : (f.msi h n).links = f.links := rfl
@[simp] theorem Fab.msi_queues (f : Fab) (h n : Nat) : (f.msi h n).queues = f.queues := rfl
@[simp] theorem Fab.msi_cmds (f : Fab) (h n : Nat) : (f.msi h n).cmds = f.cmds := rfl
@[simp] theorem Fab.msi_posts (f : Fab) (h n : Nat) : (f.msi h n).posts = f.posts := rfl
@[simp] theorem Fab.msi_sendFlows (f : Fab) (h n : Nat) : (f.msi h n).sendFlows = f.sendFlows := rfl
@[simp] theorem Fab.msi_sent (f : Fab) (h n : Nat) : (f.msi h n).sent = f.sent := rfl
@[simp] theorem Fab.msi_recvFlows (f : Fab) (h n : Nat) : (f.msi h n).recvFlows = f.recvFlows := rfl
@[simp] theorem Fab.msi_arrived (f : Fab) (h n : Nat) : (f.msi h n).arrived = f.arrived := rfl
@[simp] theorem Fab.msi_outbox (f : Fab) (h n : Nat) : (f.msi h n).outbox = f.outbox := rfl
@[simp] theorem Fab.msi_redHeld (f : Fab) (h n : Nat) : (f.msi h n).redHeld = f.redHeld := rfl
@[simp] theorem Fab.msi_bights (f : Fab) (h n : Nat) : (f.msi h n).bights = f.bights := rfl
@[simp] theorem Fab.msi_bypasses (f : Fab) (h n : Nat) : (f.msi h n).bypasses = f.bypasses := rfl
@[simp] theorem Fab.msi_refused (f : Fab) (h n : Nat) : (f.msi h n).refused = f.refused := rfl
@[simp] theorem Fab.msi_copying (f : Fab) (h n : Nat) : (f.msi h n).copying = f.copying := rfl
@[simp] theorem Fab.msi_life (f : Fab) (h n : Nat) : (f.msi h n).life = f.life := rfl
@[simp] theorem Fab.msi_regWrites (f : Fab) (h n : Nat) : (f.msi h n).regWrites = f.regWrites := rfl
@[simp] theorem Fab.msi_dmaDone (f : Fab) (h n : Nat) : (f.msi h n).dmaDone = f.dmaDone := rfl
@[simp] theorem Fab.msi_peerOut (f : Fab) (h n : Nat) : (f.msi h n).peerOut = f.peerOut := rfl
@[simp] theorem Fab.msi_nextId (f : Fab) (h n : Nat) : (f.msi h n).nextId = f.nextId := rfl
@[simp] theorem Fab.msi_epoch (f : Fab) (h n : Nat) : (f.msi h n).epoch = f.epoch := rfl
@[simp] theorem Fab.msi_issuer (f : Fab) (h n : Nat) : (f.msi h n).issuer = f.issuer := rfl

/-! ## Cores -/

/-- A core that has been set reads back. -/
@[simp] theorem Fab.core_setCore_self (f : Fab) (c : Nat) (k : Core) : (f.setCore c k).core c = k := by
  simp [Fab.core, Fab.setCore, Table.getD, Table.get?_set_self]
/-- Setting a core leaves the others. -/
theorem Fab.core_setCore_other (f : Fab) {c d : Nat} (k : Core) (h : d ≠ c) : (f.setCore c k).core d = f.core d := by
  simp [Fab.core, Fab.setCore, Table.getD, Table.get?_set_other _ _ _ _ h]
/-- Cores under an update that leaves the list of cores. -/
theorem Fab.core_congr {f g : Fab} (h : f.cores = g.cores) (c : Nat) : f.core c = g.core c := by simp [Fab.core, h]

/-- The core whose team is changed. -/
theorem Fab.core_modTeam_self (f : Fab) (c : Nat) (h : Team → Team) :
    (f.modTeam c h).core c = { f.core c with team := (f.core c).team.map h } := by
  unfold Fab.modTeam
  dsimp only
  split
  · rename_i ht; cases hk : f.core c; simp_all
  · rename_i t ht; simp [ht]
/-- Changing a team leaves the other cores. -/
theorem Fab.core_modTeam_other (f : Fab) {c d : Nat} (h : Team → Team) (hd : d ≠ c) : (f.modTeam c h).core d = f.core d := by
  unfold Fab.modTeam
  dsimp only
  split
  · rfl
  · exact Fab.core_setCore_other f _ hd
/-- The core whose group is changed. -/
theorem Fab.core_modGroup_self (f : Fab) (c s : Nat) (h : Group → Group) :
    (f.modGroup c s h).core c = { f.core c with team := (f.core c).team.map (fun t => { t with groups := modAt t.groups s h }) } := by
  unfold Fab.modGroup
  dsimp only
  split
  · rename_i ht; cases hk : f.core c; simp_all
  · rename_i t ht; simp [ht]
/-- Changing a group leaves the other cores. -/
theorem Fab.core_modGroup_other (f : Fab) {c d : Nat} (s : Nat) (h : Group → Group) (hd : d ≠ c) :
    (f.modGroup c s h).core d = f.core d := by
  unfold Fab.modGroup
  dsimp only
  split
  · rfl
  · exact Fab.core_setCore_other f _ hd

/-! ## Groups and lanes -/

/-- A group that is changed reads back changed. -/
theorem Fab.group?_modGroup_self (f : Fab) (c s : Nat) (h : Group → Group) :
    (f.modGroup c s h).group? c s = (f.group? c s).map h := by
  simp only [Fab.group?, Fab.core_modGroup_self]
  cases (f.core c).team with
  | none => rfl
  | some t => simp [modAt]
/-- Changing a group leaves the others. -/
theorem Fab.group?_modGroup_other (f : Fab) {c s d r : Nat} (h : Group → Group) (hd : d ≠ c ∨ r ≠ s) :
    (f.modGroup c s h).group? d r = f.group? d r := by
  by_cases hc : d = c
  · subst hc
    have hr : r ≠ s := by simpa using hd
    simp only [Fab.group?, Fab.core_modGroup_self]
    cases (f.core d).team with
    | none => rfl
    | some t => simp [modAt, Ne.symm hr]
  · simp [Fab.group?, Fab.core_modGroup_other f s h hc]
/-- A lane that is changed reads back changed. -/
theorem Fab.lane?_modLane_self (f : Fab) (c s l : Nat) (h : Lane → Lane) :
    (f.modLane c s l h).lane? c s l = (f.lane? c s l).map h := by
  simp only [Fab.lane?, Fab.modLane, Fab.group?_modGroup_self]
  cases f.group? c s with
  | none => rfl
  | some g => simp [modAt]
/-- Changing a lane leaves the others. -/
theorem Fab.lane?_modLane_other (f : Fab) {c s l d r m : Nat} (h : Lane → Lane) (hd : d ≠ c ∨ r ≠ s ∨ m ≠ l) :
    (f.modLane c s l h).lane? d r m = f.lane? d r m := by
  by_cases hs : d ≠ c ∨ r ≠ s
  · simp [Fab.lane?, Fab.modLane, Fab.group?_modGroup_other f _ hs]
  · have hc : d = c := by simpa using (not_or.mp hs).1
    have hr : r = s := by simpa using (not_or.mp hs).2
    subst hc; subst hr
    have hm : m ≠ l := by simpa using hd
    simp only [Fab.lane?, Fab.modLane, Fab.group?_modGroup_self]
    cases f.group? d r with
    | none => rfl
    | some g => simp [modAt, Ne.symm hm]

/-! ## The control part and the agenda -/

/-- A core instruction's outcome leaves the control part and the agenda. -/
theorem State.lift_next {s t : State} {o : Host.Outcome Fab Fault Refusal} (h : s.lift o = .next t) :
    ∃ f, o = .next f ∧ t = { s with fab := f } := by
  cases o with
  | next f => exact ⟨f, rfl, by simpa [State.lift] using h.symm⟩
  | fault e => simp [State.lift] at h
  | refused e => simp [State.lift] at h

end Sys2Proof.Machine
end

