-- ==== Sys2Proof/Laws/Issue.lean ====
section
/-!
SUPPORT. What an issue ends in, once for every instruction: the checks that pass and the body's result (12_isa_encoding
R258, R259; 07_core_execution R145, R155).
-/
namespace Sys2Proof.Machine
open Sys2Proof.Safety

/-- An instruction that issues passes its checks. -/
theorem checked_of_issues {s : State} {e : Enc} {gate : Iss → Fab → Bool} {i : Iss} (h : Issues s e gate i) :
    s.fab.checked i e (gate i s.fab) = none := by
  obtain ⟨-, -, h1, h2, h3, h4, h5, h6, h7⟩ := h
  have hlate : ¬((!(s.fab.overdue i).isEmpty) = true ∧ e.opc ≠ 0x04) := by
    rintro ⟨ho, hn⟩
    rcases h1 with h1 | h1
    · simp [h1] at ho
    · exact hn h1
  have henc : ¬(e.error.isSome = true ∨ e.oddMask i.w = true) := by simp [h2, h3]
  have hrti : ¬(e.opc = 0x09 ∧ (!i.trapMode) = true) := by rintro ⟨ho, hn⟩; simp [h4 ho] at hn
  unfold Fab.checked
  dsimp only
  rw [if_neg hlate, if_neg henc, if_neg hrti, h5, if_neg (by decide), h6, h7]

/-- An instruction that issues ends in what its body ends in, on the fabric where its entry has moved past it. -/
theorem run_of_issues {s : State} {e : Enc} {gate : Iss → Fab → Bool} {i : Iss} (body : Iss → Ctl → Fab → Res)
    (h : Issues s e gate i) :
    run e gate body s = s.lift ((body i s.ctl (moved s e i)).settle s.ctl s.fab i) := by
  have hc := checked_of_issues h
  obtain ⟨h1, h2, -⟩ := h
  simp [run, Fab.issue, h1, h2, hc, moved]

/-- A body that retires. -/
theorem run_done {s : State} {e : Enc} {gate : Iss → Fab → Bool} {i : Iss} {body : Iss → Ctl → Fab → Res} {f : Fab}
    (h : Issues s e gate i) (hb : body i s.ctl (moved s e i) = .done f) : run e gate body s = .next (retired s i f) := by
  rw [run_of_issues body h, hb]; rfl

/-- A body that traps with nothing written. -/
theorem run_trap {s : State} {e : Enc} {gate : Iss → Fab → Bool} {i : Iss} {body : Iss → Ctl → Fab → Res} {t : Trap}
    (h : Issues s e gate i) (hb : body i s.ctl (moved s e i) = .trap t) : run e gate body s = .next (trapped s i t) := by
  rw [run_of_issues body h, hb]; rfl

/-- A core instruction that answers a next state leaves the control part and the agenda. -/
theorem run_keeps {s t : State} {e : Enc} {gate : Iss → Fab → Bool} {body : Iss → Ctl → Fab → Res}
    (h : run e gate body s = .next t) : t.ctl = s.ctl ∧ t.agenda = s.agenda := by
  obtain ⟨f, -, rfl⟩ := State.lift_next h
  exact ⟨rfl, rfl⟩

/-- What an issue does, over all its ends (R258): no issuer, the end of the context of a late handler, the first check that
fails, or the body. -/
theorem run_cases (s : State) (e : Enc) (gate : Iss → Fab → Bool) (body : Iss → Ctl → Fab → Res) :
    (s.fab.iss e.pred e.length = none ∧ run e gate body s = .fault .noIssuer) ∨
    ∃ i, s.fab.iss e.pred e.length = some i ∧
      ((s.fab.handlerLate i = true ∧ run e gate body s = .next { s with fab := s.fab.fatal s.ctl i.ctx (s.fab.gridOf i.core) 0x0F i.pc }) ∨
       (s.fab.handlerLate i = false ∧ ∃ r, s.fab.checked i e (gate i s.fab) = some r ∧ run e gate body s = s.lift (r.settle s.ctl s.fab i)) ∨
       (s.fab.handlerLate i = false ∧ s.fab.checked i e (gate i s.fab) = none ∧
        run e gate body s = s.lift ((body i s.ctl (s.fab.advance i e.hints)).settle s.ctl s.fab i))) := by
  cases hi : s.fab.iss e.pred e.length with
  | none => exact .inl ⟨rfl, by simp [run, Fab.issue, hi, State.lift]⟩
  | some i =>
    refine .inr ⟨i, rfl, ?_⟩
    cases hl : s.fab.handlerLate i with
    | true => exact .inl ⟨rfl, by simp [run, Fab.issue, hi, hl, State.lift]⟩
    | false =>
      cases hc : s.fab.checked i e (gate i s.fab) with
      | some r => exact .inr (.inl ⟨rfl, r, rfl, by simp [run, Fab.issue, hi, hl, hc]⟩)
      | none => exact .inr (.inr ⟨rfl, rfl, by simp [run, Fab.issue, hi, hl, hc]⟩)

end Sys2Proof.Machine
end

