-- ==== Sys2Proof/Laws/Lanes.lean ====
section
/-!
SUPPORT. Registers and lanes of the issuing group: what advancing past an instruction, writing registers, raising flags and
merging the frontier each do to it, said once (07_core_execution R135, R139, R140, R145, R151, R158, R242).
-/
namespace Sys2Proof.Machine
open Sys2Proof.Safety

/-! ## Tables -/

/-- Setting a key twice leaves the last value. -/
theorem Table.set_set {β : Type} (t : Table β) (k : Nat) (v w : β) : Table.set (Table.set t k v) k w = Table.set t k w := by
  induction t with
  | nil => simp [Table.set]
  | cons p t ih =>
    obtain ⟨a, b⟩ := p
    by_cases h1 : k < a
    · simp [Table.set, h1]
    · by_cases h2 : a = k
      · subst h2; simp [Table.set]
      · simp [Table.set, h1, h2, ih]

/-! ## Changes of a team compose -/

/-- Setting a core twice leaves the last. -/
theorem Fab.setCore_setCore (f : Fab) (c : Nat) (k l : Core) : (f.setCore c k).setCore c l = f.setCore c l := by
  simp [Fab.setCore, Table.set_set]
/-- Changing a group is changing its team. -/
theorem Fab.modGroup_eq (f : Fab) (c s : Nat) (h : Group → Group) :
    f.modGroup c s h = f.modTeam c (fun t => { t with groups := modAt t.groups s h }) := rfl
/-- Two changes of a team are one. -/
theorem Fab.modTeam_modTeam (f : Fab) (c : Nat) (h k : Team → Team) :
    (f.modTeam c h).modTeam c k = f.modTeam c (fun t => k (h t)) := by
  cases ht : (f.core c).team with
  | none => simp [Fab.modTeam, ht]
  | some t => simp [Fab.modTeam, ht, Fab.setCore_setCore]
/-- Two changes of a group are one. -/
theorem Fab.modGroup_modGroup (f : Fab) (c s : Nat) (h k : Group → Group) :
    (f.modGroup c s h).modGroup c s k = f.modGroup c s (fun g => k (h g)) := by
  rw [Fab.modGroup_eq, Fab.modGroup_eq, Fab.modTeam_modTeam, Fab.modGroup_eq]
  congr 1
  funext t
  simp only [modAt]
  congr 1
  apply List.ext_getElem?
  intro n
  rw [List.getElem?_modify, List.getElem?_modify, List.getElem?_modify]
  cases t.groups[n]? with
  | none => by_cases hn : s = n <;> simp [hn]
  | some g => by_cases hn : s = n <;> simp [hn]

/-! ## Outside the team -/

/-- A change of a team leaves everything outside the core, every other core, and the core's caches and engines. -/
theorem Fab.modTeam_sameButCore (f : Fab) (c : Nat) (h : Team → Team) :
    SameButCore c (f.modTeam c h) f ∧ SameUnits ((f.modTeam c h).core c) (f.core c) := by
  refine ⟨⟨?_, fun d hd => Fab.core_modTeam_other f h hd⟩, ?_⟩
  · cases ht : (f.core c).team with
    | none => rw [show f.modTeam c h = f by simp [Fab.modTeam, ht]]; rfl
    | some t => rw [show f.modTeam c h = f.setCore c { f.core c with team := some (h t) } by simp [Fab.modTeam, ht]]; rfl
  · simp [SameUnits, Fab.core_modTeam_self]

/-! ## Writing registers -/

/-- One register written in the listed lanes of a group: what `writeReg` does to the lanes. -/
def writeLanes (n : Nat) (vals : List (Nat × Reg)) (ls : List Lane) : List Lane :=
  vals.foldl (fun ls v => modAt ls v.1 (fun x => if x.status = .live then x.setReg n v.2 else x)) ls

/-- A lane after a private register has been written: the live lanes named take their value, the others stand. -/
theorem writeLanes_getElem? (n : Nat) (act : List Nat) (r : Nat → Reg) (ls : List Lane) (l : Nat) :
    (writeLanes n (act.map (fun l => (l, r l))) ls)[l]? =
      (ls[l]?).map (fun x => if l ∈ act ∧ x.status = .live then x.setReg n (r l) else x) := by
  induction act generalizing ls with
  | nil => simp [writeLanes]
  | cons a act ih =>
    have h : writeLanes n ((a :: act).map (fun l => (l, r l))) ls =
        writeLanes n (act.map (fun l => (l, r l))) (modAt ls a (fun x => if x.status = .live then x.setReg n (r a) else x)) := rfl
    rw [h, ih]
    simp only [modAt, List.getElem?_modify]
    cases ls[l]? with
    | none => by_cases hl : a = l <;> simp [hl]
    | some x =>
      by_cases hl : a = l
      · subst hl
        by_cases hs : x.status = .live
        · by_cases hm : a ∈ act <;> simp [hs, hm, Lane.setReg, Table.set_set]
        · simp [hs]
      · have hl' : ¬(l = a) := fun h => hl h.symm
        simp [hl, hl']

/-- What `writeReg` does to a team. -/
def Team.writeReg (t : Team) (slot ac n : Nat) (vals : List (Nat × Reg)) : Team :=
  if 1016 ≤ n then
    match vals with
    | [] => t
    | (_, r) :: _ => { t with shared := modAt t.shared (n - 1016) (fun x => x.write slot ac r) }
  else { t with groups := modAt t.groups slot (fun g => { g with lanes := writeLanes n vals g.lanes }) }

/-- Writing a register is a change of the team. -/
theorem Fab.writeReg_eq (f : Fab) (c slot n : Nat) (vals : List (Nat × Reg)) (h : vals ≠ []) :
    f.writeReg c slot n vals = f.modTeam c (fun t => t.writeReg slot f.ac n vals) := by
  unfold Fab.writeReg Team.writeReg
  split
  · cases vals with
    | nil => exact absurd rfl h
    | cons v t => obtain ⟨l, r⟩ := v; rfl
  · rfl

/-- Writing consecutive registers in the listed lanes, `n` values for each, is a change of the team. -/
theorem Fab.writeRegs_eq (f : Fab) (c slot d n : Nat) (act : List Nat) (v : Nat → List Reg) (ha : act ≠ [])
    (hn : ∀ l, l ∈ act → (v l).length = n) :
    f.writeRegs c slot d (act.map (fun l => (l, v l))) = if n = 0 then f else
      f.modTeam c (fun t => (List.range n).foldl (fun t k => t.writeReg slot f.ac (d + k) (act.map (fun l => (l, (v l).getD k .zero)))) t) := by
  have hv : ∀ k, k < n → (act.map (fun l => (l, v l))).filterMap (fun x => (x.2[k]?).map (fun r => (x.1, r))) =
      act.map (fun l => (l, (v l).getD k .zero)) := by
    intro k hk
    clear ha
    induction act with
    | nil => rfl
    | cons l t ih =>
      have : k < (v l).length := by rw [hn l (by simp)]; exact hk
      simp only [List.map_cons, List.filterMap_cons, List.getElem?_eq_getElem this, Option.map_some, List.getD, Option.getD_some]
      rw [ih (fun l hl => hn l (by simp [hl]))]
      rfl
  have hne : ∀ k, act.map (fun l => (l, (v l).getD k .zero)) ≠ [] := by intro k; simpa using ha
  have key : ∀ m, m ≤ n → (List.range m).foldl (fun f i => f.writeReg c slot (d + i)
        ((act.map (fun l => (l, v l))).filterMap (fun v => (v.2[i]?).map (fun r => (v.1, r))))) f =
      if m = 0 then f else f.modTeam c (fun t => (List.range m).foldl (fun t k =>
        t.writeReg slot f.ac (d + k) (act.map (fun l => (l, (v l).getD k .zero)))) t) := by
    intro m
    induction m with
    | zero => intro _; simp
    | succ m ih =>
      intro hm
      rw [List.range_succ, List.foldl_append, ih (by omega)]
      simp only [List.foldl_cons, List.foldl_nil, List.foldl_append]
      rw [hv m (by omega)]
      by_cases h0 : m = 0
      · subst h0
        simp only [Nat.zero_add, Nat.one_ne_zero, if_false, List.range_zero, List.foldl_nil, if_true]
        rw [Fab.writeReg_eq _ _ _ _ _ (hne 0)]
      · rw [if_neg h0, if_neg (by omega), Fab.writeReg_eq _ _ _ _ _ (hne m), Fab.modTeam_modTeam, Fab.modTeam_ac]
  rw [← key n (Nat.le_refl n)]
  cases act with
  | nil => exact absurd rfl ha
  | cons a t => rw [← hn a (by simp)]; rfl

/-- Registers written one after another leave the identity of the team, its scratchpad, presence and slots. -/
theorem Team.writeReg_store (t : Team) (slot ac n : Nat) (vals : List (Nat × Reg)) :
    SameStore (t.writeReg slot ac n vals) t := by
  unfold Team.writeReg SameStore
  split
  · split <;> rfl
  · rfl

/-- What a run of writes does to a team, over the registers written so far. -/
theorem Team.writes_spec (t : Team) (slot ac d n : Nat) (act : List Nat) (v : Nat → List Reg) (ha : act ≠ []) :
    let t' := (List.range n).foldl (fun t k => t.writeReg slot ac (d + k) (act.map (fun l => (l, (v l).getD k .zero)))) t
    SameStore t' t ∧
    (∀ m, t'.shared[m]? = if d ≤ m + 1016 ∧ m + 1016 < d + n then
        (t.shared[m]?).map (fun x => x.write slot ac ((v (act.headD 0)).getD (m + 1016 - d) .zero)) else t.shared[m]?) ∧
    (∀ k, k ≠ slot → t'.groups[k]? = t.groups[k]?) ∧
    (∀ g, t.groups[slot]? = some g → ∃ ls, t'.groups[slot]? = some { g with lanes := ls } ∧
      ∀ l, ls[l]? = (g.lanes[l]?).map (fun x => if l ∈ act ∧ x.status = .live then
        (List.range n).foldl (fun x k => if d + k < 1016 then x.setReg (d + k) ((v l).getD k .zero) else x) x else x)) := by
  dsimp only
  induction n with
  | zero =>
    refine ⟨rfl, fun m => ?_, by simp, fun g hg => ⟨g.lanes, by simpa using hg, by simp⟩⟩
    rw [if_neg (by omega)]
    rfl
  | succ n ih =>
    obtain ⟨h1, h2, h3, h4⟩ := ih
    rw [List.range_succ, List.foldl_append]
    simp only [List.foldl_cons, List.foldl_nil]
    generalize (List.range n).foldl (fun t k => t.writeReg slot ac (d + k) (act.map (fun l => (l, (v l).getD k .zero)))) t = u at h1 h2 h3 h4
    refine ⟨(Team.writeReg_store _ _ _ _ _).trans h1, ?_, ?_, ?_⟩
    · intro m
      unfold Team.writeReg
      split
      · cases act with
        | nil => exact absurd rfl ha
        | cons a as =>
          simp only [List.map_cons, modAt, List.getElem?_modify, h2 m, List.headD_cons]
          by_cases hm : d + n - 1016 = m
          · have : m + 1016 = d + n := by omega
            simp only [hm, if_true]
            rw [if_neg (by omega), if_pos (by omega)]
            cases t.shared[m]? <;> simp [this]
          · simp only [hm, if_false]
            by_cases hr : d ≤ m + 1016 ∧ m + 1016 < d + n
            · rw [if_pos hr, if_pos (by omega)]; cases t.shared[m]? <;> rfl
            · rw [if_neg hr, if_neg (by omega)]; cases t.shared[m]? <;> rfl
      · simp only [h2 m]
        by_cases hr : d ≤ m + 1016 ∧ m + 1016 < d + n
        · rw [if_pos hr, if_pos (by omega)]
        · rw [if_neg hr, if_neg (by omega)]
    · intro k hk
      unfold Team.writeReg
      split
      · split <;> exact h3 k hk
      · simp only [modAt, List.getElem?_modify, Ne.symm hk, if_false, h3 k hk]
        cases t.groups[k]? <;> rfl
    · intro g hg
      obtain ⟨ls, e1, e2⟩ := h4 g hg
      unfold Team.writeReg
      split
      · rename_i hd
        refine ⟨ls, ?_, ?_⟩
        · split <;> exact e1
        · intro l
          rw [e2 l]
          cases g.lanes[l]? with
          | none => rfl
          | some x =>
            simp only [Option.map_some, List.foldl_append, List.foldl_cons, List.foldl_nil]
            rw [if_neg (by omega : ¬ d + n < 1016)]
      · rename_i hd
        refine ⟨writeLanes (d + n) (act.map (fun l => (l, (v l).getD n .zero))) ls, ?_, ?_⟩
        · simp [modAt, e1]
        · intro l
          rw [writeLanes_getElem?, e2 l]
          cases g.lanes[l]? with
          | none => rfl
          | some x =>
            simp only [Option.map_some, List.foldl_append, List.foldl_cons, List.foldl_nil]
            rw [if_pos (by omega : d + n < 1016)]
            congr 1
            by_cases hl : l ∈ act ∧ x.status = .live
            · rw [if_pos hl, if_pos hl, if_pos]
              refine ⟨hl.1, ?_⟩
              have : ∀ (m : Nat) (y : Lane), y.status = .live → ((List.range m).foldl (fun x k =>
                  if d + k < 1016 then x.setReg (d + k) ((v l).getD k .zero) else x) y).status = .live := by
                intro m y hy
                induction m with
                | zero => simpa using hy
                | succ m ihm =>
                  rw [List.range_succ, List.foldl_append]
                  simp only [List.foldl_cons, List.foldl_nil]
                  split <;> simpa [Lane.setReg] using ihm
              exact this n x hl.2
            · rw [if_neg hl, if_neg hl, if_neg hl]

/-! ## A lane's registers after a run of writes -/

/-- A lane after consecutive registers from `d` have been written. -/
def Lane.written (x : Lane) (d n : Nat) (rs : List Reg) : Lane :=
  (List.range n).foldl (fun x k => if d + k < 1016 then x.setReg (d + k) (rs.getD k .zero) else x) x

/-- Writing registers of a lane changes nothing but its registers: a written one holds its value, the others theirs. -/
theorem Lane.written_spec (x : Lane) (d n : Nat) (rs : List Reg) :
    { x.written d n rs with regs := [] } = { x with regs := [] } ∧
    ∀ m, Table.get? (x.written d n rs).regs m = if d ≤ m ∧ m < d + n ∧ m < 1016 then some (rs.getD (m - d) .zero) else Table.get? x.regs m := by
  unfold Lane.written
  induction n with
  | zero => refine ⟨rfl, ?_⟩; intro m; simp; omega
  | succ n ih =>
    rw [List.range_succ, List.foldl_append]
    simp only [List.foldl_cons, List.foldl_nil]
    generalize (List.range n).foldl (fun x k => if d + k < 1016 then x.setReg (d + k) (rs.getD k .zero) else x) x = y at ih
    obtain ⟨h1, h2⟩ := ih
    split
    · refine ⟨by simpa [Lane.setReg] using h1, fun m => ?_⟩
      by_cases hm : m = d + n
      · subst hm
        simp only [Lane.setReg, Table.get?_set_self]
        rw [if_pos (by omega)]; simp
      · simp only [Lane.setReg, Table.get?_set_other _ _ _ _ hm, h2 m]
        by_cases hr : d ≤ m ∧ m < d + n ∧ m < 1016
        · rw [if_pos hr, if_pos (by omega)]
        · rw [if_neg hr, if_neg (by omega)]
    · refine ⟨h1, fun m => ?_⟩
      rw [h2 m]
      by_cases hr : d ≤ m ∧ m < d + n ∧ m < 1016
      · rw [if_pos hr, if_pos (by omega)]
      · rw [if_neg hr, if_neg (by omega)]

/-! ## Merging -/

/-- Merging the frontier changes priorities only (R145). -/
theorem Group.merge_spec (g : Group) :
    ({ g.merge with lanes := [] } : Group) = { g with lanes := [] } ∧
    ∀ l : Nat, ∃ p : Lane → Byte, g.merge.lanes[l]? = (g.lanes[l]?).map (fun x => { x with prio := p x }) := by
  refine ⟨rfl, fun l => ?_⟩
  simp only [Group.merge, List.getElem?_mapIdx]
  cases g.lanes[l]? with
  | none => exact ⟨fun x => x.prio, rfl⟩
  | some x =>
    by_cases h : x.ready = true
    · simp only [Option.map_some, h, if_true]
      exact ⟨fun _ => _, rfl⟩
    · simp only [Option.map_some, h]
      exact ⟨fun x => x.prio, rfl⟩

/-! ## The issuing instruction -/

/-- What the issuing instruction stands for: a group of a team, its width, registers and control word, and the live lanes of
one frontier entry (R134, R136, R145). -/
theorem Fab.iss_spec {f : Fab} {p : Pred} {len : Nat} {i : Iss} (h : f.iss p len = some i) :
    ∃ t g, (f.core i.core).team = some t ∧ t.groups[i.slot]? = some g ∧ i.w = g.lanes.length ∧ i.r = g.r ∧ i.gcw = g.gcw ∧
      i.grid = t.grid ∧ i.ctx = t.ctx ∧ i.trapMode = g.trap.isSome ∧ i.len = len ∧
      i.active = i.entry.filter (fun l => f.predicate i.core i.slot p l) ∧ i.entry ≠ [] ∧
      ∀ l, l ∈ i.entry → ∃ x, g.lanes[l]? = some x ∧ x.status = .live ∧ x.park = none ∧ x.pc = i.pc := by
  unfold Fab.iss at h
  split at h
  · cases h
  · rename_i c s _
    split at h
    · rename_i t g ht hg
      split at h
      · cases h
      · rename_i l ls he
        have hg' : t.groups[s]? = some g := by simpa [Fab.group?, ht] using hg
        have hmem : ∀ m, m ∈ g.entry → ∃ x, g.lanes[m]? = some x ∧ x.status = .live ∧ x.park = none := by
          intro m hm
          unfold Group.entry at hm
          dsimp only at hm
          split at hm
          · cases hm
          · simp only [List.mem_map, List.mem_filter, Group.numbered, List.mem_mapIdx] at hm
            obtain ⟨a, ⟨⟨⟨k, hk, rfl⟩, hmay⟩, -⟩, rfl⟩ := hm
            refine ⟨g.lanes[k], by simp, ?_⟩
            simp only [Group.mayIssue, Lane.ready, Bool.and_eq_true, beq_iff_eq] at hmay
            exact ⟨hmay.1.1, by simpa using hmay.1.2⟩
        have hpc : ∀ m k x y, m ∈ g.entry → k ∈ g.entry → g.lanes[m]? = some x → g.lanes[k]? = some y → x.pc = y.pc := by
          intro m k x y hm hk hx hy
          unfold Group.entry at hm hk
          dsimp only at hm hk
          split at hm
          · cases hm
          · rename_i h1
            rw [h1] at hk
            simp only [List.mem_map, List.mem_filter, Group.numbered, ← h1, List.mem_mapIdx] at hm hk
            obtain ⟨a, ⟨⟨⟨m', hm', rfl⟩, -⟩, hq⟩, rfl⟩ := hm
            obtain ⟨b, ⟨⟨⟨k', hk', rfl⟩, -⟩, hr⟩, rfl⟩ := hk
            simp only [List.getElem?_eq_getElem hm', List.getElem?_eq_getElem hk', Option.some.injEq] at hx hy
            subst hx; subst hy
            simp only [beq_iff_eq] at hq hr
            rw [hq, hr]
        obtain ⟨x0, hx0, -⟩ := hmem l (by simp [he])
        simp only [Option.some.injEq] at h
        subst h
        refine ⟨t, g, ht, hg', rfl, rfl, rfl, rfl, rfl, rfl, rfl, rfl, by simp, fun m hm => ?_⟩
        obtain ⟨x, hx, hs, hp⟩ := hmem m (by rw [he]; exact hm)
        exact ⟨x, hx, hs, hp, by rw [hx0]; exact hpc m l x x0 (by rw [he]; exact hm) (by simp [he]) hx hx0⟩
    · cases h

/-- A lane of the entry after its group has moved past the instruction (R242, R151). -/
def Iss.pastLane (i : Iss) (l : Nat) (x : Lane) : Lane :=
  if i.entry.contains l then
    { x with pc := i.pc + BitVec.ofNat 48 i.len, window := if i.trapMode then x.window else x.window.map (· + 1) } else x
/-- The group of an instruction after it has moved past it. -/
def Iss.pastGroup (i : Iss) (ac : Nat) (hints : Bool × Nat) (g : Group) : Group :=
  { g with
    lanes := g.lanes.mapIdx (fun l x => i.pastLane l x)
    trap := g.trap.map (fun t => { t with issued := t.issued + 1 })
    gapUntil := ac + hints.2 + (if i.w = 64 then 2 else 1)
    gw := hints.1
    lastIssue := some ac
    eligSince := none
    absentSince := none }
/-- Moving past an instruction is a change of the issuing group. -/
theorem Fab.advance_eq (f : Fab) (i : Iss) (hints : Bool × Nat) :
    f.advance i hints = f.modGroup i.core i.slot (i.pastGroup f.ac hints) := rfl

/-- A change of a group that touches its control word and its lanes' priorities only. -/
def KeepsLanes (k : Group → Group) : Prop :=
  ∀ g, ({ k g with lanes := [], gcw := 0 } : Group) = { g with lanes := [], gcw := 0 } ∧
    ∀ l : Nat, ∃ p : Lane → Byte, (k g).lanes[l]? = (g.lanes[l]?).map (fun x => { x with prio := p x })

/-- Merging is such a change. -/
theorem keepsLanes_merge : KeepsLanes Group.merge := fun g => ⟨rfl, (Group.merge_spec g).2⟩
/-- Raising flags and then merging is such a change. -/
theorem keepsLanes_sticky (w : Word) : KeepsLanes (fun g => ({ g with gcw := g.gcw ||| w } : Group).merge) :=
  fun _ => ⟨rfl, (Group.merge_spec _).2⟩

/-- What an instruction that moves past, writes `n` registers from `d` in its active lanes and then changes its control word
or priorities does to the team of its core. -/
theorem Iss.writes_team {f : Fab} {p : Pred} {len : Nat} {i : Iss} (hints : Bool × Nat) (d n : Nat) (v : Nat → List Reg)
    (hi : f.iss p len = some i) (hn : ∀ l, l ∈ i.active → (v l).length = n) (k : Group → Group) :
    ∃ H : Team → Team,
      (i.put (f.advance i hints) d (i.active.map (fun l => (l, v l)))).modGroup i.core i.slot k = f.modTeam i.core H ∧
      ∃ t g, (f.core i.core).team = some t ∧ t.groups[i.slot]? = some g ∧ SameStore (H t) t ∧
        (∀ m, (H t).shared[m]? = if i.active ≠ [] ∧ d ≤ m + 1016 ∧ m + 1016 < d + n then
          (t.shared[m]?).map (fun x => x.write i.slot f.ac ((v (i.active.headD 0)).getD (m + 1016 - d) .zero)) else t.shared[m]?) ∧
        (∀ m, m ≠ i.slot → (H t).groups[m]? = t.groups[m]?) ∧
        ∃ ls, (H t).groups[i.slot]? = some (k { i.pastGroup f.ac hints g with lanes := ls }) ∧
          ∀ l, ls[l]? = (g.lanes[l]?).map (fun x => if l ∈ i.active ∧ x.status = .live then (i.pastLane l x).written d n (v l)
            else i.pastLane l x) := by
  obtain ⟨t, g, ht, hg, -⟩ := Fab.iss_spec hi
  have hst : ∀ l (x : Lane), (i.pastLane l x).status = x.status := by
    intro l x; unfold Iss.pastLane; split <;> rfl
  by_cases ha : i.active = []
  · refine ⟨fun t => { t with groups := modAt t.groups i.slot (fun g => k (i.pastGroup f.ac hints g)) }, ?_, t, g, ht, hg, rfl, ?_, ?_,
      (i.pastGroup f.ac hints g).lanes, ?_, ?_⟩
    · have : i.put (f.advance i hints) d (i.active.map (fun l => (l, v l))) = f.advance i hints := by simp [ha, Iss.put, Fab.writeRegs]
      rw [this, Fab.advance_eq, Fab.modGroup_modGroup]
      rfl
    · intro m; simp [ha]
    · intro m hm; simp [modAt, Ne.symm hm]
    · simp [modAt, hg]
    · intro l; simp [ha, Iss.pastGroup]
  · have hw := Fab.writeRegs_eq (f.advance i hints) i.core i.slot d n i.active v ha hn
    by_cases h0 : n = 0
    · rw [if_pos h0] at hw
      refine ⟨fun t => { t with groups := modAt t.groups i.slot (fun g => k (i.pastGroup f.ac hints g)) }, ?_, t, g, ht, hg, rfl, ?_, ?_,
        (i.pastGroup f.ac hints g).lanes, ?_, ?_⟩
      · have : i.put (f.advance i hints) d (i.active.map (fun l => (l, v l))) = f.advance i hints := hw
        rw [this, Fab.advance_eq, Fab.modGroup_modGroup]
        rfl
      · intro m; rw [if_neg (by omega)]
      · intro m hm; simp [modAt, Ne.symm hm]
      · simp [modAt, hg]
      · intro l; simp [h0, Iss.pastGroup, Lane.written]
    · rw [if_neg h0] at hw
      have hac : (f.advance i hints).ac = f.ac := by simp [Fab.advance_eq]
      rw [hac] at hw
      let u : Team := { t with groups := modAt t.groups i.slot (i.pastGroup f.ac hints) }
      have hu : u.groups[i.slot]? = some (i.pastGroup f.ac hints g) := by simp [u, modAt, hg]
      obtain ⟨w1, w2, w3, w4⟩ := Team.writes_spec u i.slot f.ac d n i.active v ha
      obtain ⟨ls, e1, e2⟩ := w4 _ hu
      refine ⟨fun t =>
        let u : Team := { t with groups := modAt t.groups i.slot (i.pastGroup f.ac hints) }
        let u' := (List.range n).foldl (fun t k => t.writeReg i.slot f.ac (d + k) (i.active.map (fun l => (l, (v l).getD k .zero)))) u
        { u' with groups := modAt u'.groups i.slot k }, ?_, t, g, ht, hg, ?_, ?_, ?_, ls, ?_, ?_⟩
      · have : i.put (f.advance i hints) d (i.active.map (fun l => (l, v l))) = _ := hw
        rw [this, Fab.advance_eq, Fab.modGroup_eq, Fab.modGroup_eq, Fab.modTeam_modTeam, Fab.modTeam_modTeam]
      · exact w1
      · intro m
        refine (w2 m).trans ?_
        by_cases hm : d ≤ m + 1016 ∧ m + 1016 < d + n
        · rw [if_pos hm, if_pos ⟨ha, hm⟩]
        · rw [if_neg hm, if_neg (fun h => hm h.2)]
      · intro m hm
        simp only [modAt, List.getElem?_modify, Ne.symm hm, if_false]
        have := w3 m hm
        simp only [u, modAt, List.getElem?_modify, Ne.symm hm, if_false] at this
        simpa using this
      · have e1' := e1
        simp only [u] at e1'
        simp only [modAt, List.getElem?_modify, if_true] at e1' ⊢
        rw [e1']
        rfl
      · intro l
        rw [e2 l]
        simp only [Iss.pastGroup, List.getElem?_mapIdx]
        cases g.lanes[l]? with
        | none => rfl
        | some x => simp [hst, Lane.written]

/-- What an instruction that writes registers and nothing else leaves: its values in the active lanes, the control word its
last change gives, and everything else as it was (R134, R139, R140, R242). -/
theorem Iss.writes_state {s : State} {p : Pred} {len : Nat} {i : Iss} (hints : Bool × Nat) (d n : Nat) (v : Nat → List Reg)
    (hi : s.fab.iss p len = some i) (hn : ∀ l, l ∈ i.active → (v l).length = n) (k : Group → Group) (hk : KeepsLanes k) :
    let t : State := { s with fab :=
      (i.put (s.fab.advance i hints) d (i.active.map (fun l => (l, v l)))).modGroup i.core i.slot k }
    RegFrame s t i d n ∧ Wrote s t i d v ∧
      ∃ g : Group, g.gcw = i.gcw ∧ gcwOf t i = some (k g).gcw := by
  intro t
  obtain ⟨H, hH, tm, g, htm, hg, hst, hsh, hot, ls, hls, hl⟩ := Iss.writes_team hints d n v hi hn k
  obtain ⟨tm0, g0, htm0, hg0, hw, hr, hgcw, -, -, htrap, -, hact, -, hent⟩ := Fab.iss_spec hi
  rw [htm] at htm0; cases htm0
  rw [hg] at hg0; cases hg0
  have ht : t.fab = s.fab.modTeam i.core H := hH
  have hteam : (t.fab.core i.core).team = some (H tm) := by rw [ht, Fab.core_modTeam_self, htm]; rfl
  obtain ⟨hk1, hk2⟩ := hk { i.pastGroup s.fab.ac hints g with lanes := ls }
  have hsame := Fab.modTeam_sameButCore s.fab i.core H
  rw [← ht] at hsame
  have hpl : ∀ (l : Nat) (x : Lane), i.pastLane l x = { x with pc := (if l ∈ i.entry then i.pc + BitVec.ofNat 48 i.len else x.pc), window := (i.pastLane l x).window } := by
    intro l x
    by_cases h : l ∈ i.entry
    · simp [Iss.pastLane, h]
    · simp [Iss.pastLane, h]
  have hlane : ∀ (l : Nat) (x : Lane), g.lanes[l]? = some x → ∃ y, (k { i.pastGroup s.fab.ac hints g with lanes := ls }).lanes[l]? = some y ∧
      { y with regs := [], prio := 0, window := none } = { i.pastLane l x with regs := [], prio := 0, window := none } ∧
      (∀ m, Table.get? y.regs m = if (l ∈ i.active ∧ x.status = .live) ∧ d ≤ m ∧ m < d + n ∧ m < 1016 then some ((v l).getD (m - d) .zero)
        else Table.get? x.regs m) := by
    intro l x hx
    obtain ⟨pr, hpr⟩ := hk2 l
    rw [hpr]
    have := hl l
    rw [hx] at this
    simp only [this, Option.map_some]
    refine ⟨_, rfl, ?_, ?_⟩
    · split
      · have h1 := (Lane.written_spec (i.pastLane l x) d n (v l)).1
        have h2 := congrArg (fun y : Lane => { y with prio := 0, window := none }) h1
        simpa using h2
      · rfl
    · intro m
      have hrr : (i.pastLane l x).regs = x.regs := by rw [hpl]
      split
      · rename_i hc
        rw [(Lane.written_spec (i.pastLane l x) d n (v l)).2 m, hrr]
        simp [hc]
      · rename_i hc
        rw [if_neg (fun h => hc h.1), hrr]
  have hpriv : ∀ (l : Nat) (x y : Lane) (m : Nat), { y with regs := [], prio := 0, window := none } = { i.pastLane l x with regs := [], prio := 0, window := none } →
      Table.get? y.regs m = Table.get? x.regs m → y.priv i.core i.slot l m = x.priv i.core i.slot l m := by
    intro l x y m h1 h2
    have he : y.epoch = x.epoch := (congrArg Lane.epoch h1 :).trans (congrArg Lane.epoch (hpl l x) :)
    simp [Lane.priv, h2, he]
  refine ⟨⟨rfl, rfl, hsame.1, hsame.2, tm, H tm, g, _, htm, hteam, hst, hg, hls, hot, ?_, ?_, ?_, ?_, ?_, ?_, ?_⟩, ⟨?_, ?_⟩, ?_⟩
  · intro m hm hd
    rw [hsh, if_neg]
    rintro ⟨-, h1, h2⟩
    omega
  · exact ⟨(congrArg Group.storeQ hk1 :), (congrArg Group.loads hk1 :), (congrArg Group.openBatch hk1 :), (congrArg Group.batches hk1 :),
      (congrArg Group.rem hk1 :), (congrArg Group.undel hk1 :), (congrArg Group.ringCount hk1 :), (congrArg Group.nextSeq hk1 :),
      (congrArg Group.sealedCp hk1 :), (congrArg Group.issuedMx hk1 :), (congrArg Group.issuedCl hk1 :)⟩
  · exact (congrArg Group.r hk1 :)
  · have : (k { i.pastGroup s.fab.ac hints g with lanes := ls }).hold = g.hold := (congrArg Group.hold hk1 :)
    exact this
  · exact (congrArg Group.stop hk1 :)
  · have : (k { i.pastGroup s.fab.ac hints g with lanes := ls }).trap = g.trap.map (fun t => { t with issued := t.issued + 1 }) := (congrArg Group.trap hk1 :)
    rw [this]
    cases g.trap <;> rfl
  · intro l x hx
    obtain ⟨y, hy, h1, h2⟩ := hlane l x hx
    have h3 := hpl l x
    refine ⟨y, hy, (congrArg Lane.status h1 :).trans (congrArg Lane.status h3 :),
      (congrArg Lane.bound h1 :).trans (congrArg Lane.bound h3 :), (congrArg Lane.task h1 :).trans (congrArg Lane.task h3 :),
      (congrArg Lane.ck h1 :).trans (congrArg Lane.ck h3 :), ⟨(congrArg Lane.park h1 :).trans (congrArg Lane.park h3 :),
      (congrArg Lane.enrolled h1 :).trans (congrArg Lane.enrolled h3 :), (congrArg Lane.arrived h1 :).trans (congrArg Lane.arrived h3 :),
      (congrArg Lane.pc h1 :).trans (congrArg Lane.pc h3 :)⟩, ?_⟩
    intro m hm hc
    refine hpriv l x y m h1 ?_
    rw [h2 m, if_neg]
    rintro ⟨⟨ha, -⟩, hb⟩
    rcases hc with hc | hc | hc
    · exact hc ha
    · omega
    · omega
  · intro l hla q r hr hlt
    have hle : l ∈ i.entry := by rw [hact] at hla; exact (List.mem_filter.mp hla).1
    obtain ⟨x, hx, hlive, -⟩ := hent l hle
    obtain ⟨y, hy, h1, h2⟩ := hlane l x hx
    have hys : y.status = .live := ((congrArg Lane.status h1 :).trans (congrArg Lane.status (hpl l x) :)).trans hlive
    have hq : q < n := by
      have := (List.getElem?_eq_some_iff.mp hr).1
      rwa [hn l hla] at this
    unfold Fab.reg
    rw [hteam]
    dsimp only
    rw [if_neg (by omega), hls]
    dsimp only
    rw [hy]
    dsimp only
    rw [if_pos hys]
    unfold Lane.priv
    rw [h2, if_pos ⟨⟨hla, hlive⟩, by omega, by omega, hlt⟩]
    simp [List.getD, hr]
  · intro l t' ha q r x hr hq hx
    have hne : i.active ≠ [] := by rw [ha]; simp
    have hla : l ∈ i.active := by rw [ha]; simp
    have hqn : q < n := by
      have := (List.getElem?_eq_some_iff.mp hr).1
      rwa [hn l hla] at this
    have hx' : tm.shared[d + q - 1016]? = some x := by simpa [teamAt, htm] using hx
    show (t.fab.core i.core).team.bind _ = _
    rw [hteam]
    show (H tm).shared[d + q - 1016]? = _
    rw [hsh, if_pos ⟨hne, by omega, by omega⟩, hx']
    have : d + q - 1016 + 1016 - d = q := by omega
    simp [ha, this, List.getD, hr]
  · refine ⟨{ i.pastGroup s.fab.ac hints g with lanes := ls }, ?_, ?_⟩
    · rw [hgcw]; rfl
    · show (t.fab.group? i.core i.slot).map _ = _
      simp only [Fab.group?, hteam, Option.bind_some, hls, Option.map_some]

/-- An instruction whose body writes `n` registers from `d` in each active lane and raises nothing. -/
theorem run_pure {s : State} {e : Enc} {gate : Iss → Fab → Bool} {i : Iss} {body : Iss → Ctl → Fab → Res} (d n : Nat)
    (v : Nat → List Reg) (h : Issues s e gate i) (hb : body i s.ctl (moved s e i) = i.pure (moved s e i) d v)
    (hn : ∀ l, l ∈ i.active → (v l).length = n) :
    ∃ t, run e gate body s = .next t ∧ RegFrame s t i d n ∧ Wrote s t i d v ∧ gcwOf t i = some i.gcw := by
  refine ⟨_, run_done h hb, ?_⟩
  obtain ⟨h1, h2, g, h3, h4⟩ := Iss.writes_state e.hints d n v h.1 hn Group.merge keepsLanes_merge
  exact ⟨h1, h2, h4.trans (congrArg some h3)⟩

/-- Conditions of a list of lanes, together. -/
theorem conds_fold (cs : List (Nat × Conds)) (a : Conds) : cs.foldl (fun a c => a.or c.2) a =
    ⟨a.dz || cs.any (fun x => x.2.dz), a.inv || cs.any (fun x => x.2.inv), a.fdz || cs.any (fun x => x.2.fdz),
      a.ovf || cs.any (fun x => x.2.ovf), a.unf || cs.any (fun x => x.2.unf)⟩ := by
  induction cs generalizing a with
  | nil => simp
  | cons c cs ih => rw [List.foldl_cons, ih]; simp [Conds.or, Bool.or_assoc]
/-- Together, lanes raise a condition where one of them does. -/
theorem conds_fold_has (cs : List (Nat × Conds)) (c : Nat) :
    (cs.foldl (fun a c => a.or c.2) Conds.none_).has c = cs.any (fun x => x.2.has c) := by
  rw [conds_fold]
  unfold Conds.has
  split <;> simp [Conds.none_]

/-- How an instruction whose lanes raised conditions ends: its sticky flags, and the trap for those enabled. -/
theorem Iss.finish_eq (i : Iss) (f : Fab) (cs : List (Nat × Conds)) :
    i.finish f cs = match arithTrap i.gcw cs with
      | none => .done (f.modGroup i.core i.slot (fun g => { g with gcw := g.gcw ||| stickyOf cs }))
      | some t => .after (f.modGroup i.core i.slot (fun g => { g with gcw := g.gcw ||| stickyOf cs })) t := by
  have hs : (cs.foldl (fun a c => a.or c.2) Conds.none_).sticky = stickyOf cs := by
    rw [conds_fold]
    simp only [Conds.sticky, stickyOf, Conds.none_, Bool.false_or]
  unfold Iss.finish arithTrap
  simp only [conds_fold_has, hs]
  cases [5, 6, 7, 8].find? (fun c => gcwEnables i.gcw c && cs.any (fun x => x.2.has c)) <;> rfl

/-- An instruction that computes registers and conditions lane by lane: it writes them, raises its flags, leaves the rest, and
takes the trap of an enabled condition. -/
theorem run_lanewise {s : State} {e : Enc} {gate : Iss → Fab → Bool} {i : Iss} {body : Iss → Ctl → Fab → Res} (d n : Nat)
    (v : Nat → List Reg × Conds) (h : Issues s e gate i) (hb : body i s.ctl (moved s e i) = i.lanewise (moved s e i) d v)
    (hn : ∀ l, l ∈ i.active → (v l).1.length = n) :
    ∃ t, run e gate body s = .next (thenTrap t i (arithTrap i.gcw (i.active.map (fun l => (l, (v l).2))))) ∧
      RegFrame s t i d n ∧ Wrote s t i d (fun l => (v l).1) ∧
      gcwOf t i = some (i.gcw ||| stickyOf (i.active.map (fun l => (l, (v l).2)))) := by
  simp only [Iss.lanewise, List.map_map, Function.comp_def] at hb
  rw [Iss.finish_eq] at hb
  obtain ⟨h1, h2, g, h3, h4⟩ := Iss.writes_state e.hints d n (fun l => (v l).1) h.1 hn _
    (keepsLanes_sticky (stickyOf (i.active.map (fun l => (l, (v l).2)))))
  rw [← Fab.modGroup_modGroup] at h1 h2 h4
  refine ⟨_, ?_, h1, h2, h4.trans ?_⟩
  · rw [run_of_issues body h, hb]
    cases arithTrap i.gcw (i.active.map (fun l => (l, (v l).2))) <;> rfl
  · show some (g.gcw ||| _) = _
    rw [h3]

/-! ## What an instruction reads -/

/-- Moving past an instruction leaves every register. -/
theorem Fab.reg_advance (f : Fab) (i : Iss) (hints : Bool × Nat) (c s l n : Nat) : (f.advance i hints).reg c s l n = f.reg c s l n := by
  rw [Fab.advance_eq]
  unfold Fab.reg
  by_cases hc : c = i.core
  · subst hc
    rw [Fab.core_modGroup_self]
    cases ht : (f.core i.core).team with
    | none => rfl
    | some t =>
      simp only [Option.map_some, Fab.modGroup_ac, modAt, List.getElem?_modify]
      by_cases hn : 1016 ≤ n
      · simp [hn]
      · simp only [hn, if_false]
        by_cases hs : i.slot = s
        · subst hs
          cases t.groups[i.slot]? with
          | none => rfl
          | some g =>
            simp only [Iss.pastGroup, if_true, Option.map_some, Option.map_eq_map, List.getElem?_mapIdx]
            cases g.lanes[l]? with
            | none => rfl
            | some x =>
              simp only [Option.map_some, Iss.pastLane, Lane.priv]
              split <;> rfl
        · simp [hs]
  · rw [Fab.core_modGroup_other _ _ _ hc]
    simp
/-- Moving past an instruction leaves every source. -/
theorem Fab.source_advance (f : Fab) (i j : Iss) (hints : Bool × Nat) (r n : Nat) (rt : BitVec 9) (l : Nat) :
    (f.advance i hints).source j r n rt l = f.source j r n rt l := by
  unfold Fab.source Fab.routed
  simp only [Fab.reg_advance]
/-- Moving past an instruction leaves the operands of its lanes. -/
theorem Iss.operands_moved (s : State) (e : Enc) (i : Iss) (u : XrUse) (f : XrForm) (l : Nat) :
    i.operands (moved s e i) u f l = i.operands s.fab u f l := by
  unfold Iss.operands Iss.regsB moved
  simp only [Fab.source_advance]
/-- A queue whose ring has places for the entries that lanes hold lets them be (R328). -/
theorem Fab.keepRoom_of_room (ctl : Ctl) (f : Fab) (desc : Loc) (q : QDesc) (h : q.held + (f.holders desc).length ≤ 2 ^ q.logcap) :
    f.keepRoom ctl desc q = f := by
  simp [Fab.keepRoom, Nat.not_lt.mpr h]

end Sys2Proof.Machine
end

