-- ==== Sys2Proof/Laws/Events.lean ====
section
/-!
SUPPORT. Instructions that run a lane operation, and changes of one port: what they leave, once for every instruction of
chapter 13 and every event of a link.
-/
namespace Sys2Proof.Machine
open Sys2Proof.Safety

theorem natRegs_length (tag : Tag) (n x : Nat) : (natRegs tag n x).length = n := by
  induction n generalizing x with
  | zero => rfl
  | succ n ih => simp [natRegs, ih]

theorem Fab.source_length (f : Fab) (i : Iss) (r n : Nat) (rt : BitVec 9) (l : Nat) : (f.source i r n rt l).length = n := by
  simp [Fab.source]

theorem Iss.regsB_length (i : Iss) (f : Fab) (x : XrForm) (n l : Nat) : (i.regsB f x n l).length = n := by
  unfold Iss.regsB
  split
  · exact natRegs_length ..
  · exact Fab.source_length ..

/-- What an element-wise instruction of chapter 13 ends in, where its operation writes as many registers as its table says. -/
theorem run_elementwise {s : State} {e : Enc} {i : Iss} {o : Nat} {f : XrForm} {op : LaneOp} {u : XrUse}
    (h : Issues s e noGate i) (hu : xrUse o f = some u)
    (hn : ∀ a b c d, a.length = (match u.a with | some x => x.regs | none => 0) →
      (u.b.isSome → b.length = (match u.b with | some x => x.regs | none => 0)) → (op f a b c d).1.length = dstRegs i.w u.d) :
    let res (l : Nat) : List Reg × Conds := let (a, b, c, d) := i.operands s.fab u f l; op f a b c d
    let cs := i.active.map (fun l => (l, (res l).2))
    ∃ t, run e noGate (elementwise o f op) s = .next (thenTrap t i (arithTrap i.gcw cs)) ∧ RegFrame s t i f.d.toNat (dstRegs i.w u.d) ∧
      Wrote s t i f.d.toNat (fun l => (res l).1) ∧ gcwOf t i = some (i.gcw ||| stickyOf cs) := by
  intro res cs
  refine run_lanewise f.d.toNat (dstRegs i.w u.d) res h ?_ ?_
  · unfold elementwise
    rw [hu]
    simp only [Iss.operands_moved]
    rfl
  · intro l _
    apply hn
    · exact Fab.source_length ..
    · intro hb
      simp only [if_pos hb]
      exact Iss.regsB_length ..

theorem modify_eq_set {α : Type} (l : List α) (p : Nat) (x : α) (h : α → α) (e : l[p]? = some x) : l.modify p h = l.set p (h x) := by
  apply List.ext_getElem?
  intro k
  simp only [List.getElem?_modify, List.getElem?_set]
  by_cases hk : p = k
  · subst hk
    obtain ⟨q, r⟩ := List.getElem?_eq_some_iff.1 e
    simp [q, r]
  · simp [hk]

/-- A change of a port that the module has changes that port alone. -/
theorem State.modPort_eq (s : State) (p : Nat) (x : Port) (h : Port → Port) (e : s.ctl.ports[p]? = some x) :
    s.modPort p h = { s with ctl := { s.ctl with ports := s.ctl.ports.set p (h x) } } := by
  simp only [State.modPort, modAt]
  rw [modify_eq_set _ _ _ _ e]

end Sys2Proof.Machine
end

