-- ==== Sys2Proof/Laws/Memory.lean ====
section
/-!
SUPPORT. The canonical form of a memory, and reads after writes: every operation over memory keeps the form, a byte
written reads back, and every other byte reads as before.
-/
namespace Sys2Proof.Machine

/-! ## The canonical form -/

theorem Memory.wfFrom_weaken {lo : Option Nat} {m : Memory} (h : Memory.wfFrom lo m = true) : Memory.wfFrom none m = true := by
  cases m with
  | nil => rfl
  | cons p m => simp_all [Memory.wfFrom]

/-- What the canonical form of a non-empty memory says. -/
theorem Memory.wfFrom_cons {lo : Option Nat} {a : Nat} {b : Byte} {m : Memory} :
    Memory.wfFrom lo ((a, b) :: m) = true ↔ (∀ l, lo = some l → l < a) ∧ b ≠ Memory.unlisted ∧ Memory.wfFrom (some a) m = true := by
  cases lo <;> simp [Memory.wfFrom, and_assoc]

/-- A write above a bound keeps the canonical form above that bound. -/
theorem Memory.wfFrom_write {lo : Option Nat} {m : Memory} {a : Nat} {b : Byte} (ha : ∀ l, lo = some l → l < a)
    (h : Memory.wfFrom lo m = true) : Memory.wfFrom lo (m.write a b) = true := by
  induction m generalizing lo with
  | nil =>
    simp only [Memory.write]
    split
    · rfl
    · rw [Memory.wfFrom_cons]; exact ⟨ha, by assumption, rfl⟩
  | cons p m ih =>
    obtain ⟨k, v⟩ := p
    rw [Memory.wfFrom_cons] at h
    obtain ⟨hk, hv, hm⟩ := h
    simp only [Memory.write]
    split
    · rename_i hak
      split
      · rw [Memory.wfFrom_cons]; exact ⟨hk, hv, hm⟩
      · rw [Memory.wfFrom_cons, Memory.wfFrom_cons]
        exact ⟨ha, by assumption, fun l hl => by cases hl; exact hak, hv, hm⟩
    · split
      · rename_i _ hak
        subst hak
        split
        · cases m with
          | nil => rfl
          | cons q m =>
            obtain ⟨j, u⟩ := q
            rw [Memory.wfFrom_cons] at hm ⊢
            exact ⟨fun l hl => Nat.lt_trans (ha l hl) (hm.1 _ rfl), hm.2⟩
        · rw [Memory.wfFrom_cons]; exact ⟨hk, by assumption, hm⟩
      · rename_i h1 h2
        rw [Memory.wfFrom_cons]
        exact ⟨hk, hv, ih (fun l hl => by cases hl; omega) hm⟩

/-- A write keeps the canonical form. -/
theorem Memory.wf_write {m : Memory} (a : Nat) (b : Byte) (h : m.wf = true) : (m.write a b).wf = true :=
  Memory.wfFrom_write (fun _ hl => by cases hl) h

/-- Writing a run of bytes keeps the canonical form. -/
theorem Memory.wf_writeBytes {m : Memory} (a : Nat) (bs : List Byte) (h : m.wf = true) : (m.writeBytes a bs).wf = true := by
  induction bs generalizing m a with
  | nil => exact h
  | cons b bs ih => exact ih (a + 1) (Memory.wf_write a b h)

/-- Memory at reset has the canonical form. -/
theorem reset_mem_wf : State.reset.fab.mem.wf = true := rfl

/-! ## Reads after writes -/

/-- Below the first listed address every byte is unlisted. -/
theorem Memory.read_below {m : Memory} {l a : Nat} (h : Memory.wfFrom (some l) m = true) (ha : a ≤ l) : m.read a = Memory.unlisted := by
  cases m with
  | nil => rfl
  | cons p m =>
    obtain ⟨k, v⟩ := p
    have hk := (Memory.wfFrom_cons.mp h).1 l rfl
    simp only [Memory.read]
    rw [if_neg (by omega), if_pos (by omega)]

/-- A byte written reads back. -/
theorem Memory.read_write_self {m : Memory} (a : Nat) (b : Byte) (h : m.wf = true) : (m.write a b).read a = b := by
  suffices ∀ lo, Memory.wfFrom lo m = true → (m.write a b).read a = b from this none h
  clear h
  intro lo h
  induction m generalizing lo with
  | nil => simp only [Memory.write]; split <;> simp_all [Memory.read]
  | cons p m ih =>
    obtain ⟨k, v⟩ := p
    have hm := (Memory.wfFrom_cons.mp h).2.2
    simp only [Memory.write]
    split
    · split
      · rename_i hak hb
        simp only [Memory.read]
        rw [if_neg (by omega), if_pos hak, hb]
      · simp [Memory.read]
    · split
      · rename_i _ hak
        subst hak
        split
        · rename_i hb; rw [hb]; exact Memory.read_below hm (Nat.le_refl _)
        · simp [Memory.read]
      · rename_i h1 h2
        simp only [Memory.read]
        rw [if_neg (by omega), if_neg (by omega)]
        exact ih _ hm

/-- A write leaves every other byte as it reads. -/
theorem Memory.read_write_other {m : Memory} (a x : Nat) (b : Byte) (h : m.wf = true) (hx : x ≠ a) :
    (m.write a b).read x = m.read x := by
  suffices ∀ lo, Memory.wfFrom lo m = true → (m.write a b).read x = m.read x from this none h
  clear h
  intro lo h
  induction m generalizing lo with
  | nil =>
    simp only [Memory.write]
    split
    · rfl
    · simp [Memory.read, hx.symm]
  | cons p m ih =>
    obtain ⟨k, v⟩ := p
    have hm := (Memory.wfFrom_cons.mp h).2.2
    simp only [Memory.write]
    split
    · rename_i hak
      split
      · rfl
      · simp only [Memory.read]
        by_cases hlt : x < a
        · rw [if_neg (by omega), if_pos hlt, if_neg (by omega), if_pos (by omega)]
        · rw [if_neg (by omega), if_neg hlt]
    · split
      · rename_i _ hak
        subst hak
        split
        · simp only [Memory.read]
          rw [if_neg hx.symm]
          by_cases hlt : x < a
          · rw [if_pos hlt]; exact Memory.read_below hm (Nat.le_of_lt hlt)
          · rw [if_neg hlt]
        · simp only [Memory.read]
          rw [if_neg hx.symm, if_neg hx.symm]
      · simp only [Memory.read]
        rw [ih _ hm]

/-- Writing a run of bytes leaves the bytes outside it as they read. -/
theorem Memory.read_writeBytes_other {m : Memory} (a x : Nat) (bs : List Byte) (h : m.wf = true) (hx : x < a ∨ a + bs.length ≤ x) :
    (m.writeBytes a bs).read x = m.read x := by
  induction bs generalizing m a with
  | nil => rfl
  | cons b bs ih =>
    simp only [List.length_cons] at hx
    simp only [Memory.writeBytes]
    rw [ih (a + 1) (Memory.wf_write a b h) (by omega), Memory.read_write_other a x b h (by omega)]

/-- Byte `i` of a run written reads back. -/
theorem Memory.read_writeBytes {m : Memory} (a i : Nat) (bs : List Byte) (h : m.wf = true) (hi : i < bs.length) :
    (m.writeBytes a bs).read (a + i) = bs[i] := by
  induction bs generalizing m a i with
  | nil => simp at hi
  | cons b bs ih =>
    simp only [Memory.writeBytes]
    cases i with
    | zero =>
      rw [Memory.read_writeBytes_other (a + 1) (a + 0) bs (Memory.wf_write a b h) (by omega)]
      simpa using Memory.read_write_self a b h
    | succ i =>
      have hi' : i < bs.length := by simpa using hi
      have := ih (m := m.write a b) (a + 1) i (Memory.wf_write a b h) hi'
      simpa [Nat.add_assoc, Nat.add_comm 1 i] using this

/-! ## Physical memory -/

/-- Writing a byte of physical memory keeps the canonical form. -/
theorem Fab.memPut_wf {f : Fab} (km : BitVec 512) (pa : Nat) (b : Byte) (h : f.mem.wf = true) : (f.memPut km pa b).mem.wf = true := by
  unfold Fab.memPut
  dsimp only
  split
  · split <;> dsimp only
    · exact Memory.wf_write pa b h
    · refine Memory.wf_write pa b ?_
      exact Memory.wf_writeBytes _ _ h
  · exact Memory.wf_write pa b h

/-- Writing bytes of physical memory keeps the canonical form. -/
theorem Fab.memPutBytes_wf {f : Fab} (km : BitVec 512) (pa : Nat) (bs : List Byte) (h : f.mem.wf = true) :
    (f.memPutBytes km pa bs).mem.wf = true := by
  induction bs generalizing f pa with
  | nil => exact h
  | cons b bs ih => exact ih (pa + 1) (Fab.memPut_wf km pa b h)

/-- A fold keeps what each of its steps keeps. -/
theorem foldl_keeps {α β : Type} {P : β → Prop} {g : β → α → β} (l : List α) {b : β} (h : P b) (hg : ∀ b a, P b → P (g b a)) :
    P (l.foldl g b) := by
  induction l generalizing b with
  | nil => exact h
  | cons a l ih => exact ih (hg b a h)

/-- Writing a line of L2 back keeps the canonical form. -/
theorem Fab.l2Evict_wf {f : Fab} (ctl : Ctl) (line : Nat) (h : f.mem.wf = true) : (f.l2Evict ctl line).mem.wf = true := by
  simp only [Fab.l2Evict]
  split
  · exact h
  · refine foldl_keeps (P := fun f : Fab => f.mem.wf = true) _ h (fun f i hf => ?_)
    split
    · exact Fab.memPut_wf _ _ _ hf
    · exact hf

/-- A shootdown leaves memory alone. -/
@[simp] theorem Fab.shootdown_mem (f : Fab) (line : Nat) : (f.shootdown line).mem = f.mem := by
  simp only [Fab.shootdown]; split <;> rfl
/-- What follows a write leaves memory alone. -/
@[simp] theorem Fab.written_mem (f : Fab) (ctl : Ctl) (core : Option Nat) (pa n : Nat) : (f.written ctl core pa n).mem = f.mem := by
  simp only [Fab.written, Fab.wakeWatchers, Fab.mapLanes]
  exact foldl_keeps (P := fun g : Fab => g.mem = f.mem) _ rfl (fun g p hg => by simpa using hg)

/-- A read by an agent outside the cores keeps the canonical form. -/
theorem Fab.agentRead_wf {f : Fab} (ctl : Ctl) (key : BitVec 12) (pa n : Nat) (h : f.mem.wf = true) :
    (f.agentRead ctl key pa n).2.mem.wf = true :=
  foldl_keeps (P := fun f : Fab => f.mem.wf = true) _ h (fun _ p hf => Fab.l2Evict_wf ctl (p.1 / 256) hf)
/-- A write by an agent outside the cores keeps the canonical form. -/
theorem Fab.agentWrite_wf {f : Fab} (ctl : Ctl) (key : BitVec 12) (pa : Nat) (bs : List Byte) (h : f.mem.wf = true) :
    (f.agentWrite ctl key pa bs).mem.wf = true := by
  simp only [Fab.agentWrite, Fab.written_mem]
  exact Fab.memPutBytes_wf _ _ _ (foldl_keeps (P := fun f : Fab => f.mem.wf = true) _ h (fun _ p hf => Fab.l2Evict_wf ctl (p.1 / 256) hf))

/-- Refreshing a map leaves memory alone. -/
@[simp] theorem Fab.refreshMap_mem (f : Fab) (ctl : Ctl) (c ctx : Nat) : (f.refreshMap ctl c ctx).mem = f.mem := by
  unfold Fab.refreshMap; split <;> rfl
/-- Packets that cross the ring within a step leave memory alone. -/
@[simp] theorem Fab.crossRing_mem (f : Fab) (src dst ctx flow : Nat) (ordered : Bool) : (f.crossRing src dst ctx flow ordered).mem = f.mem := by
  unfold Fab.crossRing; split <;> rfl
@[simp] theorem Fab.crossTo_mem (f : Fab) (c ctx pa slice : Nat) : (f.crossTo c ctx pa slice).mem = f.mem := by simp [Fab.crossTo]
/-- Routing a request leaves memory alone. -/
@[simp] theorem Fab.route_mem (f : Fab) (ctl : Ctl) (core : Option Nat) (ctx : Nat) (home : BitVec 4) (pa : Nat) :
    (f.route ctl core ctx home pa).2.mem = f.mem := by
  unfold Fab.route
  split
  · rfl
  · dsimp only
    split
    · simp only [Fab.crossTo_mem, Fab.refreshMap_mem]; exact Fab.crossTo_mem ..
    · exact Fab.crossTo_mem ..
/-- Moving waiters leaves memory alone. -/
@[simp] theorem Fab.moveWaiters_mem (f : Fab) (line slice : Nat) (old : List Waiter) : (f.moveWaiters line slice old).mem = f.mem := rfl
/-- Taking a line on a miss keeps the canonical form. -/
theorem Fab.l2Take_wf {f : Fab} (ctl : Ctl) (slice : Nat) (key : BitVec 12) (line stamp : Nat) (h : f.mem.wf = true) :
    (f.l2Take ctl slice key line stamp).2.mem.wf = true := by
  simp only [Fab.l2Take]
  split
  · exact h
  · split
    · exact h
    · split
      · exact h
      · exact Fab.l2Evict_wf ctl _ h
/-- Bringing a line into its slice keeps the canonical form. -/
theorem Fab.l2Open_wf {f : Fab} (ctl : Ctl) (core : Option Nat) (ctx : Nat) (key : BitVec 12) (home : BitVec 4) (pa : Nat)
    (h : f.mem.wf = true) : (f.l2Open ctl core ctx key home pa).2.mem.wf = true := by
  have hr : (f.route ctl core ctx home pa).2.mem.wf = true := by rw [Fab.route_mem]; exact h
  simp only [Fab.l2Open]
  split
  · split
    · exact hr
    · split
      · rw [Fab.moveWaiters_mem]; exact Fab.l2Take_wf ctl _ _ _ _ (Fab.l2Evict_wf ctl _ hr)
      · exact Fab.l2Take_wf ctl _ _ _ _ (Fab.l2Evict_wf ctl _ hr)
  · exact Fab.l2Take_wf ctl _ _ _ _ hr
/-- A read of a line at L2 keeps the canonical form. -/
theorem Fab.l2ReadLine_wf {f : Fab} (ctl : Ctl) (core : Option Nat) (ctx : Nat) (key : BitVec 12) (home : BitVec 4) (pa n : Nat)
    (h : f.mem.wf = true) : (f.l2ReadLine ctl core ctx key home pa n).2.mem.wf = true := by
  have ho := Fab.l2Open_wf ctl core ctx key home pa h
  simp only [Fab.l2ReadLine]
  split <;> simp_all [Fab.l2Keep]
/-- A read at L2 keeps the canonical form. -/
theorem Fab.l2Read_wf {f : Fab} (ctl : Ctl) (core : Option Nat) (ctx : Nat) (key : BitVec 12) (home : BitVec 4) (pa n : Nat)
    (h : f.mem.wf = true) : (f.l2Read ctl core ctx key home pa n).2.mem.wf = true :=
  foldl_keeps (P := fun r : List Byte × Fab => r.2.mem.wf = true) _ h
    (fun _ p hr => Fab.l2ReadLine_wf ctl core ctx key home p.1 p.2 hr)
/-- A write of a line at L2 keeps the canonical form. -/
theorem Fab.l2WriteLine_wf {f : Fab} (ctl : Ctl) (core : Option Nat) (ctx : Nat) (key : BitVec 12) (home : BitVec 4) (pa : Nat)
    (bs : List Byte) (h : f.mem.wf = true) : (f.l2WriteLine ctl core ctx key home pa bs).mem.wf = true := by
  have ho := Fab.l2Open_wf ctl core ctx key home pa h
  simp only [Fab.l2WriteLine]
  split
  · simp_all [Fab.memPutBytes_wf]
  · simp_all [Fab.l2Keep]
/-- A write at L2 on behalf of an owner keeps the canonical form. -/
theorem Fab.l2Put_wf {f : Fab} (ctl : Ctl) (core owner : Option Nat) (ctx : Nat) (key : BitVec 12) (home : BitVec 4) (pa : Nat)
    (bs : List Byte) (h : f.mem.wf = true) : (f.l2Put ctl core owner ctx key home pa bs).mem.wf = true := by
  simp only [Fab.l2Put, Fab.written_mem]
  exact foldl_keeps (P := fun r : Fab × Nat => r.1.mem.wf = true) _ h
    (fun _ p hr => Fab.l2WriteLine_wf ctl core ctx key home p.1 _ hr)
/-- A write at L2 keeps the canonical form. -/
theorem Fab.l2Write_wf {f : Fab} (ctl : Ctl) (core : Option Nat) (ctx : Nat) (key : BitVec 12) (home : BitVec 4) (pa : Nat)
    (bs : List Byte) (h : f.mem.wf = true) : (f.l2Write ctl core ctx key home pa bs).mem.wf = true :=
  Fab.l2Put_wf ctl core core ctx key home pa bs h
/-- Loading a program keeps the canonical form. -/
theorem Fab.load_wf {f : Fab} (bytes : List Byte) (h : f.mem.wf = true) : (f.load_ bytes).mem.wf = true :=
  Memory.wf_writeBytes _ _ (Memory.wf_writeBytes _ _ (Memory.wf_writeBytes _ _ (Memory.wf_writeBytes _ _ h)))

end Sys2Proof.Machine
end

