-- ==== Sys2Proof/Laws/Update.lean ====
section
/-!
SUPPORT. Laws of byte fields, and of the preserved-state table of a live update (R64).
-/
namespace Sys2Proof.Machine
set_option maxRecDepth 2000

/-- A number written in `n` bytes reads back. -/
theorem leNat_leBytes (n x : Nat) (h : x < 256 ^ n) : leNat (leBytes n x) = x := by
  induction n generalizing x with
  | zero => simp at h; subst h; rfl
  | succ n ih =>
    have : x / 256 < 256 ^ n := by rw [Nat.pow_succ] at h; omega
    simp only [leBytes, leNat, ih _ this, BitVec.toNat_ofNat]
    omega
/-- The first `n` bytes. -/
theorem sliceBytes_take (l : List Byte) (n : Nat) (h : n ≤ l.length) : sliceBytes l 0 n = l.take n := by
  apply List.ext_getElem
  · simp [sliceBytes]; omega
  · intro k h1 h2
    simp [sliceBytes] at h1 ⊢
    rw [List.getElem?_eq_getElem (by omega)]; rfl
/-- A sealed table has 288 bytes. -/
theorem stateTableSealed_length (n : Nat) : (stateTableSealed n).length = 288 := rfl
/-- A sealed table has seven entries. -/
theorem stateTableSealed_count (n : Nat) : fieldAt (sliceBytes (stateTableSealed n) 0 64) 8 4 = 7 := by
  rw [sliceBytes_take _ _ (by rw [stateTableSealed_length]; omega)]
  have : sliceBytes ((stateTableSealed n).take 64) 8 4 = leBytes 4 7 := rfl
  rw [fieldAt, this]; rfl
/-- What a new kernel does with a table depends on its header and on the bytes that its count covers. -/
theorem tableTakes_congr (n : Nat) (r q : Nat → Nat → List Byte) (h : r 0 64 = q 0 64)
    (hb : r 0 (64 + 32 * fieldAt (q 0 64) 8 4) = q 0 (64 + 32 * fieldAt (q 0 64) 8 4)) : tableTakes n r = tableTakes n q := by
  simp only [tableTakes, h, hb]
/-- A table as Uzoman seals it is taken over by a kernel that knows its entries. -/
theorem tableTakes_sealed (n : Nat) (hk : ∀ t v, Config.stateKnown n t v = true) (ha : Config.kernelAccepts n = true) :
    tableTakes n (sliceBytes (stateTableSealed n)) = true := by
  have hc : ∀ c, (stateTable n c).take 12 ++ leBytes 4 0 ++ (stateTable n c).drop 16 = stateTable n 0 := fun c => rfl
  have hlen : ∀ c, (stateTable n c).length = 288 := fun c => rfl
  have hl : ∀ c, sliceBytes (stateTable n c) 0 288 = stateTable n c := fun c => by
    have := hlen c
    rw [sliceBytes_take _ _ (by omega), List.take_of_length_le (by omega)]
  have h64 : ∀ c, sliceBytes (stateTable n c) 0 64 = (stateTable n c).take 64 := fun c => sliceBytes_take _ _ (by rw [hlen]; omega)
  have hn : ∀ c, fieldAt ((stateTable n c).take 64) 8 4 = 7 := fun c => by
    have : sliceBytes ((stateTable n c).take 64) 8 4 = leBytes 4 7 := rfl
    rw [fieldAt, this]; rfl
  have hr : ∀ c : Word, BitVec.ofNat 32 (fieldAt ((stateTable n c).take 64) 12 4) = c := fun c => by
    have : sliceBytes ((stateTable n c).take 64) 12 4 = leBytes 4 c.toNat := rfl
    rw [fieldAt, this, leNat_leBytes _ _ (by omega)]; simp
  have ht : ∀ c, ∀ k, k < 7 → fieldAt (stateTable n c) (64 + 32 * k) 2 = k + 1 := by
    intro c k hk
    have : sliceBytes (stateTable n c) (64 + 32 * k) 2 = leBytes 2 (k + 1) := by
      match k, hk with | 0, _ => rfl | 1, _ => rfl | 2, _ => rfl | 3, _ => rfl | 4, _ => rfl | 5, _ => rfl | 6, _ => rfl
    rw [fieldAt, this, leNat_leBytes _ _ (by omega)]
  simp only [tableTakes, stateTableSealed, h64, hn]
  rw [show (64 + 32 * 7) = 288 from rfl, hl, hc, hr]
  simp only [beq_self_eq_true, Bool.true_and, ha, Bool.and_true, List.all_eq_true, List.mem_range, hk]
  intro k h
  rw [ht _ _ h]
  simp; omega

end Sys2Proof.Machine
end

