-- ==== Sys2Proof/Tests/Slice0.lean ====
section
/-!
SUPPORT. Tests: words written out from the encodings of chapter 12 (assembled by hand from its tables) that decode, and
that the decoder refuses; single steps whose results are worked out from the spec's rules; and, for each obligation with
hypotheses, a state and operands that meet them.
-/
namespace Sys2Proof.Tests
open Sys2Proof.Machine Sys2Proof.Safety
set_option Elab.async false

/-! ## Helpers -/

/-- A team of one group of 16 lanes on core 0, all at one PC, with every register zero and raw, issuing. -/
def base : State :=
  let s := State.reset.withFetchWord 0 0
  { s with fab := { s.fab with issuer := some (0, 0) } }
/-- A state with a change to its fabric. -/
def onFab (s : State) (h : Fab → Fab) : State := { s with fab := h s.fab }
/-- A state with a change to the group that issues. -/
def onGroup (s : State) (h : Group → Group) : State := onFab s (fun f => f.modGroup 0 0 h)
/-- A state with a change to one lane of the group that issues. -/
def onLane (s : State) (l : Nat) (h : Lane → Lane) : State := onFab s (fun f => f.modLane 0 0 l h)
/-- A state in which a lane has the given registers. -/
def regs (s : State) (l : Nat) (rs : List (Nat × Reg)) : State := onLane s l (fun x => { x with regs := rs })
/-- A raw register. -/
def raw (w : Word) : Reg := ⟨w, .raw⟩
/-- The entry that issues an encoding. -/
def entryOf (s : State) (e : Enc) : Iss := (s.fab.iss e.pred e.length).getD default
/-- Whether an encoding issues in a state. -/
def issues (s : State) (e : Enc) (gate : Iss → Fab → Bool) : Bool := decide (Issues s e gate (entryOf s e))
/-- What holds of the state after an instruction; false where it stops. -/
def after (j : Instr) (s : State) (p : State → Bool) : Bool := match exec j s with | .next t => p t | _ => false
/-- The registers of lane 0 from `d`, after an instruction. -/
def gives (s : State) (c : Instr × Nat × List Reg) : Bool :=
  after c.1 s (fun t => (List.range c.2.2.length).map (fun k => t.fab.reg 0 0 0 (c.2.1 + k)) == c.2.2)
/-- The PC of lane l of the core under test. -/
def pcOf (t : State) (l : Nat) : Option Addr := (t.fab.lane? 0 0 l).map (·.pc)
/-- An XR form without routing, predicate, hints or literal. -/
def xr (d a b c : RegNo) (sub : BitVec 4) : XrForm := ⟨0, a, d, sub, false, 0, 0, 0, b, c, ⟨false, false, 0⟩, none⟩
/-- An XM form without predicate, hints or literal. -/
def xm (d a b : RegNo) (sub : BitVec 4) (as size scope : BitVec 3) (ofs : BitVec 20) (aux : BitVec 8) : XmForm :=
  ⟨0, a, d, sub, false, as, size, scope, ofs, aux, b, ⟨false, false, 0⟩, none⟩
/-- An XT form without hints, predicated on v31. -/
def xt (d a b c : RegNo) (sub : BitVec 4) (flags : BitVec 7) (fmt : BitVec 4) (h aux : BitVec 8) : XtForm :=
  ⟨0, a, d, sub, false, flags, fmt, h, b, aux, c, ⟨false, true, 31⟩⟩
/-- Whether an instruction is the illegal opcode, whose length field the syntax does not keep. -/
def isIllegal : Instr → Bool
  | .illegalOpcode _ => true
  | _ => false
/-- Whether every word list decodes to the instruction beside it, and is what that instruction encodes to. -/
def decodesAll (l : List (List Word × Instr)) : Bool :=
  l.all (fun p => match decode p.1 with | .ok i => i == p.2 && (isIllegal i || encode i == p.1.take (encode i).length) | .error _ => false)
/-- Whether the decoder refuses every word list for the reason given. -/
def refusesAll (e : DecodeError) (l : List (List Word)) : Bool := l.all (fun ws => match decode ws with | .ok _ => false | .error x => x == e)

/-! ## Well-formedness and decoding -/

/-- Terms that the checks refuse, one for each format and check, and one for each row that shares an opcode with another. -/
theorem test_ill_formed : ([.addS3 ⟨false, 5, 4, 3, some 1⟩, .movS3 ⟨false, 5, 4, 3, none⟩, .trapSz ⟨3, 0, 1, none⟩, .growSi ⟨128, 0, 0, none⟩, .sidSi ⟨11, 0, 5, none⟩,
    .addXr (xr 1 2 3 4 0), .addXr (xr 1 2 4 0 2), .nopXr (xr 0 0 0 0 1), .cvtXr (xr 1 2 0x44 0 0), .addXr { xr 1 2 3 0 0 with ra := 5 },
    .addXr { xr 1 2 3 0 0 with pred := ⟨true, false, 0⟩ }, .absXr { xr 1 2 0 0 0 with lit := some 1 }, .addXr { xr 1 2 0 0 0 with lit := some 0x100000000 },
    .rtiXr (xr 0 0 0 0 1), .tspawnXr (xr 0 1002 0 0 0), .ldXm (xm 1 3 0 0 0 2 0 0 0), .ldXm (xm 1 2 0 0 0 2 6 0 0), .stXm (xm 1 2 3 0 0 2 0 0 0), .pfXm (xm 0 2 0 0 0 0 1 0 0),
    .bldXt (xt 1 2 0 0 0 0 0 0 0), .bldXt (xt 0 2 0 0 0 0 0 8 0), .mretXt (xt 4 2 0 0 0 2 0 0 0), .mretSendXt (xt 4 2 0 0 0 0 0 0 0), .zipXt (xt 1 2 3 4 1 0 0 0 0),
    .jmpXb ⟨0, 0, 2, 0, ⟨false, false, 0⟩⟩, .callXb ⟨0, 7, 4, 0, ⟨false, false, 0⟩⟩, .brxXb ⟨0, 6, 4, 0, ⟨false, false, 0⟩⟩, .rgnSz 0x0BFF, .illegalOpcode 1] :
    List Instr).all (fun i => !i.wellFormed) = true := by decide +kernel
theorem test_decode_system : decodesAll [
    ([4], .nopSz),
    ([0x40000005, 0x20000000, 0x30780000], .nopXr ⟨1, 0, 0, 0, true, 0, 0, 0, 0, 0, ⟨true, true, 0x1E⟩, none⟩),
    ([0x12321408], .waitSw ⟨1, 2, 3, 4, 5⟩),
    ([0xC], .sealSz),
    ([0x8000000D, 0, 0], .sealXr ⟨2, 0, 0, 0, false, 0, 0, 0, 0, 0, ⟨false, false, 0⟩, none⟩),
    ([0x12, 0x40A1800, 0], .rgnSz 0x40A1800),
    ([0x40000014], .growSi ⟨0x40, 0, 0, none⟩),
    ([0x15, 6, 0x101C0083], .growXr ⟨0, 0, 0, 0, false, 0, 0x83, 0, 6, 0, ⟨false, true, 7⟩, none⟩),
    ([0x7F000018], .shrinkSi ⟨0x7F, 0, 0, none⟩),
    ([0x1B, 0, 0, 0x10, 0], .shrinkXr ⟨0, 0, 0, 0, false, 0, 0, 0, 0, 0, ⟨false, false, 0⟩, some 0x10⟩),
    ([0x500001C], .fenceSi ⟨5, 0, 0, none⟩),
    ([0x1D, 9, 0], .fenceXr ⟨0, 0, 0, 0, false, 0, 0, 0, 9, 0, ⟨false, false, 0⟩, none⟩),
    ([0xFE000020], .trapSz ⟨0xFE, 0, 0, none⟩),
    ([0x21, 0x3E8, 0x1C3], .trapXr ⟨0, 0, 0, 0, false, 0, 0x1C3, 0, 0x3E8, 0, ⟨false, false, 0⟩, none⟩),
    ([0x24], .rtiSz),
    ([0x25, 0, 0x30780000], .rtiXr ⟨0, 0, 0, 0, false, 0, 0, 0, 0, 0, ⟨true, true, 0x1E⟩, none⟩),
    ([0x25, 0, 0x40000000], .rtiNextXr ⟨0, 0, 0, 1, false, 0, 0, 0, 0, 0, ⟨false, false, 0⟩, none⟩),
    ([0xC0000025, 0, 0x80000000], .rtiRgnXr ⟨3, 0, 0, 2, false, 0, 0, 0, 0, 0, ⟨false, false, 0⟩, none⟩),
    ([0x28], .syscallSi ⟨0, 0, 0, none⟩),
    ([0x2B, 0, 0, 0x77, 0], .syscallXr ⟨0, 0, 0, 0, false, 0, 0, 0, 0, 0, ⟨false, false, 0⟩, some 0x77⟩)] = true := by decide +kernel
theorem test_decode_system_2 : decodesAll [
    ([0x2100002C], .irqSi ⟨0x21, 0, 0, none⟩),
    ([0x2D, 3, 0], .irqXr ⟨0, 0, 0, 0, false, 0, 0, 0, 3, 0, ⟨false, false, 0⟩, none⟩),
    ([0x30], .brkSz),
    ([0x31, 0x20000000, 0], .brkXr ⟨0, 0, 0, 0, true, 0, 0, 0, 0, 0, ⟨false, false, 0⟩, none⟩),
    ([0xC001434], .sidSi ⟨0xC, 0, 5, none⟩),
    ([0xAF035, 3, 0], .sidXr ⟨0, 0, 0x2BC, 0, false, 0, 0, 0, 3, 0, ⟨false, false, 0⟩, none⟩),
    ([0x38], .exitSz),
    ([0x39, 0, 0x101C0000], .exitXr ⟨0, 0, 0, 0, false, 0, 0, 0, 0, 0, ⟨false, true, 7⟩, none⟩),
    ([0x1C3D, 9, 0x80000000], .gctlXr ⟨0, 0, 7, 2, false, 0, 0, 0, 9, 0, ⟨false, false, 0⟩, none⟩),
    ([0x1100040], .sleepSi ⟨1, 8, 0, none⟩),
    ([0x800041, 0x4100009, 0x82], .sleepXr ⟨0, 8, 0, 0, false, 0x41, 0x82, 0, 9, 0, ⟨false, false, 0⟩, none⟩)] = true := by decide +kernel
theorem test_decode_integer : decodesAll [
    ([0x5080C80], .addS3 ⟨false, 5, 4, 3, none⟩),
    ([0x80080C82, 0x12345678, 0], .addS3 ⟨true, 0, 4, 3, some 0x12345678⟩),
    ([0x12D4B083, 0, 0, 0xFFFFFFFD, 0], .addXr ⟨0, 0x12D, 0x12C, 0, false, 0, 0, 0, 0, 0, ⟨false, false, 0⟩, some 0xFFFFFFFD⟩),
    ([0x2181FC84], .subS3 ⟨false, 0x21, 0x40, 0x7F, none⟩),
    ([0x1605085, 0x4100018, 0xF0780083], .subXr ⟨0, 0x16, 0x14, 3, false, 0x41, 0x83, 0, 0x18, 0, ⟨true, true, 0x1E⟩, none⟩),
    ([0x3040488], .mulS3 ⟨false, 3, 2, 1, none⟩),
    ([0x1605089, 0x18, 0x80000000], .mulXr ⟨0, 0x16, 0x14, 2, false, 0, 0, 0, 0x18, 0, ⟨false, false, 0⟩, none⟩),
    ([0xC170548D, 0x20000019, 0x40000000], .mulhXr ⟨3, 0x17, 0x15, 1, true, 0, 0, 0, 0x19, 0, ⟨false, false, 0⟩, none⟩),
    ([0x1605091, 0x4106818, 0x80020A83], .madXr ⟨0, 0x16, 0x14, 2, false, 0x41, 0x83, 0x105, 0x18, 0x1A, ⟨false, false, 0⟩, none⟩),
    ([0x1705495, 0x19, 0], .divXr ⟨0, 0x17, 0x15, 0, false, 0, 0, 0, 0x19, 0, ⟨false, false, 0⟩, none⟩),
    ([0x170549B, 0, 0x40000000, 7, 0], .remXr ⟨0, 0x17, 0x15, 1, false, 0, 0, 0, 0, 0, ⟨false, false, 0⟩, some 7⟩),
    ([0x9101C9C], .minS3 ⟨false, 9, 8, 7, none⟩),
    ([0x801C9D, 9, 0x40000000], .minXr ⟨0, 8, 7, 1, false, 0, 0, 0, 9, 0, ⟨false, false, 0⟩, none⟩),
    ([0x71024A0], .maxS3 ⟨false, 7, 8, 9, none⟩),
    ([0xA020A3, 0, 0xC0000000, 1, 0x80000000], .maxXr ⟨0, 0xA, 8, 3, false, 0, 0, 0, 0, 0, ⟨false, false, 0⟩, some 0x8000000000000001⟩),
    ([0xA020A5, 0x1C200000, 0x80000000], .absXr ⟨0, 0xA, 8, 2, false, 0x1C2, 0, 0, 0, 0, ⟨false, false, 0⟩, none⟩),
    ([0xB024A9, 0, 0], .negXr ⟨0, 0xB, 9, 0, false, 0, 0, 0, 0, 0, ⟨false, false, 0⟩, none⟩),
    ([0xC024AD, 0xC000000E, 0x40000000], .cmpXr ⟨0, 0xC, 9, 0xD, false, 0, 0, 0, 0xE, 0, ⟨false, false, 0⟩, none⟩),
    ([0xA020B1, 0x340C, 0x80008200], .selXr ⟨0, 0xA, 8, 2, false, 0, 0, 0x41, 0xC, 0xD, ⟨false, false, 0⟩, none⟩),
    ([0x15050B7, 0x5800, 0, 0x96, 0], .lop3Xr ⟨0, 0x15, 0x14, 0, false, 0, 0, 0, 0, 0x16, ⟨false, false, 0⟩, some 0x96⟩)] = true := by decide +kernel
theorem test_decode_integer_2 : decodesAll [
    ([0x1F080CB8], .shlSi ⟨0x1F, 4, 3, none⟩),
    ([0xA020B9, 0xD, 0x80000000], .shlXr ⟨0, 0xA, 8, 2, false, 0, 0, 0, 0xD, 0, ⟨false, false, 0⟩, none⟩),
    ([0x80CBE, 9, 0], .shrSi ⟨0, 4, 3, some 9⟩),
    ([0x400CBD, 5, 0], .shrXr ⟨0, 4, 3, 0, false, 0, 0, 0, 5, 0, ⟨false, false, 0⟩, none⟩),
    ([0x1C790C0], .sarSi ⟨1, 0x63, 0x64, none⟩),
    ([0xA020C3, 0, 0x80000000, 0x3F, 0], .sarXr ⟨0, 0xA, 8, 2, false, 0, 0, 0, 0, 0, ⟨false, false, 0⟩, some 0x3F⟩),
    ([0x400CC5, 0x1805, 0], .fshlXr ⟨0, 4, 3, 0, false, 0, 0, 0, 5, 6, ⟨false, false, 0⟩, none⟩),
    ([0x400CC9, 0x1C05, 0], .fshrXr ⟨0, 4, 3, 0, false, 0, 0, 0, 5, 7, ⟨false, false, 0⟩, none⟩),
    ([0x400CCD, 0, 0x80000000], .pcntXr ⟨0, 4, 3, 2, false, 0, 0, 0, 0, 0, ⟨false, false, 0⟩, none⟩),
    ([0x500CD1, 0, 0], .clzXr ⟨0, 5, 3, 0, false, 0, 0, 0, 0, 0, ⟨false, false, 0⟩, none⟩),
    ([0x6014D5, 0, 0x80000000], .ctzXr ⟨0, 6, 5, 2, false, 0, 0, 0, 0, 0, ⟨false, false, 0⟩, none⟩),
    ([0x8018D9, 0, 0x80000000], .brevXr ⟨0, 8, 6, 2, false, 0, 0, 0, 0, 0, ⟨false, false, 0⟩, none⟩),
    ([0x400CDD, 0x1805, 0x40000000], .bfeXr ⟨0, 4, 3, 1, false, 0, 0, 0, 5, 6, ⟨false, false, 0⟩, none⟩),
    ([0x400CE1, 0x1805, 0], .bfiXr ⟨0, 4, 3, 0, false, 0, 0, 0, 5, 6, ⟨false, false, 0⟩, none⟩),
    ([0x5000CE4], .movS3 ⟨false, 5, 0, 3, none⟩),
    ([0xFF8E5, 0x3FC, 0x80000000], .movXr ⟨0, 0, 0x3FE, 2, false, 0, 0, 0, 0x3FC, 0, ⟨false, false, 0⟩, none⟩),
    ([0xA020E9, 0xC0000003, 0], .leaXr ⟨0, 0xA, 8, 0xC, false, 0, 0, 0, 3, 0, ⟨false, false, 0⟩, none⟩),
    ([0x9020ED, 0x2C0A, 0], .prmtXr ⟨0, 9, 8, 0, false, 0, 0, 0, 0xA, 0xB, ⟨false, false, 0⟩, none⟩)] = true := by decide +kernel
theorem test_decode_float : decodesAll [
    ([0x1000900], .faddS3 ⟨false, 1, 0, 2, none⟩),
    ([0x1505101, 0x4100015, 0x10780083], .faddXr ⟨0, 0x15, 0x14, 0, false, 0x41, 0x83, 0, 0x15, 0, ⟨false, true, 0x1E⟩, none⟩),
    ([0xC1506, 0x3F800000, 0], .fsubS3 ⟨false, 0, 6, 5, some 0x3F800000⟩),
    ([0x601505, 7, 0x40000000], .fsubXr ⟨0, 6, 5, 1, false, 0, 0, 0, 7, 0, ⟨false, false, 0⟩, none⟩),
    ([0x870C1508], .fmulS3 ⟨true, 7, 6, 5, none⟩),
    ([0x801909, 0xA, 0xC0000000], .fmulXr ⟨0, 8, 6, 3, false, 0, 0, 0, 0xA, 0, ⟨false, false, 0⟩, none⟩),
    ([0x80190D, 0x300A, 0xC0008600], .ffmaXr ⟨0, 8, 6, 3, false, 0, 0, 0x43, 0xA, 0xC, ⟨false, false, 0⟩, none⟩),
    ([0x3040510], .fminS3 ⟨false, 3, 2, 1, none⟩),
    ([0x200511, 3, 0x80000000], .fminXr ⟨0, 2, 1, 2, false, 0, 0, 0, 3, 0, ⟨false, false, 0⟩, none⟩),
    ([0x3040514], .fmaxS3 ⟨false, 3, 2, 1, none⟩),
    ([0x200515, 3, 0x40000000], .fmaxXr ⟨0, 2, 1, 1, false, 0, 0, 0, 3, 0, ⟨false, false, 0⟩, none⟩),
    ([0x200519, 0, 0], .fabsXr ⟨0, 2, 1, 0, false, 0, 0, 0, 0, 0, ⟨false, false, 0⟩, none⟩),
    ([0x40091D, 0, 0xC0000000], .fnegXr ⟨0, 4, 2, 3, false, 0, 0, 0, 0, 0, ⟨false, false, 0⟩, none⟩),
    ([0x400D21, 0xC0000006, 0x80000000], .fcmpXr ⟨0, 4, 3, 0xE, false, 0, 0, 0, 6, 0, ⟨false, false, 0⟩, none⟩),
    ([0x200525, 3, 0], .fdivXr ⟨0, 2, 1, 0, false, 0, 0, 0, 3, 0, ⟨false, false, 0⟩, none⟩),
    ([0x200529, 0, 0x40000000], .fsqrtXr ⟨0, 2, 1, 1, false, 0, 0, 0, 0, 0, ⟨false, false, 0⟩, none⟩),
    ([0x20052D, 0, 0x80000000], .frcpXr ⟨0, 2, 1, 2, false, 0, 0, 0, 0, 0, ⟨false, false, 0⟩, none⟩),
    ([0x300531, 0, 0], .frsqXr ⟨0, 3, 1, 0, false, 0, 0, 0, 0, 0, ⟨false, false, 0⟩, none⟩),
    ([0x200535, 0x1003, 0], .ex2sXr ⟨0, 2, 1, 0, false, 0, 0, 0, 3, 4, ⟨false, false, 0⟩, none⟩),
    ([0x500539, 0, 0], .lg2Xr ⟨0, 5, 1, 0, false, 0, 0, 0, 0, 0, ⟨false, false, 0⟩, none⟩)] = true := by decide +kernel
theorem test_decode_float_2 : decodesAll [
    ([0x60053D, 0, 0xC0000000], .fclsXr ⟨0, 6, 1, 3, false, 0, 0, 0, 0, 0, ⟨false, false, 0⟩, none⟩),
    ([0x200541, 0x80000000, 0x40000000], .frndXr ⟨0, 2, 1, 9, false, 0, 0, 0, 0, 0, ⟨false, false, 0⟩, none⟩),
    ([0x601561, 0x40, 0x40000000], .cvtXr ⟨0, 6, 5, 1, false, 0, 0, 0, 0x40, 0, ⟨false, false, 0⟩, none⟩),
    ([0x801965, 0, 0xC0000000], .ordfXr ⟨0, 8, 6, 3, false, 0, 0, 0, 0, 0, ⟨false, false, 0⟩, none⟩),
    ([0x701969, 0x80000000, 0x40000000], .tagsetXr ⟨0, 7, 6, 9, false, 0, 0, 0, 0, 0, ⟨false, false, 0⟩, none⟩),
    ([0x70196D, 0, 0], .tagqXr ⟨0, 7, 6, 0, false, 0, 0, 0, 0, 0, ⟨false, false, 0⟩, none⟩),
    ([0x701971, 0, 0x80000000], .kpackXr ⟨0, 7, 6, 2, false, 0, 0, 0, 0, 0, ⟨false, false, 0⟩, none⟩),
    ([0x701975, 0, 0x40000000], .kunpXr ⟨0, 7, 6, 1, false, 0, 0, 0, 0, 0, ⟨false, false, 0⟩, none⟩)] = true := by decide +kernel
theorem test_decode_cross_lane_and_control : decodesAll [
    ([0x400D81, 0xC0000000, 0xC0000000], .lscanXr ⟨0, 4, 3, 0xF, false, 0, 0, 0, 0, 0, ⟨false, false, 0⟩, none⟩),
    ([0x601185, 0x80000000, 0xC0000000], .lredXr ⟨0, 6, 4, 0xB, false, 0, 0, 0, 0, 0, ⟨false, false, 0⟩, none⟩),
    ([0x400D89, 0, 0xC0000000], .voteXr ⟨0, 4, 3, 3, false, 0, 0, 0, 0, 0, ⟨false, false, 0⟩, none⟩),
    ([0x400D8D, 0, 0x40000000], .balXr ⟨0, 4, 3, 1, false, 0, 0, 0, 0, 0, ⟨false, false, 0⟩, none⟩),
    ([0x400D91, 0x8100000, 0x80000000], .matchXr ⟨0, 4, 3, 2, false, 0x81, 0, 0, 0, 0, ⟨false, false, 0⟩, none⟩),
    ([0x4015A0], .jmpSb ⟨0x10, 5⟩),
    ([0xFFF815A0], .jmpSb ⟨0x3FFE, 5⟩),
    ([0x1A1, 0xFFFFFFF8, 5], .jmpXb ⟨0, 0, 0xFFFFFFF8, 5, ⟨false, false, 0⟩⟩),
    ([0x19A5, 0x100, 0x30780001], .callXb ⟨0, 6, 0x100, 1, ⟨true, true, 0x1E⟩⟩),
    ([0x6001A9, 0x4100000, 0], .retXr ⟨0, 6, 0, 0, false, 0x41, 0, 0, 0, 0, ⟨false, false, 0⟩, none⟩),
    ([0x31AD, 0xFFFFFFC0, 2], .bnzXb ⟨0, 0xC, 0xFFFFFFC0, 2, ⟨false, false, 0⟩⟩),
    ([0x400035B1, 0x40, 3], .bzXb ⟨1, 0xD, 0x40, 3, ⟨false, false, 0⟩⟩),
    ([0x39B5, 0, 4], .brxXb ⟨0, 0xE, 0, 4, ⟨false, false, 0⟩⟩),
    ([0x1B9, 0x40000000, 0], .jenrXr ⟨0, 0, 0, 4, false, 0, 0, 0, 0, 0, ⟨false, false, 0⟩, none⟩),
    ([0x1BD, 0, 0xC0000000], .jwaitXr ⟨0, 0, 0, 3, false, 0, 0, 0, 0, 0, ⟨false, false, 0⟩, none⟩),
    ([0x1C1, 0xC0000000, 0xC0000000], .jstrXr ⟨0, 0, 0, 0xF, false, 0, 0, 0, 0, 0, ⟨false, false, 0⟩, none⟩),
    ([0x11C5, 0x80000000, 0], .jmovXr ⟨0, 0, 4, 8, false, 0, 0, 0, 0, 0, ⟨false, false, 0⟩, none⟩)] = true := by decide +kernel
theorem test_decode_task : decodesAll [
    ([0x20001D1, 0, 0x40000000], .tspawnXr ⟨0, 0x20, 0, 1, false, 0, 0, 0, 0, 0, ⟨false, false, 0⟩, none⟩),
    ([0x1D5, 0, 0xC0000000], .tnextXr ⟨0, 0, 0, 3, false, 0, 0, 0, 0, 0, ⟨false, false, 0⟩, none⟩),
    ([0x1D9, 0x40000008, 0x40000000], .bndXr ⟨0, 0, 0, 5, false, 0, 0, 0, 8, 0, ⟨false, false, 0⟩, none⟩),
    ([0x1DD, 0x42C, 0xC0000000], .incxXr ⟨0, 0, 0, 3, false, 0, 0, 0, 0x2C, 1, ⟨false, false, 0⟩, none⟩),
    ([0x21E1, 0x40000000, 0xC0000000], .incrXr ⟨0, 0, 8, 7, false, 0, 0, 0, 0, 0, ⟨false, false, 0⟩, none⟩)] = true := by decide +kernel
theorem test_decode_memory : decodesAll [
    ([0x801601, 0x1100040, 0xC00], .ldXm ⟨0, 8, 5, 0, false, 0, 2, 1, 0x40, 3, 0, ⟨false, false, 0⟩, none⟩),
    ([0x800205, 0x1CFFFF8, 0x40000006], .stXm ⟨0, 8, 0, 1, false, 0, 3, 4, 0xFFFF8, 0, 6, ⟨false, false, 0⟩, none⟩),
    ([0x701609, 0x5200000, 0xC0004409], .atomXm ⟨0, 7, 5, 3, false, 1, 2, 2, 0, 0x11, 9, ⟨false, false, 0⟩, none⟩),
    ([0x801A0D, 0x1D00000, 0x4000000A], .casXm ⟨0, 8, 6, 1, false, 0, 3, 5, 0, 0, 0xA, ⟨false, false, 0⟩, none⟩),
    ([0x800211, 0, 0x40000000], .pfXm ⟨0, 8, 0, 1, false, 0, 0, 0, 0, 0, 0, ⟨false, false, 0⟩, none⟩),
    ([0x801E15, 0, 0], .pinXm ⟨0, 8, 7, 0, false, 0, 0, 0, 0, 0, 0, ⟨false, false, 0⟩, none⟩),
    ([0x80021B, 0, 0, 0x3456789A, 0x12], .unpinXm ⟨0, 8, 0, 0, false, 0, 0, 0, 0, 0, 0, ⟨false, false, 0⟩, some 0x123456789A⟩),
    ([0xA0021D, 0, 0x501C0000], .cflXm ⟨0, 0xA, 0, 1, false, 0, 0, 0, 0, 0, 0, ⟨false, true, 7⟩, none⟩),
    ([0x221, 0, 0x80000000], .cinvXm ⟨0, 0, 0, 2, false, 0, 0, 0, 0, 0, 0, ⟨false, false, 0⟩, none⟩),
    ([0xC00A25, 0x2000000, 0xC0B], .cplXm ⟨0, 0xC, 2, 0, false, 0, 4, 0, 0, 3, 0xB, ⟨false, false, 0⟩, none⟩),
    ([0x601629, 0x400007, 0], .cptXt ⟨0, 6, 5, 0, false, 1, 0, 0, 7, 0, 0, ⟨false, false, 0⟩⟩),
    ([0x50022D, 0x4000000, 6], .bariXm ⟨0, 5, 0, 0, false, 1, 0, 0, 0, 0, 6, ⟨false, false, 0⟩, none⟩),
    ([0x500231, 0x8000000, 0], .barvXm ⟨0, 5, 0, 0, false, 2, 0, 0, 0, 0, 0, ⟨false, false, 0⟩, none⟩),
    ([0x500235, 0x4000010, 7], .barwXm ⟨0, 5, 0, 0, false, 1, 0, 0, 0x10, 0, 7, ⟨false, false, 0⟩, none⟩),
    ([0x500239, 0x8000000, 8], .barxXm ⟨0, 5, 0, 0, false, 2, 0, 0, 0, 0, 8, ⟨false, false, 0⟩, none⟩),
    ([0x80163D, 0x300000, 0x80000410], .qenqXm ⟨0, 8, 5, 2, false, 0, 0, 3, 0, 1, 0x10, ⟨false, false, 0⟩, none⟩),
    ([0x804241, 0x300000, 0x40000800], .qdeqXm ⟨0, 8, 0x10, 1, false, 0, 0, 3, 0, 2, 0, ⟨false, false, 0⟩, none⟩),
    ([0x801645, 0x200000, 0x40000000], .qpollXm ⟨0, 8, 5, 1, false, 0, 0, 2, 0, 0, 0, ⟨false, false, 0⟩, none⟩),
    ([0x701649, 0x4000000, 0], .presXm ⟨0, 7, 5, 0, false, 1, 0, 0, 0, 0, 0, ⟨false, false, 0⟩, none⟩)] = true := by decide +kernel
theorem test_decode_remote : decodesAll [
    ([0xA02281, 0xE000000, 0x4000140C], .rwrXm ⟨0, 0xA, 8, 1, false, 3, 4, 0, 0, 5, 0xC, ⟨false, false, 0⟩, none⟩),
    ([0xA02285, 0xD800000, 0xA800], .rrdXm ⟨0, 0xA, 8, 0, false, 3, 3, 0, 0, 0x2A, 0, ⟨false, false, 0⟩, none⟩),
    ([0xA00289, 0xD000000, 0x40B], .raddXm ⟨0, 0xA, 0, 0, false, 3, 2, 0, 0, 1, 0xB, ⟨false, false, 0⟩, none⟩),
    ([0xA0028D, 0xD800000, 0x80C], .rsigXm ⟨0, 0xA, 0, 0, false, 3, 3, 0, 0, 2, 0xC, ⟨false, false, 0⟩, none⟩),
    ([0xA00291, 0x1800008, 0xC], .swaitXm ⟨0, 0xA, 0, 0, false, 0, 3, 0, 8, 0, 0xC, ⟨false, false, 0⟩, none⟩),
    ([0xA03A95, 0x4E000000, 0xC0032010], .rmcXm ⟨0, 0xA, 0xE, 7, false, 3, 4, 0, 0, 0xC8, 0x10, ⟨false, false, 0⟩, none⟩),
    ([0xA00E99, 0xC800000, 0x40001C05], .raccXm ⟨0, 0xA, 3, 1, false, 3, 1, 0, 0, 7, 5, ⟨false, false, 0⟩, none⟩)] = true := by decide +kernel
theorem test_decode_matrix_and_higher_order : decodesAll [
    ([0x4002C1, 0xC00, 0], .bldXt ⟨0, 4, 0, 0, false, 0, 0, 3, 0, 0, 0, ⟨false, false, 0⟩⟩),
    ([0x4016C5, 0xC00, 0], .mmaXt ⟨0, 4, 5, 0, false, 0, 0, 3, 0, 0, 0, ⟨false, false, 0⟩⟩),
    ([0x4016C9, 0x1C00, 0x40000000], .mbinXt ⟨0, 4, 5, 1, false, 0, 0, 7, 0, 0, 0, ⟨false, false, 0⟩⟩),
    ([0x4016CD, 0x1432006, 0xC0000000], .mretXt ⟨0, 4, 5, 3, false, 5, 0, 0xC8, 6, 0, 0, ⟨false, false, 0⟩⟩),
    ([0x4022CD, 0x8C0000, 0x40001800], .mretSendXt ⟨0, 4, 8, 1, false, 2, 3, 0, 0, 6, 0, ⟨false, false, 0⟩⟩),
    ([0x26D1, 0, 0x30780000], .mclrXt ⟨0, 0, 9, 0, false, 0, 0, 0, 0, 0, 0, ⟨true, true, 0x1E⟩⟩),
    ([0x800303, 0, 0, 0xC, 0], .rdefXr ⟨0, 8, 0, 0, false, 0, 0, 0, 0, 0, ⟨false, false, 0⟩, some 0xC⟩),
    ([0x305, 5, 0x41], .rdelXr ⟨0, 0, 0, 0, false, 0, 0x41, 0, 5, 0, ⟨false, false, 0⟩, none⟩),
    ([0x401709, 0x2400, 0x40000000], .foldXt ⟨0, 4, 5, 1, false, 0, 0, 9, 0, 0, 0, ⟨false, false, 0⟩⟩),
    ([0x401B0D, 0x2000, 0x40000000], .scanXt ⟨0, 4, 6, 1, false, 0, 0, 8, 0, 0, 0, ⟨false, false, 0⟩⟩),
    ([0x401F11, 0x1C06, 0], .zipXt ⟨0, 4, 7, 0, false, 0, 0, 7, 6, 0, 0, ⟨false, false, 0⟩⟩),
    ([0x401B11, 0x1C02405, 0x40000007], .zipMergeXt ⟨0, 4, 6, 1, false, 7, 0, 9, 5, 0, 7, ⟨false, false, 0⟩⟩),
    ([0x401715, 0x3FC06, 0], .outrXt ⟨0, 4, 5, 0, false, 0, 0, 0xFF, 6, 0, 0, ⟨false, false, 0⟩⟩),
    ([0x200321, 0, 0], .rendXr ⟨0, 2, 0, 0, false, 0, 0, 0, 0, 0, ⟨false, false, 0⟩, none⟩),
    ([0x325, 0, 0], .rdropXr ⟨0, 0, 0, 0, false, 0, 0, 0, 0, 0, ⟨false, false, 0⟩, none⟩),
    ([0], .illegalOpcode 0),
    ([0x32B, 5, 6, 7, 8], .illegalOpcode 0xCA),
    ([0x3FD, 5, 6], .illegalOpcode 0xFF)] = true := by decide +kernel
theorem test_refuses_short : refusesAll .short [
    [],
    [0x81],
    [0x82, 1],
    [0x83, 0, 0, 1]] = true := by decide +kernel
theorem test_refuses_length : refusesAll .length [
    [0xAC],
    [0x10],
    [9, 0, 0],
    [0x2C7, 0, 0, 0, 0],
    [6, 0, 0],
    [0x1A7, 0, 0, 0, 0],
    [0x1A2, 0, 0],
    [0x3B, 0, 0, 0, 0]] = true := by decide +kernel
theorem test_refuses_reserved : refusesAll .reserved [
    [0x404],
    [0x80000012, 0, 0],
    [0x5020CE4],
    [0x5080C82, 1, 0],
    [0x420],
    [0x2002C],
    [0x3001436, 3, 0],
    [0x1100042, 3, 0],
    [0x200501, 0x1403, 0],
    [0x200501, 3, 0xA00],
    [0x5B9, 0, 0],
    [0x200483, 3, 0, 1, 0],
    [0x1D9, 0x808, 0],
    [0x20001D1, 0x4100000, 0],
    [0x200601, 0x1000000, 3],
    [0x200619, 0, 0],
    [0x200603, 0x1000004, 0, 8, 0],
    [0x200221, 0, 0x80000000],
    [0x2006C5, 3, 0],
    [0x2006C5, 0, 3],
    [0x2006C1, 0, 0],
    [0x2006D1, 0, 0],
    [0x2006CD, 0xC00, 0],
    [0x5A1, 0, 0],
    [0x9B5, 4, 0],
    [0x1001A1, 0, 0],
    [0x1A1, 0, 0x100]] = true := by decide +kernel
theorem test_refuses_sub : refusesAll .sub [
    [5, 0, 0x40000000],
    [0x4008A5, 0, 0x40000000],
    [0x4008E9, 0x40000003, 0x40000000],
    [0x200569, 0x80000000, 0x80000000],
    [0x200585, 0xC0000000, 0],
    [0x25, 0, 0xC0000000],
    [0x1A1, 0, 0x40000000]] = true := by decide +kernel
theorem test_refuses_range : refusesAll .range [
    [0x14],
    [0x80000014],
    [0x600001C],
    [0x200404B8],
    [0x1000028],
    [0xE001434],
    [0x2100040],
    [0x200561, 0x44, 0],
    [0x3EA001D1, 0, 0],
    [0x200601, 0x2800000, 0],
    [0x200601, 0x1600000, 0],
    [0x200211, 0x100000, 0],
    [0x200601, 0xD000000, 0],
    [0x200601, 0x1000000, 0x2800],
    [0x200601, 0x1000000, 0x4000],
    [0x2002C1, 0x2000, 0],
    [0x2006C5, 0x400000, 0],
    [0x2022CD, 0xB00000, 0],
    [0x200711, 0x400003, 0],
    [0x1A1, 2, 0],
    [0x12, 0xBFF, 0]] = true := by decide +kernel
theorem test_refuses_pair : refusesAll .pair [
    [0xB001434],
    [0xE0040],
    [0x1605481, 0x18, 0x80000000],
    [0x1705081, 0x18, 0x80000000],
    [0x21001D1, 0, 0],
    [0x900601, 0x1000000, 0],
    [0x801A01, 0x2000000, 0],
    [0x800205, 0x1800000, 7],
    [0x401ACD, 0x800000, 0],
    [0x1DA5, 0, 0],
    [0x1DB5, 0, 0],
    [0x7001A9, 0, 0]] = true := by decide +kernel
theorem test_refuses_routing : refusesAll .routing [
    [0x200481, 0x100003, 0],
    [0x200483, 0, 0x41, 3, 0],
    [0x200561, 0x40, 0x41]] = true := by decide +kernel
theorem test_refuses_predicate : refusesAll .predicate [
    [0x200481, 3, 0x20000000],
    [0x200211, 0, 0x1C0000],
    [0x2006C5, 0, 0x1C0000],
    [0x1A1, 0, 0x20000000]] = true := by decide +kernel
theorem test_refuses_literal : refusesAll .literal [
    [0x200483, 0, 0, 0xFFFFFFFD, 0xFFFFFFFF],
    [0x2004A7, 0, 0, 1, 0],
    [0x200563, 0x40, 0, 1, 0],
    [0x40482, 0, 1],
    [0x700603, 0x5000000, 0, 0, 1]] = true := by decide +kernel

/-! ## Single steps (each result is worked out by hand from the table of its instruction) -/

/-- v1 = 7, v2 = -3, v3 = 0x12345678, (v4, v5) = 2^32 + 2, (v6, v7) = 3, v8 = 1.5, v9 = -2.0, v10 = +infinity, v11 = 4, v12 = 8, v13 = 4.0,
v14 = 708. -/
def ints : State := regs base 0 [(1, raw 7), (2, raw 0xFFFFFFFD), (3, raw 0x12345678), (4, raw 2), (5, raw 1), (6, raw 3), (8, raw 0x3FC00000),
  (9, raw 0xC0000000), (10, raw 0x7F800000), (11, raw 4), (12, raw 8), (13, raw 0x40800000), (14, raw 708)]
/-- Every instruction gives lane 0 the registers beside it. -/
def allGive (s : State) (l : List (Instr × Nat × List Reg)) : Bool := l.all (gives s)

theorem test_integer : allGive ints [(.addXr (xr 20 1 2 0 0), 20, [⟨4, .i32⟩]), (.addS3 ⟨false, 2, 1, 20, none⟩, 20, [⟨4, .i32⟩]),
    (.addXr (xr 20 4 6 0 2), 20, [⟨5, .i64⟩, ⟨1, .i64⟩]), (.subXr (xr 20 6 4 0 3), 20, [⟨1, .n64⟩, ⟨0xFFFFFFFF, .n64⟩]),
    (.mulXr (xr 20 2 3 0 1), 20, [⟨0xC962FC98, .n32⟩]), (.mulhXr (xr 20 2 3 0 0), 20, [⟨0xFFFFFFFF, .i32⟩]),
    (.mulhXr (xr 20 2 3 0 1), 20, [⟨0x12345677, .n32⟩]), (.madXr (xr 20 1 2 3 0), 20, [⟨0x12345663, .i32⟩]),
    (.divXr (xr 20 1 2 0 0), 20, [⟨0xFFFFFFFE, .i32⟩]), (.remXr (xr 20 2 11 0 0), 20, [⟨0xFFFFFFFD, .i32⟩]),
    (.minXr (xr 20 1 2 0 0), 20, [⟨0xFFFFFFFD, .i32⟩]), (.maxXr (xr 20 1 2 0 1), 20, [⟨0xFFFFFFFD, .n32⟩]),
    (.absXr (xr 20 2 0 0 0), 20, [⟨3, .i32⟩]), (.negXr (xr 20 6 0 0 2), 20, [⟨0xFFFFFFFD, .i64⟩, ⟨0xFFFFFFFF, .i64⟩]),
    (.cmpXr (xr 20 2 1 0 2), 20, [⟨1, .n32⟩]), (.cmpXr (xr 20 2 1 0 6), 20, [⟨0, .n32⟩])] = true := by decide +kernel
theorem test_select_and_fields : allGive ints [(.selXr (xr 20 1 2 3 0), 20, [raw 7]), (.selXr (xr 20 1 2 50 0), 20, [raw 0xFFFFFFFD]),
    (.lop3Xr { xr 3 1 0 2 0 with lit := some 0x96 }, 3, [⟨0xEDCBA982, .bits⟩]), (.shlXr (xr 20 1 6 0 0), 20, [⟨56, .bits⟩]),
    (.shrXr (xr 20 2 6 0 0), 20, [⟨0x1FFFFFFF, .bits⟩]), (.sarSi ⟨1, 2, 20, none⟩, 20, [⟨0xFFFFFFFE, .i32⟩]),
    (.shlXr { xr 20 4 0 0 2 with lit := some 63 }, 20, [⟨0, .bits⟩, ⟨0, .bits⟩]),
    (.fshlXr (xr 20 1 2 6 0), 20, [⟨0x3F, .bits⟩]), (.fshrXr (xr 20 1 3 11 0), 20, [⟨0x71234567, .bits⟩]),
    (.pcntXr (xr 20 3 0 0 0), 20, [⟨13, .n32⟩]), (.clzXr (xr 20 3 0 0 0), 20, [⟨3, .n32⟩]), (.ctzXr (xr 20 6 0 0 2), 20, [⟨0, .n32⟩]),
    (.brevXr (xr 20 1 0 0 0), 20, [⟨0xE0000000, .bits⟩]), (.bfeXr (xr 20 3 11 12 0), 20, [⟨0x67, .n32⟩]),
    (.bfeXr (xr 20 3 11 6 1), 20, [⟨0xFFFFFFFF, .i32⟩]), (.bfiXr (xr 3 1 11 12 0), 3, [⟨0x12345078, .bits⟩]),
    (.movS3 ⟨false, 3, 0, 20, none⟩, 20, [raw 0x12345678]), (.leaXr (xr 20 4 2 0 2), 20, [⟨0xFFFFFFF6, .n64⟩, ⟨0, .n64⟩]),
    (.prmtXr (xr 20 1 3 14 0), 20, [⟨0x56127807, .bits⟩])] = true := by decide +kernel
theorem test_float : allGive ints [(.faddXr (xr 20 8 9 0 0), 20, [⟨0xBF000000, .f32⟩]), (.fsubXr (xr 20 8 9 0 0), 20, [⟨0x40600000, .f32⟩]),
    (.fmulS3 ⟨false, 9, 8, 20, none⟩, 20, [⟨0xC0400000, .f32⟩]), (.ffmaXr (xr 20 8 9 8 0), 20, [⟨0xBFC00000, .f32⟩]),
    (.fminXr (xr 20 8 9 0 0), 20, [⟨0xC0000000, .f32⟩]), (.fmaxXr (xr 20 8 9 0 0), 20, [⟨0x3FC00000, .f32⟩]),
    (.fabsXr (xr 20 9 0 0 0), 20, [⟨0x40000000, .f32⟩]), (.fnegXr (xr 20 8 0 0 0), 20, [⟨0xBFC00000, .f32⟩]),
    (.fcmpXr (xr 20 9 8 0 1), 20, [⟨1, .n32⟩]), (.fdivXr (xr 20 8 9 0 0), 20, [⟨0xBF400000, .f32⟩]),
    (.fsqrtXr (xr 20 13 0 0 0), 20, [⟨0x40000000, .f32⟩]), (.frcpXr (xr 20 9 0 0 0), 20, [⟨0xBF000000, .f32⟩]),
    (.frsqXr (xr 20 13 0 0 0), 20, [⟨0x3F000000, .f32⟩]), (.fclsXr (xr 20 10 0 0 0), 20, [⟨0x80, .n32⟩]),
    (.frndXr (xr 20 8 0 0 0), 20, [⟨0x40000000, .f32⟩])] = true := by decide +kernel
theorem test_exponential : allGive ints [(.ex2sXr (xr 20 8 9 9 0), 20, [⟨0x3F000000, .f32⟩]), (.lg2Xr (xr 20 13 0 0 0), 20, [⟨0x40000000, .f32⟩])]
    = true := by decide +kernel
theorem test_convert_and_tags : allGive ints [(.cvtXr (xr 20 1 4 0 0), 20, [⟨0x40E00000, .f32⟩]), (.cvtXr (xr 20 8 0x40 0 1), 20, [⟨1, .i32⟩]),
    (.ordfXr (xr 20 9 0 0 0), 20, [⟨0xBFFFFFFF, .i64⟩, ⟨0xFFFFFFFF, .i64⟩]), (.tagsetXr (xr 20 1 0 0 9), 20, [⟨7, .bits⟩]),
    (.tagqXr (xr 20 1 0 0 0), 20, [⟨0, .n32⟩])] = true := by decide +kernel
/-- `fabs` and `fneg` of a signalling NaN write the canonical NaN and set no flag; `fadd` of it sets SINV. -/
theorem test_signalling_nan : ([(.fabsXr (xr 20 1 0 0 0), 0), (.fnegXr (xr 20 1 0 0 0), 0), (.faddXr (xr 20 1 2 0 0), 0x200)] : List (Instr × Word)).all (fun p =>
    after p.1 (regs base 0 [(1, raw 0x7F800001), (2, raw 0x3F800000)]) (fun t => t.fab.reg 0 0 0 20 == ⟨0x7FC00000, .f32⟩ &&
      (groupAt t 0 0).map (·.gcw) == (groupAt base 0 0).map (fun g => g.gcw ||| p.2))) = true := by decide +kernel

/-! ## States and operands that meet the hypotheses of the obligations -/

/-- Whether a step goes on. -/
def goesOn (s : State) : Bool := match step s with | .next _ => true | _ => false
/-- A team of 64 lanes. -/
def base64 : State := onGroup base (fun g => { g with lanes := List.replicate 64 (g.lanes.headD default) })
/-- `base` with no active lane under a predicate on v900. -/
def pred0 : Pred := ⟨false, true, 900⟩
/-- `add v3, v4, v5` loaded where the next step fetches. -/
def loaded : State := State.reset.withFetchWord 32 0x05080C80

theorem witness_StepRunsDecodedInstruction :
    ∃ i ws f, loaded.fab.issuing 0 0 = some i ∧ loaded.fab.fetch loaded.ctl 0 i.ctx i.pc.toNat = (.words ws, f) ∧
      decode ws = .ok (.addS3 ⟨false, 5, 4, 3, none⟩) ∧ loaded.agenda = [] ∧ loaded.fab.pick = some (0, 0) ∧
      ({ loaded with agenda := [.issue 0 0] } : State).fab.issuing 0 0 = some i :=
  let i := (loaded.fab.issuing 0 0).getD default
  ⟨i, [0x05080C80], (loaded.fab.fetch loaded.ctl 0 i.ctx i.pc.toNat).2, by decide +kernel,
    Prod.ext (by decide +kernel) (Eq.refl _), rfl, rfl, by decide +kernel, by decide +kernel⟩
theorem witness_DecodeOfEncode : (Instr.addS3 ⟨true, 0, 127, 3, some 0xFFFFFFFF⟩).wellFormed = true := by decide
theorem witness_EncodeOfDecode : decode [0x05080C80] = .ok (.addS3 ⟨false, 5, 4, 3, none⟩) := rfl
theorem reset_CtlOk : CtlOk State.reset.ctl :=
  ⟨by decide, by decide, by decide, by decide, ⟨0, by decide⟩, by decide +kernel, fun h => absurd h.1 (by decide), fun h => absurd h.1 (by decide)⟩
/-- `MemOk`, computed. -/
def memOk (f : Fab) : Bool := f.mem.wf && f.l2.all (fun l => l.bytes.wf) &&
  f.cores.all (fun p => p.2.l1.all (fun l => l.bytes.wf) && (match p.2.team with | none => true | some t => t.scratch.wf && t.slots.all (fun b => b.bytes.wf))) &&
  f.grids.all (fun g => g.saved.isEmpty)
theorem memOk_MemOk (f : Fab) (h : memOk f = true) : MemOk f := by
  simp only [memOk, Bool.and_eq_true, List.all_eq_true] at h
  obtain ⟨⟨⟨hm, hl⟩, hc⟩, hg⟩ := h
  refine ⟨hm, hl, fun p hp => ⟨(hc p hp).1, fun t ht => ?_⟩, fun g h1 p h2 => ?_⟩
  · have := (hc p hp).2
    rw [ht] at this
    simpa [TeamOk] using this
  · rw [List.isEmpty_iff.mp (hg g h1)] at h2
    cases h2
theorem reset_MemOk : MemOk State.reset.fab := memOk_MemOk _ (by decide)
theorem witness_ControlInvariantKept : CtlOk loaded.ctl ∧ goesOn loaded = true := ⟨reset_CtlOk, by decide +kernel⟩
theorem witness_MemoriesCanonicalKept : MemOk loaded.fab ∧ goesOn loaded = true :=
  ⟨memOk_MemOk _ (by decide +kernel), by decide +kernel⟩
theorem witness_CoreInstructionsKeepControl : Instr.nopSz.enc? = some (.sz 1) ∧ after .nopSz base (fun _ => true) = true ∧
    State.reset.fab.iss (Enc.sz 1).pred (Enc.sz 1).length = none := by decide +kernel

theorem witness_LanewiseResult : asXr (.s3 0x20 ⟨false, 2, 1, 20, none⟩) = some (0x20, xr 20 1 2 0 0) ∧
    issues ints (.s3 0x20 ⟨false, 2, 1, 20, none⟩) noGate = true ∧ issues ints (.xr 0x25 (xr 20 1 50 0 0)) noGate = true ∧
    (xrUse 0x20 (xr 20 1 2 0 0)).isSome = true ∧ (laneInstr 0x20).isSome = true ∧ (entryOf ints (.s3 0x20 ⟨false, 2, 1, 20, none⟩)).active ≠ [] := by
  decide +kernel
theorem witness_LanewiseFrame : issues base (.si 0x30 ⟨1, 2, 20, none⟩) noGate = true ∧ (laneInstr 0x30).isSome = true ∧
    (xrUse 0x30 (SiForm.toXr ⟨1, 2, 20, none⟩)).isSome = true ∧ issues base (.xr 0x20 { xr 1016 4 2 0 2 with pred := pred0 }) noGate = true := by decide +kernel
/-- For `IntegerValues`, `ShiftsCountsFields`, `FloatOrderAndTags`, `FloatArithmetic` and `FloatFunctionsAndConversions`: the last two forms
convert the low half of an h16x2 register, and of two f32 registers, to b16x2 halves and to i32. -/
theorem witness_forms : (xr 20 1 2 0 3).s < 4 ∧ (xr 20 1 2 0 1).s < 2 ∧ (xr 20 1 2 0 0).s = 0 ∧ regsNat [raw 7] = (7 : Word).toNat ∧
    (xr 20 1 2 0 15).s < 16 ∧ (xr 20 1 2 0 15).s / 4 = 3 ∧ [raw 1, raw 2].length = 2 ∧ (xr 20 1 2 0 2).s = 2 ∧
    (xr 20 8 0 0 15).s < 16 ∧ ([(0x67, 7, 6), (0x40, 0, 4), (0x03, 3, 0), (0x76, 6, 7)] : List (RegNo × Nat × Nat)).all (fun p => let f := xr 20 8 p.1 9 3
      f.s < 4 && f.b.toNat % 16 == p.2.1 && f.b.toNat / 16 % 16 == p.2.2 && p.2.1 < 8 && p.2.2 < 8) = true := by decide
theorem witness_DivideRemainder : issues ints (.xr 0x25 (xr 20 1 50 0 0)) noGate = true ∧ issues ints (.xr 0x26 (xr 20 2 1 0 0)) noGate = true := by
  decide +kernel
/-- For `LaneScan`, `LaneReduce`, `VoteBallotKnot` and `CrossLaneFrame`. -/
theorem witness_CrossLane : ([0x60, 0x61, 0x62, 0x63, 0x64, 0x5C, 0x5D, 0x71] : List (BitVec 8)).all (fun o =>
    issues base (.xr o (xr 20 (if o = 0x71 then 0 else 1) 0 0 0)) noGate) = true ∧ issues base (.xr 0x61 (xr 20 8 0 0 11)) noGate = true ∧
    issues base (.xr 0x61 (xr 20 8 0 0 10)) noGate = true ∧ issues base64 (.xr 0x63 (xr 20 1 0 0 1)) noGate = true ∧
    (entryOf base (.xr 0x5C (xr 20 1 0 0 0))).segFails base.fab (xr 20 1 0 0 0) .f32 16 = [] ∧
    (entryOf base (.xr 0x5D (xr 20 1 0 0 0))).segFails base.fab (xr 20 1 0 0 0) .int32 5 = [] := by decide +kernel
theorem witness_FrontierAndMerge : (base.fab.iss Pred.none_ 4).isSome = true ∧ (base.fab.group? 0 0).isSome = true := by decide +kernel
theorem witness_NoActiveLane : issues base (.xr 0x20 { xr 20 1 2 0 0 with pred := pred0 }) noGate = true ∧
    (entryOf base (.xr 0x20 { xr 20 1 2 0 0 with pred := pred0 })).active = [] := by decide +kernel
theorem witness_BranchTargets : issues base (.sb 0x68 ⟨16, 5⟩) noGate = true ∧ issues base (.xb 0x69 ⟨0, 6, 0x100, 1, ⟨false, false, 0⟩⟩) noGate = true ∧
    issues ints (.xb 0x6B ⟨0, 1, 0xFFFFFFC0, 2, ⟨false, false, 0⟩⟩) noGate = true ∧ issues ints (.xb 0x6C ⟨0, 1, 0x40, 2, ⟨false, false, 0⟩⟩) noGate = true := by
  decide +kernel
/-- Lanes 0, 1 and 2 hold the targets 0x20000, 2^48 + 2 and 0x20002; the others 0. -/
def targets : State := regs (regs (regs base 0 [(6, raw 0x20000)]) 1 [(6, raw 2), (7, raw 0x10000)]) 2 [(6, raw 0x20002)]
theorem witness_BranchTargets_indirect : issues targets (.xb 0x6D ⟨0, 6, 0, 4, ⟨false, false, 0⟩⟩) noGate = true ∧
    issues targets (.xr 0x6A { xr 0 6 0 0 0 with pred := ⟨false, true, 6⟩ }) noGate = true ∧
    (let i := entryOf targets (.xb 0x6D ⟨0, 6, 0, 4, ⟨false, false, 0⟩⟩)
     i.active.filter (fun l => 2 ^ 48 ≤ regsNat (targets.fab.source i 6 2 0 l)) = [1] ∧
     i.active.filter (fun l => regsNat (targets.fab.source i 6 2 0 l) % 4 ≠ 0) = [1, 2]) := by decide +kernel
/-- Lanes 0 and 1 are enrolled in mask 3, and lane 1 has arrived and waits there. -/
def enrolled : State :=
  onLane (onLane base 0 (fun x => { x with enrolled := 8 })) 1 (fun x => { x with enrolled := 8, arrived := 8, park := some (.jwait 3), parkNext := 0x10010 })
theorem witness_RejoinMasks : ([0x6E, 0x6F, 0x70, 0x71] : List (BitVec 8)).all (fun o => issues enrolled (.xr o (xr 0 0 0 0 3)) noGate) = true ∧
    groupAt enrolled 0 0 ≠ none ∧ (entryOf enrolled (.xr 0x6E (xr 0 0 0 0 3))).active = 0 :: List.range' 2 14 := by decide +kernel
theorem witness_IdentityRead : issues base (.si 0x0D ⟨13, 0, 5, none⟩) noGate = true ∧ issues base (.si 0x0D ⟨11, 0, 6, none⟩) noGate = true ∧
    issues (regs base 0 [(1, raw 14)]) (.xr 0x0D (xr 5 0 1 0 0)) noGate = true ∧
    issues (regs base 0 [(1, raw 11)]) (.xr 0x0D (xr 5 0 1 0 0)) noGate = true ∧ teamAt base 0 ≠ none ∧
    ((teamAt base 0).bind (fun t => base.fab.grid? t.grid)) ≠ none ∧ groupAt base 0 0 ≠ none := by decide +kernel
theorem witness_ControlWordAccess : issues base (.xr 0x0F (xr 5 0 1 0 1)) noGate = true ∧ issues base (.xr 0x0F (xr 5 0 0 0 0)) noGate = true := by decide +kernel

/-- Bytes at a virtual address of the loaded page. -/
def poke (s : State) (va : Nat) (b : List Byte) : State := onFab s (fun f => { f with mem := f.mem.writeBytes (loadBase + va) b })
/-- Changes to the loaded context, and to its grid. -/
def onCtx (s : State) (h : Ctx → Ctx) : State := onFab s (fun f => f.modCtx 1 h)
/-- Changes to the grid of the loaded team. -/
def onGrid (s : State) (h : Grid → Grid) : State := onFab s (fun f => { f with grids := f.grids.map h })
/-- A trap table at 0x12000 whose frames lie from 0x18000 and whose entries for 0x02 and 0x10 are 0x11000; task queue 1 at 0x14000: 16 entries
of 64 bytes from 0x15000, one of which (entry PC 0x11004, first argument 9) it holds. -/
def env : State :=
  let s := onCtx base (fun c => { c with trapTab := 0x12000 })
  let s := poke (poke (poke s 0x12000 (leBytes 8 0x18000)) 0x12020 (leBytes 8 0x11000)) 0x12100 (leBytes 8 0x11000)
  let s := poke s 0x14000 (leBytes 8 0x15000 ++ leBytes 8 0x84 ++ leBytes 4 0 ++ leBytes 4 1)
  let s := poke s 0x15000 (leBytes 8 0x11004 ++ leBytes 8 0 ++ leBytes 4 9)
  onGrid s (fun g => { g with tqs := [0, 0x14000, 0, 0], tasks := 2 })
/-- The group of `env` in trap mode for lanes 0 and 1, with the frame at 0x18000 and 0x11008 as its PC. -/
def inTrap : State := onGroup (poke env 0x18000 (leBytes 8 0x11008)) (fun g => { g with trap := some ⟨3, 0, 0x18000⟩ })
/-- A trap to take: cause 0x10 with subcause 3, of all lanes. -/
def pend : PendTrap := ⟨0x10, 3, 0xFFFF, 0xFFFF, 0, 0, 0x10000⟩
/-- The bytes of an access that has been answered with bytes. -/
def bytesOf : CoreAcc × Fab → Option (List Byte) | (.ok b, _) => some b | _ => none
/-- Values of v1 in lane 0. -/
def v1 (s : State) (w : Word) : State := regs s 0 [(1, raw w)]

theorem witness_NopSealWait : issues base (.sz 1) noGate = true ∧ issues base (.xr 0x01 (xr 0 0 0 0 0)) noGate = true ∧
    issues base (.sz 3) gateSeal = true ∧ issues base (.sw ⟨15, 15, 15, 31, 31⟩) noGate = true ∧
    (let s := onGroup base (fun g => { g with loads := [⟨0, 0x10000, 1, .mem false, 5, 4, false, .raw, [⟨0, .scr 0 64, false, false⟩]⟩] })
     issues s (.sw ⟨15, 15, 15, 31, 0⟩) noGate = true ∧ (groupAt s 0 0).map (fun g => (g.ld, g.delivers ⟨15, 15, 15, 31, 0⟩)) = some (1, none)) ∧
    (let s := onGroup base (fun g => { g with undel := [.neg 0 1 2 1], issuedCl := 1, nextSeq := 1 })
     let w := onGroup s (fun g => { g with gcw := 0x10 })
     issues s (.sw ⟨0, 15, 15, 31, 31⟩) noGate = true ∧ (groupAt s 0 0).map (fun g => (g.openBatch, g.delivers ⟨0, 15, 15, 31, 31⟩, (g.sift ⟨0, 15, 15, 31, 31⟩).undel)) =
       some ([], none, []) ∧ (groupAt w 0 0).map (fun g => g.delivers ⟨0, 15, 15, 31, 31⟩) = some (some (.neg 0 1 2 1))) ∧
    (let s := onGroup base (fun g => { g with openBatch := [7] })
     issues s (.sw ⟨15, 15, 0, 31, 31⟩) noGate = true ∧ ((s.fab.sealBatch 0 0).group? 0 0).map (fun g => g.openBatch) = some []) := by decide +kernel
theorem witness_RegionsAndRegisterCounts : issues base (.rgn 0x40A1800) noGate = true ∧ issues inTrap (.rgn 0x40A1800) noGate = true ∧
    ([0, 1, 127, 128] : List Word).all (fun v => issues (v1 base v) (.xr 0x05 (xr 0 0 1 0 0)) noGate && issues (v1 base v) (.xr 0x06 (xr 0 0 1 0 0)) noGate) = true ∧
    (let s := onGroup base (fun g => { g with r := 8 })
     let i := entryOf s (.si 0x05 ⟨127, 0, 0, none⟩)
     issues s (.si 0x05 ⟨127, 0, 0, none⟩) noGate = true ∧ i.r = 8 ∧ s.fab.growFits i 1016 = true ∧ (1016 - i.r) * i.w ≤ s.fab.freeRegs 0 ∧
     (s.fab.core 0).regQueue = [] ∧
     (let q := onFab s (fun f => f.setCore 0 { f.core 0 with regQueue := [⟨1, 16, false⟩] })
      issues q (.si 0x05 ⟨127, 0, 0, none⟩) noGate = true ∧ (q.fab.core 0).regQueue ≠ [] ∧
      issues (onLane q 0 (fun x => { x with window := some 3 })) (.si 0x05 ⟨127, 0, 0, none⟩) noGate = true) ∧
     (let b := onFab s (fun f => f.modTeam 0 (fun t => { t with groups := t.groups ++ (List.range 12).map (fun k => { t.groups.headD default with slot := k + 1 }) }))
      issues b (.si 0x05 ⟨127, 0, 0, none⟩) noGate = true ∧ b.fab.growFits (entryOf b (.si 0x05 ⟨127, 0, 0, none⟩)) 1016 = false)) := by decide +kernel
theorem witness_FenceSleepExit : issues (v1 base 6) (.xr 0x07 (xr 0 0 1 0 0)) gateMem = true ∧ issues base (.si 0x07 ⟨5, 0, 0, none⟩) gateMem = true ∧
    issues base (.si 0x07 ⟨1, 0, 0, none⟩) gateMem = true ∧ issues base (.si 0x10 ⟨1, 8, 0, none⟩) noGate = true ∧
    issues base (.si 0x10 ⟨0, 0, 0, some 1000⟩) noGate = true ∧ issues (v1 base 2) (.xr 0x10 (xr 0 8 1 0 0)) noGate = true ∧
    issues base (.sz 0x0E) noGate = true ∧ issues base (.xr 0x0E (xr 0 0 0 0 0)) noGate = true ∧
    (base.fab.lane? 0 0 0).map (·.task) = some false := by decide +kernel
theorem witness_SoftwareTraps : issues (v1 base 255) (.xr 0x08 (xr 0 0 1 0 0)) noGate = true ∧ issues (v1 base 256) (.xr 0x08 (xr 0 0 1 0 0)) noGate = true ∧
    issues base (.si 0x08 ⟨255, 0, 0, none⟩) noGate = true ∧ issues base (.sz 0x0C) noGate = true ∧
    (match base.fab.iss Pred.none_ 4, base.fab.iss Pred.none_ 12 with
     | some i, some j => base.fab.handlerLate i == false && base.fab.overdue i == [] && base.fab.handlerLate j == false && base.fab.overdue j == []
     | _, _ => false) = true := by decide +kernel
theorem witness_ExceptionEntry :
    (let f := env.fab
     let r0 := f.coreRead env.ctl 0 1 0x12000 8 .load
     let r1 := r0.2.coreRead env.ctl 0 1 (0x12000 + 16 * 0x10) 8 .load
     bytesOf r0 = some (leBytes 8 0x18000) ∧ bytesOf r1 = some (leBytes 8 0x11000) ∧
     (match f.group? 0 0 with
      | some g => g.trap == none && (bytesOf (r1.2.coreWrite env.ctl 0 1 0x18000 1 (r1.2.frameBytes 0 0 g pend))).isSome
      | none => false) = true ∧ (f.ctx? 1).isSome = true ∧ (f.core 0).team.map (·.ctx) = some 1 ∧
     bytesOf (r0.2.coreRead env.ctl 0 1 (0x12000 + 16 * 0x11) 8 .load) = some (leBytes 8 0)) ∧
    (groupAt inTrap 0 0).map (fun g => g.trap.isSome) = some true ∧ pend.cause < 256 := by decide +kernel
theorem witness_ReturnFromTrap : issues inTrap (.sz 0x09) gateRti = true ∧ issues inTrap (.xr 0x09 (xr 0 0 0 0 1)) gateRti = true ∧
    issues inTrap (.xr 0x09 (xr 0 0 0 0 2)) noGate = true ∧ (entryOf inTrap (.sz 0x09)).active = [0, 1] ∧
    (let pc (s : State) (e : Enc) : Option Nat := (bytesOf ((moved s e (entryOf s e)).coreRead s.ctl 0 1 0x18000 (64 + 72 * 16) .load)).map (fun b => fieldAt b 0 8)
     pc inTrap (.sz 0x09) = some 0x11008 ∧ pc (poke inTrap 0x18000 (leBytes 8 (2 ^ 48))) (.sz 0x09) = some (2 ^ 48) ∧
     pc (poke inTrap 0x18000 (leBytes 8 0x1100A)) (.sz 0x09) = some 0x1100A ∧
     (bytesOf ((moved inTrap (.sz 0x09) (entryOf inTrap (.sz 0x09))).coreRead inTrap.ctl 0 1 0x11008 4 .fetch)).isSome = true) := by decide +kernel
theorem witness_SystemCallAndInterrupt : issues base (.si 0x0A ⟨0, 0, 0, none⟩) noGate = true ∧ issues (v1 base 1) (.xr 0x0A (xr 0 0 1 0 0)) noGate = true ∧
    issues base (.si 0x0B ⟨255, 0, 0, none⟩) noGate = true ∧ issues (v1 base 256) (.xr 0x0B (xr 0 0 1 0 0)) noGate = true ∧ (base.fab.ctx? 1).isSome = true ∧
    (base.fab.grid? 1).isSome = true ∧ Table.get? base.fab.queues 0 = none ∧
    issues (onFab base (fun f => { f with queues := [(0, ⟨true, true, 4, 0, 0, 1, 0x10018000000, 0x10018001000, false, 0, 0⟩)] })) (.si 0x0B ⟨33, 0, 0, none⟩) noGate =
      true := by decide +kernel
/-- `env` with lane 0's record in v32 to v47: entry PC 0x11004 in lane 0, and 0 elsewhere. -/
def spawner : State := regs env 0 [(32, raw 0x11004)]
theorem witness_TaskSpawn : issues spawner (.xr 0x74 (xr 0 32 0 0 1)) gateMem = true ∧
    issues (regs env 0 [(32, raw 0x11006)]) (.xr 0x74 (xr 0 32 0 0 1)) gateMem = true ∧
    issues (onGrid spawner (fun g => { g with ntq := 1 })) (.xr 0x74 (xr 0 32 0 0 1)) gateMem = true ∧
    (let e : Enc := .xr 0x74 (xr 0 32 0 0 1)
     match (entryOf spawner e).queueAt spawner.ctl (moved spawner e (entryOf spawner e)) 0x14000 2 true 16 with | .at_ .. => true | .stop _ => false) = true ∧
    ((spawner.fab.grid? 1).map (fun g => (g.ntq, g.tqs.getD 1 0))) = some (4, 0x14000) := by decide +kernel
theorem witness_TaskNext : issues env (.xr 0x75 (xr 0 0 0 0 1)) gateMem = true ∧
    issues (onGrid env (fun g => { g with ntq := 1 })) (.xr 0x75 (xr 0 0 0 0 1)) gateMem = true ∧
    (let e : Enc := .xr 0x75 (xr 0 0 0 0 1)
     match (entryOf env e).queueAt env.ctl (moved env e (entryOf env e)) 0x14000 2 false (2 ^ 20) with
     | .at_ d f => (match f.dequeue env.ctl (some 0) 1 d with
       | (.entry b, g) => !recMalformed b && recBound b == none && (match g.dequeue env.ctl (some 0) 1 d with | (.empty _, _) => true | _ => false)
       | _ => false)
     | .stop _ => false) = true ∧ ((env.fab.grid? 1).map (fun g => (g.ntq, g.tasks))) = some (4, 2) ∧
    ((onGrid env (fun g => { g with tasks := 0 })).fab.grid? 1).map (·.tasks) = some 0 := by decide +kernel
theorem witness_BoundsAndIncumbents : issues base (.xr 0x76 (xr 0 0 8 0 3)) noGate = true ∧ issues base (.xr 0x76 (xr 0 0 0 1 0)) noGate = true ∧
    issues base (.xr 0x77 (xr 0 0 8 1 3)) (gateIncx (xr 0 0 8 1 3)) = true ∧ issues base (.xr 0x78 (xr 6 0 0 0 3)) noGate = true ∧
    (base.fab.ctx? 1).map (fun c => (c.incMax 3, c.improves 3 0xFFFFFFFFFFFFFFFF (base.fab.coreInc 0 1 3))) = some (false, true) := by decide +kernel
/-- Lane 3 of `base` has a bound of incumbent 3 that its core's replica dominates; it has retired a `tnext` at 0x10100 or none, and holds a task or none. -/
def bounded (tpc : Option Addr) (task : Bool) : State := onLane base 3 (fun x => { x with bound := some (5, 3), task := task, lastTnext := tpc.map (fun a => (a, 1)) })
theorem witness_CancelledLane : ([(none, false), (none, true), (some 0x10100, true)] : List (Option Addr × Bool)).all (fun p => let f := (bounded p.1 p.2).fab
      (f.lane? 0 0 3).any (fun x => x.park.isNone && x.status == .live && x.task == p.2 && x.lastTnext.isSome == p.1.isSome)) = true ∧
    (let f := (bounded none false).fab.setCoreInc 0 1 3 1
     (f.lane? 0 0 3).map (f.laneDominated 0 1) = some true ∧ (List.range 16).all (fun m => m == 3 || (f.lane? 0 0 m).map (f.laneDominated 0 1) == some false) = true ∧
     (f.group? 0 0).map (fun g => (g.stopped, g.awaiting)) = some (false, false)) ∧
    ((onGrid (bounded none true) (fun g => { g with tasks := 2 })).fab.grid? 1).map (·.tasks) = some 2 ∧
    ((onGrid base (fun g => { g with tasks := 0 })).fab.grid? 1).map (·.tasks) = some 0 := by decide +kernel

/-! ## Steps of control, tasks and exceptions -/

theorem test_jump_and_call : after (.jmpSb ⟨0x3FFE, 5⟩) base (fun t => pcOf t 3 == some 0xFFF8) = true ∧
    after (.jmpXb ⟨0, 0, 0x40, 5, ⟨false, false, 0⟩⟩) base (fun t => pcOf t 0 == some 0x10040) = true ∧
    gives base (.callXb ⟨0, 6, 0x100, 1, ⟨false, false, 0⟩⟩, 6, [⟨0x1000C, .n64⟩, ⟨0, .n64⟩]) = true ∧
    after (.bnzXb ⟨0, 1, 0x40, 0, ⟨false, false, 0⟩⟩) ints (fun t => pcOf t 0 == some 0x10040 && pcOf t 1 == some 0x1000C) = true ∧
    after (.retXr { xr 0 6 0 0 0 with pred := ⟨false, true, 6⟩ }) (regs base 0 [(6, raw 0x20000)]) (fun t => pcOf t 0 == some 0x20000 && pcOf t 1 == some 0x1000C) =
      true := by decide +kernel
theorem test_rejoin : after (.jwaitXr { xr 0 0 0 0 3 with pred := ⟨false, true, 1⟩ }) (onLane enrolled 0 (fun x => { x with regs := [(1, raw 1)] }))
    (fun t => pcOf t 0 == some 0x1000C && pcOf t 1 == some 0x10010 && (t.fab.lane? 0 0 1).map (·.arrived) == some 0) = true := by decide +kernel
theorem test_identity : gives base (.sidSi ⟨4, 0, 5, none⟩, 5, [⟨16, .n32⟩]) = true ∧ gives base (.sidSi ⟨12, 0, 5, none⟩, 5, [⟨1, .n32⟩]) = true := by decide +kernel
theorem test_trap_enters_the_handler : after (.trapSz ⟨3, 0, 0, none⟩) env (fun t => pcOf t 0 == some 0x11000 &&
    (groupAt t 0 0).map (fun g => g.trap) == some (some ⟨0xFFFF, 0, 0x18000⟩) &&
    bytesOf (t.fab.coreRead t.ctl 0 1 0x18000 10 .load) == some (leBytes 8 0x10000 ++ [0x10, 3])) = true := by decide +kernel
theorem test_return_from_trap : after .rtiSz inTrap (fun t => pcOf t 0 == some 0x11008 && pcOf t 2 == some 0x10000 &&
    (groupAt t 0 0).map (fun g => g.trap) == some none) = true := by decide +kernel
theorem test_task_installed : after (.tnextXr { xr 0 0 0 0 1 with pred := ⟨true, true, 1⟩ }) (v1 (onGroup env (fun g => { g with lanes := g.lanes.mapIdx (fun l x =>
      if l = 0 then x else { x with regs := [(1, raw 1)] }) })) 0) (fun t => pcOf t 0 == some 0x11004 && pcOf t 1 == some 0x1000C &&
    t.fab.reg 0 0 0 0 == raw 9 && (t.fab.lane? 0 0 0).map (·.task) == some true) = true := by decide +kernel
theorem test_sleep : after (.sleepSi ⟨1, 0, 0, some 1000⟩) base (fun t => (groupAt t 0 0).map (·.hold) == some (some (.sleep 0xFFFF 0x10000 1000))) = true := by decide +kernel
theorem test_grow : after (.growSi ⟨127, 0, 0, none⟩) (onGroup base (fun g => { g with r := 8 })) (fun t => (groupAt t 0 0).map (·.r) == some 1016) = true := by
  decide +kernel

/-! ## Memory -/

/-- Whether the accesses of the active lanes pass every stage with each sector present. -/
def reaches (s : State) (o : BitVec 8) (f : XmForm) (align n : Nat) (acc : Access) : Bool :=
  let i := entryOf s (.xm o f)
  let m := moved s (.xm o f) i
  match m.reach s.ctl i (i.wants m f align) n acc with | .ok locs fab => fab.absentLanes (i.wants m f align) locs n == [] | .stop _ => false
/-- The trap of the stage at which they fail. -/
def stageOf (s : State) (o : BitVec 8) (f : XmForm) (align n : Nat) (acc : Access) : Option Nat :=
  let i := entryOf s (.xm o f)
  let m := moved s (.xm o f) i
  match m.reach s.ctl i (i.wants m f align) n acc with | .ok .. => none | .stop (.trap t) => some t.cause | .stop (.xlate ..) => some 0x09 | .stop _ => some 0
/-- `f` at a literal offset. -/
def off (f : XmForm) (v : DWord) : XmForm := { f with lit := some v }
/-- `base` whose core has the leaf of page 0x10000 in its TLB, accessed and dirty. -/
def hot : State := onFab base (fun f => f.setCore 0 { f.core 0 with tlb := [⟨1, 2, 1, BitVec.ofNat 64 (loadBase + 0x10000 + 0x3F), loadBase + 0x8008, []⟩] })
/-- `base` whose sector 1 is absent, with one copy pending. -/
def absent : State := onFab base (fun f => f.sectorClear 0 1)

theorem witness_AddressStages :
    (let f := xm 5 7 0 0 1 2 0 0 0
     issues base (.xm 0x80 f) gateLd = true ∧ reaches base 0x80 f 4 4 .load = true ∧
     reaches base 0x80 (off f 0xFFFFC) 4 4 .load = true ∧ stageOf base 0x80 (off f 0x100000) 4 4 .load = some 0x0C ∧ stageOf base 0x80 (off f 2) 4 4 .load = some 0x0B) ∧
    (let f := xm 5 8 0 0 0 2 0 0 0
     issues base (.xm 0x80 (off f 0x14000)) gateLd = true ∧ reaches base 0x80 (off f 0x14000) 4 4 .load = true ∧ stageOf base 0x80 (off f (2 ^ 48)) 4 4 .load = some 0x0A ∧
     stageOf base 0x80 (off f 0x14002) 4 4 .load = some 0x0B ∧ stageOf base 0x80 (off f 0x20000) 4 4 .load = some 0x09 ∧
     (base.fab.lookup base.ctl (some 0) loadCtx 0x14000).2.ac = 0) ∧
    (∃ e, (hot.fab.core 0).tlb = [e] ∧ e.covers 1 0x14000 = true ∧ ptePermits e.pte.toNat .store = true ∧ e.pte.getLsbD 4 = true ∧ e.pte.getLsbD 5 = true ∧
      hot.ctl.refuses (leafPa e.pte.toNat e.level 0x14000) (BitVec.ofNat 12 (bitsOf e.pte.toNat 59 48)) = false ∧ (hot.fab.ctx? 1).isSome = true) ∧
    (let f := xm 5 7 0 0 1 2 0 64 0
     issues absent (.xm 0x80 f) gateLd = true ∧ reaches absent 0x80 f 4 4 .load = false ∧ stageOf absent 0x80 f 4 4 .load = none) := by
  refine ⟨by decide +kernel, by decide +kernel, ⟨⟨1, 2, 1, BitVec.ofNat 64 (loadBase + 0x10000 + 0x3F), loadBase + 0x8008, []⟩, ?_⟩, by decide +kernel⟩
  decide +kernel
theorem witness_LoadsAndStoresEnter :
    (let f := xm 5 7 6 1 1 2 0 0 0
     issues base (.xm 0x80 { f with b := 0 }) gateLd = true ∧ reaches base 0x80 f 4 4 .load = true ∧ issues base (.xm 0x81 { f with d := 0 }) gateSt = true ∧
     reaches base 0x81 f 4 4 .store = true) ∧
    (let f := off (xm 0 8 0 0 0 0 0 0 0) 0x14000
     issues base (.xm 0x85 { f with d := 9 }) gateLd = true ∧ issues base (.xm 0x86 f) gateSt = true ∧ issues base (.xm 0x87 f) gateSt = true ∧
     reaches base 0x85 f 1 1 .load = true) := by decide +kernel
theorem witness_AtomicOperations :
    (let f := xm 5 7 9 3 1 2 2 0 0x11
     issues base (.xm 0x82 f) (gateAtom f) = true ∧ reaches base 0x82 f 4 4 .atomic = true) ∧
    (let f := off (xm 6 8 10 1 0 3 5 0 0) 0x14000
     issues base (.xm 0x83 f) gateLdSt = true ∧ reaches base 0x83 f 8 8 .atomic = true) := by decide +kernel
/-- One store of 4 bytes at 0x40 of core 0's scratchpad stands in the store queue, and one load of it, older or younger, outstanding. -/
def queued (seqLoad : Nat) : State :=
  let st : StoreOp := ⟨1, 0x10000, 1, .store false, [⟨0, .scr 0 0x40, [1, 2, 3, 4], []⟩]⟩
  let ld : LoadOp := ⟨seqLoad, 0x10000, 1, .mem false, 5, 2, true, .i32, [⟨0, .scr 0 0x40, false, false⟩]⟩
  onGroup base (fun g => { g with nextSeq := 3, storeQ := [st], loads := [ld] })
theorem witness_StoresAndLoadsPerform : (queued 2).fab.group? 0 0 ≠ none ∧ memOk (queued 2).fab = true ∧ (teamAt (queued 2) 0).isSome = true ∧
    (groupAt (queued 0) 0 0).map (fun g => g.loads.any (fun l => l.seq < 1 && l.kind.fromMemory && !l.finished)) = some true ∧
    (groupAt (queued 2) 0 0).map (fun g => g.loads.any (fun l => l.seq < 1)) = some false ∧
    (groupAt base 0 0).map (·.storeQ) = some [] ∧
    (let s := onGroup (queued 2) (fun g => { g with storeQ := [] })
     (groupAt s 0 0).map (fun g => (g.storeQ, g.loads.map (·.d), (g.lanes[0]?).map (·.status))) = some ([], [5], some .live)) ∧
    ([(.mem true, 4, 2, 8), (.mem false, 5, 64, 64), (.pin, 5, 1, 1), (.presq, 5, 1, 1)] : List (LoadKind × RegNo × Nat × Nat)).all (fun p =>
      [Loc.scr 0 0x40, .scr 7 0x80, .glob 0x14000 0x10018014000 0 0 0].all (fun loc =>
        let s := onGroup base (fun g => { g with nextSeq := 3, loads := [⟨2, 0x10000, 1, p.1, p.2.1, p.2.2.1, false, .n32, [⟨0, loc, false, false⟩, ⟨1, loc, false, false⟩]⟩] })
        (groupAt s 0 0).any (fun g => g.loadReady 0 && (g.loads[0]?).any (fun o => o.pieces.all (fun q => !s.fab.locHeld 0 0 q.loc) && decide (o.pieces.map (·.lane)).Nodup &&
          [1, 2, 4, 8, 16, 32, 64].contains o.bytes && decide (o.d.toNat + (o.bytes + 3) / 4 ≤ 1016)) && (g.queued 2 loc).isNone))) = true ∧
    (groupAt (queued 2) 0 0).map (fun g => (g.loadReady 0, g.queued 2 (.scr 0 0x41))) = some (true, some 2) ∧
    (groupAt (onGroup base (fun g => { g with storeQ := [⟨1, 0x10000, 1, .atom 0 0 true, [⟨0, .scr 0 0x40, [1], []⟩]⟩], loads := [⟨2, 0x10000, 1, .mem false, 5, 4, false, .n32, [⟨0, .scr 0 0x40, false, false⟩]⟩] })) 0 0).map
      (fun g => g.loadReady 0) = some false := by decide +kernel
/-- One store, and one load, of 4 bytes of global memory under key 7, which is retiring. -/
def lateOps : State :=
  let loc : Loc := .glob 0x14000 0x10018014000 7 0 0
  let s := onGroup base (fun g => { g with nextSeq := 3, storeQ := [⟨1, 0x10000, 1, .store false, [⟨2, loc, [1, 2, 3, 4], []⟩]⟩] })
  { s with ctl := { s.ctl with keys := [(7, (.retiring, 1))] } }
/-- The load alone. -/
def lateLoad : State := onGroup lateOps (fun g => { g with storeQ := [], loads := [⟨2, 0x10000, 1, .mem false, 5, 4, false, .n32, [⟨2, .glob 0x14000 0x10018014000 7 0 0, false, false⟩]⟩] })
theorem witness_StoresAndLoadsPerform_late : (groupAt lateOps 0 0).any (fun g => lateOps.fab.mayDrain 0 g && g.pendTrap.isNone &&
      (g.storeQ.head?).any (fun o => o.late lateOps.ctl == [(2, .glob 0x14000 0x10018014000 7 0 0)])) = true ∧
    (groupAt lateLoad 0 0).any (fun g => g.loadReady 0 && g.pendTrap.isNone && (g.loads[0]?).any (fun o => (o.late lateLoad.ctl).length == 1 &&
      o.pieces.all (fun p => !p.done && !p.dropped && !lateLoad.fab.locHeld 0 0 p.loc))) = true ∧
    (groupAt lateOps 0 0).any (fun g => (g.lanes[2]?).any (fun x => x.status == .live && !x.idle && x.park.isNone)) = true ∧
    (onGroup lateOps (fun g => { g with pendTrap := some ⟨3, 0, 1, 1, 0, 0, 0x10000⟩ })).fab.group? 0 0 ≠ none ∧
    (groupAt (queued 2) 0 0).any (fun g => g.loads.all (fun o => o.late (queued 2).ctl == []) && g.storeQ.all (fun o => o.late (queued 2).ctl == [])) = true := by decide +kernel
theorem test_late_store : after (.storeDrain 0 0) lateOps (fun t => (groupAt t 0 0).map (fun g => (g.pendTrap.map (fun p => (p.cause, p.faddr)), g.storeQ.length)) ==
    some (some (0x0A, 0x14000), 0) && t.fab.mem == lateOps.fab.mem) = true := by decide +kernel
theorem test_store_then_load : after (.storeDrain 0 0) (queued 2) (fun t => t.fab.scrRead 0 0x3F 6 == [0, 1, 2, 3, 4, 0] &&
    after (.loadComplete 0 0 0 1) t (fun u => u.fab.reg 0 0 0 5 == ⟨0x201, .i32⟩)) = true ∧
    after (.storeDrain 0 0) (queued 0) (fun t => t.fab.scrRead 0 0x40 4 == [0, 0, 0, 0]) = true := by decide +kernel
theorem witness_LoadsAndStoresEnter_hints : issues base (.xm 0x84 (off (xm 0 8 0 0 0 0 0 0 0) 0x14000)) noGate = true ∧
    issues base (.xm 0x88 (xm 0 0 0 2 0 0 0 0 0)) noGate = true ∧ issues base (.xm 0x88 (off (xm 0 8 0 0 0 0 0 0 0) 0x10000)) noGate = true ∧
    issues hot (.xm 0x88 (off (xm 0 8 0 1 0 0 0 0 0) 0x14000)) noGate = true ∧
    (hot.fab.core 0).tlb.find? (fun e => e.covers 1 0x14000) ≠ none ∧
    addrOf hot (entryOf hot (.xm 0x88 (off (xm 0 8 0 1 0 0 0 0 0) 0x14000))) (off (xm 0 8 0 1 0 0 0 0 0) 0x14000) 15 = 0x14000 := by decide +kernel
theorem witness_BarriersAndPresence : ([0x8B, 0x8C, 0x8D, 0x8E] : List (BitVec 8)).all (fun o =>
      issues base (.xm o (off (xm 0 5 (if o = 0x8C then 0 else 6) 0 1 0 0 0 0) 0xFFFF0)) (if o = 0x8D then noGate else gateSt)) = true ∧
    ([1, 65535, 65536] : List Word).all (fun v => issues (v1 base v) (.xm 0x8B (xm 0 5 1 0 1 0 0 16 0)) gateSt) = true ∧
    base.fab.scrValid 0 1 0xFFFF0 = true ∧ base.fab.barPhase 0 0xFFFF0 = false ∧
    (let s := onGroup base (fun g => { g with nextSeq := 1, storeQ := [⟨0, 0x10000, 1, .barv, [⟨0, .scr 0 0xFFFF0, [], []⟩]⟩] })
     issues s (.xm 0x8D (off (xm 0 5 6 0 1 0 0 0 0) 0xFFFF0)) noGate = true) ∧
    ([0, 1, 2] : List (BitVec 4)).all (fun k => issues base (.xm 0x92 (xm (if k = 0 then 5 else 0) 7 0 k 2 0 0 0 0)) (gatePres (xm 0 7 0 k 2 0 0 0 0))) = true := by
  decide +kernel
theorem witness_BarrierObjectAndSectors : (absent.fab.core 0).team.map (fun t => (Table.getD t.sectors 1 ⟨true, 0⟩, Table.getD t.sectors 2 ⟨true, 0⟩)) =
    some (⟨false, 1⟩, ⟨true, 0⟩) := by decide +kernel
/-- Queue 0x14000 holds one 16-byte entry of two, queue 0x14040 none, queue 0x14080 is full, and 0x140C0 is no queue. -/
def queues : State := poke (poke (poke base 0x14000 (leBytes 8 0x15000 ++ leBytes 8 1 ++ leBytes 4 0 ++ leBytes 4 1)) 0x14040 (leBytes 8 0x15100 ++ leBytes 8 1))
  0x14080 (leBytes 8 0x15200 ++ leBytes 8 1 ++ leBytes 4 0xFFFFFFFF ++ leBytes 4 1)
/-- Where a descriptor of the loaded page lies. -/
def descLoc (va : Nat) : Loc := .glob (BitVec.ofNat 48 va) (BitVec.ofNat 48 (loadBase + va)) 0 0 0
/-- `queues` after a `qenq` or `qdeq` of the 16 lanes on a descriptor. -/
def queueOp (enq : Bool) (va : DWord) : State :=
  match exec (if enq then .qenqXm (off (xm 5 8 16 0 0 0 0 0 0) va) else .qdeqXm (off (xm 16 8 0 0 0 0 0 0 0) va)) queues with | .next t => t | _ => queues
/-- Whether the descriptor of a state's oldest store passes its check for the 16 lanes, with entries of 16 * 2^size bytes. -/
def checked (s : State) (va size : Nat) (enq : Bool) : Bool := (s.fab.queueCheck s.ctl (some 0) 1 (descLoc va) size enq 16).1
theorem witness_SliceQueues : ([0x14000, 0x14040, 0x14080, 0x140C0] : List Nat).map (fun a =>
      (queues.fab.queueGet queues.ctl (some 0) 1 (descLoc a)).1.map (fun q => ((q.tail - q.head).toNat, q.logcap))) = [some (1, 1), some (0, 1), some (2, 1), none] ∧
    (queues.fab.waitersOf (descLoc 0x14000)).isEmpty = true ∧
    (onFab queues (fun f => { f with waiters := [⟨loadBase + 0x14000, 0, 0, 3, some 0⟩] })).fab.waitersOf (descLoc 0x14000) ≠ [] := by decide +kernel
/-- Lane 3 waits on queue 0x14040 for an entry of one register to v16, or has been handed one, alone. -/
def awaiting (b : Option (List Byte)) : State := onLane queues 3 (fun x => { x with park := some (match b with
  | none => .qdeq (descLoc 0x14040) 16 1 none 0 0 | some b => .handed (descLoc 0x14040) 16 none 0 0 b) })
theorem witness_SliceQueues_handed : ((awaiting none).fab.lane? 0 0 3).map (·.park) = some (some (.qdeq (descLoc 0x14040) 16 1 none 0 0)) ∧
    ((awaiting (some [1, 2, 3, 4])).fab.lane? 0 0 3).map (·.park) = some (some (.handed (descLoc 0x14040) 16 none 0 0 [1, 2, 3, 4])) ∧
    ((awaiting none).fab.core 0).team.isSome = true ∧
    (match queues.fab.queueGet queues.ctl (some 0) 1 (descLoc 0x14000) with
     | (some q, f) => (match f.entryLoc queues.ctl 1 q (q.head - 1) with
       | (some loc, g) => ((g.sliceWrite queues.ctl none 1 loc (List.replicate 16 0)).waitersOf (descLoc 0x14000)).isEmpty
       | _ => false)
     | _ => false) = true ∧
    (let s := onFab queues (fun f => { f with waiters := [⟨loadBase + 0x14000, 0, 0, 3, some 0⟩] })
     match s.fab.queueGet s.ctl (some 0) 1 (descLoc 0x14000) with
     | (some q, f) => (match f.entryLoc s.ctl 1 q (q.head - 1) with
       | (some loc, g) => !((g.sliceWrite s.ctl none 1 loc (List.replicate 16 0)).waitersOf (descLoc 0x14000)).isEmpty
       | _ => false)
     | _ => false) = true := by decide +kernel
theorem test_handed_entry_lands_before_the_ring_is_full :
    (let e (f : Fab) : Fab := (f.enqueue queues.ctl (some 0) 1 (descLoc 0x14040) (List.replicate 16 7)).2
     let s := (awaiting (some [1, 2, 3, 4])).fab
     let parked (f : Fab) : Bool := ((f.lane? 0 0 3).map (fun x => x.park.isSome)).getD false
     (parked (e s), parked (e (e s)), ((e (e s)).reg 0 0 3 16).val) = (true, false, 0x04030201)) := by decide +kernel
theorem witness_QueueInstructions : ([0x14000, 0x14040, 0x14080, 0x14001, 2 ^ 48] : List DWord).all (fun a => issues queues (.xm 0x8F (off (xm 5 8 16 3 0 0 3 0 0) a)) gateSt &&
      issues queues (.xm 0x90 (off (xm 16 8 0 1 0 0 3 0 0) a)) gateSt && issues queues (.xm 0x91 (off (xm 5 8 0 1 0 0 2 0 0) a)) gateQpoll) = true ∧
    (let at_ (o : BitVec 8) (f : XmForm) : Bool := match (entryOf queues (.xm o f)).descAt queues.ctl (moved queues (.xm o f) (entryOf queues (.xm o f)))
       0x14000 .atomic with | .at_ .. => true | .stop _ => false
     at_ 0x8F (off (xm 5 8 16 3 0 0 3 0 0) 0x14000) = true ∧ at_ 0x90 (off (xm 16 8 0 1 0 0 3 0 0) 0x14000) = true) ∧
    ([(0x3F, true), (0x3B, false), (0x3D, false)] : List (Nat × Bool)).all (fun p =>
      let s := onFab queues (fun f => f.setCore 0 { f.core 0 with tlb := [⟨1, 2, 1, BitVec.ofNat 64 (loadBase + 0x10000 + p.1), loadBase + 0x8008, []⟩] })
      let e : Enc := .xm 0x91 (off (xm 5 8 0 1 0 0 2 0 0) 0x14000)
      issues s e gateQpoll && (match ((moved s e (entryOf s e)).translate s.ctl (some 0) 1 0x14000 .load).1 with
        | .ok loc pte => ptePermits pte .atomic == p.2 && paKind loc.phys.1 == .mem | _ => false) == (p.1 != 0x3D)) = true := by decide +kernel
theorem witness_QueueRequests : ([true, false] : List Bool).all (fun enq => let s := queueOp enq 0x14000
      (s.fab.core 0).team.isSome && (match s.fab.group? 0 0 with
        | some g => s.fab.mayDrain 0 g && g.storeQ.map (fun o => (o.pieces.length, o.kind, (o.late s.ctl).length)) == [(16, if enq then .qenq 0 0 5 else .qdeq 0 0 16, 0)]
        | none => false) && checked s 0x14000 0 enq && !checked s 0x14000 1 enq && !checked s 0x140C0 0 enq) = true := by decide +kernel
theorem test_queue : after (.qpollXm (off (xm 5 8 0 1 0 0 2 0 0) 0x14000)) queues (fun t => t.fab.reg 0 0 7 5 == ⟨1, .n32⟩) = true ∧
    after (.storeDrain 0 0) (queueOp true 0x14040) (fun t => t.fab.reg 0 0 1 5 == ⟨1, .n32⟩ && t.fab.reg 0 0 2 5 == ⟨0, .n32⟩) = true ∧
    after (.storeDrain 0 0) (queueOp false 0x14000) (fun t => (t.fab.lane? 0 0 0).map (·.park) == some none &&
      (t.fab.lane? 0 0 1).map (·.park.isSome) == some true && t.fab.waiters.length == 15) = true := by decide +kernel
theorem test_atomic : after (.atomXm (xm 5 7 9 0 1 2 1 0 0x10)) (regs base 0 [(9, raw 5)]) (fun t => after (.storeDrain 0 0) t (fun u =>
    u.fab.scrRead 0 0 4 == [5, 0, 0, 0])) = true := by decide +kernel

/-! ## Copies, tiles, routines and remote operations -/

/-- Memory cells for numbers below 256, without the zero ones. -/
def cells (l : List (Nat × Nat)) : Memory := (l.filter (fun p => p.2 != 0)).map (fun p => (p.1, BitVec.ofNat 8 p.2))
/-- The cells of a tile descriptor (Table 15.3) at an address, with no clipping, in an address space. -/
def desc (a rows cols fmt rstride base : Nat) (as : Nat := 1) : Memory :=
  cells [(a, base % 256), (a + 1, base / 256 % 256), (a + 2, base / 65536), (a + 24, rows), (a + 26, cols), (a + 28, fmt + 16 * as), (a + 32, rstride), (a + 36, rows), (a + 38, cols)]
/-- Core 0's scratchpad. -/
def scr (s : State) (m : Memory) : State := onFab s (fun f => f.modTeam 0 (fun t => { t with scratch := m }))
/-- The routine of the spec's example under R338 and R339: the sum of two f32, with identity -0. -/
def sumRoutine : Routine := ⟨9, 0x80000000, 3, 3, true, true, [.faddS3 ⟨false, 1, 0, 2, none⟩, .rendXr (xr 0 2 0 0 0)]⟩
/-- Descriptors, by register: v1 an 8x16 i8 tile at 0x1000 whose (0, 0) is 2; v2 an 8x1 i32 accumulator at 0x2000; v3 a 16x1 i8 tile at 0x3000
whose (0, 0) is 3; v4 an 8x128 bit tile; v5 8x1 i32 at 0x5000; v6, v7 4x4 f32 at 0x4000 and 0x4100; v8 4x1; v9 1x1; v10 a 1x4 f32 row holding
1, 2, 3, 4; v11 a 1x4 merge row; v12 an 8x1 f32 accumulator; v13 a 1x4 f32 row at 0x4600; v14 no descriptor; v15 the same 8x16 tile in global
memory. Slot 3 views as i8, slot 4 as bits; routine 9 is the spec's example. v31 is 1 in lane 0 alone. -/
def tiles : State :=
  let s := onGroup base (fun g => { g with lanes := g.lanes.map (fun x => { x with regs := (List.range 16).map (fun k => (k, raw (BitVec.ofNat 32 (64 * k)))) }) })
  let s := onLane s 0 (fun x => { x with regs := x.regs ++ [(31, raw 1)] })
  let s := scr s (desc 0x40 8 16 4 16 0x1000 ++ desc 0x80 8 1 6 4 0x2000 ++ desc 0xC0 16 1 4 1 0x3000 ++ desc 0x100 8 128 10 16 0x1100 ++ desc 0x140 8 1 6 4 0x5000 ++
    desc 0x180 4 4 1 16 0x4000 ++ desc 0x1C0 4 4 1 16 0x4100 ++ desc 0x200 4 1 1 4 0x4200 ++ desc 0x240 1 1 1 4 0x4300 ++ desc 0x280 1 4 1 16 0x4500 ++
    desc 0x2C0 1 4 11 32 0x4700 ++ desc 0x300 8 1 1 4 0x6000 ++ desc 0x340 1 4 1 16 0x4600 ++ desc 0x3C0 8 16 4 16 0x14000 0 ++
    cells [(0x1000, 2), (0x3000, 3), (0x4502, 0x80), (0x4503, 0x3F), (0x4507, 0x40), (0x450A, 0x40), (0x450B, 0x40), (0x450E, 0x80), (0x450F, 0x40)])
  let s := onFab s (fun f => f.modTeam 0 (fun t => { t with views := (t.views.set 3 ⟨true, 0, 4, 1, 16⟩).set 4 ⟨true, 0, 10, 1, 128⟩ }))
  onCtx s (fun c => { c with routines := [sumRoutine] })
/-- Whether the descriptors of a tile instruction are read and satisfy its conditions. -/
def tilesRead (s : State) (j : Instr) : Bool :=
  match j.enc? with
  | none => false
  | some e =>
    let i := entryOf s e
    match tileUse s i j with
    | none => false
    | some (_, gate, us, regs, ok) => issues s e gate && (match s.fab.descs i (descAddrs s i us regs) with
        | .ok ds => (match parseDescs i.core ds ok with | .inl ts => ts.length == us.length | .inr _ => false)
        | .stop _ => false)

theorem witness_CopiesEnter :
    (let f := xm 2 1 3 0 1 2 0 0 2
     let s := regs base 0 [(1, raw 0x100), (2, raw 0x200), (3, raw 0x300)]
     let i := entryOf s (.xm 0x89 f)
     issues s (.xm 0x89 f) gateCopy = true ∧ s.fab.stages123 i.core (i.active.flatMap (fun l => [⟨l, 1, addrOf s i f l, 4⟩, ⟨l, 1, 0x300, 4⟩, ⟨l, 1, 0x200, 16⟩])) = none ∧
     issues (regs base 0 [(1, raw 0x100000)]) (.xm 0x89 f) gateCopy = true ∧ s.fab.partsFit [⟨0, 12, []⟩] = true ∧
     (onFab s (fun f => (List.range 15).foldl (fun f _ => f.sectorClear 0 12) f)).fab.partsFit [⟨0, 12, []⟩] = false) ∧
    tilesRead tiles (.cptXt (xt 0 15 1 0 0 0 0 0 0)) = true ∧ tilesRead tiles (.cptXt (xt 0 6 7 0 0 1 0 0 0)) = true := by decide +kernel
theorem witness_MatrixOperationsEnter : ([.bldXt (xt 0 3 0 0 0 0 0 3 0), .mmaXt (xt 2 1 0 0 0 0 0 3 0), .mbinXt (xt 2 4 0 0 1 0 0 4 0), .mretXt (xt 5 2 0 0 0 4 0 0 0),
    .mretXt (xt 12 12 12 0 0 1 0 9 0), .mclrXt (xt 2 0 0 0 0 0 0 0 0), .foldXt (xt 8 6 0 0 0 0 0 9 0), .foldXt (xt 9 6 0 0 1 0 0 9 0), .scanXt (xt 13 10 0 0 1 0 0 9 0),
    .zipXt (xt 7 6 6 0 0 0 0 9 0), .outrXt (xt 7 10 10 0 0 0 0 9 0), .zipMergeXt (xt 11 11 11 1 1 7 0 9 0)] : List Instr).all (tilesRead tiles) = true ∧
    (let f := xt 2 14 0 0 0 0 0 3 0
     let i := entryOf tiles (.xt 0xB1 f)
     issues tiles (.xt 0xB1 f) gateMx = true ∧ i.quarterUnits = [[0]] ∧
     (match tiles.fab.descs i (descAddrs tiles i i.quarterUnits [f.a, f.d]) with
      | .ok ds => ds.all (fun u => u.2.length == 2 && (u.2.mapM (Tile.parse 0)).isNone)
      | .stop _ => false) = true) ∧
    (let s := regs tiles 0 [(1, raw 0x41), (2, raw 0x80), (31, raw 1)]
     let f := xt 2 1 0 0 0 0 0 3 0
     let i := entryOf s (.xt 0xB1 f)
     issues s (.xt 0xB1 f) gateMx = true ∧ (match s.fab.descs i (descAddrs s i i.quarterUnits [f.a, f.d]) with | .stop (.trap t) => t.cause == 0x0B | _ => false) = true) ∧
    (let s := onFab tiles (fun f => f.sectorClear 0 64)
     issues s (.xt 0xB1 (xt 2 1 0 0 0 0 0 3 0)) gateMx = true ∧ tilesRead s (.mmaXt (xt 2 1 0 0 0 0 0 3 0)) = true ∧
     (Tile.parse 0 (s.fab.scrRead 0 0x40 64)).map (fun t => s.fab.tilePresent t) = some false) := by decide +kernel
/-- The block of R237's example: 24, -4, 6 and -2 as signed integers under exponent 129. -/
def k4 : List Elt := [⟨12, 129, 0⟩, ⟨18, 129, 0⟩, ⟨3, 129, 0⟩, ⟨17, 129, 0⟩]
theorem witness_BlockUpdatesAndRounding : (4 = 4 ∨ 4 = 5) ∧ (5 = 4 ∨ 5 = 5) ∧ 0 < 1 ∧ 8 ∈ [7, 8, 9] ∧ k4 ≠ [] ∧ (∀ x ∈ k4, x.e = 129 ∧ x.mu ≤ 1) ∧
    (∀ y, some y ∈ k4.map some → y.mu ≤ 1) ∧ 129 ≠ 255 := by
  refine ⟨by decide, by decide, by decide, by decide, by decide, by decide, fun y hy => ?_, by decide⟩
  simp [k4] at hy; rcases hy with rfl | rfl | rfl | rfl <;> decide
/-- R237: the block times itself is 39.5. -/
theorem test_knot_block : blockUpdate none 8 8 129 0 k4 (k4.map some) = (0x421E0000, false) := by decide +kernel
/-- R238: 1.0 x 2.0 is added to 0.5, and infinity x 0 is the canonical NaN. -/
theorem test_float_block : blockUpdate none 1 1 0 0x3F000000 [⟨0x3F800000, 0, 0⟩] [some ⟨0x40000000, 0, 0⟩] = (0x40200000, false) ∧
    blockUpdate none 2 2 0 0 [⟨0x7C00, 0, 0⟩] [none] = (0x7FC00000, false) := by decide +kernel
/-- For the float blocks: one product of 1.0 and 2.0 in f32, as exact and as real numbers, under leading exponent 1. -/
theorem witness_FloatBlocks : ∃ (ps : List FVal) (zs : List ℝ),
    List.Forall₂ (fun (p : FVal × FVal) v => ExactProduct p.1 p.2 v) [(Fmt.f32.unpack 0x3F800000, Fmt.f32.unpack 0x40000000)] ps ∧ List.Forall₂ IsReal ps zs ∧
    (∃ z ∈ zs, (2 : ℝ) ^ (1 : ℤ) ≤ |z|) ∧ (∀ z ∈ zs, |z| < (2 : ℝ) ^ ((1 : ℤ) + 1)) ∧ (Fmt.f32.unpack 0x3F800000).isNan = false ∧ (Fmt.f32.unpack 0x40000000).isNan = false := by
  have h1 : Fmt.f32.unpack 0x3F800000 = .num false (2 ^ 23) (-23) := by decide
  have h2 : Fmt.f32.unpack 0x40000000 = .num false (2 ^ 23) (-22) := by decide
  refine ⟨[.num false (2 ^ 46) (-45)], [2], ?_, ?_, ⟨2, by simp, by norm_num⟩, by simp; norm_num, by decide, by decide⟩
  · rw [h1, h2]
    refine List.Forall₂.cons ⟨rfl, 1, 2, ?_, ?_, ?_⟩ List.Forall₂.nil <;> simp [IsReal] <;> norm_num
  · refine List.Forall₂.cons ?_ List.Forall₂.nil
    simp [IsReal]; norm_num
/-- A tile of `tiles` by the address of its descriptor. -/
def tile (a : Nat) : Tile := (Tile.parse 0 (tiles.fab.scrRead 0 a 64)).getD default
/-- Elements that an engine reads, where it reads them. -/
def readsElts (f : Fab) (t : Tile) : Option (List Nat) := match f.tileElts tiles.ctl 1 t with | .ok es _ => some (es.map (·.raw)) | _ => none
theorem witness_HigherOrder : readsElts tiles.fab (tile 0x280) = some [0x3F800000, 0x40000000, 0x40400000, 0x40800000] ∧ ((tile 0x280).fmt, (tile 0x240).fmt, sumRoutine.inp, sumRoutine.out) = (1, 1, 3, 3) ∧
    bodyOk sumRoutine.out sumRoutine.body = true ∧
    (match decode [0x01000900#32], decode [0x00200321#32, 0#32, 0#32] with | .ok i, .ok j => [i, j] == sumRoutine.body | _, _ => false) = true ∧
    ({ sumRoutine with inp := 6 } : Routine).enters (tile 0x280).fmt = false := by decide +kernel
/-- The sum of a row by the pairwise tree, 1 + 2 and 3 + 4, and left to right over one element; a NaN faults under the enable of invalid. -/
theorem test_fold : sumRoutine.fold 0 [(0x3F800000, 0, 0), (0x40000000, 0, 1), (0x40400000, 0, 2), (0x40800000, 0, 3)] = .value 0x41200000 ∧
    sumRoutine.fold 0 [] = .value 0x80000000 ∧ sumRoutine.fold 0x1F [(0x3F800000, 0, 0), (0x7F800001, 0, 1)] = .fault ⟨6, 0, some (0, 0), some 0⟩ := by decide +kernel
/-- The example under R343. -/
theorem test_merge : mergeRun sumRoutine 0 true 7 [(2, 0x3FC00000), (5, 0x40000000), (9, 0xBF000000)] [(5, 0xC0000000), (7, 0x40400000), (9, 0x3E800000)] 0 0 none none =
    ([(2, 0x3FC00000), (7, 0x40400000), (9, 0xBE800000)], none) ∧
    (mergeRun sumRoutine 0 false 7 [(2, 0x3FC00000), (5, 0x40000000), (9, 0xBF000000)] [(5, 0xC0000000), (7, 0x40400000), (6, 0x3E800000)] 0 0 none none).2 =
      some ⟨2, 0, some (0xFFFFFFFF, 2), none⟩ := by decide +kernel
/-- `tiles` with a merge control block at 0x4800 that gives two lengths. -/
def lengths (la lb : Nat) : Fab := tiles.fab.scrWrite tiles.ctl 0 0x4800 (leBytes 4 0 ++ leBytes 4 la ++ leBytes 4 lb ++ leBytes 4 0)
/-- Whether two lengths read from the control block pass the columns of the tile at 0x2C0, each and together, and the pairs that they name. -/
def merging (la lb : Nat) : Bool × Bool × Bool × Option (List (Nat × Nat) × List (Nat × Nat)) :=
  let t := tile 0x2C0
  match (lengths la lb).engRead tiles.ctl 0 1 1 0x4800 16 with
  | .ok c g =>
    let na := fieldAt c 4 4
    let nb := fieldAt c 8 4
    (decide (t.cols < na), decide (t.cols < nb), decide (t.cols < na + nb), match g.pairs tiles.ctl 1 t na with
      | .ok xs g1 => (match g1.pairs tiles.ctl 1 t nb with | .ok ys _ => some (xs, ys) | _ => none)
      | _ => none)
  | _ => (false, false, false, none)
theorem witness_MergeWrites : (merging 1 1 == (false, false, false, some ([(0, 0)], [(0, 0)]))) = true ∧ (merging 2 1 == (false, false, false, some ([(0, 0), (0, 0)], [(0, 0)]))) = true ∧
    (merging 5 1).1 = true ∧ (merging 1 5).1 = false ∧ (merging 1 5).2.1 = true ∧ (merging 4 1).2.2.1 = true ∧ (merging 4 1).1 = false ∧ (merging 4 1).2.1 = false ∧
    sumRoutine.apply 0 0 0 = .value 0 ∧ sumRoutine.apply 0x1F 0x7F800001 0 = .fault 6 0 := by decide +kernel
theorem witness_MatrixWrites : readsElts tiles.fab (tile 0x40) = some (2 :: List.replicate 127 0) ∧ readsElts tiles.fab (tile 0x80) = some (List.replicate 8 0) ∧
    (⟨true, 0, 4, 1, 16, [(0, 3)]⟩ : BSlot).valid = true ∧ BSlot.empty.valid = false ∧ readsElts tiles.fab (tile 0x300) = some (List.replicate 8 0) ∧
    isKnot (tile 0x140).fmt = false ∧ isKnot 8 = true ∧ retireFits (some sumRoutine) (tile 0x300) (some (tile 0x300)) 1 = true ∧
    retireFits (some sumRoutine) (tile 0x80) (some (tile 0x300)) 1 = false ∧ outPair 6 1 = true ∧ outPair 12 6 = true ∧ outPair 0 3 = true := by decide +kernel
theorem witness_TileElements : MemOk tiles.fab ∧ tiles.fab.copying = none ∧ (let t := tile 0x180
    t.as ∈ [1, 2] ∧ t.nsp = 0 ∧ t.fmt ∈ [0, 1, 2, 3, 4, 5, 6, 11] ∧ t.layout ≤ 2 ∧ t.lineBytes ≤ t.rstride ∧ tiles.fab.scrLoc t.core t.as (t.base.toNat % 2 ^ 32) = .scr 0 0x4000 ∧
    (tiles.fab.core 0).team.isSome = true ∧ t.base.toNat % 2 ^ 20 + (t.geometry.2 - 1) * t.rstride + (t.lineBytes + 255) / 256 * 256 ≤ 2 ^ 20 ∧ (3, 3) ∈ t.coords ∧
    (match tiles.fab.tileElt tiles.ctl 1 t (3, 3) with | .ok x _ => x == ⟨0, 0, 0⟩ | _ => false) = true ∧
    (match tiles.fab.tilePut tiles.ctl 1 t (3, 3) 7, tiles.fab.outPut tiles.ctl 1 t (3, 3) 7 with | .ok .., .ok .. => true | _, _ => false) = true) :=
  ⟨memOk_MemOk _ (by decide +kernel), by decide +kernel, by decide +kernel⟩
/-- The routine image of the spec's example (R338) at 0x14000. -/
def image : State := poke base 0x14000 ([0xC2, 0x33, 0, 0, 0, 0, 0, 0, 0, 0, 0, 0x80, 0, 0, 0, 0] ++ leBytes 4 0x01000900 ++ leBytes 12 0x200321)
/-- Lanes of a state with the pair v8, v9 at an address and v5 at a value. -/
def pairs (s : State) (a : Nat) (b : Word) : State := onGroup s (fun g => { g with
  lanes := g.lanes.map (fun x => { x with regs := [(5, raw b), (8, raw (BitVec.ofNat 32 a)), (9, raw (BitVec.ofNat 32 (a / 2 ^ 32)))] }) })
theorem witness_RoutineStore : ([(0x14000, 9), (0x14001, 9), (2 ^ 48, 9), (0x14000, 255), (0x14000, 256), (0x15000, 9)] : List (Nat × Word)).all (fun p =>
      issues (pairs image p.1 p.2) (.xr 0xC0 (xr 0 8 5 0 0)) gateMem) = true ∧
    (let s := pairs image 0x14000 9
     let i := entryOf s (.xr 0xC0 (xr 0 8 5 0 0))
     let r := (moved s (.xr 0xC0 (xr 0 8 5 0 0)) i).coreRead s.ctl 0 1 0x14000 16 .load
     (bytesOf r).bind routineHeader = some (2, { sumRoutine with handle := 0, body := [] }) ∧
     (match r.2.readBody s.ctl 0 1 2 0x14010 with
      | (.ok _, ws, _, _) => ws.mapM (fun w => (decode w).toOption) == some sumRoutine.body && bodyOk 3 sumRoutine.body
      | _ => false) = true ∧ routineHeader (leBytes 16 0) = none) ∧
    issues (pairs base 0 255) (.xr 0xC1 (xr 0 0 5 0 0)) noGate = true ∧ issues (pairs base 0 256) (.xr 0xC1 (xr 0 0 5 0 0)) noGate = true := by decide +kernel
theorem witness_RemoteOperationsEnter :
    (let s := pairs base (5 * 2 ^ 48 + 0x9000) 0
     issues s (.xm 0xA0 (xm 8 8 4 1 3 3 0 0 5)) gateRem = true ∧ issues s (.xm 0xA0 (xm 0 8 5 2 3 4 0 0 5)) gateRem = true ∧
     issues s (.xm 0xA1 (xm 4 8 0 0 3 3 0 0 0x2A)) gateRrd = true ∧ issues s (.xm 0xA2 (xm 0 8 5 0 3 2 0 0 1)) gateRem = true ∧
     issues s (.xm 0xA3 (xm 0 8 6 0 3 3 0 0 2)) gateRem = true ∧ issues (pairs base 0x9000 0) (.xm 0xA5 (xm 6 8 4 6 3 0 0 0 200)) gateRem = true ∧
     issues s (.xm 0xA6 (xm 3 8 5 1 3 0 0 0 7)) gateRem = true ∧ issues absent (.xm 0xA6 (off (xm 3 8 7 1 3 3 0 0 7) 0x9000)) gateRem = true ∧
     absent.fab.present 0 0 128 = false ∧
     (List.range 16).flatMap (fun l => peerFails (xm 8 8 4 1 3 3 0 0 5) (5 * 2 ^ 48 + 0x9000) 8 false l) = [] ∧
     stageTrap (peerFails (xm 8 8 4 1 3 3 0 0 5) (2 ^ 60) 8 false 3) ≠ none) ∧
    (let f := off (xm 0 8 12 0 0 3 0 0 0) 0x14000
     issues base (.xm 0xA4 f) gateMem = true ∧ reaches base 0xA4 f 8 8 .load = true) := by decide +kernel
theorem witness_RetireAndSendEnters : tilesRead tiles (.mretSendXt (xt 4 2 0 0 0 2 6 0 6)) = true ∧
    (let s := onGroup tiles (fun g => { g with lanes := g.lanes.map (fun x => { x with regs := [(2, raw 128), (4, raw 0x9000), (5, raw 0x10000000), (31, raw 1)] }) })
     tilesRead s (.mretSendXt (xt 4 2 0 0 0 2 6 0 6)) = true) := by decide +kernel

/-- Two core steps and two of the engine: the slot is built from v3, then (0, 0) of the accumulator gains 2 x 3. -/
theorem test_build_and_multiply : after (.bldXt (xt 0 3 0 0 0 0 0 3 0)) tiles (fun t => after (.mmaXt (xt 2 1 0 0 0 0 0 3 0)) t (fun u =>
    after (.matrixOpComplete 0) u (fun v => after (.matrixOpComplete 0) v (fun w => w.fab.scrRead 0 0x2000 8 == [6, 0, 0, 0, 0, 0, 0, 0])))) = true := by decide +kernel
/-- The inclusive scan of 1, 2, 3, 4 under the spec's example routine. -/
theorem test_scan : after (.scanXt (xt 13 10 0 0 0 0 0 9 0)) tiles (fun t => after (.matrixOpComplete 0) t (fun u => u.fab.scrRead 0 0x4600 16 ==
    leBytes 4 0x3F800000 ++ leBytes 4 0x40400000 ++ leBytes 4 0x40C00000 ++ leBytes 4 0x41200000)) = true := by decide +kernel
theorem test_copy : after (.cplXm { xm 0 5 6 0 1 2 0 0 0 with pred := ⟨false, true, 5⟩ }) (scr (regs base 0 [(5, raw 0x100), (6, raw 0x300)]) (cells [(0x100, 1), (0x101, 2), (0x102, 3), (0x103, 4)]))
    (fun t => after (.copySectorDeliver 0 0 0) t (fun u => u.fab.scrRead 0 0x300 5 == [1, 2, 3, 4, 0])) = true := by decide +kernel
theorem test_routine : after (.rdefXr (xr 0 8 5 0 0)) (pairs image 0x14000 9) (fun t => (t.fab.ctx? 1).map (·.routines) == some [sumRoutine]) = true := by decide +kernel

/-! ## Events of the module -/

/-- `State.reset` with a change to its control part. -/
def ctl (h : Ctl → Ctl) : State := { State.reset with ctl := h State.reset.ctl }
/-- A write of a device register by machine mode. -/
def wr (a : Addr) (v : DWord) : RegWrite := ⟨a, 8, v, .machine⟩
/-- The commands of KEYOP, HPSTAT and REPAIR that the witnesses write. -/
def keyOp (op k : Nat) : RegWrite := wr 0xF00000200040 (BitVec.ofNat 64 (op * 2 ^ 24 + k))
theorem witness_BoardEvents :
    (let s := onFab (ctl (fun c => { c with lowSince := some 5, coolantSince := some 5, bandSince := some 5, supply := 57000 })) (fun f => { f with time := 1000005 })
     s.ctl.lowSince = some 5 ∧ 5 + 1000000 ≤ s.fab.time.toNat ∧ Runs s ∧ s.ctl.bandSince = some 5 ∧ 56000 < s.ctl.supply) ∧
    (let s := onFab (ctl (fun c => { c with lowSince := some 5, coolantSince := some 5 })) (fun f => { f with time := 1000004 })
     s.ctl.lowSince = some 5 ∧ s.fab.time.toNat < 5 + 1000000) ∧
    (let s := onFab (ctl (fun c => { c with coolantSince := some 5 })) (fun f => { f with time := 100000005 })
     s.ctl.coolantSince = some 5 ∧ 5 + 100000000 ≤ s.fab.time.toNat ∧ Runs s) ∧ State.reset.ctl.powered = true ∧ Runs State.reset ∧ State.reset.ctl.comparedAt = none ∧
    ([1000007, 1000006] : List DWord).map (fun n =>
      let s := onFab (ctl (fun c => { c with comparedAt := some 7 })) (fun f => { f with time := n })
      (s.ctl.comparedAt, decide (7 + 1000000 ≤ s.fab.time.toNat))) = [(some 7, true), (some 7, false)] ∧
    ([(600000000007, true), (600000000006, false)] : List (DWord × Bool)).all (fun p =>
      let s := onFab (ctl (fun c => { c with flushedAt := 7 })) (fun f => { f with time := p.1 })
      decide (Runs s) && decide (s.ctl.flushedAt + 600000000000 ≤ (s.fab.time.toNat : Int)) == p.2 &&
        (match settleStep (.elapse 1) (.next s) with | .next _ => true | _ => false)) = true ∧
    ([1000000007, 1000000006] : List DWord).map (fun n => let s := onFab (ctl (fun c => { c with secondAt := 7 })) (fun f => { f with time := n })
      (decide (Runs s), decide (s.ctl.secondAt + 1000000000 ≤ (s.fab.time.toNat : Int)))) = [(true, true), (true, false)] := by decide +kernel
/-- One store to key 7 stands in a store queue. -/
def keyed : State :=
  onGroup base (fun g => { g with storeQ := [⟨1, 0x10000, 1, .store false, [⟨0, .glob 0x14000 0x10018014000 7 0 0, [1], []⟩]⟩] })
/-- A DMA write of 4 bytes by requester 1, whose PCKTAB entry names key 0, and a read. -/
def dmaReq (w : Bool) : DmaReq := ⟨0, 1, 0x10018100000, if w then some [1, 2, 3, 4] else none, 4⟩
theorem witness_RegisterWrites :
    Writes State.reset (wr 0xF00000302000 900) 0xF00000302000 ∧ privileged (wr 0xF00000302000 900).by_ = true ∧
    Writes State.reset { wr 0xF00000302000 900 with by_ := .user } 0xF00000302000 ∧ privileged Writer.user = false ∧
    regEvent (wr 0xF00000302000 900) ≠ .plain ∧ regEvent (wr 0xF00000300000 1) ≠ .cap ∧ (wr 0xF00000300000 0x1000).bytes = 8 ∧
    State.reset.hits (wr 0xF00000300000 0x1000) 0xF00000300000 = true ∧ State.reset.hits (wr 0xF00000300010 0x1000) 0xF00000300010 = true ∧
    State.reset.ctl.belled = false ∧ (ctl (fun c => { c with belled := true })).hits (wr 0xF00000300010 0x1000) 0xF00000300010 = true ∧
    State.reset.hits (wr 0xF00000100100 1) 0xF00000100100 = true ∧
    ([1, 2, 3] : List Nat).all (fun op => decide (Writes State.reset (keyOp op 7) 0xF00000200040) && (writeData (keyOp op 7)).toNat / 2 ^ 24 % 4 == op) = true ∧
    State.reset.ctl.kbusy = false ∧ State.reset.ctl.keyState 7 = .empty ∧ (ctl (fun c => { c with keys := [(7, (.loaded, 1))] })).ctl.keyState 7 = .loaded ∧
    (ctl (fun c => { c with kbusy := true, kid := 7, keys := [(7, (.retiring, 1))] })).ctl.kbusy = true ∧ State.reset.fab.keyInUse 7 = false ∧ keyed.fab.keyInUse 7 = true ∧
    Writes State.reset (wr 0xF00000300018 63) 0xF00000300018 ∧ State.reset.ctl.uzRuns = false ∧ (ctl (fun c => { c with scheduler := true })).ctl.uzRuns = true ∧
    (let s := ctl (fun c => { c with ports := c.ports.set 17 { Port.fresh with state := 2, lanes := 8 } })
     Writes s (wr 0xF00000401110 4) (0xF00000401000 + 16 * 17) ∧ Writes s (wr 0xF00000401110 2) (0xF00000401000 + 16 * 17) ∧
     s.ctl.ports[17]? = some { Port.fresh with state := 2, lanes := 8 }) ∧
    State.reset.ctl.pcktab.getLsbD 0 = false ∧ Runs State.reset ∧ (ctl (fun c => { c with shutdown := true })).ctl.runs = false ∧
    (let s := onFab (ctl (fun c => { c with pcktab := 0x10018000001 })) (fun f => { f with mem := [(0x10018000003, 0x80)] })
     s.dmaKey (dmaReq true).rid = (some 0, { s with fab := (s.dmaKey 1).2.fab }) ∧ (dmaReq true).write = some [1, 2, 3, 4] ∧ (dmaReq false).write = none ∧
     memRange 0x10018100000 4 = true ∧ s.ctl.keyRefused 0 = false ∧ (ctl (fun c => { c with keys := [(7, (.retiring, 1))] })).ctl.keyRefused 7 = true) := by decide +kernel
theorem witness_RegisterWrites_message : (let w : RegWrite := ⟨0xF00001001000, 4, 2047, .machine⟩
    imsicMessage w = some ((Config.imsicHart 1).val, ImsicFile.ofNumber (Config.imsicFile 1), 2047) ∧ State.reset.hits w (writeReg w) = true ∧ regEvent w = .plain) :=
  ⟨by simp [imsicMessage], by decide +kernel, by decide +kernel⟩
/-- A write of REPAIR: operation, kind and index. -/
def repair (op kind idx : Nat) : RegWrite := wr 0xF00000301000 (BitVec.ofNat 64 (op * 2 ^ 20 + kind * 2 ^ 26 + idx))
/-- A NOP of queue 4 that has been taken and waits, or that has started. -/
def nopCmd (started : Bool) : Cmd := ⟨3, 1, 4, 0, none, 0, [], ⟨4, 1, 0, 1, 0, 0, 0, 0, List.replicate 24 0⟩, started, false, 0, 0, none⟩
theorem witness_BootUpdateRepair : (48000 ≤ State.reset.ctl.supply ∧ State.reset.ctl.supply ≤ 56000) ∧ (ctl (fun c => { c with supply := 56001 })).ctl.supply > 56000 ∧
    State.reset.ctl.boot ≠ .failed ∧ (ctl (fun c => { c with boot := .failed })).ctl.boot = .failed ∧
    (let s := ctl (fun c => { c with scheduler := true })
     Writes s (wr 0xF00000300008 1) 0xF00000300008 ∧ s.ctl.scheduler = true ∧ s.ctl.uzBusy = false ∧ s.ctl.uzRuns = true) ∧
    (ctl (fun c => { c with updPhase := .verified, uzBusy := true })).ctl.repBusy = false ∧ (ctl (fun c => { c with updPhase := .verified, repBusy := true })).ctl.repBusy = true ∧
    ([nopCmd false, nopCmd true] : List Cmd).map (fun c => (onFab State.reset (fun f => { f with cmds := [c] })).fab.recordInHand) = [true, false] ∧
    ([(1, 0, 47), (1, 0, 48), (1, 1, 383), (2, 1, 383), (2, 1, 384), (3, 2, 17), (3, 2, 18), (3, 1, 0), (1, 2, 17), (2, 0, 5)] : List (Nat × Nat × Nat)).all (fun p =>
      let v := (writeData (repair p.1 p.2.1 p.2.2)).toNat
      decide (Writes State.reset (repair p.1 p.2.1 p.2.2) 0xF00000301000) && v / 2 ^ 20 % 4 == p.1 && v / 2 ^ 26 % 4 == p.2.1 && v % 65536 == p.2.2) = true ∧
    (List.range 48).all (fun m => m == 47 || (ctl (fun c => { c with retClu := 0x7FFFFFFFFFFF })).ctl.retClu.getLsbD m) = true ∧
    State.reset.ctl.retClu.getLsbD 0 = false ∧ State.reset.fab.downFree 47 = true ∧
    (onFab State.reset (fun f => { f with links := f.links.modify 47 (fun k => { k with downPermits := 0 }) })).fab.downFree 47 = false ∧
    State.reset.ctl.repairLimit 1 383 = false ∧
    State.reset.ctl.retSlc.getLsbD 383 = false ∧ (ctl (fun c => { c with retClu := 0x20 })).ctl.retClu.getLsbD 5 = true ∧ State.reset.ctl.ports.length = 18 ∧
    (let s := ctl (fun c => { c with repBusy := true, repStarted := true, repOp := 1, repKind := 1, repIndex := 383 })
     s.ctl.repBusy = true ∧ s.ctl.repStarted = true ∧ s.ctl.repIndex.toNat < 384) ∧
    (let s := ctl (fun c => { c with repBusy := true, repStarted := true, repOp := 1, repKind := 0, repIndex := 47 })
     s.ctl.repIndex.toNat < 48 ∧ s.fab.clusterEmpty 47 = true ∧ base.fab.clusterEmpty 0 = false) := by decide +kernel
/-- A paused update whose sealed table lies where the new kernel looks for it. -/
def paused (t : DWord) : State := onFab (ctl (fun c => { c with updPhase := .paused, updVer := 0 })) (fun f => { f with
  time := t, mem := Memory.writeBytes [] (tablePlace 0) (stateTableSealed 0) })
set_option maxRecDepth 2000 in
theorem paused_peek (t : DWord) (o n : Nat) (h : o + n ≤ 288) :
    (paused t).fab.peek (paused t).ctl 0 (tablePlace 0 + o) n = sliceBytes (stateTableSealed 0) o n := by
  apply List.ext_getElem
  · simp [Fab.peek, sliceBytes]
  · intro i h1 h2
    simp only [Fab.peek, List.length_map, List.length_range] at h1
    have hl : o + i < (stateTableSealed 0).length := by rw [stateTableSealed_length]; omega
    have hb : (paused t).fab.peekByte (paused t).ctl 0 (tablePlace 0 + o + i) = (Memory.writeBytes [] (tablePlace 0) (stateTableSealed 0)).read (tablePlace 0 + (o + i)) := by
      rw [← Nat.add_assoc]; rfl
    simp only [Fab.peek, sliceBytes, List.getElem_map, List.getElem_range, hb]
    rw [Memory.read_writeBytes _ _ _ rfl hl]
    rw [List.getD_eq_getElem?_getD, List.getElem?_eq_getElem hl, Option.getD_some]
/-- The new kernel that knows every entry and accepts the table declares itself alive until 150 µs have passed; one that does not know them
is as dead as one past that time. -/
theorem witness_updateDead : (paused 150001).updateDead = true ∧ ((∀ t v, Config.stateKnown 0 t v = true) → Config.kernelAccepts 0 = true →
    (paused 150000).updateDead = false) ∧ (Config.kernelAccepts 0 = false → (paused 0).updateDead = true) := by
  refine ⟨?_, fun hk ha => ?_, fun ha => ?_⟩
  · simp [State.updateDead, paused, onFab, ctl, State.reset, Ctl.reset]
  · have ht : (paused 150000).tableRefused = false := by
      unfold State.tableRefused
      rw [show (paused 150000).ctl.tableNo = 0 from rfl, tableTakes_congr 0 _ (sliceBytes (stateTableSealed 0)) (paused_peek _ 0 64 (by omega))
        (by rw [stateTableSealed_count]; exact paused_peek _ 0 288 (by omega)), tableTakes_sealed 0 hk ha]
      rfl
    rw [State.updateDead, ht]
    simp [paused, onFab, ctl, State.reset, Ctl.reset]
  · have ht : (paused 0).tableRefused = true := by
      unfold State.tableRefused
      rw [show (paused 0).ctl.tableNo = 0 from rfl]
      simp [tableTakes, ha]
    rw [State.updateDead, ht, Bool.true_or]
/-- A packet for device `dst` from device 5 on flow 1 of context 2. -/
def packet (dst : BitVec 12) (op : Byte) (seq : BitVec 32) : Packet := ⟨dst, 5, 3, 1, true, seq, op, 9, 0, 4, 2, 0, 0x1000, 0, 1, [1, 2, 3, 4]⟩
/-- A port that is up, with one unacknowledged flit that has been replayed `n` times, in a state that has a packet in transit from it. -/
def linked (n : Nat) : State :=
  let p : Port := { Port.fresh with state := 2, lanes := 8, txSeq := 1, sent := [⟨makeFlit 4 0 0 0 [], n, none⟩] }
  onFab (ctl (fun c => { c with ports := (c.ports.set 3 p).set 4 { p with sent := [] }, routes := [(7, 0x18)] })) (fun f => { f with arrived := [(3, packet 7 1 0)] })
theorem witness_LinkEvents_off : (ctl (fun c => { c with shutdown := true })).ctl.runs = false ∧ (ctl (fun c => { c with shutdown := true })).ctl.ports[17]? = some Port.fresh ∧
    (linked 0).ctl.runs = true ∧ (onFab (linked 0) (fun f => { f with outbox := [⟨none, some 4, packet 7 1 0⟩] })).fab.outbox.map (fun e => (e.only, e.came)) = [(none, some 4)] := by
  decide +kernel
theorem witness_LinkEvents : State.reset.ctl.ports[17]? = some Port.fresh ∧ Port.fresh.disable = false ∧ Port.fresh.state = 0 ∧
    ((ctl (fun c => { c with ports := c.ports.set 17 { Port.fresh with state := 1 } })).ctl.ports[17]?).map (fun x => (x.disable, x.state)) = some (false, 1) ∧
    ((linked 8).ctl.ports[3]?).map (fun x => (x.state, x.rxSeq, x.awaitReplay, x.disable, x.sent.any (fun q => decide (8 ≤ q.replays)))) = some (2, 0, false, false, true) ∧
    ((linked 7).ctl.ports[3]?).map (fun x => x.sent.all (fun q => decide (q.replays < 8))) = some true ∧
    ([(0, 4), (5, 0), (5, 3), (5, 4), (6, 15), (7, 0), (15, 0), (1, 0), (4, 3), (4, 4), (1, 15)] : List (BitVec 4 × BitVec 4)).all (fun k => let f := makeFlit k.1 k.2 0 0 []
      crc32c (flitBytes f) == f.crc && f.kind == k.1 && f.vc == k.2 && f.lseq == 0) = true ∧
    (let f := makeFlit 1 0 5 0 []
     crc32c (flitBytes f) = f.crc ∧ serialLt f.lseq 0 = false ∧ crc32c (flitBytes { f with crc := f.crc + 1 }) ≠ f.crc + 1) ∧
    (let f := makeFlit 1 0 0xFFF 0 []
     crc32c (flitBytes f) = f.crc ∧ serialLt f.lseq 0 = true) ∧
    (let k := parsePacket (makeFlit 4 0 0 0 (headerBytes (packet 0 3 0))).payload
     k.hops ≠ 0 ∧ packetOk k = true ∧ (linked 0).ctl.mine k = true) ∧
    ([0, 1, 2] : List Nat).map (fun n => ((ctl (fun c => { c with ports := c.ports.set 3 { Port.fresh with state := 3, failedRetrains := n } })).ctl.ports[3]?).map
      (fun x => (x.state, decide (x.failedRetrains < 2)))) = [some (3, true), some (3, true), some (3, false)] ∧
    (linked 0).fab.arrived[0]? = some (3, packet 7 1 0) ∧ (linked 0).ctl.mine (packet 7 1 0) = false ∧ ((linked 0).ctl.mask 7).filter (fun n => n != 3) = [4] ∧
    ((linked 0).ctl.mask 8).filter (fun n => n != 3) = [] ∧
    ((linked 0).ctl.ports[4]?).map (fun y => y.takes { packet 7 1 0 with hops := 2 }) = some true ∧ (5 : BitVec 32) ∉ Port.fresh.groups ∧ Port.fresh.groups.length < 1024 := by
  decide +kernel
/-- A packet has arrived for this device, whose flow expects number 5 and has rejected number 3. -/
def arrived (op : Byte) (seq : BitVec 32) : State :=
  let mine : SentPacket := ⟨1, { packet 5 1 8 with src := 0, sctx := 2 }, 0, 1980000, none, false, none⟩
  onFab State.reset (fun f => { f with arrived := [(0, packet 0 op seq)], recvFlows := [⟨5, 2, 1, 5, [], [], [(3, 1)]⟩], time := 2000000, sent := [mine] })
/-- `arrived` with an import table at 0x10018800000 whose entry 9 is a live one for context 1, which lies with its grid pre-empted and not
resident where `off` is set. -/
def imported (op : Byte) (seq : BitVec 32) (off : Bool) : State :=
  let gs := if off then base.fab.grids.map (fun g => { g with preempted := true }) else []
  let s := onFab (arrived op seq) (fun f => { f with mem := f.mem.writeBytes 0x10018800048 (leBytes 8 (1 + 2 ^ 24)), ctxs := base.fab.ctxs, grids := gs })
  { s with ctl := { s.ctl with himpbase := 0x10018800001 } }
/-- `base` with context 1's incumbent 15 linked to group 5 of its multicast table at 0x14000 under number 4, whose header names two members (the
first, at 0x14100, is handle 9 of device 7, which port 3 reaches; the second is not live), and an offer due since `at_`. -/
def offering (due : Bool) (at_ : Option Nat) (now : DWord) (tab : DWord) : State :=
  let s := poke (poke base 0x14050 (leBytes 8 (2 + 2 ^ 16) ++ leBytes 8 0x14100)) 0x14100 (leBytes 8 (7 + 9 * 2 ^ 12 + 2 ^ 32) ++ leBytes 8 7)
  let s := onCtx s (fun c => { c with mcastT := tab, incLink := c.incLink.set 15 0x8405, incMod := c.incMod.set 15 7, offerDue := c.offerDue.set 15 due, offerAt := c.offerAt.set 15 at_ })
  { onFab s (fun f => { f with time := now }) with ctl := (linked 0).ctl }
theorem witness_PacketEvents : ([4, 5, 6, 0x80000005, 3] : List (BitVec 32)).all (fun q =>
      (arrived 1 q).fab.arrived[0]? == some (0, packet 0 1 q) && (arrived 1 q).ctl.mine (packet 0 1 q) && ((arrived 1 q).fab.recvFlow (packet 0 1 q)).next == 5) = true ∧
    isRequest 1 = true ∧ (0x80000005 : BitVec 32) - 5 = 2 ^ 31 ∧ serialLt (4 : BitVec 32) 5 = true ∧ serialLt (3 : BitVec 32) 5 = true ∧ serialLt (6 : BitVec 32) 5 = false ∧
    (arrived 1 4).fab.openSeqs (packet 0 1 4) = [] ∧ ((arrived 1 4).fab.recvFlow (packet 0 1 4)).rejected.find? (fun r => r.1 == 3) = some (3, 1) ∧
    (arrived 1 6).fab.reorderUsed (homeDie 5 2 1) < 4096 ∧ (arrived 1 5).fab.importEntry State.reset.ctl 9 = none ∧
    (arrived 0x0A 8).fab.arrived[0]? = some (0, packet 0 0x0A 8) ∧ (arrived 0x0A 8).fab.sent.all (fun y => y.owner == none) = true ∧
    ((arrived 0x0B 8).fab.sent.find? (fun y => !y.waiting && y.pk.sctx == 2 && y.pk.dst == 5 && y.pk.flow == 1 && y.pk.seq == 8)).isSome = true ∧
    ((arrived 1 5).fab.sent.map (fun y => (y.waiting, y.lastAt + 20000, y.firstAt + 2000000, (arrived 1 5).fab.time.toNat))) = [(false, 2000000, 2000000, 2000000)] ∧
    ((onFab (arrived 1 5) (fun f => { f with time := 1999999 })).fab.time.toNat < 1980000 + 20000) ∧
    (imported 9 0 false).fab.importEntry (imported 9 0 false).ctl 9 = some (1, 0) ∧ (imported 9 0 false).fab.descheduled 1 = false ∧
    (imported 9 0 true).fab.importEntry (imported 9 0 true).ctl 9 = some (1, 0) ∧ (imported 9 0 true).fab.descheduled 1 = true ∧
    ((imported 9 0 true).fab.park (imported 9 0 true).ctl 1 0 (packet 0 9 0) none).1 = true := by decide +kernel
/-- `arrived` for a packet of a number on an unordered flow that has decided 6 and 7 of those after the next, 5. -/
def loose (seq : BitVec 32) : State := onFab (arrived 1 seq) (fun f => { f with arrived := [(0, { packet 0 1 seq with ord := false })], recvFlows := [⟨5, 2, 1, 5, [], [6, 7], [(3, 1)]⟩] })
theorem witness_PacketEvents_unordered : ([(5, [5, 6, 7], 8), (9, [], 5), (6, [6, 7], 5)] : List (BitVec 32 × List (BitVec 32) × BitVec 32)).all (fun p =>
      let x := (loose p.1).fab.recvFlow { packet 0 1 p.1 with ord := false }
      x.next == 5 && decide x.decided.Nodup && !serialLt p.1 x.next && p.1 - x.next != 2 ^ 31 && x.decided.contains p.1 == (p.1 == 6) &&
        (List.range p.2.1.length).all (fun m => (x.decided ++ [p.1]).contains (x.next + BitVec.ofNat 32 m)) == (p.1 != 6) &&
        !(x.decided ++ [p.1]).contains p.2.2) = true := by decide +kernel
theorem witness_PacketEvents_offers : (base.fab.ctx? 1).map (fun c => (c.offerDue.getD 15 false, c.linked 15)) = some (false, false) ∧
    ([(999, 999), (1000, 1000)] : List (Nat × DWord)).map (fun n => ((offering true (some 0) n.2 0x14000).fab.ctx? 1).map (fun c =>
      (c.ended, c.offerDue.getD 15 false, c.offerAt.getD 15 none, decide (0 + 1000 ≤ (offering true (some 0) n.2 0x14000).fab.time.toNat)))) =
      [some (false, true, some 0, false), some (false, true, some 0, true)] ∧
    ((offering true none 1000 0x14000).fab.ctx? 1).map (fun c => (c.offerDue.getD 15 false, c.offerAt.getD 15 none, (c.incLink.getD 15 0).toNat)) = some (true, none, 0x8405) ∧
    (let s := offering true none 1000 0x14000
     ((s.fab.ctxRead s.ctl 1 0x14050 16).1.map (fun b => (fieldAt b 0 8, fieldAt b 8 8))) = some (2 + 2 ^ 16, 0x14100) ∧
     (s.fab.ctxRead s.ctl 1 0x20050 16).1 = none ∧ (s.fab.ctxRead s.ctl 1 0x14100 8).1.map leNat = some (7 + 9 * 2 ^ 12 + 2 ^ 32) ∧
     (s.fab.ctxRead s.ctl 1 0x14108 8).1.map leNat = some 7 ∧ s.ctl.reaches 7 = true ∧ s.ctl.reaches 8 = false) := by decide +kernel
/-- Uzoman runs, with a loaded context, one command of a code and operands, and event queue 0. -/
def command (op : Byte) (ctx : BitVec 16) (opnd : List Byte) (flags : Byte := 0) : State :=
  let c : Cmd := ⟨3, 1, 4, 0, none, 0, [], ⟨4, op, flags, ctx, 0x14000, 0, 0, 0, opnd ++ List.replicate (24 - opnd.length) 0⟩, false, false, 0, 0, none⟩
  { onFab base (fun f => { f with cmds := [c], queues := [(0, ⟨true, true, 4, 0, 0, 1, 0x10018000000, 0x10018001000, false, 0, 0⟩)] }) with
    ctl := { State.reset.ctl with scheduler := true } }
/-- What decides a command: whether it may start, and its verdict. -/
def decides (s : State) : Option (Bool × Nat) := (s.fab.cmd? 3).map (fun c => (s.fab.startable c, s.fab.verdict c.rec_))
/-- A PREEMPT, to the image address 0x15000, of record 9 of queue 2: a RESUME of the image at 0x16000, started as the command of the loaded grid
or not; `permits` are those of cluster 0's link. -/
def preempting (started : Bool) (permits : Nat) : State :=
  let y : Cmd := ⟨0, 2, 9, 0, none, 0, [], ⟨9, 4, 0, 1, 0, 0, 0, 0, leBytes 8 0x16000 ++ List.replicate 16 0⟩, started, true, 0, 0, none⟩
  onFab (command 5 1 (leBytes 4 2 ++ leBytes 4 9 ++ leBytes 8 0x15000)) (fun f => { f with cmds := f.cmds ++ [y], links := f.links.modify 0 (fun k => { k with downPermits := permits }) })
/-- A full resume image for one team of one group of 16 lanes, with no team record, or one that only launches. -/
def imageBytes (kind : Nat) : List Byte :=
  leBytes 4 0x57465249 ++ leBytes 4 kind ++ leBytes 8 0x10000 ++ leBytes 8 0x10000 ++ leBytes 8 (16 + 2 ^ 16 + 16 * 2 ^ 34 + 2 ^ 44) ++ leBytes 4 0 ++ leBytes 4 1 ++
    List.replicate 216 0
theorem witness_resume_image : (ImgHead.parse (imageBytes 1)).ok (imageBytes 1) = true ∧ (ImgHead.parse (imageBytes 1)).full = false ∧
    (ImgHead.parse (imageBytes 2)).ok (imageBytes 2) = true ∧ (ImgHead.parse (imageBytes 2)).full = true := by decide +kernel
theorem witness_CommandEvents : ([1, 3, 4, 5, 6, 7, 8] : List Byte).all (fun op => decides (command op 1 []) == some (true, 0) && (command op 1 []).ctl.uzRuns) = true ∧
    decides (command 2 2 (leBytes 8 0x10018002000)) = some (true, 0) ∧ decides (command 1 5 []) = some (true, 2) ∧ (command 2 2 []).fab.ctx? 2 = none ∧
    (command 2 1 []).fab.ctx? 1 ≠ none ∧ decides (command 2 1 []) = some (true, 0) ∧
    memRange 0x10018002000 512 = true ∧ memRange 0x10018001FFF 0 = true ∧ memRange 0xF00000000000 512 = false ∧
    (let s := onFab (command 2 2 (leBytes 8 0x10018002000)) (fun f => { f with mem := f.mem.writeBytes 0x10018002000 [0, 0, 1, 0, 1, 0, 0, 16] })
     let b := (s.fab.agentRead s.ctl 0 0x10018002000 512).1
     (Ctx.ofBytes 2 b).acceptable = true ∧ (s.fab.readDesc s.ctl (Ctx.ofBytes 2 b).evq).eventQueue (Ctx.ofBytes 2 b).evq = true) := by decide +kernel
theorem witness_CommandEvents_resume :
    (let s := command 4 1 (leBytes 8 0x14000)
     (s.fab.ctxRead s.ctl 1 0x14000 256).1 = some (List.replicate 256 0) ∧ (ImgHead.parse (List.replicate 256 0)).ok (List.replicate 256 0) = false ∧
     (s.fab.ctxRead s.ctl 1 0x20000 256).1 = none ∧ ((poke s 0x14000 (imageBytes 1)).fab.ctxRead s.ctl 1 0x14000 256).1 = some (imageBytes 1)) ∧
    ([(0x14001, 1), (0x14000, 0), (0x14000, 4096), (0x14000, 4097)] : List (Nat × Nat)).all (fun p => ((command 6 1 (leBytes 8 p.1 ++ leBytes 2 p.2)).fab.cmd? 3).any (fun c =>
      fieldAt c.rec_.opnd 0 8 == p.1 && fieldAt c.rec_.opnd 8 2 == p.2 && decide (c.depth < 4) && c.chain.isEmpty)) = true ∧
    ([(4, []), (1, [(0x14FC0, 64)]), (1, [(0x13FC0, 65)])] : List (Nat × List (Nat × Nat))).all (fun p =>
      let s := onFab (command 6 1 (leBytes 8 0x14000 ++ leBytes 2 64)) (fun f => { f with cmds := f.cmds.map (fun c => { c with depth := p.1, chain := p.2 }) })
      (s.fab.cmd? 3).any (fun c => decide (4 ≤ c.depth) || c.chain.any (fun r => decide (r.1 < 0x14000 + 64 * 64) && decide (0x14000 < r.1 + r.2)))) = true := by decide +kernel
/-- The semaphore of a waiting command lies where no page is mapped. -/
def unready : State := onFab (command 1 1 [] 2) (fun f => { f with cmds := f.cmds.map (fun c => { c with rec_ := { c.rec_ with waddr := 0x20000 } }) })
/-- A command of a buffer whose CALL, command 7, has failed. -/
def orphan : State := onFab (command 1 1 []) (fun f =>
  { f with cmds := f.cmds.map (fun c => { c with parent := some 7, depth := 1 }) ++ [{ nopCmd true with id := 7, failed := some (2, [0]) }] })
theorem witness_CommandEvents_queues :
    (let s := command 1 1 [] 2
     ((s.fab.cmd? 3).map (fun c => (s.fab.inOrder c, c.semOk, (s.fab.semRead s.ctl c.rec_).1)) = some (true, false, some 0))) ∧
    ((unready.fab.cmd? 3).map (fun c => (unready.fab.inOrder c, unready.fab.verdict c.rec_, c.semOk, (unready.fab.semRead unready.ctl c.rec_).1)) =
      some (true, 0, false, none)) ∧
    ((orphan.fab.cmd? 3).bind (·.parent)).bind (fun p => (orphan.fab.cmd? p).map (·.failed)) = some (some (2, [0])) := by decide +kernel
theorem witness_CommandEvents_events :
    (let d : UzQueue := ⟨true, true, 4, 0, 0, 1, 0x10018000000, 0x10018001000, false, 0, 0⟩
     Table.get? (command 1 1 []).fab.queues 0 = some d ∧ (command 1 1 []).fab.queueRoom State.reset.ctl d = true ∧
     (command 1 1 []).fab.queueRoom State.reset.ctl { d with last := 16 } = false ∧ (command 1 1 []).fab.posts = [] ∧
     (onFab (command 1 1 []) (fun f => { f with posts := [⟨0, [], none⟩] })).fab.posts.map (fun p => (p.queue, p.irq)) = [(0, none)]) := by decide +kernel
theorem witness_CommandEvents_preempt : ((command 5 1 []).fab.cmd? 3).bind (command 5 1 []).fab.named = none ∧
    (((command 5 1 (leBytes 4 1 ++ leBytes 4 4)).fab.cmd? 3).bind (command 5 1 (leBytes 4 1 ++ leBytes 4 4)).fab.named).map (·.rec_.op) = some 5 ∧
    ([true, false] : List Bool).all (fun b => decides (preempting b 1) == some (true, 0) &&
      (((preempting b 1).fab.cmd? 3).bind (preempting b 1).fab.named).map (fun y => (y.id, y.rec_.op, y.started)) == some (0, 4, b)) = true := by decide +kernel
theorem witness_CommandEvents_running :
    ([0, 1] : List Nat).all (fun n => let f := (preempting true n).fab
      (f.grids.find? (fun g => g.cmd == 0 && !g.ended)).any (fun g => g.id == 1 && g.preempt.isNone && f.clustersOf g.id == [0]) && f.downFree 0 == (n == 1)) = true ∧
    (let f := (onFab (preempting true 1) (fun f => { f with cores := [] })).fab
     f.clustersOf 1 = []) ∧
    (onGrid (preempting true 1) (fun g => { g with ended := true })).fab.grids.all (fun g => g.ended) = true ∧
    (let s := poke (preempting false 1) 0x16000 (imageBytes 2)
     (s.fab.ctxRead s.ctl 1 0x16000 256).1 = some (imageBytes 2) ∧ (s.fab.ctxWrite s.ctl 1 0x15000 (imageBytes 2)).1 = true) := by decide +kernel
/-- A REPLY with RESULT 5 to token 6, which lane 2 of the group waits for. -/
def replying : State := onFab (command 7 1 (leBytes 4 6 ++ leBytes 4 5)) (fun f => f.modLane 0 0 2 (fun x => { x with park := some (.syscall (some 6) []), parkNext := 0x10040 }))
theorem witness_CommandEvents_reply : (command 7 1 []).fab.tokenLane 1 0 = none ∧ decides replying = some (true, 0) ∧ replying.fab.tokenLane 1 6 = some (0, 0, 2) ∧
    (groupAt replying 0 0).map (·.trap) = some none ∧
    (let s := onGroup replying (fun g => { g with trap := some ⟨4, 0, 0x18000⟩ })
     decides s = some (true, 0) ∧ s.fab.tokenLane 1 6 = some (0, 0, 2) ∧ (groupAt s 0 0).map (fun g => g.trap.map (fun x => x.handlers.getLsbD 2)) = some (some true)) ∧
    ((command 7 1 (leBytes 4 6)).fab.ctx? 1).map (·.stale) = some [] ∧
    ((onCtx (command 7 1 (leBytes 4 6)) (fun c => { c with stale := [6] })).fab.ctx? 1).map (·.stale) = some [6] := by decide +kernel
/-- A message of the loaded grid. -/
def lanyardMsg (type : Byte) : LanyardMsg := ⟨type, 1, 1, 0, 1, 0, 1, 0, 1, type == 0x06⟩
/-- A lanyard link `cl` with a message at the head of each direction, permits of the leaf controller, messages held and 2 permits owed each way. -/
def lanyard (cl : Nat) (down up : Byte) (permits : Nat := 16) (held : List LanyardMsg := []) : State :=
  let k : Lanyard := ⟨[lanyardMsg down], [lanyardMsg up], 16, permits, 2, 2, 0, 0, held⟩
  { onFab base (fun f => { f with time := 1000, links := f.links.set cl k }) with ctl := { State.reset.ctl with scheduler := true } }
/-- What a lanyard witness is about: the types at the heads of a link, whether a permit is free or will be, whether nothing is held. -/
def heads (s : State) (cl : Nat) : Option (List Byte × List Byte × Bool × Bool) :=
  (s.fab.links[cl]?).map (fun k => (k.down.map (·.type), k.up.map (·.type), decide (k.upPermits + 1 ≠ 0), k.held.isEmpty))
/-- The loaded grid has a hitch in the queue, and grid 2, of `n` cores a hitch, one before it; clusters from 1 on are retired. -/
def placing (n : Nat) : State :=
  let s := onFab base (fun f => { f with placement := [⟨2, 0, false⟩, ⟨1, 0, false⟩], grids := f.grids ++ f.grids.map (fun g => { g with id := 2, hitch := n }) })
  { s with ctl := { State.reset.ctl with scheduler := true, retClu := 0xFFFFFFFFFFFE } }
theorem witness_SchedulerEvents_placement : (lanyard 1 1 2).ctl.uzRuns = true ∧ (lanyard 1 1 2).fab.placement = [] ∧
    (placing 7).fab.clusterFor (placing 7).ctl 7 = some 0 ∧ (placing 8).fab.clusterFor (placing 8).ctl 8 = none ∧ (placing 8).fab.clusterFor (placing 8).ctl 1 = some 0 ∧
    ((placing 8).fab.grid? 1).map (fun g => (g.hitchOver 0, g.hitch, g.nteams)) = some (false, 1, 1) ∧ ((placing 8).fab.grid? 2).map (·.hitchOver 0) = some false ∧
    (placing 8).fab.downFree 0 = true ∧ ((placing 8).fab.grid? 1).map (·.placeable 0) = some true ∧ ((placing 8).fab.grid? 2).map (·.placeable 0) = some true ∧
    ((onGrid (placing 1) (fun g => { g with saved := [(0, { loadTeam with groups := loadTeam.groups.map (fun y => { y with r := 200000 }) })] })).fab.grid? 1).map (fun g => (g.hitchOver 0, g.placeable 0)) = some (false, false) ∧
    (let s := onGrid (placing 1) (fun g => { g with saved := [(0, { loadTeam with exited := true })] })
     (s.fab.grid? 2).map (·.hitchOver 0) = some true) := by decide +kernel
theorem witness_SchedulerEvents_down : ([1, 4, 6, 7, 8, 0] : List Byte).all (fun t => heads (lanyard 1 t 2) 1 == some ([t], [2], true, true)) = true ∧
    heads (lanyard 0 4 2 16 [lanyardMsg 1]) 0 = some ([4], [2], true, false) ∧
    ((lanyard 1 1 2).fab.grid? 1).map (fun g => (g.ended, g.hitch, g.preempt.isNone)) = some (false, 1, true) ∧
    ((lanyard 1 1 2).fab.freeCores (lanyard 1 1 2).ctl 1).length = 8 ∧
    (let s := { lanyard 1 1 2 with ctl := { State.reset.ctl with scheduler := true, retClu := 2 } }
     (s.fab.freeCores s.ctl 1).length = 0) ∧
    (teamAt (lanyard 0 4 2) 0).map (fun x => (x.grid, x.mates, x.exited)) = some (1, [0], false) ∧
    (List.range 8).all (fun j => (teamAt (lanyard 1 4 2) (8 + j)).isNone) = true := by decide +kernel
theorem witness_SchedulerEvents_up : ([2, 3, 5, 7, 8, 0] : List Byte).all (fun t => heads (lanyard 1 1 t) 1 == some ([1], [t], true, true) && (lanyard 1 1 t).ctl.uzRuns) = true ∧
    (teamAt (lanyard 0 1 3) 0).map (fun x => (x.grid, x.index - x.j)) = some (1, 0) ∧ ((lanyard 0 1 5).fab.grid? 2).isNone = true ∧
    ((onGrid (lanyard 0 1 5) (fun g => { g with ended := true })).fab.grid? 1).map (·.ended) = some true ∧
    ([[0], [0, 1], []] : List (List Nat)).all (fun asked => let s := onGrid (lanyard 0 1 5) (fun g => { g with preempt := some (3, 0x15000, asked) })
      (s.fab.grid? 1).map (fun g => (g.ended, g.preempt)) == some (false, some (3, 0x15000, asked))) = true ∧
    (let f := (onGrid (preempting true 1) (fun g => { g with preempt := some (3, 0x15000, []) })).fab
     let h : Fab := { f with cores := [] }
     (h.grid? 1).map (·.preempt) = some (some (3, 0x15000, [])) ∧ h.anyResident 1 = false ∧ h.underway 1 = false ∧ (h.cmd? 3).isSome = true) ∧
    ((lanyard 1 7 7).fab.links[1]?).map (fun k => (k.owedUp, k.owedUpAt + 1000, k.owedDown, k.owedDownAt + 1000, (lanyard 1 7 7).fab.time.toNat)) = some (2, 1000, 2, 1000, 1000) := by
  decide +kernel
/-- The group of `base` asked to stop for a PREEMPT. -/
def stopping (h : Group → Group) : State := onGroup base (fun g => { h g with stop := some .preempt })
theorem witness_GroupEvents_stop : (groupAt base 0 0).map (fun g => (g.stop, g.stopped, g.ended, base.fab.quiet 0 g)) = some (none, false, false, true) ∧ (teamAt base 0).isSome = true := by decide +kernel
theorem witness_GroupEvents_ended :
    (groupAt (onGroup base (fun g => { g with storeQ := [⟨0, 0x10000, 1, .barv, []⟩] })) 0 0).map (fun g => (g.stopped, g.ended, base.fab.quiet 0 g)) = some (false, false, false) ∧
    (groupAt (onGroup base (fun g => { g with lanes := g.lanes.map (fun x => { x with status := .exited }) })) 0 0).map (·.ended) = some true ∧
    (groupAt (stopping (fun g => { g with stopped := true })) 0 0).map (·.stopped) = some true ∧
    (groupAt (stopping id) 0 0).map (fun g => (g.stopped, g.ended, g.stop, (stopping id).fab.quiet 0 g, g.undel)) = some (false, false, some .preempt, true, []) := by decide +kernel
theorem witness_GroupEvents_undelivered :
    (let s := stopping (fun g => { g with gcw := 0x10, undel := [.neg 0 1 2 1], issuedCl := 1, nextSeq := 1 })
     (groupAt s 0 0).any (fun g => !g.stopped && !g.ended && s.fab.quiet 0 g && g.undelivered == some (.neg 0 1 2 1) && g.roused.frontier == some (List.range 16, 0x10000)) = true) := by decide +kernel
theorem witness_GroupEvents_time : (let s := stopping (fun g => { g with undel := [.held 0 2 0 1 default] })
     (groupAt s 0 0).any (fun g => !g.stopped && !g.ended && s.fab.quiet 0 g && g.ringOwed && decide ((g.undel.filter Undel.inRing).length < 64) && g.roused.frontier.isSome) = true) ∧
    (groupAt (stopping (fun g => { g with gcw := 0x10, undel := [.neg 0 1 2 1], issuedCl := 1, nextSeq := 1 })) 0 0).map (·.ringOwed) = some false ∧ base.fab.pick ≠ none ∧
    (teamAt base 0).any (fun t => (groupAt base 0 0).any (fun g => base.fab.ready 0 t g)) = true ∧
    (let s := onFab (onGroup base (fun g => { g with hold := some (.sleep 1 0x10000 1000) })) (fun f => { f with time := 2000 })
     (groupAt s 0 0).map (·.hold) = some (some (.sleep 1 0x10000 1000)) ∧ s.fab.time.toNat ≤ 1000 + 1000) := by decide +kernel
theorem witness_GroupEvents_saved :
    (let f := (onGroup base (fun g => { g with stopped := true })).fab
     ((f.core 0).team.map (fun t => (f.hitchStopped t, t.mates))) = some (true, [0]) ∧ f.upFree 0 = true ∧
     ((base.fab.core 0).team.map (fun t => base.fab.hitchStopped t)) = some false ∧
     ({ f with links := f.links.modify 0 (fun k => { k with upPermits := 0 }) } : Fab).upFree 0 = false ∧ f.grids.map (·.id) = [1]) := by decide +kernel
/-- Lane 2 waits for a request of `syscall` with token 6 to be posted to a queue of two entries at 0x14000, which holds `n`. -/
def calling (n : Nat) : State :=
  let s := poke base 0x14000 (leBytes 8 0x15000 ++ leBytes 8 0x81 ++ leBytes 4 0 ++ leBytes 4 n)
  let s := onCtx s (fun c => { c with sysQ := 0x14000 })
  onLane s 2 (fun x => { x with park := some (.syscall none (leBytes 64 6)) })
theorem witness_GroupEvents_holds : (groupAt base 0 0).map (fun g => (g.malformed, g.lanes.all (fun x => x.park.isNone))) = some (0, true) ∧
    (groupAt (onGroup base (fun g => { g with malformed := 1 })) 0 0).map (fun g => (g.malformed, g.pendTrap, g.hold)) = some (1, none, none) ∧
    (groupAt (onGroup base (fun g => { g with malformed := 6, malformedWords := [(2, 8), (1, 4)], hold := some (.wait 1 0x10000 ⟨0, 15, 15, 31, 31⟩) })) 0 0).map
      (fun g => (g.malformed, g.pendTrap, g.hold)) = some (6, none, some (.wait 1 0x10000 ⟨0, 15, 15, 31, 31⟩)) ∧
    (groupAt (onGroup base (fun g => { g with hold := some (.sleep 1 0x10000 1000) })) 0 0).map (·.hold) = some (some (.sleep 1 0x10000 1000)) ∧
    (let s := onFab (onGroup base (fun g => { g with r := 8, hold := some (.grow 1 1 0x10000 16) })) (fun f => f.setCore 0 { f.core 0 with regQueue := [⟨0, 128, false⟩] })
     (s.fab.core 0).regQueue = [⟨0, 128, false⟩] ∧ 128 ≤ s.fab.freeRegs 0 ∧ (groupAt s 0 0).map (·.hold) = some (some (.grow 1 1 0x10000 16))) ∧
    (([1, 2] : List Nat).all (fun n => let s := calling n
      ((groupAt s 0 0).bind (fun g => g.lanes[2]?)).map (·.park) == some (some (.syscall none (leBytes 64 6))) && (s.fab.ctx? 1).map (·.id) == some 1 &&
      (let r := s.fab.enqueueVa s.ctl 1 0x14000 (leBytes 64 6); (r.1 == if n = 1 then .ok else .full) && r.2.cores == s.fab.cores)) = true) := by decide +kernel
/-- A ring packet from stop 1, where it has stood since ac 0, to stop 2, or there. -/
def ringing (stop : Nat) (now : Nat) : State := onFab base (fun f => { f with ac := now, ring := [⟨1, 2, 1, 0, false, 0, .reply (⟨some 0, 0, 1, 0, 0, 0x10018000000, 4, none⟩) [], stop, 0, true, 0, false⟩] })
/-- `base` with incumbent 15 of core 383, of replica 47 and of replica 49 at the largest value, and of the module at the smallest. -/
def propagating : State := onFab (onCtx base (fun c => { c with incMod := c.incMod.set 15 0 })) (fun f => { f with
  replicas := [(47, [(31, 0x7FFFFFFFFFFFFFFF)]), (49, [(31, 0x7FFFFFFFFFFFFFFF)])] })
theorem witness_GroupEvents_stages : (propagating.fab.ctx? 1).map (fun x => (x.improves 15 0 (propagating.fab.replica 47 1 15), x.improves 15 0x7FFFFFFFFFFFFFFF 0)) =
      some (true, false) ∧
    (List.range 8).all (fun j => (teamAt base (8 * 47 + j)).isNone) = true ∧ (teamAt base 0).any (fun t => t.groups.all (fun g => g.lanes.all (fun y => y.bound.isNone))) = true := by
  decide +kernel
theorem witness_GroupEvents_ring : ([(1, 64), (1, 63), (2, 64)] : List (Nat × Nat)).all (fun p =>
      ((ringing p.1 p.2).fab.ring[0]?).any (fun x => x.stop == p.1 && x.dst == 2 && decide (x.since + 64 ≤ (ringing p.1 p.2).fab.ac) == (p.2 == 64))) = true ∧
    (base.fab.ctx? 1).map (fun x => x.improves 15 (base.fab.coreInc 383 1 15) (base.fab.replica 47 1 15)) = some false := by decide +kernel
/-- A slice request of core 0's group 0 for 4 bytes, and the state's copy of core 0's map, of generation `n`, with every slice in service. -/
def sliceReq (home : BitVec 4) (w : Option (List Byte)) : SliceReq := ⟨some 0, 0, 1, home, 0, 0x10018000000, 4, w⟩
/-- `base` with slice 8 of each die retired or not, context 1's map at generation 1, and core 0's copy of it at generation 0 or 1. -/
def mapped (out : BitVec 384) (gen : BitVec 16) : State :=
  { onFab (onCtx base (fun c => { c with gen := 1 })) (fun f => f.setCore 0 { f.core 0 with maps := [(1, ⟨gen, 0⟩)] }) with ctl := { State.reset.ctl with retSlc := out } }
/-- A state in which fault slot 5 stands for a load by the group, with a fault queue at 0x16000 whose RESP words start at 0x17000. -/
def faulted (answer : Nat) : State :=
  let x : FaultSlot := ⟨1, 0x20000, 1, 0, 1, 2, 0, 0, 0, 0, 0x10000, 0, true, [.group 0 0]⟩
  onFab (poke (poke (onCtx base (fun c => { c with faultQ := 0x16000 })) 0x16000 (leBytes 8 0x16100 ++ leBytes 8 0x17000)) 0x17028 (leBytes 8 answer)) (fun f => { f with
    faults := [(5, x)] })
theorem witness_MemoryEvents_slices : memRange 0x10018000000 4 = true ∧
    ([8, 9] : List (BitVec 4)).all (fun d => ([none, some [1, 2, 3, 4]] : List (Option (List Byte))).all (fun w => let r := sliceReq d w; let f := base.fab
      !f.lineHeld r.core r.slot (r.pa.toNat / 256) (some (f.sliceFor base.ctl r)) && f.sendable base.ctl r && (dieStop (f.sliceFor base.ctl r / 48) == reqStop r) == (d == 8) &&
      !base.ctl.sliceOut (f.sliceFor base.ctl r))) = true ∧
    (let s := mapped (BitVec.allOnes 384) 0
     s.ctl.sliceOut (s.fab.sliceFor s.ctl (sliceReq 8 none)) = true ∧ s.fab.lineHeld (some 0) 0 0x100180000 none = false) ∧
    (onFab base (fun f => { f with remaps := [⟨sliceReq 8 none, 0⟩] })).fab.remaps.any (fun x => x.req.core == some 0 && x.req.slot == 0 && x.req.pa.toNat / 256 == 0x100180000) = true ∧
    (ctl (fun c => { c with keys := [(7, (.retiring, 1))] })).ctl.keyRefused 7 = true ∧ base.ctl.keyRefused (sliceReq 8 none).key = false := by
  decide +kernel
theorem witness_MemoryEvents_remaps : ([0, 1] : List Nat).all (fun n => let s := onFab (mapped 1 0) (fun f => { f with remaps := [⟨sliceReq 8 none, 0⟩, ⟨sliceReq 8 (some [1]), 0⟩] })
      let r := ((s.fab.remaps[n]?).map (·.req)).getD default
      let g := (counted { s.fab with remaps := s.fab.remaps.eraseIdx n } 0x718).refreshMap s.ctl 0 r.ctx
      r.core == some 0 && g.sendable s.ctl r && !serialLe (s.fab.genOf r.ctx) (s.fab.mapOf s.ctl 0 r.ctx).gen &&
      ({ g with remaps := s.fab.remaps.take n } : Fab).lineHeld r.core r.slot (r.pa.toNat / 256) (some (g.sliceFor s.ctl r)) == (n == 1)) = true := by decide +kernel
theorem witness_MemoryEvents_faults :
    (match base.fab.translate base.ctl (some 0) 1 0x14000 .load, base.fab.translate base.ctl (some 0) 1 0x20000 .load with
     | (.ok _ _, _), (.fault _ _, f) => f.faults == []
     | _, _ => false) = true ∧
    ([16777217, 16777216] : List Nat).all (fun n => let s := onFab (onGroup base (fun g => { g with absentSince := some (0, 1, 64), hold := some .retry })) (fun f => { f with ac := n })
     (groupAt s 0 0).any (fun g => g.absentSince == some (0, 1, 64) && g.hold == some .retry && decide (0 + 16777216 < s.fab.ac) == (n == 16777217))) = true ∧
    ([0, 1, 2, 3] : List Nat).all (fun v => ((faulted v).fab.response (faulted v).ctl 5).1.map (·.2) == some v) = true ∧
    ((Table.get? (faulted 0).fab.faults 5).map (·.enqueued)) = some true ∧
    (let x : FaultSlot := ⟨1, 0x20000, 1, 0, 1, 2, 0, 0, 0, 0, 0x10000, 0, false, [.group 0 0]⟩
     let s := poke (onFab (faulted 0) (fun f => { f with faults := [(5, x)] })) 0x16100 (leBytes 8 0x15000 ++ leBytes 8 0x84)
     (s.fab.postRecord s.ctl 1 (({ x with time := s.fab.time } : FaultSlot).bytes 5)).1 = true) := by decide +kernel
/-- Core 0 is in a copy of some pieces, of one receiver or more, with ready lines; `n` bights of the cluster are in use by others. -/
def copying (kind : CopyKind) (parts : List CopyPart) (receivers ready : List Nat) (n : Nat) : State :=
  let o : CopyOp := ⟨0, 0, 0, 1, 1, 0x10000, 0, 1, kind, receivers, parts, receivers.isEmpty, [], [], ready, [], false, none⟩
  onFab tiles (fun f => ({ f with bights := (List.range n).map (fun k => ⟨1, 9, k⟩) } : Fab).setCore 0 { f.core 0 with copies := [o] })
/-- A copy of the row at 0x4500 to the row at 0x4600. -/
def rowCopy : CopyKind := .cpt ((Tile.parse 0 (tiles.fab.scrRead 0 0x280 64)).getD default) ((Tile.parse 0 (tiles.fab.scrRead 0 0x340 64)).getD default) 0 0 none
theorem witness_MemoryEvents_copies : ([(copying (.cpl 4 []) [⟨0, 12, []⟩] [] [] 16, 0, 1), (copying (.cpl 4 []) [⟨0, 12, []⟩, ⟨0, 16, []⟩] [] [] 0, 0, 2),
      (copying rowCopy [⟨0, 280, []⟩] [0] [70] 16, 0, 1), (copying rowCopy [⟨0, 280, []⟩] [0] [] 15, 2, 1), (copying rowCopy [⟨0, 280, []⟩] [0] [] 16, 1, 1),
      (copying (.cpl 4 []) [⟨0, 12, []⟩, ⟨0, 13, []⟩] [0, 1] [] 16, 3, 2)] : List (State × Nat × Nat)).all (fun p =>
      let f := p.1.fab
      !f.copyWaits 0 0 && (f.copy? 0 0).any (fun o => o.pend.length == p.2.2 && (
        let line := (o.pend.headD default).sector / 4
        let unread := o.unread p.1.ctl line
        let busy := decide (16 ≤ (f.bights.filter (fun b => b.core / 8 == 0)).length)
        let goes := match Fab.bightHand p.1.ctl f 0 o line with | .ok o' _ => o'.ready == [line] | _ => false
        match p.2.1 with
        | 0 => (o.receivers.isEmpty && o.handed) || o.ready.contains line
        | 1 => unread == [69] && !o.receivers.isEmpty && busy
        | 2 => unread == [69] && !o.ready.contains line && !busy && goes
        | _ => unread == [] && !o.ready.contains line && busy && goes))) = true ∧
    after (.cplXm { xm 0 5 6 0 1 2 0 0 0 with pred := ⟨false, true, 5⟩ }) (regs base 0 [(5, raw 0x100), (6, raw 0x300)]) (fun t =>
      t.fab.copyWaits 0 0 == false && (t.fab.copy? 0 0).map (fun o => (o.id, o.pend)) == some (0, [⟨0, 12, []⟩])) = true := by decide +kernel
theorem witness_MemoryEvents_bights : (let f : Fab := { tiles.fab with copying := some [(69, List.replicate 256 7)] }
     (match f.engLocs tiles.ctl 0 1 1 0x4500 16 .load with | .ok _ f1 => f1.copying == f.copying | _ => false) = true ∧
     Table.get? [(69, List.replicate 256 (7 : Byte))] (engAddr 1 0x4500 / 256) = some (List.replicate 256 7) ∧ engAddr 1 0x4500 % 256 + 16 ≤ 256 ∧ engAddr 1 0x4500 + 16 ≤ 2 ^ 32) ∧
    ((copying rowCopy [⟨0, 280, []⟩] [0] [] 15).fab.copy? 0 0).isSome = true := by decide +kernel
/-- What the oldest matrix operation of core 0 meets: whether its quarter's tiles are present and unwaited, and whether its work ends well. -/
def meets (f : Fab) : Option (Bool × Option Bool) :=
  match (f.core 0).mxq with
  | o :: _ => some (!f.mxWaits 0 && (o.op.reads o.quarter).all f.tilePresent && decide (o.quarter < o.op.quarters),
      match Eng.denying o.denied (Fab.mxWork base.ctl 0 1 o (f.mxBlocks 0 o.op - o.blocks)) f with | .ok .. => some true | .fault .. => some false | .xlate .. => none)
  | [] => none
theorem witness_MemoryEvents_matrix : after (.mclrXt (xt 2 0 0 0 0 0 0 0 0)) tiles (fun t => meets t.fab == some (true, some true) &&
      (t.fab.mxUnit t.ctl 0 true).core 0 != t.fab.core 0 && ((t.fab.mxUnit t.ctl 0 true).core 0).mxq.map (fun o => (o.quarter, o.op.quarters)) == [(1, 1)]) = true ∧
    after (.bldXt (xt 0 3 0 0 0 0 0 3 0)) tiles (fun t => meets (t.fab.sectorClear 0 0xC0) == some (false, some true)) = true := by decide +kernel

/-! ## Steps of events -/

theorem test_power_cap : after (.pwrcapWrite (wr 0xF00000302000 3000)) State.reset (fun t => t.ctl.cap == 2600 &&
    after (.powerCompare 2601) t (fun u => u.ctl.capped && decide (2 ≤ u.fab.issueSlots) && decide (u.fab.issueSlots < 4))) = true := by decide +kernel
theorem test_key_load : after (.keyLoad (keyOp 1 7)) (ctl (fun c => { c with keyData := 5 })) (fun t => t.ctl.keyMat 7 == 5 && t.ctl.keyData == 0 &&
    t.ctl.keyState 7 == .loaded && after (.keyLoad (keyOp 1 7)) t (fun u => u.ctl.kresult == 1)) = true := by decide +kernel
theorem test_port_train : after (.portTrain 17 5) State.reset (fun t => (t.ctl.ports[17]?).map (·.state) == some 1 &&
    after (.portTrain 17 5) t (fun u => (u.ctl.ports[17]?).map (fun p => (p.state, p.lanes)) == some (2, 4))) = true := by decide +kernel
theorem test_packet_refused : after (.packetReceive 0) (arrived 1 5) (fun t => t.fab.outbox.map (fun p => (p.pk.op, p.pk.seq, p.pk.dst)) == [(0x0B, 5, 5)] &&
    t.fab.arrived == []) = true := by decide +kernel
theorem test_packet_resent : after (.packetResendTimeout 1) (arrived 1 5) (fun t => t.fab.outbox.map (fun p => (p.pk.op, p.pk.seq, p.pk.dst)) == [(1, 8, 5)]) = true := by
  decide +kernel
theorem test_place : after (.lanyardPlace 1) (lanyard 1 1 2) (fun t => (t.fab.core 8).team.map (fun x => (x.grid, x.groups.length)) == some (1, 1)) = true := by
  decide +kernel
theorem test_fault_response : after (.faultRetry 5) (faulted 1) (fun t => t.fab.faults == []) = true ∧ after (.faultEnd 5) (faulted 3) (fun t =>
    (t.fab.ctx? 1).map (·.ended) == some true) = true ∧ after (.faultRetry 5) (faulted 0) (fun t => t.fab.faults.length == 1) = true := by decide +kernel

end Sys2Proof.Tests
end

section
-- Proofs are elaborated one after another: this bounds the memory that the many small ones take together.
set_option Elab.async false

/-! # The scope of the model: core instructions and control (O9) -/
namespace Sys2Proof.Machine

/-- Whether an entry is there to issue depends on neither the predicate nor the length of the instruction (R145). -/
theorem Fab.isNone_iss_congr (f : Fab) (p q : Pred) (n m : Nat) : (f.iss p n).isNone = (f.iss q m).isNone := by
  unfold Fab.iss
  split
  · rfl
  · split
    · split <;> rfl
    · rfl
theorem Fab.iss_eq_none_congr {f : Fab} {p : Pred} {n : Nat} (h : f.iss p n = none) (q : Pred) (m : Nat) :
    f.iss q m = none := by
  rw [← Option.isNone_iff_eq_none, f.isNone_iss_congr q p m n, h]
  rfl

/-- R257: an illegal instruction, with no group to issue for, stops by name. -/
theorem Fab.illegal_of_no_issuer {f : Fab} {len : Nat} (h : f.iss Pred.none_ len = none) (ctl : Ctl) (opc cause : Nat) :
    f.illegal ctl len opc cause = .fault .noIssuer := by
  unfold Fab.illegal
  rw [h]

/-- An instruction that runs a body stops by name with no group to issue for. -/
theorem run_of_no_issuer {e : Enc} {s : State} (h : s.fab.iss e.pred e.length = none) (gate : Iss → Fab → Bool)
    (body : Iss → Ctl → Fab → Res) :
    run e gate body s = .fault .noIssuer := by
  simp [run, Fab.issue, h, State.lift]

/-- R258: every instruction with an encoding runs a body under that encoding, or is illegal (R257). -/
theorem exec_of_enc {j : Instr} {e : Enc} (h : j.enc? = some e) (s : State) :
    (∃ gate body, exec j s = run e gate body s) ∨ ∃ len opc cause,
      exec j s = s.lift (s.fab.illegal s.ctl len opc cause) := by
  cases j
  case rendXr | rdropXr | illegalOpcode => exact .inr ⟨_, _, _, rfl⟩
  all_goals cases h
  all_goals exact .inl ⟨_, _, rfl⟩

end Sys2Proof.Machine

namespace Sys2Proof.Safety
open Sys2Proof.Machine

/-- Settles O9: a body runs on the fabric alone (`run_keeps`), and so does the trap of an illegal instruction; both look for the issuing
entry first. -/
theorem coreInstructionsKeepControl : Obligations.CoreInstructionsKeepControl := by
  unfold Obligations.CoreInstructionsKeepControl
  refine ⟨fun j e s t hj ht => ?_, fun j e s hj hs => ?_⟩
  · rcases exec_of_enc hj s with ⟨gate, body, hr⟩ | ⟨len, opc, cause, hr⟩
    · exact run_keeps (hr ▸ ht)
    · obtain ⟨f, -, rfl⟩ := State.lift_next (hr ▸ ht)
      exact ⟨rfl, rfl⟩
  · rcases exec_of_enc hj s with ⟨gate, body, hr⟩ | ⟨len, opc, cause, hr⟩
    · rw [hr, run_of_no_issuer hs]
    · rw [hr, Fab.illegal_of_no_issuer (Fab.iss_eq_none_congr hs _ _)]
      rfl

end Sys2Proof.Safety

/-! # Memories stay in canonical form (O7)

Each function of the model that makes a fabric of a fabric gets one lemma, named after it: from memories in canonical
form (`MemOk`) it makes memories in canonical form. Bodies of instructions, pieces of an engine's work and whole
instructions answer results of their own types; `ResOk`, `EngOk`, `OutOk` and the like say the same of those. Only a
few operations write bytes at all (`Memory.write`, `Memory.writeBytes`); every other record update leaves the memories
as they are (`MemOk.update`). -/

namespace Sys2Proof.Machine

theorem Memory.wf_foldl {α : Type} {m : Memory} {l : List α} {op : Memory → α → Memory} (h : m.wf = true)
    (hop : ∀ m a, m.wf = true → (op m a).wf = true) : (l.foldl op m).wf = true :=
      foldl_keeps (P := fun m : Memory => m.wf = true) l h hop

theorem Table.mem_of_mem_set {α : Type} {t : Table α} {n : Nat} {x : α} {p : Nat × α} (h : p ∈ Table.set t n x) :
    p ∈ t ∨ p = (n, x) := by
  induction t with
  | nil => simpa [Table.set] using h
  | cons q t ih =>
    obtain ⟨k, v⟩ := q
    unfold Table.set at h
    grind

theorem Table.mem_of_get? {α : Type} {t : Table α} {n : Nat} {x : α} (h : Table.get? t n = some x) : (n, x) ∈ t := by
  induction t with
  | nil => cases h
  | cons q t ih =>
    obtain ⟨k, v⟩ := q
    unfold Table.get? at h
    grind

end Sys2Proof.Machine

namespace Sys2Proof.Safety
open Sys2Proof.Machine

/-- The memories of a core are in canonical form: the lines of its L1, and those of its team. -/
def CoreOk (k : Core) : Prop := (∀ l ∈ k.l1, l.bytes.wf = true) ∧ ∀ t, k.team = some t → TeamOk t
/-- The memories of the teams that a grid keeps are in canonical form. -/
def GridOk (g : Grid) : Prop := ∀ p ∈ g.saved, TeamOk p.2
/-- A body's end leaves memories in canonical form: those of the fabric that it leaves, or that it makes of one in canonical form. -/
inductive ResOk : Res → Prop
  | done {f : Fab} (h : MemOk f) : ResOk (.done f)
  | after {f : Fab} {t : Trap} (h : MemOk f) : ResOk (.after f t)
  | wait {m : Fab → Fab} (hm : ∀ f, MemOk f → MemOk (m f)) : ResOk (.wait m)
  | deferred {m : Fab → Fab} {t : Trap} (hm : ∀ f, MemOk f → MemOk (m f)) : ResOk (.deferred m t)
  | trap {t : Trap} : ResOk (.trap t)
  | xlate {ls : List Nat} {va r l : Nat} {acc : Access} : ResOk (.xlate ls va acc r l)
  | fault {e : Fault} : ResOk (.fault e)
/-- A piece of an engine's work leaves memories in canonical form. -/
inductive EngOk {α : Type} : Eng α → Prop
  | ok {a : α} {f : Fab} (h : MemOk f) : EngOk (.ok a f)
  | xlate {va r l : Nat} {acc : Access} {e : Option (Nat × Nat)} {f : Fab} (h : MemOk f) : EngOk (.xlate va acc r l e f)
  | fault {e : EngErr} {f : Fab} (h : MemOk f) : EngOk (.fault e f)
/-- The accesses of an instruction leave memories in canonical form. -/
inductive ReachOk : Reach → Prop
  | ok {ls : List (Nat × Loc)} {f : Fab} (h : MemOk f) : ReachOk (.ok ls f)
  | stop {r : Res} (h : ResOk r) : ReachOk (.stop r)
/-- The access of a queue's descriptor leaves memories in canonical form. -/
inductive QueueOk : QueueAt → Prop
  | at_ {loc : Loc} {f : Fab} (h : MemOk f) : QueueOk (.at_ loc f)
  | stop {r : Res} (h : ResOk r) : QueueOk (.stop r)
/-- A piece of work that may not be there leaves memories in canonical form. -/
def SomeOk (o : Option Fab) : Prop := ∀ f, o = some f → MemOk f
/-- An instruction leaves memories in canonical form, if it leaves a state. -/
inductive OutOk : Out → Prop
  | next {s : State} (h : MemOk s.fab) : OutOk (.next s)
  | fault {e : Fault} : OutOk (.fault e)
  | refused {e : Refusal} : OutOk (.refused e)

/-! ## Records that differ in no memory -/

theorem CoreOk.update {k : Core} {regQueue icache tlb maps copies mxq incs} (hk : CoreOk k) :
    CoreOk { k with regQueue, icache, tlb, maps, copies, mxq, incs } := hk
theorem TeamOk.update {t : Team} {grid ctx index hitch j mates scratchBytes sectors views shared groups exited started
    reported} (ht : TeamOk t) :
    TeamOk { t with grid, ctx, index, hitch, j, mates, scratchBytes, sectors, views, shared, groups, exited, started, reported } := ht
theorem GridOk.update {g : Grid} {id ctx cmd queue seq firstQueue firstSeq full image code entry w gprod gcons rprod rcons hitch scratch nteams incidx
    bounded ntq bound0 tqs args tasks teamsVa records nextTeam disc canc exitedTeams preempt ended preempted} (hg : GridOk g) :
    GridOk { g with id, ctx, cmd, queue, seq, firstQueue, firstSeq, full, image, code, entry, w, gprod, gcons, rprod, rcons, hitch, scratch, nteams,
                    incidx, bounded, ntq, bound0, tqs, args, tasks, teamsVa, records, nextTeam, disc, canc,
                      exitedTeams, preempt, ended,
                    preempted } := hg
theorem MemOk.update {f : Fab} {time ac issueSlots memKeys marks dieTlb waiters ctxs replicas faults engPosts remaps replies ring ringFlows placement
    links queues cmds posts msis sendFlows sent recvFlows arrived outbox redHeld bights bypasses refused copying life
      regWrites dmaDone peerOut
    nextId epoch issuer} (h : MemOk f) :
    MemOk { f with time, ac, issueSlots, memKeys, marks, dieTlb, waiters, ctxs, replicas, faults, engPosts, remaps, replies, ring, ringFlows,
                   placement, links, queues, cmds, posts, msis, sendFlows, sent, recvFlows, arrived, outbox, redHeld,
                     bights, bypasses, refused,
                   copying, life, regWrites, dmaDone, peerOut, nextId, epoch, issuer } := h
theorem MemOk.pair {α : Type} {a : α} {f : Fab} (h : MemOk f) : MemOk (a, f).2 := h
theorem GridOk.cleared {g : Grid} (e : g.saved = []) : GridOk g := by simp [GridOk, e]
/-- A core that is freed keeps its L1. -/
theorem CoreOk.noTeam {k : Core} {regQueue icache tlb maps copies mxq incs} (hk : CoreOk k) :
    CoreOk { k with team := none, regQueue, icache, tlb, maps, copies, mxq, incs } := ⟨hk.1, fun _ e => nomatch e⟩
theorem CoreOk.mapTeam {k : Core} {m : Team → Team} {regQueue icache tlb maps copies mxq incs} (hk : CoreOk k)
    (hm : ∀ t, TeamOk t → TeamOk (m t)) :
    CoreOk { k with team := k.team.map m, regQueue, icache, tlb, maps, copies, mxq, incs } := by
  refine ⟨hk.1, fun t ht => ?_⟩
  obtain ⟨u, hu, rfl⟩ := Option.map_eq_some_iff.mp ht
  exact hm u (hk.2 u hu)

/-! ## Outcomes -/

theorem ResOk.ite {c : Prop} {_ : Decidable c} {x y : Res} (hx : ResOk x) (hy : ResOk y) : ResOk (if c then x else y) :=
  by split <;> assumption
theorem EngOk.ite {α : Type} {c : Prop} {_ : Decidable c} {x y : Eng α} (hx : EngOk x) (hy : EngOk y) :
    EngOk (if c then x else y) := by
  split <;> assumption
theorem QueueOk.ite {c : Prop} {_ : Decidable c} {x y : QueueAt} (hx : QueueOk x) (hy : QueueOk y) :
    QueueOk (if c then x else y) := by
  split <;> assumption
theorem SomeOk.ite {c : Prop} {_ : Decidable c} {x y : Option Fab} (hx : SomeOk x) (hy : SomeOk y) :
    SomeOk (if c then x else y) := by
  split <;> assumption
theorem SomeOk.here {f : Fab} (h : MemOk f) : SomeOk (some f) := fun _ e => Option.some.inj e ▸ h
theorem SomeOk.absent : SomeOk none := fun _ e => nomatch e
theorem OutOk.ite {c : Prop} {_ : Decidable c} {x y : Out} (hx : OutOk x) (hy : OutOk y) : OutOk (if c then x else y) :=
  by split <;> assumption

/-- The fabric of a pair that a branch has named. -/
theorem MemOk.of_eq {α : Type} {p : α × Fab} {a : α} {f : Fab} (e : p = (a, f)) (h : MemOk p.2) : MemOk f :=
  by subst e; exact h
theorem EngOk.of_ok {α : Type} {x : Eng α} {a : α} {f : Fab} (e : x = .ok a f) (h : EngOk x) : MemOk f :=
  by subst e; cases h; assumption
theorem EngOk.of_xlate {α : Type} {x : Eng α} {va : Nat} {acc : Access} {r l : Nat} {n : Option (Nat × Nat)} {f : Fab}
    (e : x = .xlate va acc r l n f) (h : EngOk x) : MemOk f := by subst e; cases h; assumption
theorem EngOk.of_fault {α : Type} {x : Eng α} {n : EngErr} {f : Fab} (e : x = .fault n f) (h : EngOk x) : MemOk f :=
  by subst e; cases h; assumption
theorem MemOk.of_eq₃ {α β : Type} {p : α × β × Fab} {a : α} {b : β} {f : Fab} (e : p = (a, b, f)) (h : MemOk p.2.2) :
    MemOk f :=
  by subst e; exact h
theorem ReachOk.of_ok {x : Reach} {ls : List (Nat × Loc)} {f : Fab} (e : x = .ok ls f) (h : ReachOk x) : MemOk f :=
  by subst e; cases h; assumption
theorem ReachOk.of_stop {x : Reach} {r : Res} (e : x = .stop r) (h : ReachOk x) : ResOk r :=
  by subst e; cases h; assumption
theorem QueueOk.of_at {x : QueueAt} {loc : Loc} {f : Fab} (e : x = .at_ loc f) (h : QueueOk x) : MemOk f :=
  by subst e; cases h; assumption
theorem QueueOk.of_stop {x : QueueAt} {r : Res} (e : x = .stop r) (h : QueueOk x) : ResOk r :=
  by subst e; cases h; assumption
theorem SomeOk.of_some {o : Option Fab} {f : Fab} (e : o = some f) (h : SomeOk o) : MemOk f := h f e

theorem MemOk.ite {c : Prop} {_ : Decidable c} {f g : Fab} (hf : MemOk f) (hg : MemOk g) :
    MemOk (if c then f else g) := by
  split <;> assumption
theorem MemOk.ite_snd {α : Type} {c : Prop} {_ : Decidable c} {p q : α × Fab} (hp : MemOk p.2) (hq : MemOk q.2) :
    MemOk (if c then p else q).2 := by split <;> assumption
theorem MemOk.ite_fab {c : Prop} {_ : Decidable c} {s t : State} (hs : MemOk s.fab) (ht : MemOk t.fab) :
    MemOk (if c then s else t).fab := by
  split <;> assumption
theorem MemOk.foldl {α : Type} {f : Fab} {l : List α} {op : Fab → α → Fab} (h : MemOk f)
    (hop : ∀ g a, MemOk g → MemOk (op g a)) :
    MemOk (l.foldl op f) := foldl_keeps _ h hop
theorem MemOk.foldl_fst {α β : Type} {p : Fab × β} {l : List α} {op : Fab × β → α → Fab × β} (h : MemOk p.1)
    (hop : ∀ p a, MemOk p.1 → MemOk (op p a).1) : MemOk (l.foldl op p).1 :=
      foldl_keeps (P := fun p : Fab × β => MemOk p.1) _ h hop
theorem MemOk.foldl_snd {α β : Type} {p : β × Fab} {l : List α} {op : β × Fab → α → β × Fab} (h : MemOk p.2)
    (hop : ∀ p a, MemOk p.2 → MemOk (op p a).2) : MemOk (l.foldl op p).2 :=
      foldl_keeps (P := fun p : β × Fab => MemOk p.2) _ h hop
theorem MemOk.foldl_fab {α : Type} {s : State} {l : List α} {op : State → α → State} (h : MemOk s.fab)
    (hop : ∀ s a, MemOk s.fab → MemOk (op s a).fab) : MemOk (l.foldl op s).fab :=
      foldl_keeps (P := fun s : State => MemOk s.fab) _ h hop
theorem MemOk.foldl_mid {α β γ : Type} {p : β × Fab × γ} {l : List α} {op : β × Fab × γ → α → β × Fab × γ}
    (h : MemOk p.2.1)
    (hop : ∀ p a, MemOk p.2.1 → MemOk (op p a).2.1) : MemOk (l.foldl op p).2.1 :=
      foldl_keeps (P := fun p : β × Fab × γ => MemOk p.2.1) _ h hop

section
variable {f : Fab} (h : MemOk f)
include h

theorem MemOk.core {c : Nat} : CoreOk (f.core c) := by
  unfold Fab.core Table.getD
  cases e : Table.get? f.cores c with
  | none => simp [CoreOk, Core.empty]
  | some k => exact h.2.2.1 (c, k) (Table.mem_of_get? e)
theorem MemOk.setCore {c : Nat} {k : Core} (hk : CoreOk k) : MemOk (f.setCore c k) := by
  obtain ⟨hm, hl, hc, hg⟩ := h
  refine ⟨hm, hl, fun p hp => ?_, hg⟩
  rcases Table.mem_of_mem_set hp with hp | rfl
  · exact hc p hp
  · exact hk
theorem MemOk.updateCore {c regQueue icache tlb maps copies mxq incs} :
    MemOk (f.setCore c { f.core c with regQueue, icache, tlb, maps, copies, mxq, incs }) := h.setCore h.core.update
theorem MemOk.team {c : Nat} {t : Team} (e : (f.core c).team = some t) : TeamOk t := h.core.2 t e
theorem MemOk.grid? {id : Nat} {g : Grid} (e : f.grid? id = some g) : GridOk g :=
  h.2.2.2 g (List.mem_of_find?_eq_some e)
theorem MemOk.modTeam {c : Nat} {m : Team → Team} (hm : ∀ t, TeamOk t → TeamOk (m t)) : MemOk (f.modTeam c m) := by
  unfold Fab.modTeam
  dsimp only
  split
  · exact h
  · next t e =>
    have hk : CoreOk { f.core c with team := some (m t) } := ⟨h.core.1, by rintro _ ⟨⟩; exact hm t (h.team e)⟩
    exact h.setCore hk
theorem MemOk.modGroup {c s : Nat} {m : Group → Group} : MemOk (f.modGroup c s m) := by
  rw [Fab.modGroup_eq]
  exact h.modTeam fun _ ht => ht.update
/-- Every core's memories keep the canonical form under a change of all cores that keeps it. -/
theorem MemOk.mapCores {m : Nat × Core → Nat × Core} (hm : ∀ p, CoreOk p.2 → CoreOk (m p).2) : MemOk { f with cores := f.cores.map m } := by
  obtain ⟨hm', hl, hc, hg⟩ := h
  exact ⟨hm', hl, List.forall_mem_map.mpr fun p hp => hm p (hc p hp), hg⟩
theorem MemOk.mapGrids {m : Grid → Grid} (hm : ∀ g, GridOk g → GridOk (m g)) : MemOk { f with grids := f.grids.map m } := by
  obtain ⟨hm', hl, hc, hg⟩ := h
  exact ⟨hm', hl, hc, List.forall_mem_map.mpr fun g hk => hm g (hg g hk)⟩
theorem MemOk.modGrid {id : Nat} {m : Grid → Grid} (hm : ∀ g, GridOk g → GridOk (m g)) : MemOk (f.modGrid id m) := by
  refine h.mapGrids fun g hg => ?_
  split
  · exact hm g hg
  · exact hg
end
end Sys2Proof.Safety

namespace Sys2Proof.Safety
open Sys2Proof.Machine

section
variable {f : Fab} {ctl : Ctl} {core owner : Option Nat} {c ctx pa n line slice stamp : Nat} {key : BitVec 12}
  {home : BitVec 4} {bs : List Byte}

/-! ### Memory under keys -/

section
variable (h : MemOk f)
include h

theorem MemOk.withMem {m : Memory} (hm : m.wf = true) : MemOk { f with mem := m } := ⟨hm, h.2⟩
theorem MemOk.withL2 {ls : List L2Line} (hl : ∀ l ∈ ls, l.bytes.wf = true) : MemOk { f with l2 := ls } := ⟨h.1, hl, h.2.2⟩

theorem MemOk.count : MemOk (f.count n) := h
theorem MemOk.memPut {km : BitVec 512} {b : Byte} : MemOk (f.memPut km pa b) := by
  have hw := Memory.wf_write pa b h.1
  dsimp only [Fab.memPut]
  split
  · split
    · exact h.withMem hw
    · exact h.withMem (Memory.wf_write _ _ (Memory.wf_writeBytes _ _ h.1))
  · exact h.withMem hw
end
theorem MemOk.memPutBytes (h : MemOk f) {km : BitVec 512} : MemOk (f.memPutBytes km pa bs) := by
  induction bs generalizing f pa with
  | nil => exact h
  | cons b bs ih => exact ih h.memPut

/-! ### Lines of the slices -/

section
variable (h : MemOk f)
include h

theorem MemOk.l2Find {l : L2Line} (e : f.l2Find line = some l) : l.bytes.wf = true :=
  h.2.1 l (List.mem_of_find?_eq_some e)
theorem MemOk.l2Keep {l : L2Line} (hl : l.bytes.wf = true) : MemOk (f.l2Keep l) :=
  h.withL2 (List.forall_mem_cons.mpr ⟨hl, fun x hx => h.2.1 x (List.mem_filter.mp hx).1⟩)
theorem MemOk.l2Evict : MemOk (f.l2Evict ctl line) := by
  dsimp only [Fab.l2Evict]
  split
  · exact h
  · next l e =>
    have hg := h.foldl (l := List.range 256) (op := fun f i =>
      if l.mask.getLsbD i then f.memPut (ctl.keyMat l.key) (line * 256 + i) (l.bytes.read i) else f) fun g i hg =>
        .ite hg.memPut hg
    exact hg.withL2 fun x hx => hg.2.1 x (List.mem_filter.mp hx).1
theorem MemOk.refreshMap : MemOk (f.refreshMap ctl c ctx) := .ite h (h.setCore h.core)
theorem MemOk.crossRing {src dst flow : Nat} {ordered : Bool} : MemOk (f.crossRing src dst ctx flow ordered) := .ite h h
theorem MemOk.crossTo : MemOk (f.crossTo c ctx pa slice) := h.crossRing.crossRing
theorem MemOk.route : MemOk (f.route ctl core ctx home pa).2 := by
  dsimp only [Fab.route]
  split
  · exact h
  · exact .ite_snd h.crossTo.count.refreshMap.crossTo h.crossTo
theorem MemOk.moveWaiters {old : List Waiter} : MemOk (f.moveWaiters line slice old) := h
theorem MemOk.bypass : MemOk (f.bypass slice) := h

/-- The line that a slice takes on a miss is empty. -/
theorem MemOk.l2Take : MemOk (f.l2Take ctl slice key line stamp).2 ∧
    ∀ l, (f.l2Take ctl slice key line stamp).1 = some l → l.bytes.wf = true := by
  dsimp only [Fab.l2Take]
  split
  · exact ⟨h, by rintro _ ⟨⟩; rfl⟩
  · split
    · exact ⟨h, by rintro _ ⟨⟩; rfl⟩
    · split
      · exact ⟨h.bypass, fun _ e => nomatch e⟩
      · exact ⟨h.l2Evict, by rintro _ ⟨⟩; rfl⟩
/-- A line that a slice opens for a request is one that it held, or an empty one. -/
theorem MemOk.l2Open : MemOk (f.l2Open ctl core ctx key home pa).2 ∧
    ∀ l, (f.l2Open ctl core ctx key home pa).1 = some l → l.bytes.wf = true := by
  dsimp only [Fab.l2Open]
  have hr : MemOk { (f.route ctl core ctx home pa).2 with nextId := (f.route ctl core ctx home pa).2.nextId + 1 } := h.route
  split
  · next l e =>
    split
    · exact ⟨hr, by rintro _ ⟨⟩; exact hr.l2Find (l := l) e⟩
    · exact ⟨.ite hr.l2Evict.l2Take.1.moveWaiters hr.l2Evict.l2Take.1, hr.l2Evict.l2Take.2⟩
  · exact hr.l2Take
omit h in
theorem wf_l2Fill {l : L2Line} (hl : l.bytes.wf = true) {s : Nat} : (f.l2Fill ctl l s).bytes.wf = true := by
  dsimp only [Fab.l2Fill]
  split
  · exact hl
  · refine Memory.wf_foldl hl fun m i hm => ?_
    split
    · exact hm
    · exact Memory.wf_write _ _ hm
theorem MemOk.l2ReadLine : MemOk (f.l2ReadLine ctl core ctx key home pa n).2 := by
  obtain ⟨hf, hl⟩ := h.l2Open
  dsimp only [Fab.l2ReadLine]
  split
  · next g e => exact .of_eq e hf
  · next l g e =>
    refine (MemOk.of_eq e hf).l2Keep (foldl_keeps (P := fun l : L2Line => l.bytes.wf = true) _ (hl l (by simp [e]))
      fun l s hl => ?_)
    split
    · exact hl
    · exact wf_l2Fill hl
theorem MemOk.l2WriteLine : MemOk (f.l2WriteLine ctl core ctx key home pa bs) := by
  obtain ⟨hf, hl⟩ := h.l2Open
  dsimp only [Fab.l2WriteLine]
  split
  · next g e => exact (MemOk.of_eq e hf).memPutBytes
  · next l g e => exact (MemOk.of_eq e hf).l2Keep (Memory.wf_writeBytes _ _ (hl l (by simp [e])))

/-! ### What follows a write -/

theorem MemOk.mapLanes {m : Nat → Team → Group → Nat → Lane → Lane} : MemOk (f.mapLanes m) :=
  h.mapCores fun _ hp => hp.mapTeam fun _ ht => ht
theorem MemOk.wakeWatchers : MemOk (f.wakeWatchers ctl pa n) := h.mapLanes
theorem MemOk.shootdown : MemOk (f.shootdown line) := .ite (h.mapCores fun _ hp => hp) h
omit h in
theorem outdate_bytes (l : L1Line) : (l.outdate pa n).bytes = l.bytes := by
  refine foldl_keeps (P := fun x : L1Line => x.bytes = l.bytes) _ rfl fun x p hx => ?_
  split
  · exact hx
  · exact hx
theorem MemOk.written : MemOk (f.written ctl core pa n) := by
  have hs := h.foldl (l := parts pa n) (op := fun f p => f.shootdown (p.1 / 256)) fun _ _ hg => hg.shootdown
  refine (hs.mapCores fun p hp => ?_).wakeWatchers
  dsimp only
  split
  · exact hp
  · exact ⟨List.forall_mem_map.mpr fun l hl => by rw [outdate_bytes]; exact hp.1 l hl, hp.2⟩
theorem MemOk.l2Read : MemOk (f.l2Read ctl core ctx key home pa n).2 := h.foldl_snd fun _ _ hp => hp.l2ReadLine
theorem MemOk.l2Put : MemOk (f.l2Put ctl core owner ctx key home pa bs) :=
  (MemOk.foldl_fst h fun _ _ hp => hp.l2WriteLine).written
theorem MemOk.l2Write : MemOk (f.l2Write ctl core ctx key home pa bs) := h.l2Put
omit h in
theorem MemOk.again {g : Fab} (hg : MemOk g) : MemOk (f.again g) := hg
theorem MemOk.agentRead : MemOk (f.agentRead ctl key pa n).2 := h.foldl fun _ _ hg => hg.l2Evict
theorem MemOk.agentWrite : MemOk (f.agentWrite ctl key pa bs) := (h.foldl fun _ _ hg => hg.l2Evict).memPutBytes.written
theorem MemOk.routeLines : MemOk (f.routeLines ctl core ctx home pa n) := h.foldl fun _ _ hg => hg.route
theorem MemOk.pastRead : MemOk (f.pastRead ctl core ctx key home pa n).2 := h.routeLines.agentRead
theorem MemOk.pastWrite : MemOk (f.pastWrite ctl core ctx key home pa bs) := h.routeLines.agentWrite
end
end
end Sys2Proof.Safety

namespace Sys2Proof.Safety
open Sys2Proof.Machine

section
variable {f : Fab} {ctl : Ctl} {core : Option Nat} {c ctx va pa n line scope s : Nat} {key : BitVec 12}
  {home : BitVec 4} {cache : BitVec 2}
  {bs : List Byte} {l : L1Line}

/-! ### Translation -/

theorem MemOk.walkFrom {fuel level table : Nat} {lines : List Nat} (h : MemOk f) :
    MemOk (f.walkFrom ctl ctx va fuel level table lines).2 := by
  induction fuel generalizing f level table lines with
  | zero => exact h
  | succ fuel ih =>
    have hr : MemOk (f.l2Read ctl none ctx 0 0 (table + 8 * levelIndex level va) 8).2 := h.l2Read
    dsimp only [Fab.walkFrom]
    exact .ite_snd h (.ite_snd hr (.ite_snd hr (.ite_snd (ih hr) hr)))
theorem MemOk.setAD {pte at_ : Nat} {w : Bool} (h : MemOk f) : MemOk (f.setAD ctl ctx pte at_ w).2 := by
  have hw : MemOk (({ f with marks := f.marks.filter (fun x => x != at_ / 256) } : Fab).l2Write ctl none ctx 0 0 at_
    (leBytes 8 (if w then pte ||| 0x30 else pte ||| 0x10))) := MemOk.l2Write h
  exact .ite_snd h (hw.mapCores fun _ hp => hp)

/-! ### The L1 data caches -/

/-- A line that an L1 holds. -/
theorem CoreOk.l1Find {k : Core} (hk : CoreOk k) (e : k.l1Find line = some l) : l.bytes.wf = true :=
  hk.1 l (List.mem_of_find?_eq_some e)
theorem CoreOk.setL1 {k : Core} {ls : List L1Line} (hk : CoreOk k) (hl : ∀ l ∈ ls, l.bytes.wf = true) : CoreOk { k with l1 := ls } :=
  ⟨hl, hk.2⟩
theorem wf_l1Open (h : MemOk f) : (f.l1Open c ctx key home line).bytes.wf = true := by
  dsimp only [Fab.l1Open]
  split
  · next e => exact h.core.l1Find e
  · rfl
theorem wf_l1Fill (hl : l.bytes.wf = true) : (f.l1Fill ctl c l s).1.bytes.wf = true := by
  dsimp only [Fab.l1Fill]
  split
  · exact hl
  · refine Memory.wf_foldl hl fun m i hm => ?_
    split
    · exact hm
    · exact Memory.wf_write _ _ hm
theorem wf_l1Clean (hl : l.bytes.wf = true) : (f.l1Clean ctl c l).1.bytes.wf = true := by
  dsimp only [Fab.l1Clean]
  split <;> exact hl
theorem wf_invalidate (hl : l.bytes.wf = true) : l.invalidate.bytes.wf = true := by
  unfold L1Line.invalidate
  refine foldl_keeps (P := fun l : L1Line => l.bytes.wf = true) _ hl fun l s hl => ?_
  dsimp only
  split
  · exact hl
  · dsimp only
    exact Memory.wf_foldl hl fun _ _ hm => Memory.wf_write _ _ hm
theorem wf_l1Refresh (hl : l.bytes.wf = true) : (f.l1Refresh ctl c l).1.bytes.wf = true := by
  dsimp only [Fab.l1Refresh]
  refine foldl_keeps (P := fun p : L1Line × Fab => p.1.bytes.wf = true) _ (b := (l, f)) hl fun p s hp => ?_
  split
  · exact hp
  · refine Memory.wf_foldl hp fun m i hm => ?_
    split
    · exact Memory.wf_write _ _ hm
    · exact hm

section
variable (h : MemOk f)
include h

theorem MemOk.l1Put (hl : l.bytes.wf = true) : MemOk (f.l1Put c l) := by
  have hr : ∀ x ∈ (f.core c).l1.filter (fun x => x.line != l.line), x.bytes.wf = true := fun x hx =>
    h.core.1 x (List.mem_filter.mp hx).1
  refine h.setCore (h.core.setL1 ?_)
  split
  · exact hr
  · exact List.forall_mem_cons.mpr ⟨hl, hr⟩
theorem MemOk.l1Keep (hl : l.bytes.wf = true) : MemOk (f.l1Keep c l) := by
  dsimp only [Fab.l1Keep]
  refine h.setCore (h.core.setL1 fun x hx => ?_)
  obtain ⟨y, hy, hx⟩ := List.mem_flatMap.mp hx
  split at hx
  · exact List.mem_singleton.mp hx ▸ h.core.1 y hy
  · split at hx
    · cases hx
    · exact List.mem_singleton.mp hx ▸ hl
theorem MemOk.l1Fill : MemOk (f.l1Fill ctl c l s).2 := .ite_snd h h.l2ReadLine
theorem MemOk.l1Clean : MemOk (f.l1Clean ctl c l).2 := by
  dsimp only [Fab.l1Clean]
  split
  · exact h
  · refine .foldl ?_ fun _ _ hg => hg.written
    obtain ⟨hf, hm⟩ := h.l2Open (ctl := ctl) (core := some c) (ctx := l.ctx) (key := l.key) (home := l.home)
      (pa := l.line * 256)
    split
    · next g e => exact (MemOk.of_eq e hf).foldl fun _ _ hg => .ite hg.memPut hg
    · next m g e =>
      refine (MemOk.of_eq e hf).l2Keep ?_
      dsimp only
      refine Memory.wf_foldl (hm m (by simp [e])) fun b i hb => ?_
      split
      · exact Memory.wf_write _ _ hb
      · exact hb
/-- A fold over the lines of an L1, which are in canonical form. -/
theorem MemOk.foldl_l1 {op : Fab → L1Line → Fab} (hop : ∀ g l, l.bytes.wf = true → MemOk g → MemOk (op g l)) :
    MemOk ((f.core c).l1.foldl op f) :=
  List.foldlRecOn _ op h fun _ hg l hl => hop _ l (h.core.1 l hl) hg
theorem MemOk.l1Release : MemOk (f.l1Release ctl c scope) :=
  .ite h (h.foldl_l1 fun _ _ hl hg => hg.l1Clean.l1Keep (wf_l1Clean hl))
theorem MemOk.l1Refresh : MemOk (f.l1Refresh ctl c l).2 := by
  dsimp only [Fab.l1Refresh]
  exact MemOk.foldl_snd h fun _ _ hp => .ite_snd hp hp.l2ReadLine
theorem MemOk.l1Acquire : MemOk (f.l1Acquire ctl c scope) :=
  .ite h (h.foldl_l1 fun _ _ hl hg => hg.l1Clean.l1Refresh.l1Keep (wf_l1Refresh (wf_invalidate (wf_l1Clean hl))))
theorem MemOk.l1Drop : MemOk (f.l1Drop ctl c line) := by
  dsimp only [Fab.l1Drop]
  split
  · exact h
  · next e => exact h.l1Clean.l1Put (wf_l1Clean (h.core.l1Find e))
theorem MemOk.l1Trim : MemOk (f.l1Trim ctl c) := by
  dsimp only [Fab.l1Trim]
  split
  · exact h
  · exact h.l1Drop
theorem MemOk.l1DropRange : MemOk (f.l1DropRange ctl c pa n) := h.foldl fun _ _ hg => hg.l1Drop
theorem MemOk.loadLine : MemOk (f.loadLine ctl c ctx key home cache pa n).2 := by
  have hl : ∀ ss : List Nat, _ := fun ss => foldl_keeps (P := fun p : L1Line × Fab => p.1.bytes.wf = true ∧ MemOk p.2)
    (g := fun acc s => if (List.range n).all (fun i => (pa % 256 + i) / 64 != s || acc.1.dirty.getLsbD (pa % 256 + i))
      then acc
      else acc.2.l1Fill ctl c acc.1 s) ss (b := (f.l1Open c ctx key home (pa / 256), f)) ⟨wf_l1Open h, h⟩
    fun p s ⟨hl, hf⟩ => by
      split
      · exact ⟨hl, hf⟩
      · exact ⟨wf_l1Fill hl, hf.l1Fill⟩
  refine .ite_snd ?_ (.ite_snd h.l2Read h.pastRead)
  obtain ⟨hl, hf⟩ := hl (sectorsOf (pa % 256) n)
  exact (hf.l1Put hl).l1Trim
theorem MemOk.load : MemOk (f.load ctl c ctx key home cache pa n).2 := h.foldl_snd fun _ _ hp => hp.loadLine
theorem MemOk.store : MemOk (f.store ctl c ctx key home cache scope pa bs) := by
  refine .ite (MemOk.foldl_fst h fun p a hp => ?_) (.ite h.pastWrite (MemOk.foldl_fst h.l2Write fun p a hp => ?_))
  · exact (hp.l1Put (Memory.wf_writeBytes _ _ (wf_l1Open hp))).l1Trim
  · split
    · exact hp
    · next e => exact hp.l1Keep (Memory.wf_writeBytes _ _ (hp.core.l1Find e))
end
end
end Sys2Proof.Safety

namespace Sys2Proof.Safety
open Sys2Proof.Machine

/-! ## Accesses that translate addresses, event records, and the end of a context -/

variable {ctl : Ctl} {f : Fab} {i : Iss} {s : State}

theorem MemOk.walk {ctx ptroot va : Nat} (h : MemOk f) : MemOk (f.walk ctl ctx ptroot va).2 := h.walkFrom
theorem MemOk.lookup {core : Option Nat} {ctx : Ctx} {va : Nat} (h : MemOk f) : MemOk (f.lookup ctl core ctx va).2 := by
  dsimp only [Fab.lookup]
  split
  · exact h.walk
  · split
    · exact h
    · split
      · exact h
      · split
        · next e2 =>
            have hg := MemOk.of_eq e2 h.walk
            exact .pair (.update hg.updateCore)
        · exact h.walk
theorem MemOk.translate {core : Option Nat} {ctx va : Nat} {acc : Access} (h : MemOk f) :
    MemOk (f.translate ctl core ctx va acc).2 := by
  dsimp only [Fab.translate]
  split
  · exact h
  · split
    · next e1 => exact .of_eq e1 h.lookup
    · next e1 => exact .of_eq e1 h.lookup
    · next e1 =>
        have hg := MemOk.of_eq e1 h.lookup
        exact .ite_snd hg (.ite_snd (.pair hg.setAD) (.pair hg.setAD))
theorem MemOk.mmioRead {a n : Nat} (h : MemOk f) : MemOk (ctl.mmioRead f a n).2 := by
  dsimp only [Ctl.mmioRead]
  refine .ite_snd h ?_
  split
  · exact h
  · exact h
  · exact h
  · exact .pair (.update h)
  · exact h
theorem MemOk.paRead {key : BitVec 12} {pa n : Nat} (h : MemOk f) : MemOk (f.paRead ctl key pa n).2 := by
  dsimp only [Fab.paRead]
  exact .ite_snd (.pair h.agentRead) (.ite_snd h.mmioRead h)
theorem MemOk.paWrite {key : BitVec 12} {who : Writer} {pa : Nat} {bs : List Byte} (h : MemOk f) :
    MemOk (f.paWrite ctl key who pa bs).2 :=
  .ite_snd (.pair h.agentWrite) (.ite_snd (.pair (.update h)) h)
theorem MemOk.ctxParts {ctx : Nat} {vs : List (Nat × Nat)} {acc : Access} (h : MemOk f) :
    MemOk (f.ctxParts ctl ctx vs acc).2 := by
  dsimp only [Fab.ctxParts]
  refine h.foldl_snd fun p a hp => ?_
  split
  · exact hp
  · refine .ite_snd hp ?_
    split
    · next e1 => exact .of_eq e1 hp.translate
    · next e1 => exact .of_eq e1 hp.translate
theorem MemOk.readParts {ctx : Nat} {vs : List (Nat × Nat)} (h : MemOk f) : MemOk (f.readParts ctl ctx vs).2 := by
  dsimp only [Fab.readParts]
  split
  · next e => exact .of_eq e h.ctxParts
  · next e =>
      have hg := MemOk.of_eq e h.ctxParts
      refine hg.foldl_snd fun p1 a hp => ?_
      split
      · next e2 => exact .of_eq e2 hp.paRead
      · exact hp
theorem MemOk.writeParts {ctx : Nat} {vs : List (Nat × Nat)} {bs : List Byte} (h : MemOk f) :
    MemOk (f.writeParts ctl ctx vs bs).2 := by
  dsimp only [Fab.writeParts]
  split
  · next e => exact .of_eq e h.ctxParts
  · next e =>
      have hg := MemOk.of_eq e h.ctxParts
      exact .pair (hg.foldl_mid fun _ _ hp => hp.paWrite)
theorem MemOk.ctxRead {ctx va n : Nat} (h : MemOk f) : MemOk (f.ctxRead ctl ctx va n).2 := h.readParts
theorem MemOk.ctxWrite {ctx va : Nat} {bs : List Byte} (h : MemOk f) : MemOk (f.ctxWrite ctl ctx va bs).2 :=
  h.writeParts
theorem MemOk.msiAt {hart : Nat} {file : ImsicFile} {identity : Nat} (h : MemOk f) :
    MemOk (f.msiAt hart file identity) :=
  .update h
theorem MemOk.msi {hart identity : Nat} (h : MemOk f) : MemOk (f.msi hart identity) := h.msiAt
theorem MemOk.irqRetire {c s : Nat} (h : MemOk f) : MemOk (f.irqRetire c s) := h.modGroup
theorem MemOk.writeEvent {q : UzQueue} {p : EventPost} (h : MemOk f) : MemOk (f.writeEvent ctl q p) := by
  dsimp only [Fab.writeEvent]
  split
  · exact .msi (.update h.paWrite.paWrite)
  · exact .irqRetire (.msi (.update h.paWrite.paWrite))
theorem MemOk.flushQueue {qi : Nat} (h : MemOk f) : MemOk (f.flushQueue ctl qi) := by
  dsimp only [Fab.flushQueue]
  refine h.foldl fun g a hg => ?_
  split
  · exact hg
  · exact .ite (.update hg.writeEvent) hg
theorem MemOk.post {p : EventPost} (h : MemOk f) : MemOk (f.post ctl p) := by
  dsimp only [Fab.post]
  split
  · exact .ite (.flushQueue (.update h)) h
  · exact h
theorem MemOk.modCmd {id : Nat} {m : Cmd → Cmd} (h : MemOk f) : MemOk (f.modCmd id m) := .update h
theorem MemOk.semRead {r : CmdRec} (h : MemOk f) : MemOk (f.semRead ctl r).2 := by
  dsimp only [Fab.semRead]
  refine .ite_snd ?_ ?_
  · split
    · next e => exact .of_eq e h.paRead
    · next e => exact .of_eq e h.paRead
  · split
    · next e => exact .of_eq e h.ctxRead
    · next e => exact .of_eq e h.ctxRead
theorem MemOk.semStore {r : CmdRec} (h : MemOk f) : MemOk (f.semStore ctl r).2 := .ite_snd h.paWrite h.ctxWrite
theorem MemOk.failUp {status fuel : Nat} {p : Option Nat} {ix : List Nat} (h : MemOk f) :
    MemOk (Fab.failUp status fuel p ix f) := by
  induction fuel generalizing f p ix with
  | zero => exact h
  | succ fuel ih =>
    cases p with
    | none => exact h
    | some p =>
      dsimp only [Fab.failUp]
      split
      · exact h
      · exact ih h.modCmd
theorem MemOk.complete {id status : Nat} {ss : Bool} {data : List Byte} (h : MemOk f) :
    MemOk (f.complete ctl id status ss data) := by
  unfold Fab.complete
  split
  · exact h
  · extract_lets f1
    have h1 : MemOk f1 := .update h
    split
    next ok f2 e =>
    have h2 : MemOk f2 := .of_eq e (.ite_snd h1.semStore h1)
    extract_lets status ev f3
    have h3 : MemOk f3 := by
      dsimp only [f3]
      split
      · exact .ite h2.post h2
      · exact h2
    exact .ite h3 h3.failUp
theorem MemOk.modCtx {id : Nat} {m : Ctx → Ctx} (h : MemOk f) : MemOk (f.modCtx id m) := .update h
theorem MemOk.releaseTeams {ctx : Nat} (h : MemOk f) : MemOk (f.releaseTeams ctx) := by
  dsimp only [Fab.releaseTeams]
  refine .mapCores (.update h) fun p hp => ?_
  split
  · split
    · exact hp.noTeam
    · exact hp
  · exact hp
theorem MemOk.endGrids {ctx status : Nat} (h : MemOk f) : MemOk (f.endGrids ctl ctx status) :=
  .foldl (.foldl (.releaseTeams (.update h)) fun _ _ hg =>
    .modGrid (hg.complete.foldl fun _ _ hg1 => hg1.complete) fun _ _ => .cleared rfl) fun _ _ hg =>
    hg.complete.foldl fun _ _ hg1 => hg1.complete
theorem MemOk.emit {p : Packet} (h : MemOk f) : MemOk (f.emit p) := .update h
theorem MemOk.putFlow {x : RecvFlow} (h : MemOk f) : MemOk (f.putFlow x) := .update h
theorem MemOk.reject {p : Packet} {reason : Nat} (h : MemOk f) : MemOk (f.reject p reason) := h.putFlow.emit
theorem MemOk.contextEnd {ctx status : Nat} (h : MemOk f) : MemOk (f.contextEnd ctl ctx status) := by
  dsimp only [Fab.contextEnd]
  split
  · exact h
  · exact .ite h (.endGrids (.update (.foldl (.update (h.modCtx.foldl fun _ _ hg => .ite hg.count hg.reject))
      fun _ _ hg => hg.reject)))
theorem MemOk.fatal {ctx : Nat} {grid : Option Grid} {cause : Nat} {pc : Addr} (h : MemOk f) :
    MemOk (f.fatal ctl ctx grid cause pc) := by
  dsimp only [Fab.fatal]
  split
  · exact h
  · exact .ite h h.post.contextEnd
end Sys2Proof.Safety

namespace Sys2Proof.Safety
open Sys2Proof.Machine

/-! ## Lanes, tasks and queues in memory -/

variable {ctl : Ctl} {f : Fab} {i : Iss} {s : State}

theorem MemOk.writeReg {core slot n : Nat} {vals : List (Nat × Reg)} (h : MemOk f) :
    MemOk (f.writeReg core slot n vals) := by
  dsimp only [Fab.writeReg]
  refine .ite ?_ h.modGroup
  split
  · exact h
  · exact h.modTeam fun _ ht => .update ht
theorem MemOk.writeRegs {core slot n : Nat} {vals : List (Nat × List Reg)} (h : MemOk f) :
    MemOk (f.writeRegs core slot n vals) :=
  h.foldl fun _ _ hg => hg.writeReg
theorem MemOk.sendUp {cl : Nat} {m : LanyardMsg} (h : MemOk f) : MemOk (f.sendUp cl m) := .update h
theorem MemOk.sendDown {cl : Nat} {m : LanyardMsg} (h : MemOk f) : MemOk (f.sendDown cl m) := .update h
theorem MemOk.reportHitch {c : Nat} (h : MemOk f) : MemOk (f.reportHitch c) := by
  dsimp only [Fab.reportHitch]
  split
  · exact h
  · exact .ite (.sendUp (h.foldl fun _ _ hg => hg.modTeam fun _ ht1 => .update ht1)) h
theorem MemOk.reportEnd {c : Nat} (h : MemOk f) : MemOk (f.reportEnd c) := by
  dsimp only [Fab.reportEnd]
  split
  · exact h
  · exact .ite h (.reportHitch (h.modTeam fun _ ht1 => .update ht1))
theorem MemOk.setCoreInc {c ctx i : Nat} {v : DWord} (h : MemOk f) : MemOk (f.setCoreInc c ctx i v) := h.updateCore
theorem MemOk.sliceRead {core : Option Nat} {ctx : Nat} {loc : Loc} {n : Nat} (h : MemOk f) :
    MemOk (f.sliceRead ctl core ctx loc n).2 :=
  .ite_snd h.pastRead h.l2Read
theorem MemOk.sliceWrite {core : Option Nat} {ctx : Nat} {loc : Loc} {b : List Byte} (h : MemOk f) :
    MemOk (f.sliceWrite ctl core ctx loc b) :=
  .ite h.pastWrite h.l2Put
theorem MemOk.queueGet {core : Option Nat} {ctx : Nat} {desc : Loc} (h : MemOk f) :
    MemOk (f.queueGet ctl core ctx desc).2 :=
  h.sliceRead
theorem MemOk.queuePut {core : Option Nat} {ctx : Nat} {desc : Loc} {q : QDesc} (h : MemOk f) :
    MemOk (f.queuePut ctl core ctx desc q) :=
  h.sliceWrite.again
theorem MemOk.queueSee {core : Option Nat} {ctx : Nat} {desc : Loc} (h : MemOk f) :
    MemOk (f.queueSee ctl core ctx desc).2 :=
  h.queueGet.again
theorem MemOk.waiterAdd {ctx : Nat} {desc : Loc} {q : QDesc} {c s l : Nat} (h : MemOk f) :
    MemOk (f.waiterAdd ctl ctx desc q c s l) :=
  .update h.queuePut
theorem MemOk.waiterDrop {ctx : Nat} {desc : Loc} {c s l : Nat} (h : MemOk f) :
    MemOk (f.waiterDrop ctl ctx desc c s l) := by
  dsimp only [Fab.waiterDrop]
  refine .ite ?_ h
  split
  · next e => exact (MemOk.of_eq e (.queueGet (.update h))).queuePut
  · next e => exact .of_eq e (.queueGet (.update h))
theorem MemOk.entryLoc {ctx : Nat} {q : QDesc} {i : Word} (h : MemOk f) : MemOk (f.entryLoc ctl ctx q i).2 := by
  dsimp only [Fab.entryLoc]
  refine .ite_snd h ?_
  split
  · next e => exact .of_eq e h.translate
  · next e => exact .of_eq e h.translate
theorem MemOk.dequeue {core : Option Nat} {ctx : Nat} {desc : Loc} (h : MemOk f) :
    MemOk (f.dequeue ctl core ctx desc).2 := by
  dsimp only [Fab.dequeue]
  split
  · next e => exact .of_eq e h.queueGet
  · next e =>
      have hg := MemOk.of_eq e h.queueGet
      refine .ite_snd hg ?_
      split
      · next e1 => exact .of_eq e1 hg.entryLoc
      · next e1 =>
          have hg1 := MemOk.of_eq e1 hg.entryLoc
          exact .pair hg1.sliceRead.queuePut
theorem MemOk.queueDisc {core ctx : Nat} {desc : Loc} (h : MemOk f) : MemOk (f.queueDisc ctl core ctx desc) := by
  dsimp only [Fab.queueDisc]
  split
  · next e => exact (MemOk.of_eq e h.queueSee).queuePut
  · next e => exact .of_eq e h.queueSee
theorem MemOk.modLane {c s l : Nat} {m : Lane → Lane} (h : MemOk f) : MemOk (f.modLane c s l m) := h.modGroup
theorem MemOk.openWindow {c s l : Nat} (h : MemOk f) : MemOk (f.openWindow c s l) := h.modGroup
theorem GridOk.endIdle {g : Grid} (hg : GridOk g) : GridOk g.endIdle := List.forall_mem_map.mpr hg
theorem MemOk.endIdle {gid : Nat} (h : MemOk f) : MemOk (f.endIdle gid) := by
  refine (h.mapCores fun _ hp => hp.mapTeam fun t ht => ?_).mapGrids fun g hg => ?_
  · split
    · exact ht
    · exact ht
  · split
    · exact hg.endIdle
    · exact hg
theorem MemOk.tasksZero {gid : Nat} (h : MemOk f) : MemOk (f.tasksZero ctl gid) := by
  dsimp only [Fab.tasksZero]
  refine .foldl (.endIdle (.mapLanes (h.foldl fun g a hg => ?_))) fun _ _ hg => hg.reportEnd
  split
  · split
    · exact hg.waiterDrop
    · exact hg
  · exact hg
theorem MemOk.taskDone {gid : Nat} (h : MemOk f) : MemOk (f.taskDone ctl gid) := by
  dsimp only [Fab.taskDone]
  split
  · exact h
  · exact .ite h (.ite (.tasksZero (h.modGrid fun _ hg1 => .update hg1)) (h.modGrid fun _ hg1 => .update hg1))
theorem MemOk.takeTask {ctx gid c s l : Nat} {tpc : Addr} {q : Nat} {desc : Loc} {fuel : Nat} (h : MemOk f) :
    MemOk (f.takeTask ctl ctx gid c s l tpc q desc fuel).2 := by
  induction fuel generalizing f with
  | zero => exact h
  | succ fuel ih =>
    unfold Fab.takeTask
    refine .ite_snd h.modLane ?_
    split
    · next e => exact .of_eq e h.dequeue
    · next e => exact (MemOk.of_eq e h.dequeue).modLane.waiterAdd
    · next e =>
        have hg := MemOk.of_eq e h.dequeue
        refine .ite_snd (ih (.taskDone (hg.queueDisc.modGrid fun _ hx => hx))) ?_
        split <;> exact hg.modLane
theorem MemOk.installed {c s l : Nat} (h : MemOk f) : MemOk (f.installed ctl c s l) := h.openWindow.l1Acquire
theorem MemOk.markMalformed {c s l : Nat} {word : DWord} (h : MemOk f) : MemOk (f.markMalformed c s l word) :=
  h.modGroup
theorem MemOk.handOff {w : Waiter} {b : List Byte} (h : MemOk f) : MemOk (f.handOff ctl w b) := by
  dsimp only [Fab.handOff]
  split
  · split
    · exact h.modLane
    · refine .ite ?_ (.ite h.modLane.installed.markMalformed h.modLane.installed)
      split
      · split
        · next e5 => exact (MemOk.of_eq e5 (.queueSee
            (.taskDone (h.queueDisc.modGrid fun _ hg1 => .update hg1)))).waiterAdd
        · next e4 _ => exact .of_eq e4 (.queueSee (.taskDone (h.queueDisc.modGrid fun _ hg1 => .update hg1)))
      · exact .taskDone (h.queueDisc.modGrid fun _ hg => .update hg)
    · exact h
  · exact h
theorem MemOk.landEntry {c s l : Nat} (h : MemOk f) : MemOk (f.landEntry ctl c s l) := by
  dsimp only [Fab.landEntry]
  split
  · split
    · exact h.writeRegs.modLane.openWindow
    · exact h.writeRegs.modLane.openWindow.l1Acquire
  · exact h
theorem MemOk.landEntries (h : MemOk f) : MemOk (f.landEntries ctl) := by
  dsimp only [Fab.landEntries]
  refine h.foldl fun g a hg => ?_
  split
  · exact hg
  · exact hg.foldl fun _ _ hg1 => hg1.foldl fun _ _ hg2 => hg2.landEntry
theorem MemOk.keepRoom {desc : Loc} {q : QDesc} (h : MemOk f) : MemOk (f.keepRoom ctl desc q) :=
  .ite (h.foldl fun _ _ hg => hg.landEntry) h
theorem MemOk.enqueue {core : Option Nat} {ctx : Nat} {desc : Loc} {b : List Byte} (h : MemOk f) :
    MemOk (f.enqueue ctl core ctx desc b).2 := by
  dsimp only [Fab.enqueue]
  split
  · next e => exact .of_eq e h.queueGet
  · next e =>
      have hg := MemOk.of_eq e h.queueGet
      split
      · exact .pair (.keepRoom (.handOff (.update hg.queuePut)))
      · refine .ite_snd hg ?_
        split
        · next e2 => exact .of_eq e2 hg.entryLoc
        · next e2 =>
            have hg1 := MemOk.of_eq e2 hg.entryLoc
            exact .pair hg1.sliceWrite.queuePut.keepRoom
theorem MemOk.giveBack {c ctx : Nat} {desc : Loc} {b : List Byte} (h : MemOk f) :
    MemOk (f.giveBack ctl c ctx desc b) := by
  dsimp only [Fab.giveBack]
  split
  · next e => exact .of_eq e h.queueGet
  · next e =>
      have hg := MemOk.of_eq e h.queueGet
      split
      · next e1 => exact .of_eq e1 hg.entryLoc
      · next e1 =>
          have hg1 := MemOk.of_eq e1 hg.entryLoc
          split
          · exact .handOff (.update hg1.sliceWrite.queuePut)
          · exact hg1.sliceWrite.queuePut
theorem MemOk.queueCheck {core : Option Nat} {ctx : Nat} {desc : Loc} {esz : Nat} {enq : Bool} {n : Nat} (h : MemOk f) :
    MemOk (f.queueCheck ctl core ctx desc esz enq n).2 := by
  dsimp only [Fab.queueCheck]
  split
  · next e => exact .of_eq e h.queueGet
  · next e =>
      have hg := MemOk.of_eq e h.queueGet
      refine .ite_snd (.pair hg.again) (.foldl_snd (.pair hg.again) fun p1 a hp => ?_)
      split
      · next e1 => exact .of_eq e1 hp.entryLoc
      · next e1 => exact .of_eq e1 hp.entryLoc
theorem MemOk.enqueueVa {ctx va : Nat} {b : List Byte} (h : MemOk f) : MemOk (f.enqueueVa ctl ctx va b).2 := by
  dsimp only [Fab.enqueueVa]
  refine .ite_snd h ?_
  split
  · next e => exact (MemOk.of_eq e h.translate).enqueue
  · next e => exact .of_eq e h.translate
theorem MemOk.faultQ {ctx : Nat} (h : MemOk f) : MemOk (f.faultQ ctl ctx).2 := by
  dsimp only [Fab.faultQ]
  split
  · exact h
  · split
    · next e1 => exact .of_eq e1 h.ctxRead
    · next e1 => exact .of_eq e1 h.ctxRead
theorem MemOk.faultTake {die : Nat} {r : FaultSlot} (h : MemOk f) : MemOk (f.faultTake ctl die r).2 := by
  unfold Fab.faultTake
  split
  · exact h
  · split
    · exact h
    · refine .pair ?_
      split
      · next e => exact (MemOk.of_eq e (.faultQ (.update h))).ctxWrite
      · next e => exact .of_eq e (.faultQ (.update h))
theorem MemOk.pruneHeld {c s : Nat} (h : MemOk f) : MemOk (f.pruneHeld c s) := by
  dsimp only [Fab.pruneHeld]
  split
  · exact h
  · exact .update h.updateCore
theorem MemOk.exitLane {c s l : Nat} (h : MemOk f) : MemOk (f.exitLane ctl c s l) := by
  dsimp only [Fab.exitLane]
  split
  · exact .reportEnd (.ite h.modGroup.pruneHeld.taskDone h.modGroup.pruneHeld)
  · exact h
theorem MemOk.dropCopies {c s l : Nat} (h : MemOk f) : MemOk (f.dropCopies c s l) := h.updateCore
theorem MemOk.liftLower {c s n l : Nat} (h : MemOk f) : MemOk (f.liftLower c s n l) := h.modGroup
theorem MemOk.syscallRest {ctx c s l : Nat} {b : List Byte} (h : MemOk f) : MemOk (f.syscallRest ctx c s l b) := by
  dsimp only [Fab.syscallRest]
  split
  · exact .ite h.msi h
  · exact h
theorem MemOk.staleToken {ctx : Nat} {tok : Word} (h : MemOk f) : MemOk (f.staleToken ctx tok) := h.modCtx
theorem MemOk.took {c s l : Nat} {tpc : Addr} {q : Nat} {idle : Bool} {a : Took} (h : MemOk f) :
    MemOk (f.took ctl c s l tpc q idle a) := by
  dsimp only [Fab.took]
  split
  · exact .ite h.exitLane h.openWindow
  · exact h.installed.markMalformed
  · exact h.installed
  · exact h.modLane
  · exact h
theorem MemOk.resendWaiter {w : Waiter} (h : MemOk f) : MemOk (f.resendWaiter ctl w) := by
  dsimp only [Fab.resendWaiter]
  split
  · split
    · split
      · exact h
      · refine .ite h ?_
        split
        · next e4 => exact (MemOk.of_eq e4 h.waiterDrop.again.dequeue).handOff
        · next e4 => exact (MemOk.of_eq e4 h.waiterDrop.again.dequeue).waiterAdd
        · next e4 => exact .of_eq e4 h.waiterDrop.again.dequeue
    · split
      · exact h
      · exact .ite h h.waiterDrop.again.takeTask.took
    · exact h
  · exact h
theorem MemOk.resendWaiters (h : MemOk f) : MemOk (f.resendWaiters ctl) := h.foldl fun _ _ hg => hg.resendWaiter
theorem MemOk.idleTake {c s l : Nat} {tpc : Addr} {q : Nat} (h : MemOk f) : MemOk (f.idleTake ctl c s l tpc q) := by
  dsimp only [Fab.idleTake]
  split
  · exact h
  · refine .ite h.exitLane (.ite h.modLane ?_)
    split
    · next e1 =>
        have hg := MemOk.of_eq e1 h.translate
        exact .ite hg.modLane hg.takeTask.took
    · next e1 => exact (MemOk.of_eq e1 h.translate).modLane
    · next e1 => exact (MemOk.of_eq e1 h.translate).faultTake.modLane
theorem MemOk.goIdle {c s l : Nat} {tpc : Addr} {q : Nat} (h : MemOk f) : MemOk (f.goIdle ctl c s l tpc q) :=
  h.modLane.idleTake
theorem MemOk.idleAgain {c s l : Nat} (h : MemOk f) : MemOk (f.idleAgain ctl c s l) := by
  dsimp only [Fab.idleAgain]
  split
  · split
    · exact .ite h.idleTake h
    · exact h
  · exact h
theorem MemOk.idleRefused {c s l : Nat} (h : MemOk f) : MemOk (f.idleRefused c s l) := h.modLane
theorem MemOk.idlesGo (h : MemOk f) : MemOk (f.idlesGo ctl) := by
  dsimp only [Fab.idlesGo]
  refine h.foldl fun g a hg => ?_
  split
  · exact hg
  · exact hg.foldl fun _ _ hg1 => hg1.foldl fun _ _ hg2 => .ite hg2 hg2.idleAgain
theorem MemOk.cancelLane {c s l : Nat} (h : MemOk f) : MemOk (f.cancelLane ctl c s l) := by
  unfold Fab.cancelLane
  split
  · extract_lets f1 f2 f3 f4 f5 f6
    have h1 : MemOk f1 := by
      dsimp only [f1]
      split
      · exact h.waiterDrop
      · exact h.waiterDrop.liftLower
      · exact h.modLane.giveBack.liftLower
      · exact h.staleToken
      · exact h.syscallRest
      · exact h
    have h5 : MemOk f5 := .count (h1.dropCopies.modGroup.pruneHeld.modGrid fun _ hg => .update hg)
    have h6 : MemOk f6 := .ite h5.taskDone h5
    split
    · exact h6.goIdle
    · exact h6.reportEnd
  · exact h
theorem MemOk.cancelCore {c : Nat} (h : MemOk f) : MemOk (f.cancelCore ctl c) := by
  dsimp only [Fab.cancelCore]
  split
  · exact h
  · refine h.foldl fun g a hg => ?_
    split
    · exact hg
    · refine .ite hg (hg.foldl fun g2 a1 hg2 => ?_)
      split
      · exact .ite hg2.cancelLane hg2
      · exact hg2
end Sys2Proof.Safety

namespace Sys2Proof.Safety
open Sys2Proof.Machine

/-! ## Traps, fetch, time, and what an instruction body ends in -/

variable {ctl : Ctl} {f : Fab} {i : Iss} {s : State}

theorem MemOk.put {d : Nat} {vals : List (Nat × List Reg)} (h : MemOk f) : MemOk (i.put f d vals) := h.writeRegs
theorem ResOk.finish {cs : List (Nat × Conds)} (h : MemOk f) : ResOk (i.finish f cs) := by
  dsimp only [Iss.finish]
  split
  · exact .done h.modGroup
  · exact .after h.modGroup
theorem ResOk.lanewise {d : Nat} {g : Nat → List Reg × Conds} (h : MemOk f) : ResOk (i.lanewise f d g) := .finish h.put
theorem ResOk.pure {d : Nat} {g : Nat → List Reg} (h : MemOk f) : ResOk (i.pure f d g) := .done h.put
theorem MemOk.coreRead {core ctx va n : Nat} {acc : Access} (h : MemOk f) :
    MemOk (f.coreRead ctl core ctx va n acc).2 := by
  dsimp only [Fab.coreRead]
  refine h.foldl_snd fun p a hp => ?_
  split
  · refine .ite_snd hp ?_
    split
    · next e =>
        have hg1 := MemOk.of_eq e hp.translate
        split
        · exact .pair hg1.load
        · split
          · next e2 => exact .of_eq e2 (.ite_snd hg1.mmioRead hg1)
          · next e2 => exact .of_eq e2 (.ite_snd hg1.mmioRead hg1)
        · exact hg1
    · next e => exact .of_eq e hp.translate
    · next e => exact .of_eq e hp.translate
    · next e => exact .of_eq e hp.translate
  · exact hp
theorem MemOk.coreWrite {core ctx va scope : Nat} {bs : List Byte} (h : MemOk f) :
    MemOk (f.coreWrite ctl core ctx va scope bs).2 := by
  dsimp only [Fab.coreWrite]
  refine h.foldl_mid fun p a hp => ?_
  split
  · split
    · exact hp
    · split
      · next e =>
          have hg1 := MemOk.of_eq e hp.translate
          split
          · exact hg1.store
          · exact hg1
      · next e => exact .of_eq e hp.translate
      · next e => exact .of_eq e hp.translate
      · next e => exact .of_eq e hp.translate
  · exact hp
theorem MemOk.cachedWord {core ctx va : Nat} {loc : Loc} (h : MemOk f) :
    MemOk (f.cachedWord ctl core ctx va loc).2 := by
  dsimp only [Fab.cachedWord]
  split
  · exact h
  · exact .pair (h.l2Read.updateCore)
theorem MemOk.fetchWord {core ctx va : Nat} (h : MemOk f) : MemOk (f.fetchWord ctl core ctx va).2 := by
  dsimp only [Fab.fetchWord]
  split
  · next e => exact .of_eq e h.translate
  · next e => exact .of_eq e h.translate
  · next e =>
      have hg := MemOk.of_eq e h.translate
      split
      · exact .pair hg.cachedWord
      · split
        · next e2 => exact .of_eq e2 hg.mmioRead
        · next e2 => exact .of_eq e2 hg.mmioRead
      · exact hg
theorem MemOk.postRecord {ctx : Nat} {b : List Byte} (h : MemOk f) : MemOk (f.postRecord ctl ctx b).2 := by
  dsimp only [Fab.postRecord]
  split
  · next e => exact .of_eq e h.faultQ
  · next e =>
      have hg := MemOk.of_eq e h.faultQ
      split
      · next e1 =>
          have hg1 := MemOk.of_eq e1 hg.enqueueVa
          exact .pair hg1.msi
      · next e1 => exact .of_eq e1 hg.enqueueVa
theorem MemOk.postEng {p : EngPost} (h : MemOk f) : MemOk (f.postEng ctl p) := by
  dsimp only [Fab.postEng]
  split
  · next e => exact .of_eq e h.postRecord
  · next e =>
      have hg := MemOk.of_eq e h.postRecord
      exact .update hg
theorem MemOk.faultEnqueue {slot : Nat} (h : MemOk f) : MemOk (f.faultEnqueue ctl slot) := by
  dsimp only [Fab.faultEnqueue]
  split
  · exact h
  · refine .ite h ?_
    split
    · next e1 =>
        have hg := MemOk.of_eq e1 h.postRecord
        exact .update hg
    · next e1 => exact .of_eq e1 h.postRecord
theorem MemOk.unqueue {c s l : Nat} (h : MemOk f) : MemOk (f.unqueue ctl c s l) := by
  dsimp only [Fab.unqueue]
  split
  · split
    · exact h.waiterDrop.liftLower
    · exact h.giveBack.liftLower
    · exact h.modGroup
    · exact h.staleToken
    · exact h.syscallRest
    · exact h
  · exact h
theorem MemOk.restartLanes {c s : Nat} {ls : List Nat} (h : MemOk f) : MemOk (f.restartLanes ctl c s ls) :=
  .modGroup (.update (h.foldl fun _ _ hg => hg.unqueue))
theorem MemOk.restartGroup {c s : Nat} (h : MemOk f) : MemOk (f.restartGroup ctl c s) := by
  dsimp only [Fab.restartGroup]
  split
  · exact h
  · exact h.restartLanes.modGroup
theorem MemOk.parkFault {c s : Nat} {entry lanes : List Nat} {pc : Addr} {va : Nat} {acc : Access} {reason level : Nat}
    {who : Requester} (h : MemOk f) :
    MemOk (f.parkFault ctl c s entry lanes pc va acc reason level who) := by
  dsimp only [Fab.parkFault]
  split
  · exact h
  · split
    · next e1 => exact (MemOk.of_eq e1 h.faultTake).modGroup
    · next e1 => exact (MemOk.of_eq e1 h.faultTake).modGroup
theorem MemOk.parkEntry {c s : Nat} {pc : Addr} {va : Nat} {acc : Access} {reason level : Nat} (h : MemOk f) :
    MemOk (f.parkEntry ctl c s pc va acc reason level) := by
  dsimp only [Fab.parkEntry]
  split
  · exact h
  · exact h.faultTake
theorem MemOk.takeTrap {c s : Nat} {p : PendTrap} (h : MemOk f) : MemOk (f.takeTrap ctl c s p) := by
  dsimp only [Fab.takeTrap]
  split
  · refine .ite h.fatal ?_
    split
    · exact h
    · split
      · next e3 => exact (MemOk.of_eq e3 h.coreRead).modGroup.parkEntry
      · next e3 =>
          have hg1 := MemOk.of_eq e3 h.coreRead
          split
          · next e4 => exact (MemOk.of_eq e4 hg1.coreRead).modGroup.parkEntry
          · next e4 =>
              have hg2 := MemOk.of_eq e4 hg1.coreRead
              refine .ite hg2.fatal ?_
              split
              · next e5 => exact (MemOk.of_eq e5 hg2.coreWrite).modGroup.parkEntry
              · next e5 => exact (MemOk.of_eq e5 hg2.coreWrite).modGroup
              · next e5 => exact (MemOk.of_eq e5 hg2.coreWrite).fatal
          · next e4 => exact (MemOk.of_eq e4 hg1.coreRead).fatal
      · next e3 => exact (MemOk.of_eq e3 h.coreRead).fatal
  · exact h
theorem MemOk.reapBatches {c s : Nat} (h : MemOk f) : MemOk (f.reapBatches c s) := h.modGroup
theorem MemOk.retireRem {c s : Nat} (h : MemOk f) : MemOk (f.retireRem c s) := h.modGroup.reportEnd
theorem MemOk.retireHeld {c s : Nat} (h : MemOk f) : MemOk (f.retireHeld c s) := h.reapBatches.retireRem
theorem MemOk.flushOne {c s : Nat} (h : MemOk f) : MemOk (f.flushOne ctl c s) := by
  dsimp only [Fab.flushOne]
  split
  · split
    · refine .ite h.modGroup.postEng (.ite h ?_)
      split
      · next e4 => exact (MemOk.of_eq e4 h.coreRead).parkEntry
      · next e4 =>
          have hg1 := MemOk.of_eq e4 h.coreRead
          split
          · next e5 => exact (MemOk.of_eq e5 hg1.coreWrite).parkEntry
          · next e5 => exact (MemOk.of_eq e5 hg1.coreWrite).modGroup
          · next e5 => exact (MemOk.of_eq e5 hg1.coreWrite).fatal
      · next e4 => exact (MemOk.of_eq e4 h.coreRead).fatal
    · exact h
  · exact h
theorem MemOk.flushHeld {c s : Nat} (h : MemOk f) : MemOk (f.flushHeld ctl c s) := by
  dsimp only [Fab.flushHeld]
  split
  · exact h
  · exact .ite (.retireHeld (h.foldl fun _ _ hg1 => hg1.flushOne)) h
theorem MemOk.engFault {c s seq cls ord : Nat} {lanes : BitVec 64} {r : EngRec} (h : MemOk f) :
    MemOk (f.engFault ctl c s seq cls ord lanes r) :=
  h.modGroup.flushHeld
theorem MemOk.retryEntry {c s : Nat} (h : MemOk f) : MemOk (f.retryEntry ctl c s) := by
  dsimp only [Fab.retryEntry]
  split
  · exact h
  · refine .flushHeld ?_
    split
    · exact h.takeTrap
    · exact h
theorem ResOk.trapReturn {next : Bool} (h : MemOk f) : ResOk (f.trapReturn ctl i next) := by
  dsimp only [Fab.trapReturn]
  split
  · exact .trap
  · split
    · exact .xlate
    · next e1 =>
        have hg := MemOk.of_eq e1 h.coreRead
        refine .ite .trap (.ite .trap (.ite (.done hg.modGroup) ?_))
        split
        · exact .xlate
        · next e2 =>
            have hg1 := MemOk.of_eq e2 hg.fetchWord
            exact .done hg1.modGroup
        · exact .trap
    · exact .trap
theorem ResOk.trapRestart (h : MemOk f) : ResOk (f.trapRestart ctl i) := .done h.restartLanes.modGroup
theorem MemOk.commit {ls : List Nat} (h : MemOk f) : MemOk (f.commit i ls) := .ite h h.modGroup
theorem MemOk.mod {m : Group → Group} (h : MemOk f) : MemOk (i.mod f m) := h.modGroup
theorem MemOk.advance {hints : Bool × Nat} (h : MemOk f) : MemOk (f.advance i hints) := h.modGroup
theorem MemOk.trapHere {t : Trap} (h : MemOk f) : MemOk (f.trapHere ctl i t) := h.takeTrap
theorem MemOk.mergeHere (h : MemOk f) : MemOk (f.mergeHere i) := h.modGroup
theorem OutOk.lift {o : Host.Outcome Fab Fault Refusal} (ho : ∀ f, o = .next f → MemOk f) : OutOk (s.lift o) := by
  cases o with
  | next f => exact .next (ho f rfl)
  | fault e => exact .fault
  | refused e => exact .refused
/-- What becomes of an instruction that ends in a given way (R152, R155). -/
theorem ResOk.settle {f g : Fab} {r : Res} (h : MemOk f) (hr : ResOk r) (e : r.settle ctl f i = .next g) : MemOk g := by
  cases hr with
  | done hx => cases e; exact hx.mergeHere
  | after hx => cases e; exact hx.mergeHere.trapHere
  | wait hm => cases e; exact (hm f h).modGroup
  | deferred hm => cases e; exact (hm f h).trapHere.flushHeld
  | trap => cases e; exact h.trapHere
  | xlate => cases e; exact h.parkFault
  | fault => cases e
/-- The checks of an issue end in a trap or in waiting (R258). -/
theorem ResOk.checked {e : Enc} {gate : Bool} {r : Res} (hr : f.checked i e gate = some r) : ResOk r := by
  unfold Fab.checked at hr
  dsimp only at hr
  split at hr
  · cases hr; exact .trap
  · split at hr
    · cases hr; exact .trap
    · split at hr
      · cases hr; exact .trap
      · split at hr
        · cases hr; exact .wait fun _ hg => hg
        · split at hr
          · cases hr; exact .trap
          · split at hr
            · cases hr; exact .trap
            · cases hr
/-- A body, from any fabric in canonical form, ends in one. -/
def BodyOk (body : Iss → Ctl → Fab → Res) : Prop := ∀ i ctl f, MemOk f → ResOk (body i ctl f)
theorem OutOk.run {e : Enc} {gate : Iss → Fab → Bool} {body : Iss → Ctl → Fab → Res} (h : MemOk s.fab)
    (hb : BodyOk body) :
    OutOk (run e gate body s) := by
  rcases run_cases s e gate body with ⟨-, hr⟩ | ⟨i, -, ⟨-, hr⟩ | ⟨-, r, hc, hr⟩ | ⟨-, -, hr⟩⟩ <;> rw [hr]
  · exact .fault
  · exact .next h.fatal
  · exact .lift fun g hg => ResOk.settle h (ResOk.checked hc) hg
  · exact .lift fun g hg => ResOk.settle h (hb i s.ctl _ h.advance) hg
theorem MemOk.fetchWords {core ctx va n : Nat} (h : MemOk f) : MemOk (f.fetchWords ctl core ctx va n).2 := by
  induction n generalizing f va with
  | zero => exact h
  | succ n ih =>
    unfold Fab.fetchWords
    split
    · next e => exact .of_eq e h.fetchWord
    · next e => exact .of_eq e h.fetchWord
    · next e =>
        have hg := MemOk.of_eq e h.fetchWord
        split
        · next e1 => exact .of_eq e1 (ih hg)
        · exact ih hg
theorem MemOk.fetch {core ctx va : Nat} (h : MemOk f) : MemOk (f.fetch ctl core ctx va).2 := by
  dsimp only [Fab.fetch]
  split
  · next e => exact (MemOk.of_eq e h.fetchWords).fetchWords
  · exact h.fetchWords
theorem MemOk.markEligible {since : Nat} (h : MemOk f) : MemOk (f.markEligible since) :=
  h.mapCores fun _ hp => hp.mapTeam fun _ ht => .update ht
theorem MemOk.elapse {acs : Nat} (h : MemOk f) : MemOk (f.elapse acs) := .markEligible (.update h.markEligible)
theorem MemOk.recheck (h : MemOk f) : MemOk (f.recheck ctl) := by
  dsimp only [Fab.recheck]
  refine .mapCores (.update (h.foldl fun g a hg => ?_)) fun _ hp => hp.mapTeam fun _ ht => .update ht
  split
  · exact hg
  · exact hg.foldl fun _ _ hg1 => .ite hg1 (.ite hg1.retryEntry (.ite hg1.flushHeld hg1))
theorem MemOk.mergeAll (h : MemOk f) : MemOk f.mergeAll := h.mapCores fun _ hp => hp.mapTeam fun _ ht => .update ht
theorem MemOk.fetchPark {va r l : Nat} (h : MemOk f) : MemOk (f.fetchPark ctl i va r l) := h.parkFault
theorem MemOk.fetchTrap {va : Nat} (h : MemOk f) : MemOk (f.fetchTrap ctl i va) := h.trapHere
theorem MemOk.hartStore {key : BitVec 12} {pa : Nat} {bytes : List Byte} (h : MemOk f) :
    MemOk (f.hartStore ctl key pa bytes) :=
  .ite h.agentWrite h
theorem MemOk.evictI {c va : Nat} (h : MemOk f) : MemOk (f.evictI c va) := h.updateCore
theorem MemOk.evictL2 {line : Nat} (h : MemOk f) : MemOk (f.evictL2 ctl line) := by
  dsimp only [Fab.evictL2]
  split
  · exact .ite h h.l2Evict
  · exact h
theorem MemOk.takeMsi {n : Nat} (h : MemOk f) : MemOk (f.takeMsi n) := .update h
theorem MemOk.landReleased (h : MemOk f) : MemOk (f.landReleased ctl) := h.foldl fun _ _ hg => hg.l1Acquire.mapLanes
theorem MemOk.orphan {c s : Nat} (h : MemOk f) : MemOk (f.orphan ctl c s) := by
  dsimp only [Fab.orphan]
  split
  · exact .ite h (h.modGroup.retireHeld.foldl fun _ _ hg1 => hg1.postEng)
  · exact h
theorem MemOk.orphans (h : MemOk f) : MemOk (f.orphans ctl) := by
  dsimp only [Fab.orphans]
  refine h.foldl fun g a hg => ?_
  split
  · exact hg
  · exact hg.foldl fun _ _ hg1 => hg1.orphan
theorem MemOk.reportHitches (h : MemOk f) : MemOk f.reportHitches := h.foldl fun _ _ hg => hg.reportHitch
theorem MemOk.settle {m : Move} (h : MemOk f) : MemOk (f.settle ctl m) := by
  dsimp only [Fab.settle]
  split
  · exact .update h.resendWaiters.idlesGo.reportHitches.landReleased.orphans.mergeAll
  · refine .recheck (.update (.mergeAll (.orphans (.landReleased (.reportHitches (.idlesGo (.resendWaiters ?_)))))))
    split
    · exact h.landEntries
    · exact h
theorem MemOk.sectorClear {c sec : Nat} (h : MemOk f) : MemOk (f.sectorClear c sec) := h.modTeam fun _ ht => .update ht
theorem MemOk.sectorSet {c sec : Nat} (h : MemOk f) : MemOk (f.sectorSet c sec) := by
  dsimp only [Fab.sectorSet]
  refine h.modTeam fun t ht => ?_
  split
  · exact ht
  · split <;> exact .update ht
theorem MemOk.wakeBarriers {c : Nat} (h : MemOk f) : MemOk (f.wakeBarriers ctl c) :=
  h.mapLanes.foldl fun _ _ hg => hg.l1Acquire
theorem MemOk.scrWrite {c a : Nat} {b : List Byte} (h : MemOk f) : MemOk (f.scrWrite ctl c a b) :=
  .wakeBarriers (h.modTeam fun _ ht => ⟨Memory.wf_writeBytes a b ht.1, ht.2⟩)
theorem MemOk.barUpdate {c a : Nat} {m : Bar → Bar} (h : MemOk f) : MemOk (f.barUpdate ctl c a m) := h.scrWrite
theorem MemOk.lands {c ctx : Nat} {w : Want} {n : Nat} {acc : Access} (h : MemOk f) :
    MemOk (f.lands ctl c ctx w n acc).2 := by
  dsimp only [Fab.lands]
  refine .ite_snd h ?_
  split
  · next e => exact .of_eq e h.translate
  · next e => exact .of_eq e h.translate
  · next e =>
      have hg := MemOk.of_eq e h.translate
      exact .ite_snd hg (.ite_snd hg hg)
theorem ResOk.parkAbsent {load : Bool} {absent : List (Nat × Nat)} : ResOk (i.parkAbsent load absent) :=
  .wait fun _ hg => .ite hg.mod hg
end Sys2Proof.Safety

namespace Sys2Proof.Safety
open Sys2Proof.Machine

/-! ## Bodies: control, tasks, loads and stores, barriers and queues -/

variable {ctl : Ctl} {f : Fab} {i : Iss} {s : State}

theorem ReachOk.reach {ws : List Want} {n : Nat} {acc : Access} (h : MemOk f) : ReachOk (f.reach ctl i ws n acc) := by
  unfold Fab.reach
  split
  · exact .stop .trap
  · dsimp only
    split
    · exact .stop .xlate
    · exact .stop .trap
    · exact .ok (h.foldl_snd fun _ _ hp => hp.lands)
theorem ReachOk.reachOnce {x : XmForm} {align n : Nat} {acc : Access} (h : MemOk f) :
    ReachOk (f.reachOnce ctl i x align n acc) := reach h
theorem ResOk.elementwise {opc : Nat} {x : XrForm} {op : LaneOp} (h : MemOk f) :
    ResOk (elementwise opc x op i ctl f) := by
  dsimp only [Machine.elementwise]
  split
  · exact .trap
  · exact .lanewise h
theorem OutOk.runS3 {opc : BitVec 8} {f : S3Form} {op : LaneOp} (h : MemOk s.fab) : OutOk (runS3 opc f op s) :=
  .run h fun _ _ _ hg => .elementwise hg
theorem OutOk.runSi {opc : BitVec 8} {f : SiForm} {op : LaneOp} (h : MemOk s.fab) : OutOk (runSi opc f op s) :=
  .run h fun _ _ _ hg => .elementwise hg
theorem OutOk.runXr {opc : BitVec 8} {f : XrForm} {op : LaneOp} (h : MemOk s.fab) : OutOk (runXr opc f op s) :=
  .run h fun _ _ _ hg => .elementwise hg
theorem ResOk.bodyNop (h : MemOk f) : ResOk (bodyNop i ctl f) := .done h
theorem MemOk.sealBatch {c s : Nat} (h : MemOk f) : MemOk (f.sealBatch c s) := h.modGroup.reapBatches
theorem ResOk.bodySeal (h : MemOk f) : ResOk (bodySeal i ctl f) := .done (.ite h h.sealBatch)
theorem ResOk.bodyWait {x : SwForm} (h : MemOk f) : ResOk (bodyWait x i ctl f) := by
  dsimp only [Machine.bodyWait]
  split
  · exact .done h
  · split
    · exact .done h
    · split
      · exact .deferred fun _ hg2 => .mod (.ite hg2.sealBatch hg2)
      · exact .ite (.wait fun _ hg2 => .mod (.ite hg2.sealBatch hg2)) (.done (.mod (.ite h.sealBatch h)))
theorem MemOk.waitGo {c s : Nat} (h : MemOk f) : MemOk (f.waitGo ctl c s) := by
  unfold Fab.waitGo
  split
  · split
    · refine .ite h ?_
      dsimp only
      split
      · next e => exact ResOk.settle h.modGroup (.bodyWait h.modGroup.advance) e
      · exact h
    · exact h
  · exact h
theorem MemOk.waitsGo (h : MemOk f) : MemOk (f.waitsGo ctl) := by
  dsimp only [Fab.waitsGo]
  refine h.foldl fun g a hg => ?_
  split
  · exact hg
  · exact hg.foldl fun _ _ hg1 => hg1.waitGo
theorem ResOk.withValue {opc : Nat} {x : XrForm} {go : Nat → Res} (h : MemOk f) (hgo : ∀ v, ResOk (go v)) :
    ResOk (i.withValue f opc x go) :=
  .ite (.done h) (.ite (hgo _) .trap)
theorem ResOk.bodyFence {x : XrForm} (h : MemOk f) : ResOk (bodyFence x i ctl f) :=
  .withValue h fun _ => .done h.l1Release.l1Acquire
theorem ResOk.bodyRgn {lit : DWord} (h : MemOk f) : ResOk (bodyRgn lit i ctl f) := .ite (.done h) (.done h.mod)
theorem MemOk.registerDeadlock {c : Nat} (h : MemOk f) : MemOk (f.registerDeadlock c) := by
  dsimp only [Fab.registerDeadlock]
  split
  · split
    · exact .ite h.modGroup h
    · exact h
  · exact h
theorem ResOk.bodyGrow {x : XrForm} (h : MemOk f) : ResOk (bodyGrow x i ctl f) := by
  refine .withValue h fun v => ?_
  extract_lets r k f1
  have h1 : MemOk f1 := h.updateCore
  refine .ite .trap (.ite (.done h.commit) (.ite .trap (.ite (.done h.mod.commit) (.ite .trap ?_))))
  exact .done h1.mod.registerDeadlock
theorem ResOk.bodyShrink {x : XrForm} (h : MemOk f) : ResOk (bodyShrink x i ctl f) :=
  .withValue h fun _ => .ite .trap (.done h.mod.commit)
theorem ResOk.bodyTrap {x : XrForm} (h : MemOk f) : ResOk (bodyTrap x i ctl f) := .withValue h fun _ => .trap
theorem ResOk.bodyBrk (h : MemOk f) : ResOk (bodyBrk i ctl f) := .ite (.done h) .trap
theorem ResOk.bodyRti {next : Bool} (h : MemOk f) : ResOk (bodyRti next i ctl f) := .ite (.done h) (.trapReturn h)
theorem ResOk.bodyRtiRgn (h : MemOk f) : ResOk (bodyRtiRgn i ctl f) := .ite (.done h) (.trapRestart h)
theorem MemOk.postRequests {c s : Nat} {sysQ : DWord} {ctx : Nat} {ls : List Nat} (h : MemOk f) :
    MemOk (f.postRequests ctl c s sysQ ctx ls).2.2 := by
  induction ls generalizing f with
  | nil => exact h
  | cons l ls ih =>
    unfold Fab.postRequests
    split
    · split
      · split
        · next e => exact ih (MemOk.of_eq e h.enqueueVa).modLane
        · next e => exact .of_eq e h.enqueueVa
      · exact ih h
    · exact ih h
theorem ResOk.bodySyscall {x : XrForm} (h : MemOk f) : ResOk (bodySyscall x i ctl f) := by
  refine .withValue h fun v => ?_
  split
  · exact .done h
  · extract_lets f1
    have h1 : MemOk f1 := h.foldl fun _ _ hg => .modLane (.update hg)
    split
    next e =>
    have h2 := MemOk.of_eq₃ e h1.postRequests
    exact .done (.ite h2.msi h2)
theorem ResOk.bodyIrq {x : XrForm} (h : MemOk f) : ResOk (bodyIrq x i ctl f) := by
  dsimp only [Machine.bodyIrq]
  refine .withValue h fun a => ?_
  split
  · exact .ite (.done h.commit) (.done h.mod.post)
  · exact .done h
theorem ResOk.sleepUntil {mode value : Nat} (h : MemOk f) : ResOk (i.sleepUntil f mode value) := .done h.mod
theorem ResOk.bodySleep {x : XrForm} {lit : Option DWord} (h : MemOk f) : ResOk (bodySleep x lit i ctl f) :=
  .withValue h fun _ => .sleepUntil h
theorem ResOk.bodySid {x : XrForm} (h : MemOk f) : ResOk (bodySid x i ctl f) :=
  .withValue h fun _ => .ite (.ite .trap (.pure h)) (.pure h)
theorem ResOk.bodyGctl {x : XrForm} (h : MemOk f) : ResOk (bodyGctl x i ctl f) := .ite (.done h) (.pure h.mod)
theorem ResOk.bodyExit (h : MemOk f) : ResOk (bodyExit i ctl f) := .done (h.foldl fun _ _ hg => hg.exitLane)
theorem QueueOk.descAt {va : Nat} {acc : Access} (h : MemOk f) : QueueOk (i.descAt ctl f va acc) := by
  unfold Iss.descAt
  refine .ite (.stop .trap) (.ite (.stop .trap) ?_)
  split
  · exact .stop .xlate
  · exact .stop .trap
  · next e => exact .ite (.at_ (.of_eq e h.translate)) (.stop .trap)
theorem QueueOk.queueAt {va esz : Nat} {enq : Bool} {n : Nat} (h : MemOk f) :
    QueueOk (i.queueAt ctl f va esz enq n) := by
  unfold Iss.queueAt
  split
  · next e => exact .stop (QueueOk.of_stop e (descAt h))
  · next e =>
    split
    · next e' => exact .at_ (.of_eq e' (QueueOk.of_at e (descAt h)).queueCheck)
    · exact .stop .trap
theorem MemOk.spawn {desc : Loc} {recs : List (Nat × List Byte)} (h : MemOk f) : MemOk (f.spawn ctl i desc recs).2 := by
  dsimp only [Fab.spawn]
  refine h.foldl_snd fun p a hp => ?_
  split
  · next e => exact .of_eq e (.enqueue (hp.modGrid fun _ hg1 => .update hg1))
  · next e =>
      have hg := MemOk.of_eq e (.enqueue (hp.modGrid fun _ hg1 => .update hg1))
      exact .pair (hg.modGrid fun _ hg1 => .update hg1)
theorem ResOk.bodyTspawn {x : XrForm} (h : MemOk f) : ResOk (bodyTspawn x i ctl f) := by
  dsimp only [Machine.bodyTspawn]
  refine .ite (.done h) ?_
  split
  · exact .done h
  · refine .ite .trap ?_
    split
    · exact .trap
    · split
      · next e2 => exact QueueOk.of_stop e2 (.queueAt h.l1Release)
      · next e2 =>
          have hg1 := QueueOk.of_at e2 (.queueAt h.l1Release)
          exact .ite (.done hg1.spawn.commit) (.after hg1.spawn.commit)
theorem MemOk.tnextLane {q : Nat} {desc : Loc} {r : List (Nat × DWord) × Fab} {l : Nat} (h : MemOk r.2) :
    MemOk (Fab.tnextLane ctl i q desc r l).2 := by
  unfold Fab.tnextLane
  extract_lets g
  have hg : MemOk g := by
    dsimp only [g]
    split
    · exact h.modLane.taskDone
    · exact h
  clear_value g
  have ht := hg.takeTask (ctl := ctl) (ctx := i.ctx) (gid := i.grid) (c := i.core) (s := i.slot) (l := l) (tpc := i.pc)
    (q := q) (desc := desc)
    (fuel := g.takeFuel ctl i.ctx desc)
  generalize g.takeTask ctl i.ctx i.grid i.core i.slot l i.pc q desc _ = p at ht ⊢
  obtain ⟨o, k⟩ := p
  cases o with
  | installed | malformed => exact .pair ht.installed
  | done => exact .pair ht.commit
  | _ => exact ht
theorem ResOk.bodyTnext {x : XrForm} (h : MemOk f) : ResOk (bodyTnext x i ctl f) := by
  unfold Machine.bodyTnext
  refine .ite (.done h) ?_
  split
  · exact .done h
  · extract_lets left go
    have hgo {desc g} (hg : MemOk g) : ResOk (go desc g) := by
      dsimp only [go]
      split
      · exact .done (hg.foldl_snd fun _ _ hp => hp.tnextLane)
      · exact .after (hg.foldl_snd fun _ _ hp => hp.tnextLane)
    refine .ite .trap (.ite (hgo h) ?_)
    split
    · next e => exact QueueOk.of_stop e (.queueAt h)
    · next e => exact hgo (QueueOk.of_at e (.queueAt h))
theorem ResOk.bodyBnd {x : XrForm} (h : MemOk f) : ResOk (bodyBnd x i ctl f) :=
  .ite (.done h) (.done (.cancelCore (h.foldl fun _ _ hg => hg.modLane)))
theorem MemOk.offer {core ctx inc : Nat} {v : DWord} (h : MemOk f) : MemOk (f.offer ctl core ctx inc v) := by
  dsimp only [Fab.offer]
  split
  · exact h
  · exact .ite h.setCoreInc.cancelCore h
theorem ResOk.bodyIncx {x : XrForm} (h : MemOk f) : ResOk (bodyIncx x i ctl f) := by
  dsimp only [Machine.bodyIncx]
  split
  · exact .done (.offer (.ite h.l1Release h))
  · exact .done h
theorem ResOk.bodyIncr {x : XrForm} (h : MemOk f) : ResOk (bodyIncr x i ctl f) := .pure (.ite h.l1Acquire h)
theorem MemOk.pushStore {scope : Nat} {kind : StoreKind} {pieces : List Piece} (h : MemOk f) :
    MemOk (i.pushStore f scope kind pieces) :=
  h.mod
theorem MemOk.pushLoad {scope : Nat} {kind : LoadKind} {d : RegNo} {bytes : Nat} {signed : Bool} {tag : Tag}
    {locs : List (Nat × Loc)} (h : MemOk f) :
    MemOk (i.pushLoad f scope kind d bytes signed tag locs) :=
  h.mod
theorem ResOk.withLocs {x : XmForm} {align n : Nat} {acc : Access} {load : Bool} {go : List (Nat × Loc) → Fab → Res}
    (h : MemOk f) (hgo : ∀ (a : List (Nat × Loc)) (a_1 : Fab), MemOk a_1 → ResOk (go a a_1)) :
    ResOk (i.withLocs ctl f x align n acc load go) := by
  dsimp only [Iss.withLocs]
  refine .ite (.done h) ?_
  split
  · next e => exact ReachOk.of_stop e (.reach h)
  · next e =>
      have hg := ReachOk.of_ok e (.reach h)
      split
      · exact hgo _ _ hg
      · exact .parkAbsent
theorem ResOk.bodyLd {x : XmForm} (h : MemOk f) : ResOk (bodyLd x i ctl f) :=
  .withLocs h fun _ _ hg => .done hg.pushLoad
theorem ResOk.bodySt {x : XmForm} (h : MemOk f) : ResOk (bodySt x i ctl f) :=
  .withLocs h fun _ _ hg => .done hg.pushStore
theorem MemOk.pushAtomic {x : XmForm} {kind : StoreKind} {pieces : List Piece} {ret : Option Tag} (h : MemOk f) :
    MemOk (i.pushAtomic f x kind pieces ret) := by
  dsimp only [Iss.pushAtomic]
  refine .commit (.pushStore ?_)
  split
  · exact h.mod
  · exact h
theorem ResOk.bodyAtom {x : XmForm} (h : MemOk f) : ResOk (bodyAtom x i ctl f) :=
  .withLocs h fun _ _ hg => .done hg.pushAtomic
theorem ResOk.bodyCas {x : XmForm} (h : MemOk f) : ResOk (bodyCas x i ctl f) :=
  .withLocs h fun _ _ hg => .done hg.pushAtomic
theorem MemOk.prefetch {l1 : Bool} {va : Nat} (h : MemOk f) : MemOk (f.prefetch ctl i l1 va) := by
  dsimp only [Fab.prefetch]
  refine .ite h ?_
  split
  · next e =>
      have hg := MemOk.of_eq e h.translate
      exact .ite hg (.ite hg.load hg.l2Read)
  · exact h
theorem ResOk.bodyPf {x : XmForm} (h : MemOk f) : ResOk (bodyPf x i ctl f) := .done (h.foldl fun _ _ hg => hg.prefetch)
theorem ResOk.bodyPin {x : XmForm} (h : MemOk f) : ResOk (bodyPin x i ctl f) :=
  .withLocs h fun _ _ hg => .done hg.pushLoad
theorem ResOk.bodyUnpin {x : XmForm} (h : MemOk f) : ResOk (bodyUnpin x i ctl f) :=
  .withLocs h fun _ _ hg => .done hg.pushStore
theorem ResOk.bodyCfl {x : XmForm} (h : MemOk f) : ResOk (bodyCfl x i ctl f) :=
  .withLocs h fun _ _ hg => .done hg.pushStore
theorem MemOk.l1InvalidateClean {c line : Nat} (h : MemOk f) : MemOk (f.l1InvalidateClean c line) := by
  unfold Fab.l1InvalidateClean
  split
  · exact h
  · next l e =>
    refine h.l1Put ?_
    have hl := h.core.l1Find e
    clear e
    generalize List.range 4 = ss
    induction ss generalizing l with
    | nil => exact hl
    | cons s ss ih =>
      rw [List.foldl_cons]
      refine ih _ ?_
      split
      · dsimp only
        exact Memory.wf_writeBytes _ _ hl
      · exact hl
theorem ResOk.cinvData {x : XmForm} (h : MemOk f) : ResOk (cinvData x i ctl f) := by
  dsimp only [Machine.cinvData]
  split
  · exact .trap
  · split
    · exact .xlate
    · refine .done (.foldl (h.foldl_snd fun _ _ hp => .pair hp.translate) fun g a hg => ?_)
      split
      · exact .ite hg.l1InvalidateClean hg
      · exact hg
theorem ResOk.cinvInstr {x : XmForm} (h : MemOk f) : ResOk (cinvInstr x i f) := by
  dsimp only [Machine.cinvInstr]
  split
  · exact .trap
  · exact .done h.updateCore
theorem ResOk.bodyCinv {x : XmForm} (h : MemOk f) : ResOk (bodyCinv x i ctl f) := by
  dsimp only [Machine.bodyCinv]
  refine .ite (.done h) ?_
  split
  · exact .cinvInstr h
  · exact .cinvData h
  · exact .done h.updateCore
theorem ResOk.withBar {x : XmForm} {go : Loc → Fab → Res} (h : MemOk f) (hgo : ∀ a k, MemOk k → ResOk (go a k)) :
    ResOk (i.withBar ctl f x go) := by
  dsimp only [Iss.withBar]
  refine .ite (.done h) ?_
  split
  · next e => exact ReachOk.of_stop e (.reachOnce h)
  · next e =>
      have hg := ReachOk.of_ok e (.reachOnce h)
      split
      · exact hgo _ _ hg
      · exact .done hg
theorem ResOk.bodyBari {x : XmForm} (h : MemOk f) : ResOk (bodyBari x i ctl f) :=
  .withBar h fun _ _ hg => .ite .trap (.done hg.pushStore)
theorem ResOk.bodyBarv {x : XmForm} (h : MemOk f) : ResOk (bodyBarv x i ctl f) :=
  .withBar h fun _ _ hg => .done hg.pushStore.commit
theorem ResOk.bodyBarx {x : XmForm} (h : MemOk f) : ResOk (bodyBarx x i ctl f) :=
  .withBar h fun _ _ hg => .done hg.pushStore.commit
theorem ResOk.bodyBarw {x : XmForm} (h : MemOk f) : ResOk (bodyBarw x i ctl f) := by
  dsimp only [Machine.bodyBarw]
  refine .withBar h fun a g hg => ?_
  split
  · exact .ite (.wait fun _ hg2 => hg2) (.ite (.done (.ite hg hg.l1Acquire))
      (.done (hg.foldl fun _ _ hg2 => hg2.modLane)))
  · exact .done hg
theorem ResOk.pushQueue {x : XmForm} {kind : StoreKind} {data : Nat → List Byte} (h : MemOk f) :
    ResOk (i.pushQueue ctl f x kind data) := by
  dsimp only [Iss.pushQueue]
  refine .ite (.done h) ?_
  split
  · next e => exact QueueOk.of_stop e (.descAt h)
  · next e =>
      have hg := QueueOk.of_at e (.descAt h)
      exact .done (hg.pushStore.foldl fun _ _ hg1 => hg1.modLane)
theorem ResOk.bodyQenq {x : XmForm} (h : MemOk f) : ResOk (bodyQenq x i ctl f) := .pushQueue h
theorem ResOk.bodyQdeq {x : XmForm} (h : MemOk f) : ResOk (bodyQdeq x i ctl f) := .pushQueue h
theorem ResOk.bodyQpoll {x : XmForm} (h : MemOk f) : ResOk (bodyQpoll x i ctl f) := by
  dsimp only [Machine.bodyQpoll]
  refine .ite (.done h) ?_
  split
  · next e => exact QueueOk.of_stop e (.descAt h)
  · next e =>
      have hg := QueueOk.of_at e (.descAt h)
      split
      · exact .trap
      · next e1 =>
          have hg1 := MemOk.of_eq e1 hg.queueGet
          exact .pure (.ite hg1.l1Acquire hg1)
theorem ResOk.bodyPres {x : XmForm} (h : MemOk f) : ResOk (bodyPres x i ctl f) := by
  dsimp only [Machine.bodyPres]
  refine .ite (.done h) ?_
  split
  · next e => exact ReachOk.of_stop e (.reach h)
  · next e =>
      have hg := ReachOk.of_ok e (.reach h)
      split
      · exact .done hg.pushLoad
      · exact .done hg.pushStore
      · exact .ite (.wait fun _ hg1 => hg1) (.done hg.pushStore)
end Sys2Proof.Safety

namespace Sys2Proof.Safety
open Sys2Proof.Machine

/-! ## Reads and writes of the engines; routines -/

variable {ctl : Ctl} {f : Fab} {i : Iss} {s : State}

/-- Reading descriptors stops in a trap or in waiting. -/
theorem ResOk.of_descs {us : List (List Nat × List Nat)} {r : Res} (e : f.descs i us = .stop r) : ResOk r := by
  unfold Fab.descs at e
  dsimp only at e
  split at e
  · cases e; exact .trap
  · split at e
    · cases e
    · cases e; exact .parkAbsent
theorem ResOk.of_parse {core : Nat} {us : List (List Nat × List (List Byte))} {ok : List Tile → Bool} {r : Res}
    (e : parseDescs core us ok = .inr r) : ResOk r := by
  unfold parseDescs at e
  dsimp only at e
  split at e
  · cases e
  · cases e; exact .trap
theorem EngOk.bind {α β : Type} {x : Eng α} {g : α → Fab → Eng β} (hx : EngOk x) (hg : ∀ a f, MemOk f → EngOk (g a f)) :
    EngOk (x.bind g) := by
  cases hx with
  | ok h => exact hg _ _ h
  | xlate h => exact .xlate h
  | fault h => exact .fault h
theorem EngOk.elem {α : Type} {x : Eng α} {r c : Nat} (hx : EngOk x) : EngOk (x.elem r c) := by
  cases hx with
  | ok h => exact .ok h
  | xlate h => exact .xlate h
  | fault h => exact .fault h
theorem EngOk.denying {α : Type} {pages : List Nat} {g : Fab → Eng α} (hg : ∀ k, MemOk k → EngOk (g k)) (h : MemOk f) :
    EngOk (Eng.denying pages g f) := by
  dsimp only [Eng.denying]
  split
  · next e =>
      have hg1 := EngOk.of_ok e (hg _ (.update h))
      exact .ok (.update hg1)
  · next e1 =>
      have hg1 := EngOk.of_fault e1 (hg _ (.update h))
      exact .fault (.update hg1)
  · next e1 =>
      have hg1 := EngOk.of_xlate e1 (hg _ (.update h))
      exact .xlate (.update hg1)
theorem EngOk.copying {α : Type} {lines : List (Nat × List Byte)} {g : Fab → Eng α} (hg : ∀ k, MemOk k → EngOk (g k))
    (h : MemOk f) :
    EngOk (Eng.copying lines g f) := by
  dsimp only [Eng.copying]
  split
  · next e =>
      have hg1 := EngOk.of_ok e (hg _ (.update h))
      exact .ok (.update hg1)
  · next e1 =>
      have hg1 := EngOk.of_fault e1 (hg _ (.update h))
      exact .fault (.update hg1)
  · next e1 =>
      have hg1 := EngOk.of_xlate e1 (hg _ (.update h))
      exact .xlate (.update hg1)
theorem EngOk.engMap {α β : Type} {g : α → Fab → Eng β} {xs : List α} (hg : ∀ a f, MemOk f → EngOk (g a f))
    (h : MemOk f) :
    EngOk (engMap g xs f) := by
  induction xs generalizing f with
  | nil => exact .ok h
  | cons x xs ih => exact .bind (hg x f h) fun _ _ hf => .bind (ih hf) fun _ _ hk => .ok hk
theorem EngOk.engLocs {core ctx as addr n : Nat} {acc : Access} (h : MemOk f) :
    EngOk (Fab.engLocs ctl core ctx as addr n acc f) := by
  dsimp only [Fab.engLocs]
  refine .ite (.bind (.engMap (fun a g hg => .ite (.fault hg) ?_) h) fun _ _ hg => .ite (.ok hg) (.fault hg))
    (.ite (.ok h) (.fault h))
  split
  · next e =>
      have hg1 := MemOk.of_eq e hg.translate
      exact .xlate hg1
  · next e =>
      have hg1 := MemOk.of_eq e hg.translate
      exact .fault hg1
  · next e =>
      have hg1 := MemOk.of_eq e hg.translate
      exact .ite (.ok hg1) (.ite (.ok hg1) (.fault hg1))
theorem MemOk.engGet {core ctx : Nat} {loc : Loc} {n : Nat} (h : MemOk f) : MemOk (f.engGet ctl core ctx loc n).2 := by
  dsimp only [Fab.engGet]
  split
  · exact h
  · refine .ite_snd ?_ h.sliceRead
    split
    · next e => exact .of_eq e h.mmioRead
    · next e => exact .of_eq e h.mmioRead
theorem MemOk.engPut {core ctx : Nat} {loc : Loc} {b : List Byte} (h : MemOk f) :
    MemOk (f.engPut ctl core ctx loc b) := by
  dsimp only [Fab.engPut]
  split
  · exact h.scrWrite
  · exact .ite (.update h) h.l1DropRange.sliceWrite
theorem EngOk.engRead {core ctx as addr n : Nat} (h : MemOk f) : EngOk (Fab.engRead ctl core ctx as addr n f) := by
  dsimp only [Fab.engRead]
  refine .bind (.engLocs h) fun a g hg => ?_
  split
  · exact .ok hg
  · exact .ok (hg.foldl_snd fun _ _ hp => .pair hp.engGet)
theorem EngOk.lineRead {core ctx as line : Nat} (h : MemOk f) : EngOk (Fab.lineRead ctl core ctx as line f) := by
  dsimp only [Fab.lineRead]
  refine .ite (.ok h) (.ite (.ok h) ?_)
  split
  · next e =>
      have hg := MemOk.of_eq e h.translate
      exact .xlate hg
  · next e =>
      have hg := MemOk.of_eq e h.translate
      exact .ok hg
  · next e =>
      have hg := MemOk.of_eq e h.translate
      exact .ite (.ok hg) (.ok hg.engGet)
theorem EngOk.engWrite {core ctx as addr : Nat} {b : List Byte} (h : MemOk f) :
    EngOk (Fab.engWrite ctl core ctx as addr b f) :=
  .bind (.engLocs h) fun _ _ hg => .ok (hg.foldl_fst fun _ _ hp => hp.engPut)
theorem EngOk.bitsRead {core ctx as : Nat} {p : Nat × Nat} {bits : Nat} (h : MemOk f) :
    EngOk (Fab.bitsRead ctl core ctx as p bits f) :=
  .bind (.engRead h) fun _ _ hg => .ok hg
theorem EngOk.bitsWrite {core ctx as : Nat} {p : Nat × Nat} {bits v : Nat} (h : MemOk f) :
    EngOk (Fab.bitsWrite ctl core ctx as p bits v f) :=
  .ite (.engWrite h) (.bind (.engRead h) fun _ _ hg => .engWrite hg)
theorem EngOk.scaleRead {ctx : Nat} {t : Tile} {line blk : Nat} (h : MemOk f) :
    EngOk (Fab.scaleRead ctl ctx t line blk f) :=
  .bitsRead h
theorem EngOk.storedAt {ctx : Nat} {t : Tile} {rc : Nat × Nat} (h : MemOk f) : EngOk (Fab.storedAt ctl ctx t rc f) :=
  .bind (.engRead h) fun _ _ hg => .ok hg
theorem EngOk.sparseElt {ctx : Nat} {t : Tile} {rc : Nat × Nat} (h : MemOk f) :
    EngOk (Fab.sparseElt ctl ctx t rc f) := by
  dsimp only [Fab.sparseElt]
  refine .elem (.bind (.storedAt h) fun a g hg => ?_)
  split
  · exact .ok hg
  · exact .bind (.bitsRead hg) fun _ _ hg1 => .ite (.bind (.scaleRead hg1) fun _ _ hg2 => .ok hg2) (.ok hg1)
theorem EngOk.tileElt {ctx : Nat} {t : Tile} {rc : Nat × Nat} (h : MemOk f) : EngOk (Fab.tileElt ctl ctx t rc f) :=
  .ite (.sparseElt h) (.elem (.bind (.bitsRead h) fun _ _ hg =>
    .ite (.bind (.scaleRead hg) fun _ _ hg1 => .ok hg1) (.ok hg)))
theorem EngOk.tileElts {ctx : Nat} {t : Tile} (h : MemOk f) : EngOk (Fab.tileElts ctl ctx t f) :=
  .engMap (fun _ _ hg => .tileElt hg) h
theorem EngOk.tilePut {ctx : Nat} {t : Tile} {rc : Nat × Nat} {v : Nat} (h : MemOk f) :
    EngOk (Fab.tilePut ctl ctx t rc v f) := by
  dsimp only [Fab.tilePut]
  refine .ite (.elem (.bind (.storedAt h) fun a g hg => ?_)) (.elem (.bitsWrite h))
  split
  · exact .ok hg
  · exact .bitsWrite hg
theorem EngOk.blockPut {ctx : Nat} {t : Tile} {line blk : Nat} {b : Nat × Nat} (h : MemOk f) :
    EngOk (Fab.blockPut ctl ctx t line blk b f) :=
  .elem (.bind (.bitsWrite h) fun _ _ hg => .bitsWrite hg)
theorem MemOk.readBody {core ctx n va : Nat} (h : MemOk f) : MemOk (Fab.readBody ctl core ctx n va f).2.2.2 := by
  induction n generalizing f va with
  | zero => exact h
  | succ n ih =>
    unfold Fab.readBody
    split
    · next e =>
      have hg := MemOk.of_eq e h.coreRead
      dsimp only
      split
      · next e' => exact ih (MemOk.of_eq e' hg.coreRead)
      · next e' => exact MemOk.of_eq e' hg.coreRead
    · next e => exact MemOk.of_eq e h.coreRead
theorem MemOk.of_readBody {core ctx n va k : Nat} {f g : Fab} {a : CoreAcc} {ws : List (List Word)}
    (e : Fab.readBody ctl core ctx n va f = (a, ws, k, g)) (h : MemOk f) : MemOk g := by
  simpa only [e] using h.readBody (ctl := ctl) (core := core) (ctx := ctx) (n := n) (va := va)
theorem ResOk.stop {a : CoreAcc} {va : Nat} {acc : Access} : ResOk (a.stop i va acc) := by
  dsimp only [CoreAcc.stop]
  split
  · exact .xlate
  · exact .trap
theorem ResOk.bodyRdef {x : XrForm} (h : MemOk f) : ResOk (bodyRdef x i ctl f) := by
  dsimp only [Machine.bodyRdef]
  refine .ite (.done h) (.ite .trap (.ite .trap ?_))
  split
  · next e =>
    split
    · exact .trap
    · split
      · next eb =>
        have hb := MemOk.of_readBody eb (.of_eq e h.coreRead)
        split
        · exact .ite .trap (.done hb.modCtx)
        · exact .trap
      · exact .stop
  · exact .stop
theorem ResOk.bodyRdel {x : XrForm} (h : MemOk f) : ResOk (bodyRdel x i ctl f) :=
  .ite (.done h) (.ite .trap (.done h.modCtx))
end Sys2Proof.Safety

namespace Sys2Proof.Safety
open Sys2Proof.Machine

/-! ## Copies and matrix operations -/

variable {ctl : Ctl} {f : Fab} {i : Iss} {s : State}

theorem MemOk.pushCopy {kind : CopyKind} {receivers : List Nat} {ps : List CopyPart} (h : MemOk f) :
    MemOk (i.pushCopy f kind receivers ps) := by
  unfold Iss.pushCopy
  extract_lets f1
  have h1 : MemOk f1 := by
    dsimp only [f1]
    split
    · exact .ite h.sealBatch h
    · exact h
  split
  · exact h1
  · extract_lets o f2
    have h2 : MemOk f2 := .updateCore (.mod (.update h1))
    exact .commit (h2.foldl fun _ _ hg => hg.sectorClear)
theorem MemOk.copyRelease {as : Nat} (h : MemOk f) : MemOk (f.copyRelease ctl i as) := .ite h.l1Release h
theorem ResOk.bodyCpl {x : XmForm} (h : MemOk f) : ResOk (bodyCpl x i ctl f) := by
  dsimp only [Machine.bodyCpl]
  refine .ite (.done h) ?_
  split
  · exact .trap
  · exact .ite (.wait fun _ hg => hg) (.done h.copyRelease.pushCopy)
theorem ResOk.bodyCpt {x : XtForm} (h : MemOk f) : ResOk (bodyCpt x i ctl f) := by
  dsimp only [Machine.bodyCpt]
  refine .ite (.done h) ?_
  split
  · next e => exact ResOk.of_descs e
  · split
    · next e3 => exact ResOk.of_parse e3
    · split
      · exact .trap
      · exact .ite (.wait fun _ hg1 => hg1) (.done h.copyRelease.pushCopy)
    · exact .trap
  · exact .done h
theorem EngOk.copyElt {ctx : Nat} {s d : Tile} {mode : Nat} {rc : Nat × Nat} (h : MemOk f) :
    EngOk (Fab.copyElt ctl ctx s d mode rc f) :=
  .ite (.bind (.tileElt h) fun _ _ hg => .ok hg) (.ok h)
theorem EngOk.copyBlock {ctx : Nat} {s d : Tile} {line blk : Nat} (h : MemOk f) :
    EngOk (Fab.copyBlock ctl ctx s d line blk f) :=
  .ite (.ok h) (.ite (.elem (.bind (.bitsRead h) fun _ _ hg => .bind (.scaleRead hg) fun _ _ hg1 => .ok hg1))
    (.bind (.engMap (fun _ _ hg => .tileElt hg) h) fun _ _ hg => .ok hg))
theorem EngOk.copyBytes {ctx : Nat} {s : Tile} {src dst n : Nat} (h : MemOk f) :
    EngOk (Fab.copyBytes ctl ctx s src dst n f) :=
  .bind (.engRead h) fun _ _ hg => .ok hg
/-- A unit of a copy leaves memories in canonical form: it reads, and writes nothing itself. -/
def UnitOk (u : CopyUnit) : Prop := ∀ f, MemOk f → EngOk (u.go f)
theorem UnitOk.copyUnits {ctx : Nat} {s d : Tile} {mode : Nat} : ∀ u ∈ Fab.copyUnits ctl ctx s d mode, UnitOk u := by
  unfold Fab.copyUnits
  extract_lets copyPlane
  have hp (rc src dst n) : UnitOk (copyPlane rc src dst n) := fun _ h => .copyBytes h
  split
  · refine List.forall_mem_append.mpr ⟨?_, ?_⟩
    · refine List.forall_mem_flatMap.mpr fun c _ => List.forall_mem_cons.mpr ⟨hp _ _ _ _, ?_⟩
      exact List.forall_mem_map.mpr fun _ _ => hp _ _ _ _
    · split
      · exact List.forall_mem_map.mpr fun _ _ => hp _ _ _ _
      · exact fun _ hu => nomatch hu
  · split
    · refine List.forall_mem_flatMap.mpr fun _ _ => List.forall_mem_map.mpr fun _ _ _ h => .copyBlock h
    · exact List.forall_mem_map.mpr fun _ _ _ h => .bind (.copyElt h) fun _ _ hg => .ok hg
theorem EngOk.copyRun {writes : Fab → Nat → List BitRun → CopyOut → CopyOut} {us : List (Nat × CopyUnit)} {o : CopyOut}
    {f : Fab}
    (hu : ∀ p ∈ us, UnitOk p.2) (h : MemOk f) : EngOk (copyRun writes us o f) := by
  induction us generalizing o f with
  | nil => exact .ok h
  | cons p us ih =>
    obtain ⟨hp, hu⟩ := List.forall_mem_cons.mp hu
    unfold Machine.copyRun
    split
    · next e => exact ih hu (EngOk.of_ok e (hp _ h))
    · next e => exact ih hu (EngOk.of_fault e (hp _ h))
    · next e => exact .xlate (EngOk.of_xlate e (hp _ h))
theorem UnitOk.foldUnit {ctx : Nat} {s d : Tile} {mode : Nat} {r : Routine} {gcw : Word} {row : Nat} :
    UnitOk (Fab.foldUnit ctl ctx s d mode r gcw row) := fun _ h => by
  refine .bind (.engMap (fun _ _ hg => .copyElt hg) h) fun _ _ hg => ?_
  split
  · exact .ok hg
  · exact .fault hg
theorem UnitOk.cptUnits {ctx : Nat} {s d : Tile} {mode rmode : Nat} {r : Option Routine} {gcw : Word} :
    ∀ u ∈ Fab.cptUnits ctl ctx s d mode rmode r gcw, UnitOk u := by
  unfold Fab.cptUnits
  split
  · split
    · exact copyUnits
    · exact List.forall_mem_map.mpr fun _ _ => foldUnit
  · exact copyUnits
/-- Units keep what holds of them when they are numbered. -/
theorem UnitOk.mapIdx {us : List CopyUnit} (hu : ∀ u ∈ us, UnitOk u) :
    ∀ p ∈ us.mapIdx (fun k u => (k, u)), UnitOk p.2 :=
  fun p hp => by
  obtain ⟨k, hk, rfl⟩ := List.mem_mapIdx.mp hp
  exact hu _ (List.getElem_mem hk)
theorem EngOk.cptWork {ctx : Nat} {s d : Tile} {mode rmode : Nat} {routine : Option Routine} {receivers : List Nat}
    {gcw : Word}
    {lines : Option (List Nat)} (h : MemOk f) : EngOk
      (Fab.cptWork ctl ctx s d mode rmode routine receivers gcw lines f) := by
  unfold Fab.cptWork
  extract_lets plain us
  have hu : ∀ p ∈ us, UnitOk p.2 := fun p hp => UnitOk.mapIdx UnitOk.cptUnits p (List.mem_of_mem_filter hp)
  split
  · exact .copyRun hu h
  · exact .ite (.ok h) (.ite (.copyRun hu h) (.copyRun hu h))
theorem EngOk.cplWork {core ctx n : Nat} {parts : List CplPart} (h : MemOk f) :
    EngOk (Fab.cplWork ctl core ctx n parts f) :=
  .copyRun (UnitOk.mapIdx (List.forall_mem_map.mpr fun _ _ _ h => .bind (.engRead h) fun _ _ hg => .ok hg)) h
theorem MemOk.engPark {core slot ctx : Nat} {pc : Addr} {va : Nat} {acc : Access} {reason level : Nat}
    {who : Requester} (h : MemOk f) :
    MemOk (f.engPark ctl core slot ctx pc va acc reason level who) :=
  h.faultTake
theorem MemOk.modCopy {core id : Nat} {m : CopyOp → CopyOp} (h : MemOk f) : MemOk (f.modCopy core id m) := h.updateCore
theorem EngOk.copyWork {core : Nat} {o : CopyOp} {lines : Option (List Nat)} (h : MemOk f) :
    EngOk (Fab.copyWork ctl core o lines f) := by
  dsimp only [Fab.copyWork]
  refine .copying (fun g hg => .denying (fun g1 hg1 => ?_) hg) h
  split
  · exact .cplWork hg1
  · exact .cptWork hg1
theorem MemOk.copyFault {core : Nat} {o : CopyOp} {fault : Option EngErr} (h : MemOk f) :
    MemOk (f.copyFault ctl core o fault).2 := by
  dsimp only [Fab.copyFault]
  split
  · exact h
  · exact .pair (.engFault (.update h))
theorem EngOk.copyHand {core : Nat} {o : CopyOp} (h : MemOk f) : EngOk (f.copyHand ctl core o) :=
  .bind (.copyWork h) fun _ _ hg => .ok hg.copyFault.modCopy
theorem MemOk.holdLine {core id : Nat} {b : List (Nat × List Byte)} (h : MemOk f) : MemOk (f.holdLine core id b) :=
  h.foldl fun _ _ hg => .ite (.update hg.modCopy) hg.modCopy
theorem EngOk.holdLines {core : Nat} {o : CopyOp} {as : Nat} {ls : List Nat} (h : MemOk f) :
    EngOk (Fab.holdLines ctl core o as ls f) := by
  induction ls generalizing f with
  | nil => exact .ok h
  | cons l ls ih => exact .bind (.lineRead h) fun _ _ hg => ih hg.holdLine
theorem EngOk.bightHand {core : Nat} {o : CopyOp} {line : Nat} (h : MemOk f) : EngOk (f.bightHand ctl core o line) :=
  .bind (.copying (fun _ hg => .denying (fun _ hg1 => .holdLines hg1) hg) h) fun _ _ hg =>
    .bind (.copyWork hg) fun _ _ hg1 => .ok hg1.copyFault.modCopy
theorem MemOk.freeBights {core : Nat} {o : CopyOp} (h : MemOk f) : MemOk (f.freeBights ctl core o) := .update h.modCopy
theorem MemOk.deliverPart {core : Nat} {o : CopyOp} {piece : Nat} (h : MemOk f) :
    MemOk (f.deliverPart ctl core o piece) := by
  unfold Fab.deliverPart
  split
  · exact h
  · extract_lets f1 f2 f3 rest f4 k
    have h4 : MemOk f4 := .freeBights (.foldl (.sectorSet (h.foldl fun _ _ hg => hg.scrWrite)) fun _ _ hg =>
      hg.barUpdate)
    exact .ite (.reportEnd (.reapBatches (h4.updateCore))) h4.modCopy
theorem EngOk.copyReady {core : Nat} {o : CopyOp} {line : Nat} (h : MemOk f) : EngOk (f.copyReady ctl core o line) :=
  .ite (.ite (.ok h) (.copyHand h)) (.ite (.ok h) (.bightHand h))
theorem MemOk.copyDeliver {core id piece : Nat} (h : MemOk f) : MemOk (f.copyDeliver ctl core id piece) := by
  dsimp only [Fab.copyDeliver]
  split
  · exact h
  · refine .ite h ?_
    split
    · next e1 => exact (EngOk.of_ok e1 (.copyReady h)).deliverPart
    · next e1 => exact (EngOk.of_xlate e1 (.copyReady h)).engPark
    · next e2 => exact EngOk.of_fault e2 (.copyReady h)
theorem OutOk.execCopySectorDeliver {core op piece : Nat} (h : MemOk s.fab) :
    OutOk (execCopySectorDeliver core op piece s) :=
  .next h.copyDeliver
theorem MemOk.pushMx {routine : Option Routine} {op : EngOp} (h : MemOk f) : MemOk (i.pushMx f routine op) := by
  dsimp only [Iss.pushMx]
  split
  · exact h
  · exact h.updateCore.mod
theorem ResOk.withTiles {us : List (List Nat)} {regs : List RegNo} {ok : List Tile → Bool}
    {go : List (List Nat × List Tile) → Res} (h : MemOk f) (hgo : ∀ ts, ResOk (go ts)) :
    ResOk (i.withTiles f us regs ok go) := by
  dsimp only [Iss.withTiles]
  refine .ite (.done h) ?_
  split
  · next e => exact ResOk.of_descs e
  · split
    · next e1 => exact ResOk.of_parse e1
    · exact hgo _
theorem MemOk.setView {c s : Nat} {v : SlotView} (h : MemOk f) : MemOk (f.setView c s v) :=
  h.modTeam fun _ ht => .update ht
theorem MemOk.setSlot {c s : Nat} {v : BSlot} (h : MemOk f) (hv : v.bytes.wf = true) : MemOk (f.setSlot c s v) :=
  h.modTeam fun _ ht => ⟨ht.1, fun b hb => (List.mem_or_eq_of_mem_set hb).elim (ht.2 b) fun e => e ▸ hv⟩
theorem ResOk.bodyBld {x : XtForm} (h : MemOk f) : ResOk (bodyBld x i ctl f) := by
  dsimp only [Machine.bodyBld]
  refine .withTiles h fun a => ?_
  split
  · exact .done h.pushMx.setView
  · exact .done h
theorem EngOk.bldElements {ctx : Nat} {t : Tile} (h : MemOk f) : EngOk (Fab.bldElements ctl ctx t f) :=
  .ite (.bind (.engMap (fun _ _ hg => .elem (.engRead hg)) h) fun _ _ hg => .ok hg)
    (.bind (.engMap (fun _ _ hg => .tileElt hg) h) fun _ _ hg => .ok hg)
theorem EngOk.bldMeta {ctx : Nat} {t : Tile} (h : MemOk f) : EngOk (Fab.bldMeta ctl ctx t f) :=
  .ite (.ok h) (.bind (.engMap (fun _ _ hg => .bind (.engRead hg) fun _ _ hg1 => .ite (.ok hg1) (.fault hg1)) h)
    fun _ _ hg => .ok hg)
theorem EngOk.bldScales {ctx : Nat} {t : Tile} (h : MemOk f) : EngOk (Fab.bldScales ctl ctx t f) :=
  .ite (.ok h) (.bind (.engMap (fun _ _ hg => .elem (.bind (.scaleRead hg) fun _ _ hg1 => .ok hg1)) h) fun _ _ hg =>
    .ok hg)
theorem EngOk.bldWork {c ctx slot : Nat} {t : Tile} (h : MemOk f) : EngOk (Fab.bldWork ctl c ctx slot t f) :=
  .bind (.bldElements (h.setSlot rfl)) fun _ _ hg => .bind (.bldMeta hg) fun _ _ hg =>
    .bind (.bldScales hg) fun _ _ hg =>
    .ok (hg.setSlot (Memory.wf_writeBytes _ _ rfl))
theorem ResOk.bodyMma {binary : Option Bool} {x : XtForm} (h : MemOk f) : ResOk (bodyMma binary x i ctl f) := by
  dsimp only [Machine.bodyMma]
  refine .withTiles h fun a => ?_
  split
  · exact .trap
  · exact .ite (.parkAbsent) (.done h.pushMx)
theorem EngOk.overflowPut {ctx : Nat} {t : Tile} {v : Nat} (h : MemOk f) : EngOk (Fab.overflowPut ctl ctx t v f) :=
  .engWrite h
theorem EngOk.mmaQuarter {ctx : Nat} {binary : Option Bool} {s : BSlot} {a c : Tile} {start count : Nat} (h : MemOk f) :
    EngOk (Fab.mmaQuarter ctl ctx binary s a c start count f) :=
  .ite (.fault h) (.bind (.tileElts h) fun _ _ hg => .bind (.tileElts hg) fun _ _ hg =>
    .bind (.engMap (fun _ _ hg => .tilePut hg) hg) fun _ _ hg => .ite (.overflowPut hg) (.ok hg))
theorem ResOk.bodyMret {x : XtForm} (h : MemOk f) : ResOk (bodyMret x i ctl f) := by
  dsimp only [Machine.bodyMret]
  refine .withTiles h fun a => ?_
  split
  · exact .trap
  · exact .done (.pushMx (.ite h.l1Release h))
theorem EngOk.retire {ctx : Nat} {gcw : Word} {routine : Option Routine} {a : Tile} {b : Option Tile} (h : MemOk f) :
    EngOk (Fab.retire ctl ctx gcw routine a b f) := by
  dsimp only [Fab.retire]
  refine .bind (.tileElts h) fun a1 g hg => ?_
  split
  · exact .bind (.tileElts hg) fun _ _ hg1 => .ok hg1
  · exact .ok hg
theorem EngOk.retirePut {ctx : Nat} {d : Tile} {mode : RMode} {keep : Nat → Bool} {l : List Retired} (h : MemOk f) :
    EngOk (Fab.retirePut ctl ctx d mode keep l f) := by
  dsimp only [Fab.retirePut]
  refine .bind (.engMap (fun a g hg => ?_) h) fun _ _ hg => .ok hg
  split
  · exact .ite (.tilePut hg) (.ok hg)
  · exact .ok hg
theorem EngOk.retireBlocks {ctx : Nat} {d : Tile} {keep : Nat → Bool} {l : List Retired} (h : MemOk f) :
    EngOk (Fab.retireBlocks ctl ctx d keep l f) := by
  dsimp only [Fab.retireBlocks]
  refine .bind (.engMap (fun a g hg => .ite (.ok hg)
    (.bind (.engMap (fun a1 g1 hg1 => ?_) hg) fun _ _ hg1 => .blockPut hg1)) h) fun _ _ hg => .ok hg
  split
  · exact .ok hg1
  · exact .bind (.tileElt hg1) fun _ _ hg2 => .ok hg2
theorem EngOk.mretQuarter {ctx : Nat} {gcw : Word} {routine : Option Routine} {mode : RMode} {ovr : Bool} {a d : Tile}
    {b : Option Tile} (h : MemOk f) :
    EngOk (Fab.mretQuarter ctl ctx gcw routine mode ovr a d b f) := by
  dsimp only [Fab.mretQuarter]
  refine .ite (.fault h) (.bind (.retire h) fun a1 g hg =>
    .bind (.ite (.retireBlocks (.update hg)) (.retirePut (.update hg))) fun a2 g1 hg1 => ?_)
  split
  · exact .fault hg1
  · exact .ite (.bind (.engRead hg1) fun _ _ hg2 => .bind (.engWrite hg2) fun _ _ hg3 => .overflowPut hg3) (.ok hg1)
theorem ResOk.bodyMclr {x : XtForm} (h : MemOk f) : ResOk (bodyMclr x i ctl f) := by
  dsimp only [Machine.bodyMclr]
  refine .withTiles h fun a => ?_
  split
  · exact .trap
  · exact .done h.pushMx
theorem EngOk.mclrQuarter {ctx : Nat} {t : Tile} (h : MemOk f) : EngOk (Fab.mclrQuarter ctl ctx t f) :=
  .bind (.engMap (fun _ _ hg => .tilePut hg) h) fun _ _ hg => .ite (.overflowPut hg) (.ok hg)
end Sys2Proof.Safety

namespace Sys2Proof.Safety
open Sys2Proof.Machine

/-! ## Images of teams, whole-tile operations, and packets sent -/

variable {ctl : Ctl} {f : Fab} {i : Iss} {s : State}

theorem MemOk.ctxMem {ctx va n : Nat} (h : MemOk f) : MemOk (f.ctxMem ctl ctx va n).2 := by
  dsimp only [Fab.ctxMem]
  refine h.foldl_snd fun p a hp => ?_
  split
  · exact hp
  · split
    · next e1 => exact .of_eq e1 hp.ctxRead
    · next e1 => exact .of_eq e1 hp.ctxRead
/-- What is read from memory, line by line, is in canonical form. -/
theorem wf_ctxMem {f g : Fab} {ctx va n : Nat} {m : Memory} (e : f.ctxMem ctl ctx va n = (some m, g)) :
    m.wf = true := by
  have hm : ∀ m, (f.ctxMem ctl ctx va n).1 = some m → m.wf = true := by
    refine foldl_keeps (P := fun r : Option Memory × Fab => ∀ m, r.1 = some m → m.wf = true) _ (by rintro _ ⟨⟩; rfl)
      fun r k hr => ?_
    split
    · exact hr
    · next m e =>
      split
      · rintro _ ⟨⟩
        exact Memory.wf_writeBytes _ _ (hr m e)
      · exact fun _ e => nomatch e
  exact hm m (congrArg Prod.fst e)
theorem MemOk.tnextAt {ctx va : Nat} (h : MemOk f) : MemOk (f.tnextAt ctl ctx va).2 := by
  dsimp only [Fab.tnextAt]
  split
  · next e =>
      have hg := MemOk.of_eq e h.ctxRead
      split <;> exact hg
  · next e => exact .of_eq e h.ctxRead
theorem MemOk.readLane {ctx : Nat} {g rec_ : List Byte} {l : Nat} (h : MemOk f) :
    MemOk (f.readLane ctl ctx g rec_ l).2 := by
  unfold Fab.readLane
  extract_lets
  split
  · exact h
  · split
    · next e => exact .of_eq e h.ctxRead
    · next e =>
      have h1 := MemOk.of_eq e h.ctxRead
      split
      · next e => exact .of_eq e h1.ctxRead
      · next f2 e =>
        have h2 := MemOk.of_eq e h1.ctxRead
        extract_lets
        split
        next idle f3 e3 =>
        have h3 : MemOk f3 := .of_eq e3 (.ite_snd h2.tnextAt h2)
        split
        next lq f4 e4 =>
        have h4 : MemOk f4 := .of_eq e4 (.ite_snd h3.tnextAt h3)
        exact h4
theorem MemOk.readGroup {ctx : Nat} {m : ImgHead} {slot : Nat} {g : List Byte} (h : MemOk f) :
    MemOk (f.readGroup ctl ctx m slot g).2 := by
  unfold Fab.readGroup
  split
  · next e => exact .of_eq e h.ctxRead
  · next e =>
    split
    next ls f1 e1 =>
    have h1 : MemOk f1 := by
      refine .of_eq e1 ((MemOk.of_eq e h.ctxRead).foldl_snd fun p l hp => ?_)
      split
      · exact hp
      · split
        · next e => exact .of_eq e hp.readLane
        · next e => exact .of_eq e hp.readLane
    split <;> exact h1
theorem MemOk.readSlots {ctx va : Nat} (h : MemOk f) : MemOk (f.readSlots ctl ctx va).2 := by
  unfold Fab.readSlots
  split
  · next e => exact .of_eq e h.ctxRead
  · next e =>
    refine (MemOk.of_eq e h.ctxRead).foldl_snd fun p i hp => ?_
    split
    · exact hp
    · extract_lets s
      split
      · exact hp
      · split
        · next e => exact .of_eq e hp.ctxMem
        · next e => exact .of_eq e hp.ctxMem
theorem wf_parse {b : List Byte} {m : Memory} (hm : m.wf = true) : (BSlot.parse b m).bytes.wf = true := by
  unfold BSlot.parse
  extract_lets x
  split
  · exact hm
  · rfl
theorem wf_readSlots {f g : Fab} {ctx va : Nat} {bs : List BSlot} (e : f.readSlots ctl ctx va = (some bs, g)) :
    ∀ b ∈ bs, b.bytes.wf = true := by
  have hb : ∀ bs, (f.readSlots ctl ctx va).1 = some bs → ∀ b ∈ bs, b.bytes.wf = true := by
    unfold Fab.readSlots
    split
    · exact fun _ e => nomatch e
    · refine foldl_keeps (P := fun r : Option (List BSlot) × Fab => ∀ bs, r.1 = some bs → ∀ b ∈ bs, b.bytes.wf = true) _
        (by rintro _ ⟨⟩ _ h; exact nomatch h) fun r i hr => ?_
      split
      · exact hr
      · next bs e =>
        extract_lets s
        split
        · rintro _ ⟨⟩
          exact List.forall_mem_append.mpr ⟨hr bs e, List.forall_mem_singleton.mpr rfl⟩
        · split
          · next em =>
            rintro _ ⟨⟩
            exact List.forall_mem_append.mpr ⟨hr bs e, List.forall_mem_singleton.mpr (wf_parse (wf_ctxMem em))⟩
          · exact fun _ e => nomatch e
  exact hb bs (congrArg Prod.fst e)
theorem MemOk.readTeam {ctx grid : Nat} {m : ImgHead} {b : List Byte} (h : MemOk f) :
    MemOk (f.readTeam ctl ctx grid m b).2 := by
  unfold Fab.readTeam
  extract_lets index sectors
  clear_value index sectors
  split
  · next e => exact .of_eq e h.ctxMem
  · next e =>
    have h1 := MemOk.of_eq e h.ctxMem
    split
    · next e => exact .of_eq e h1.ctxMem
    · next e =>
      have h2 := MemOk.of_eq e h1.ctxMem
      split
      · next e => exact .of_eq e h2.readSlots
      · next e =>
        have h3 := MemOk.of_eq e h2.readSlots
        split
        next gs f4 e4 =>
        have h4 : MemOk f4 := by
          refine .of_eq e4 (h3.foldl_snd fun p s hp => ?_)
          split
          · exact hp
          · split
            · next e => exact .of_eq e hp.readGroup
            · next e => exact .of_eq e hp.readGroup
        split <;> exact h4
/-- A team read from an image is in canonical form. -/
theorem TeamOk.of_readTeam {f g : Fab} {ctx grid : Nat} {m : ImgHead} {b : List Byte} {t : Team}
    (e : f.readTeam ctl ctx grid m b = (some t, g)) : TeamOk t := by
  unfold Fab.readTeam at e
  extract_lets index sectors at e
  clear_value index sectors
  split at e
  · cases e
  · next em =>
    split at e
    · cases e
    · split at e
      · cases e
      · next es =>
        split at e
        split at e
        · cases e
        · cases e
          exact ⟨wf_ctxMem em, wf_readSlots es⟩
theorem MemOk.readTeams {ctx grid : Nat} {m : ImgHead} (h : MemOk f) : MemOk (f.readTeams ctl ctx grid m).2 := by
  unfold Fab.readTeams
  refine .ite_snd h (h.foldl_snd fun p k hp => ?_)
  split
  · exact hp
  · split
    · next e => exact .of_eq e hp.ctxRead
    · next e =>
      have h1 := MemOk.of_eq e hp.ctxRead
      refine .ite_snd h1 ?_
      split
      · next e => exact .of_eq e h1.readTeam
      · next e => exact .ite_snd (.of_eq e h1.readTeam) (.of_eq e h1.readTeam)
theorem TeamOk.of_readTeams {f g : Fab} {ctx grid : Nat} {m : ImgHead} {ts : List (Nat × Team)}
    (e : f.readTeams ctl ctx grid m = (.teams ts, g)) : ∀ p ∈ ts, TeamOk p.2 := by
  have ht : ∀ ts, (f.readTeams ctl ctx grid m).1 = .teams ts → ∀ p ∈ ts, TeamOk p.2 := by
    unfold Fab.readTeams
    split
    · rintro _ ⟨⟩ _ h
      exact nomatch h
    · refine foldl_keeps (P := fun r : Teams × Fab => ∀ ts, r.1 = .teams ts → ∀ p ∈ ts, TeamOk p.2) _
        (by rintro _ ⟨⟩ _ h; exact nomatch h) fun r k hr => ?_
      split
      · exact hr
      · next ts e =>
        split
        · exact fun _ e => nomatch e
        · extract_lets i
          split
          · exact fun _ e => nomatch e
          · split
            · exact fun _ e => nomatch e
            · next et =>
              split
              · exact fun _ e => nomatch e
              · rintro _ ⟨⟩
                exact List.forall_mem_append.mpr ⟨hr ts e, List.forall_mem_singleton.mpr (TeamOk.of_readTeam et)⟩
  exact ht ts (congrArg Prod.fst e)
theorem MemOk.ctxWrites {ctx : Nat} {ps : List (Nat × List Byte)} (h : MemOk f) : MemOk (f.ctxWrites ctl ctx ps).2 :=
  h.foldl_snd fun _ _ hp => .ite_snd hp.ctxWrite hp
theorem MemOk.writeImage {ctx va : Nat} {g : Grid} (h : MemOk f) : MemOk (f.writeImage ctl ctx va g).2 := h.ctxWrites
theorem ResOk.bodyHo1 {x : XtForm} {ok : List Tile → Bool} {op : Tile → Tile → EngOp} (h : MemOk f) :
    ResOk (bodyHo1 x ok op i f) := by
  dsimp only [Machine.bodyHo1]
  refine .withTiles h fun a => ?_
  split
  · exact .done h.pushMx
  · exact .done h
theorem ResOk.bodyHo2 {x : XtForm} {ok : List Tile → Bool} {last : Option Trap} {op : Tile → Tile → Tile → EngOp}
    (h : MemOk f) :
    ResOk (bodyHo2 x ok last op i f) := by
  dsimp only [Machine.bodyHo2]
  refine .withTiles h fun a => ?_
  split
  · exact .trap
  · exact .done h.pushMx
  · exact .done h
theorem ResOk.bodyFold {x : XtForm} (h : MemOk f) : ResOk (bodyFold x i ctl f) := .bodyHo1 h
theorem ResOk.bodyScan {x : XtForm} (h : MemOk f) : ResOk (bodyScan x i ctl f) := .bodyHo1 h
theorem ResOk.bodyZip {x : XtForm} (h : MemOk f) : ResOk (bodyZip x i ctl f) := .bodyHo2 h
theorem ResOk.bodyOutr {x : XtForm} (h : MemOk f) : ResOk (bodyOutr x i ctl f) := .bodyHo2 h
theorem ResOk.bodyZipMerge {x : XtForm} (h : MemOk f) : ResOk (bodyZipMerge x i ctl f) := .bodyHo2 h
theorem EngOk.outPut {ctx : Nat} {d : Tile} {rc : Nat × Nat} {v : Nat} (h : MemOk f) :
    EngOk (Fab.outPut ctl ctx d rc v f) :=
  .ite (.elem (.bitsWrite h)) (.tilePut h)
theorem EngOk.outPuts {ctx : Nat} {d : Tile} {l : List Retired} (h : MemOk f) : EngOk (Fab.outPuts ctl ctx d l f) := by
  dsimp only [Fab.outPuts]
  refine .bind (.engMap (fun a g hg => ?_) (.update h)) fun a g hg => ?_
  · split
    · exact .ite (.outPut hg) (.ok hg)
    · exact .ok hg
  · split
    · exact .fault hg
    · exact .ok hg
theorem EngOk.entering {ctx : Nat} {t : Tile} (h : MemOk f) : EngOk (Fab.entering ctl ctx t f) :=
  .bind (.tileElts h) fun _ _ hg => .ok hg
theorem EngOk.foldWork {ctx : Nat} {gcw : Word} {r : Routine} {all : Bool} {d a : Tile} (h : MemOk f) :
    EngOk (Fab.foldWork ctl ctx gcw r all d a f) :=
  .ite (.fault h) (.bind (.entering h) fun _ _ hg => .outPuts hg)
theorem EngOk.scanWork {ctx : Nat} {gcw : Word} {r : Routine} {ex : Bool} {d a : Tile} (h : MemOk f) :
    EngOk (Fab.scanWork ctl ctx gcw r ex d a f) :=
  .ite (.fault h) (.bind (.entering h) fun _ _ hg => .outPuts hg)
theorem EngOk.zipWork {ctx : Nat} {gcw : Word} {r : Routine} {d a b : Tile} (h : MemOk f) :
    EngOk (Fab.zipWork ctl ctx gcw r d a b f) :=
  .ite (.fault h) (.bind (.entering h) fun _ _ hg => .bind (.entering hg) fun _ _ hg1 => .outPuts hg1)
theorem EngOk.outrWork {ctx : Nat} {gcw : Word} {r : Routine} {d a b : Tile} (h : MemOk f) :
    EngOk (Fab.outrWork ctl ctx gcw r d a b f) :=
  .ite (.fault h) (.bind (.entering h) fun _ _ hg => .bind (.entering hg) fun _ _ hg1 => .outPuts hg1)
theorem EngOk.pairs {ctx : Nat} {t : Tile} {n : Nat} (h : MemOk f) : EngOk (Fab.pairs ctl ctx t n f) :=
  .engMap (fun _ _ hg => .bind (.tileElt hg) fun _ _ hg1 => .ok hg1) h
theorem EngOk.mergeWork {ctx : Nat} {gcw : Word} {r : Routine} {d a b : Tile} {at_ : Nat} {dz la lb : Bool}
    (h : MemOk f) :
    EngOk (Fab.mergeWork ctl ctx gcw r d a b at_ dz la lb f) := by
  dsimp only [Fab.mergeWork]
  refine .ite (.fault h) (.bind (.engRead h) fun lens g hg => ?_)
  refine .ite (.fault hg) (.ite (.fault hg) (.ite (.fault hg) ?_))
  refine .bind (.pairs hg) fun xs g1 h1 => .bind (.pairs h1) fun ys g2 h2 => ?_
  refine .bind (.engMap (fun _ _ hk => .ite (.tilePut hk) (.ok hk)) (.update h2)) fun _ g3 h3 => ?_
  split
  · exact .fault h3
  · exact .engWrite h3
theorem MemOk.flowStep {p : Packet} (h : MemOk f) : MemOk (f.flowStep p) := .update h
theorem MemOk.toPort {owner : Option (Nat × Nat × Nat × Nat)} {p : Packet} (h : MemOk f) :
    MemOk (f.toPort owner p) := by
  dsimp only [Fab.toPort]
  split
  · exact h.crossRing
  · exact h
theorem MemOk.sendPacket {p : Packet} {owner : Nat × Nat × Nat × Nat} {port : Option Nat} (h : MemOk f) :
    MemOk (f.sendPacket ctl p owner port).2 :=
  .ite (.update h.flowStep) (.update (.toPort (.update h.flowStep)))
theorem MemOk.resend {x : SentPacket} (h : MemOk f) : MemOk (f.resend x) := .update h
theorem MemOk.unsend {x : SentPacket} (h : MemOk f) : MemOk (f.unsend x) := by
  dsimp only [Fab.unsend]
  split
  · exact .ite (.update h) (.resend (.toPort (.update h)))
  · exact .update h
theorem MemOk.modRem {c s seq : Nat} {m : RemOp → RemOp} (h : MemOk f) : MemOk (f.modRem c s seq m) := h.modGroup
theorem MemOk.modPart {c s seq k : Nat} {m : RemPart → RemPart} (h : MemOk f) : MemOk (f.modPart c s seq k m) :=
  h.modRem
theorem MemOk.rrdWrite {c s seq lane : Nat} {reply : Option (List Byte)} (h : MemOk f) :
    MemOk (f.rrdWrite c s seq lane reply) := by
  dsimp only [Fab.rrdWrite]
  split
  · exact h
  · exact .modGroup (.ite h.writeRegs h)
theorem MemOk.partUnread {c s seq k : Nat} (h : MemOk f) : MemOk (f.partUnread c s seq k) := by
  dsimp only [Fab.partUnread]
  split
  · exact h.rrdWrite
  · exact h
theorem MemOk.partNegative {c s seq k reason : Nat} (h : MemOk f) : MemOk (f.partNegative c s seq k reason) :=
  h.partUnread.modPart
theorem MemOk.remFault {c s seq va : Nat} (h : MemOk f) : MemOk (f.remFault ctl c s seq va) := by
  dsimp only [Fab.remFault]
  split
  · exact h
  · exact .ite h h.modRem.engFault
theorem MemOk.partEntry {c s seq k entry : Nat} {ps : List Packet} (h : MemOk f) :
    MemOk (f.partEntry ctl c s seq k entry ps) :=
  .ite h.partNegative (.ite h.partNegative (.modPart (h.foldl_snd fun _ _ hp => .pair hp.sendPacket)))
theorem MemOk.partGo {c s ctx seq k : Nat} (h : MemOk f) : MemOk (f.partGo ctl c s ctx seq k) := by
  dsimp only [Fab.partGo]
  split
  · split
    · split
      · next e3 => exact (EngOk.of_ok e3 (.engRead h)).partEntry
      · next e3 => exact (EngOk.of_xlate e3 (.engRead h)).engPark
      · next e4 => exact (EngOk.of_fault e4 (.engRead h)).remFault.partUnread.modPart
    · exact h
  · exact h
theorem MemOk.modMcast {c s seq : Nat} {m : McastRec → McastRec} (h : MemOk f) : MemOk (f.modMcast c s seq m) :=
  h.modRem
theorem MemOk.mcastCopy {c s seq : Nat} {p : Packet} {port : Option Nat} {ms : List (Nat × Nat)} (h : MemOk f) :
    MemOk (f.mcastCopy ctl c s seq p port ms) :=
  h.sendPacket.modPart.modMcast
theorem MemOk.mcastSend {c s seq hdr : Nat} {members : List Nat} {p : Packet} (h : MemOk f) :
    MemOk (f.mcastSend ctl c s seq hdr members p) :=
  .foldl (h.modMcast.foldl fun _ _ hg => hg.mcastCopy) fun _ _ hg => .ite hg hg.mcastCopy
theorem MemOk.mcastStart {c s ctx seq : Nat} (h : MemOk f) : MemOk (f.mcastStart ctl c s ctx seq) := by
  unfold Fab.mcastStart
  split
  · split
    · extract_lets va read bad
      have hr : EngOk (read f) :=
        .bind (.engRead h) fun _ _ hg => .ite (.ok hg)
          (.bind (.engMap (fun _ _ hk => .engRead hk) hg) fun _ _ hk => .ok hk)
      split
      · next e => exact (EngOk.of_ok e hr).mcastSend
      · next e => exact (EngOk.of_xlate e hr).engPark
      · next e => exact (EngOk.of_fault e hr).remFault.modRem
    · exact h
  · exact h
theorem MemOk.mcastFinish {c s ctx seq : Nat} (h : MemOk f) : MemOk (f.mcastFinish ctl c s ctx seq) := by
  dsimp only [Fab.mcastFinish]
  split
  · split
    · refine .ite h ?_
      split
      · next e2 => exact (EngOk.of_ok e2 (.engWrite h)).modRem
      · next e2 => exact (EngOk.of_xlate e2 (.engWrite h)).engPark
      · next e3 => exact (EngOk.of_fault e3 (.engWrite h)).remFault.modRem
    · exact h
  · exact h
theorem MemOk.partSignal {c s seq k : Nat} (h : MemOk f) : MemOk (f.partSignal ctl c s seq k) := by
  dsimp only [Fab.partSignal]
  split
  · exact .ite h.modPart (.ite h.partNegative h.sendPacket.modPart)
  · exact h
theorem MemOk.remGo {c s seq : Nat} (h : MemOk f) : MemOk (f.remGo ctl c s seq) := by
  unfold Fab.remGo
  split
  · extract_lets ks wait f1 f2
    have h1 : MemOk f1 := .ite h (.mcastStart (h.foldl fun _ _ hg => hg.partGo))
    have h2 : MemOk f2 := h1.foldl fun _ _ hg => hg.partSignal
    exact .retireRem (.ite h2 h2.mcastFinish)
  · exact h
theorem MemOk.remotesGo (h : MemOk f) : MemOk (f.remotesGo ctl) := by
  dsimp only [Fab.remotesGo]
  refine h.foldl fun g a hg => ?_
  split
  · exact hg
  · exact hg.foldl fun _ _ hg1 => hg1.foldl fun _ _ hg2 => hg2.remGo
theorem MemOk.answered {x : SentPacket} {neg : Option Nat} {data : List Byte} (h : MemOk f) :
    MemOk (f.answered ctl x neg data) := by
  dsimp only [Fab.answered]
  split
  · exact h.unsend
  · split
    · exact h.unsend
    · exact .ite h.unsend (.remGo (.modMcast (.ite h.unsend.modPart.rrdWrite h.unsend.modPart)))
end Sys2Proof.Safety

namespace Sys2Proof.Safety
open Sys2Proof.Machine

/-! ## Remote instructions, the matrix queue, and packets received -/

variable {ctl : Ctl} {f : Fab} {i : Iss} {s : State}

theorem MemOk.pushRem {parts : List RemPart} {mcast : Option McastRec} {flow : Nat} {isRrd waitMx : Bool} (h : MemOk f)
    :
    MemOk (i.pushRem ctl f parts mcast flow isRrd waitMx) := by
  dsimp only [Iss.pushRem]
  split
  · exact h
  · exact h.l1Release.mod.remGo
theorem ResOk.sending {fails lines : List (Nat × Nat × Nat)} {go : Res} (hgo : ResOk go) :
    ResOk (i.sending f fails lines go) := by
  dsimp only [Iss.sending]
  split
  · exact .trap
  · split
    · exact hgo
    · exact .parkAbsent
theorem ResOk.bodyRwr {x : XmForm} (h : MemOk f) : ResOk (bodyRwr x i ctl f) :=
  .ite (.done h) (.sending (.done (.ite h.pushRem.commit h.pushRem)))
theorem ResOk.bodyRrd {x : XmForm} (h : MemOk f) : ResOk (bodyRrd x i ctl f) :=
  .ite (.done h) (.sending (.done h.mod.pushRem))
theorem ResOk.bodyRadd {x : XmForm} (h : MemOk f) : ResOk (bodyRadd x i ctl f) :=
  .ite (.done h) (.sending (.done h.pushRem.commit))
theorem ResOk.bodyRsig {x : XmForm} (h : MemOk f) : ResOk (bodyRsig x i ctl f) :=
  .ite (.done h) (.sending (.done h.pushRem.commit))
theorem MemOk.swaitRead {c ctx : Nat} {loc : Loc} (h : MemOk f) : MemOk (f.swaitRead ctl c ctx loc).2 := by
  dsimp only [Fab.swaitRead]
  refine .engGet ?_
  split
  · exact h.l1DropRange
  · exact h
theorem ResOk.bodySwait {x : XmForm} (h : MemOk f) : ResOk (bodySwait x i ctl f) := by
  refine .withLocs h fun locs g hg => ?_
  split
  next any f1 e =>
  have h1 : MemOk f1 := .of_eq e (hg.foldl_snd fun _ _ hp => .ite_snd hp.swaitRead hp.swaitRead.modLane)
  exact .done (.ite h1.l1Acquire h1)
theorem ResOk.bodyRmc {x : XmForm} (h : MemOk f) : ResOk (bodyRmc x i ctl f) :=
  .ite (.done h) (.sending (.done h.pushRem.commit))
theorem ResOk.bodyRacc {x : XmForm} (h : MemOk f) : ResOk (bodyRacc x i ctl f) :=
  .ite (.done h) (.sending (.done h.pushRem.commit))
theorem ResOk.bodyMretSend {x : XtForm} (h : MemOk f) : ResOk (bodyMretSend x i ctl f) := by
  dsimp only [Machine.bodyMretSend]
  refine .withTiles h fun a => ?_
  split
  · exact .trap
  · exact .done h
  · exact .done (h.updateCore.pushRem)
theorem EngOk.packTile {ctx : Nat} {gcw : Word} {routine : Option Routine} {fmt mode : Nat} {a : Tile}
    {b : Option Tile} (h : MemOk f) :
    EngOk (Fab.packTile ctl ctx gcw routine fmt mode a b f) := by
  dsimp only [Fab.packTile]
  refine .ite (.fault h) (.bind (.retire h) fun a1 g hg => ?_)
  split
  · exact .fault hg
  · exact .ok hg
theorem EngOk.mxWork {c ctx : Nat} {o : MxOp} {count : Nat} (h : MemOk f) : EngOk (Fab.mxWork ctl c ctx o count f) := by
  dsimp only [Fab.mxWork]
  split
  · exact .bind (.bldWork h) fun _ _ hg => .ok hg
  · split
    · exact .bind (.mmaQuarter h) fun _ _ hg => .ok hg
    · exact .ok h
  · split
    · exact .bind (.mretQuarter h) fun _ _ hg => .ok hg
    · exact .ok h
  · split
    · exact .bind (.mclrQuarter h) fun _ _ hg => .ok hg
    · exact .ok h
  · split
    · exact .bind (.foldWork h) fun _ _ hg => .ok hg
    · exact .ok h
  · split
    · exact .bind (.scanWork h) fun _ _ hg => .ok hg
    · exact .ok h
  · split
    · exact .bind (.zipWork h) fun _ _ hg => .ok hg
    · exact .ok h
  · split
    · exact .bind (.mergeWork h) fun _ _ hg => .ok hg
    · exact .ok h
  · split
    · exact .bind (.outrWork h) fun _ _ hg => .ok hg
    · exact .ok h
  · split
    · exact .packTile h
    · exact .ok h
theorem MemOk.sendHand {c ctx : Nat} {o : MxOp} (h : MemOk f) : MemOk (f.sendHand ctl c ctx o) := by
  dsimp only [Fab.sendHand]
  split
  · exact h.modRem.remGo
  · exact h
theorem MemOk.bldEmpty {c : Nat} {o : MxOp} (h : MemOk f) : MemOk (f.bldEmpty c o) := by
  dsimp only [Fab.bldEmpty]
  split
  · exact .ite (h.setSlot rfl) ((h.setSlot rfl).setView)
  · exact h
theorem MemOk.mxHead {c : Nat} {m : MxOp → MxOp} (h : MemOk f) : MemOk (f.mxHead c m) := h.updateCore
theorem MemOk.mxUnit {c : Nat} {whole : Bool} (h : MemOk f) : MemOk (f.mxUnit ctl c whole) := by
  dsimp only [Fab.mxUnit]
  split
  · refine .ite h ?_
    split
    · next e2 => exact (EngOk.of_ok e2 (.denying (fun _ hg1 => .mxWork hg1) h)).mxHead
    · next e3 => exact (EngOk.of_fault e3 (.denying (fun _ hg1 => .mxWork hg1) h)).mxHead.bldEmpty.engFault
    · exact h.engPark
  · exact h
theorem MemOk.mxPop {c : Nat} (h : MemOk f) : MemOk (f.mxPop ctl c) := by
  dsimp only [Fab.mxPop]
  split
  · exact .ite h ((h.updateCore.sendHand).retireHeld)
  · exact h
theorem MemOk.mxComplete {c : Nat} (h : MemOk f) : MemOk (f.mxComplete ctl c) := by
  dsimp only [Fab.mxComplete]
  split
  · exact .mxPop (h.foldl fun _ _ hg => hg.mxUnit)
  · exact h
theorem OutOk.execMatrixOpComplete {core : Nat} (h : MemOk s.fab) : OutOk (execMatrixOpComplete core s) :=
  .next h.mxComplete
theorem MemOk.offerModule {ctx i : Nat} {v : DWord} (h : MemOk f) : MemOk (f.offerModule ctx i v) := by
  dsimp only [Fab.offerModule]
  split
  · exact h
  · exact .ite h.modCtx h
theorem MemOk.peerWalks {ctx ptroot : Nat} {runs : List (Nat × Nat × Access)} (h : MemOk f) :
    MemOk (f.peerWalks ctl ctx ptroot runs).2 :=
  h.foldl_snd fun _ _ hp => .pair hp.walk
theorem MemOk.pageCheck {ctx ptroot : Nat} {key : BitVec 12} {runs : List (Nat × Nat × Access)} (h : MemOk f) :
    MemOk (f.pageCheck ctl ctx ptroot key runs).2 := by
  dsimp only [Fab.pageCheck]
  refine .ite_snd (.pair h.peerWalks) (.ite_snd (.pair h.peerWalks) ?_)
  split <;> exact .pair h.peerWalks
theorem MemOk.peerRead {ctx va n : Nat} (h : MemOk f) : MemOk (f.peerRead ctl ctx va n).2 := h.readParts
theorem MemOk.peerCan {ctx va n : Nat} (h : MemOk f) : MemOk (f.peerCan ctl ctx va n).2 := by
  dsimp only [Fab.peerCan]
  split
  · next e => exact .of_eq e h.ctxParts
  · next e => exact .of_eq e h.ctxParts
theorem MemOk.peerWrite {ctx va : Nat} {b : List Byte} (h : MemOk f) : MemOk (f.peerWrite ctl ctx va b) := h.writeParts
theorem MemOk.peerAdd {ctx va n v : Nat} (h : MemOk f) : MemOk (f.peerAdd ctl ctx va n v) := by
  dsimp only [Fab.peerAdd]
  split
  · next e => exact (MemOk.of_eq e h.peerRead).peerWrite
  · next e => exact .of_eq e h.peerRead
theorem MemOk.redAnswer {ctx desc : Nat} {answer : Fab → Packet → Fab} (h : MemOk f)
    (hanswer : ∀ k p, MemOk k → MemOk (answer k p)) :
    MemOk (f.redAnswer ctx desc answer) :=
  .foldl (.update h) fun _ _ hg => hanswer _ _ hg
theorem MemOk.redClear {ctx : Nat} {r : RedBuf} (h : MemOk f) : MemOk (f.redClear ctl ctx r) := h.peerWrite
theorem MemOk.redFinish {ctx desc : Nat} {r : RedBuf} {vs : List Folded} {all : Bool} (h : MemOk f) :
    MemOk (f.redFinish ctl ctx desc r vs all).2 := by
  unfold Fab.redFinish
  extract_lets bad n
  split
  next old f1 e =>
  have h1 : MemOk f1 := .of_eq e (.peerRead (.update h))
  extract_lets put f2
  have h2 : MemOk f2 := h1.peerWrite.redClear
  exact .ite_snd h2 (.pair h2.peerWrite.peerAdd)
theorem MemOk.reduce {ctx : Nat} {p : Packet} {r : RedBuf} (h : MemOk f) : MemOk (f.reduce ctl ctx p r).2 := by
  unfold Fab.reduce
  extract_lets desc index bm
  split
  · exact h
  · split
    next b f1 e =>
    have h1 : MemOk f1 := .of_eq e h.peerRead
    extract_lets byte fits f2 earlier
    have h2 : MemOk f2 := h1.peerWrite
    refine .ite_snd h1 (.ite_snd (.ite_snd h2.peerWrite ?_) ?_)
    · split
      next cs f4 e4 =>
      have h4 : MemOk f4 := .of_eq e4 (.foldl_snd (.pair h2.peerWrite) fun _ _ hp => .pair hp.peerRead)
      split
      next e5 => exact .of_eq e5 h4.redFinish
    · split
      next acc f4 e4 =>
      have h4 : MemOk f4 := .of_eq e4 h2.peerRead
      extract_lets vs
      refine .ite_snd ?_ h4.peerWrite
      split
      next e5 => exact .of_eq e5 h4.redFinish
theorem MemOk.applyRequest {ctx : Nat} {p : Packet} (h : MemOk f) : MemOk (f.applyRequest ctl ctx p).2 := by
  unfold Fab.applyRequest
  extract_lets va n can
  have hc : MemOk (can f).2 := h.foldl_snd fun _ _ hp => .ite_snd hp hp.peerCan
  split
  · next e => exact .of_eq e hc
  · next e =>
    have hg := MemOk.of_eq e hc
    split
    · split
      · next e => exact .of_eq e hg.peerRead
      · next e => exact .of_eq e hg.peerRead
    · exact hg.peerAdd
    · exact hg.peerAdd
    · split
      · next e => exact .of_eq e hg.peerRead
      · next e =>
        have h1 := MemOk.of_eq e hg.peerRead
        split
        · split
          next e =>
          have h2 := MemOk.of_eq e h1.peerWalks
          split
          · exact h2
          · split
            next e =>
            have h3 := MemOk.of_eq e (h2.foldl_snd fun _ _ hp => hp.peerCan)
            refine .ite_snd h3 ?_
            split
            · next e => exact .of_eq e h3.reduce
            · next e => exact .of_eq e h3.reduce
            · next e => exact .of_eq e h3.reduce
        · exact h1
    · exact .ite hg.peerWrite.peerAdd hg.peerWrite
theorem MemOk.judgeFrom {p : Packet} {ctx : Nat} {key : BitVec 12} {mustPark : Bool} (h : MemOk f) :
    MemOk (f.judgeFrom ctl p ctx key mustPark).2 := by
  dsimp only [Fab.judgeFrom]
  split
  · exact h
  · split
    · next e1 => exact .of_eq e1 h.pageCheck
    · next e1 => exact .of_eq e1 h.pageCheck
    · next e1 =>
        have hg := MemOk.of_eq e1 h.pageCheck
        exact .ite_snd hg hg.applyRequest
theorem MemOk.judge {p : Packet} {b : Bool} (h : MemOk f) : MemOk (f.judge ctl p b).2.2 := by
  unfold Fab.judge
  split
  · exact h
  · exact h.judgeFrom
theorem MemOk.ackFlow {p : Packet} (h : MemOk f) : MemOk (f.ackFlow p) := by
  dsimp only [Fab.ackFlow]
  refine .ite ?_ h.emit
  split <;> exact h.emit
theorem MemOk.answer {p : Packet} {d : Decided} (h : MemOk f) : MemOk (f.answer p d) := by
  dsimp only [Fab.answer]
  split
  · exact h.ackFlow
  · exact h.emit.ackFlow
  · exact h.reject
  · exact h
theorem MemOk.haltFault {ctx : Nat} {p : Packet} {va r l : Nat} (h : MemOk f) :
    MemOk (f.haltFault ctl ctx p va r l).2 :=
  h.faultTake
theorem MemOk.park {ctx : Nat} {key : BitVec 12} {p : Packet} {fault : Option (Nat × Nat × Nat)} (h : MemOk f) :
    MemOk (f.park ctl ctx key p fault).2 := by
  dsimp only [Fab.park]
  split
  · exact h
  · refine .ite_snd h (.pair (.modCtx (.update ?_)))
    split
    · exact h
    · exact h.haltFault
theorem MemOk.settleDecision {p : Packet} {entry : Option (Nat × BitVec 12)} {d : Decided} (h : MemOk f) :
    MemOk (f.settleDecision ctl p entry d) := by
  dsimp only [Fab.settleDecision]
  split
  · split
    · next e1 => exact .of_eq e1 h.park
    · next e1 => exact (MemOk.of_eq e1 h.park).answer
  · exact .update h
  · exact .redAnswer (.update h) fun _ _ hg => hg.answer
  · exact h.answer
theorem MemOk.takeNext {n : Nat} {p : Packet} (h : MemOk f) : MemOk (Fab.takeNext ctl n p f) := by
  induction n generalizing p f with
  | zero => exact h
  | succ n ih =>
    unfold Fab.takeNext
    dsimp only
    split
    · exact ih h.putFlow.judge.settleDecision
    · exact h.putFlow.judge.settleDecision
theorem MemOk.receive {p : Packet} (h : MemOk f) : MemOk (f.receive ctl p) := by
  dsimp only [Fab.receive]
  refine .ite h (.ite ?_ (.ite (.ite h.takeNext (.ite h h.putFlow)) h.putFlow.judge.settleDecision))
  split
  · exact h.emit
  · exact .ite h h.ackFlow
theorem MemOk.unpark {ctx : Nat} {q : ParkedPacket} (h : MemOk f) : MemOk (f.unpark ctl ctx q) := by
  dsimp only [Fab.unpark]
  refine .ite h.modCtx.offerModule ?_
  split
  · next e => exact (MemOk.of_eq e h.judgeFrom).haltFault.modCtx
  · next e => exact (MemOk.of_eq e h.judgeFrom).modCtx
  · next e => exact (MemOk.of_eq e h.judgeFrom).modCtx.settleDecision
theorem MemOk.unparkAll (h : MemOk f) : MemOk (f.unparkAll ctl) := h.foldl fun _ _ hg => .ite hg hg.unpark
theorem MemOk.retryPackets {ctx slot : Nat} (h : MemOk f) : MemOk (f.retryPackets ctl ctx slot) := h.modCtx.unparkAll
theorem MemOk.deliverPackets {ctx slot : Nat} (h : MemOk f) : MemOk (f.deliverPackets ctl ctx slot) := by
  dsimp only [Fab.deliverPackets]
  split
  · exact h
  · exact .unparkAll (h.foldl fun _ _ hg => hg.modCtx.answer)
theorem MemOk.receiveOffer {p : Packet} (h : MemOk f) : MemOk (f.receiveOffer ctl p) := by
  dsimp only [Fab.receiveOffer]
  split
  · exact h.count
  · refine .ite ?_ h.offerModule
    split
    · next e1 => exact .of_eq e1 h.park
    · next e1 => exact (MemOk.of_eq e1 h.park).count
theorem MemOk.offerTo {ctx slot : Nat} {v : DWord} {va : Nat} (h : MemOk f) :
    MemOk (Fab.offerTo ctl ctx slot v f va) := by
  dsimp only [Fab.offerTo]
  split
  · next e => exact (MemOk.of_eq e h.ctxRead).count
  · next e =>
      have hg := MemOk.of_eq e h.ctxRead
      exact .ite hg hg.emit
theorem MemOk.sendOffer {ctx i : Nat} (h : MemOk f) : MemOk (f.sendOffer ctl ctx i) := by
  dsimp only [Fab.sendOffer]
  split
  · exact h
  · refine .ite h ?_
    split
    · next e1 => exact (MemOk.of_eq e1 h.modCtx.ctxRead).count
    · next e1 =>
        have hg := MemOk.of_eq e1 h.modCtx.ctxRead
        exact .ite hg (hg.foldl fun _ _ hg1 => hg1.offerTo)
theorem OutOk.arrival {k : Nat} {ok : Packet → Bool} {go : Fab → Packet → Fab} (h : MemOk s.fab)
    (hgo : ∀ k p, MemOk k → MemOk (go k p)) :
    OutOk (s.arrival k ok go) := by
  dsimp only [State.arrival]
  split
  · exact .ite (.next (hgo _ _ (.update h))) (.next h)
  · exact .next h
theorem OutOk.execPacketReceive {k : Nat} (h : MemOk s.fab) : OutOk (execPacketReceive k s) :=
  .arrival h fun _ _ hg => hg.receive
theorem OutOk.execPacketAck {k : Nat} (h : MemOk s.fab) : OutOk (execPacketAck k s) :=
  .arrival h fun _ _ hg => hg.foldl fun _ _ hg1 => hg1.answered
theorem OutOk.execPacketNak {k : Nat} (h : MemOk s.fab) : OutOk (execPacketNak k s) := by
  dsimp only [Machine.execPacketNak]
  refine .arrival h fun g x hg => ?_
  split
  · exact hg.answered
  · exact hg
theorem OutOk.execPacketResendTimeout {id : Nat} (h : MemOk s.fab) : OutOk (execPacketResendTimeout id s) := by
  dsimp only [Machine.execPacketResendTimeout]
  split
  · exact .ite (.next h) (.next (.resend (.update h)))
  · exact .next h
theorem OutOk.execPacketUnreachableTimeout {id : Nat} (h : MemOk s.fab) :
    OutOk (execPacketUnreachableTimeout id s) := by
  unfold Machine.execPacketUnreachableTimeout
  split
  · next x e =>
    have ha : MemOk (s.fab.answered s.ctl x (some 2) []) := h.answered
    split
    · exact .next h
    · exact .next ha
  · exact .next h
theorem OutOk.execOfferSend {ctx inc : Nat} (h : MemOk s.fab) : OutOk (execOfferSend ctx inc s) := .next h.sendOffer
theorem OutOk.execOfferReceive {k : Nat} (h : MemOk s.fab) : OutOk (execOfferReceive k s) :=
  .arrival h fun _ _ hg => hg.receiveOffer
end Sys2Proof.Safety

namespace Sys2Proof.Safety
open Sys2Proof.Machine

/-! ## The lanyard, preemption, ports, and supply -/

variable {ctl : Ctl} {f : Fab} {i : Iss} {s : State}

theorem MemOk.tookDown {cl : Nat} {m : LanyardMsg} (h : MemOk f) : MemOk (f.tookDown cl m) := .update h
theorem MemOk.tookUp {cl : Nat} {m : LanyardMsg} (h : MemOk f) : MemOk (f.tookUp cl m) := .update h
theorem forall_mem_insertTeam {P : Nat × Team → Prop} {x : Nat × Team} {l : List (Nat × Team)} (hx : P x)
    (hl : ∀ p ∈ l, P p) :
    ∀ p ∈ insertTeam x l, P p := by
  induction l with
  | nil => exact List.forall_mem_singleton.mpr hx
  | cons y l ih =>
    obtain ⟨hy, hl⟩ := List.forall_mem_cons.mp hl
    unfold insertTeam
    split
    · exact List.forall_mem_cons.mpr ⟨hx, List.forall_mem_cons.mpr ⟨hy, hl⟩⟩
    · split
      · exact List.forall_mem_cons.mpr ⟨hx, hl⟩
      · exact List.forall_mem_cons.mpr ⟨hy, ih hl⟩
theorem MemOk.freeCore {c : Nat} (h : MemOk f) : MemOk (f.freeCore c) := .setCore (.update h) h.core.noTeam
theorem MemOk.endPreempts {g : Grid} {status : Nat} (h : MemOk f) : MemOk (f.endPreempts ctl g status) :=
  h.foldl fun _ _ hg => hg.complete
theorem MemOk.gridEnd {gid : Nat} (h : MemOk f) : MemOk (f.gridEnd ctl gid) := by
  unfold Fab.gridEnd
  split
  · exact h
  · extract_lets f1
    exact .endPreempts (.complete (h.modGrid fun _ _ => .cleared rfl))
theorem MemOk.preemptFinish {gid : Nat} (h : MemOk f) : MemOk (f.preemptFinish ctl gid) := by
  dsimp only [Fab.preemptFinish]
  split
  · split
    · exact .ite h (.endPreempts (.complete (.complete (h.writeImage.modGrid fun _ _ => .cleared rfl))))
    · exact h
  · exact h
theorem GridOk.insertTeam {g : Grid} {x : Nat × Team} (hx : TeamOk x.2) (hg : GridOk g) : GridOk { g with saved := insertTeam x g.saved } :=
  forall_mem_insertTeam hx hg
theorem GridOk.answered {g : Grid} {cl : Nat} (hg : GridOk g) : GridOk (g.answered cl) := hg
theorem MemOk.enterHitch {m : Hitch} (h : MemOk f) : MemOk (f.enterHitch m) := .update h
theorem MemOk.hitchPlace (h : MemOk f) : MemOk (f.hitchPlace ctl) := by
  dsimp only [Fab.hitchPlace]
  split
  · exact h
  · split
    · exact .update h
    · exact .ite h (.sendDown (.update h))
theorem MemOk.loadReplicas {c ctx : Nat} (h : MemOk f) : MemOk (f.loadReplicas c ctx) := by
  unfold Fab.loadReplicas
  split
  · exact h
  · exact h.foldl fun _ _ hg => hg.setCoreInc
theorem MemOk.loadMap {c ctx : Nat} (h : MemOk f) : MemOk (f.loadMap ctl c ctx) := h.updateCore
theorem MemOk.idleLanes {c : Nat} (h : MemOk f) : MemOk (f.idleLanes ctl c) := by
  dsimp only [Fab.idleLanes]
  split
  · exact h
  · refine h.foldl fun g a hg => hg.foldl fun g1 a1 hg1 => ?_
    split
    · split
      · exact .ite hg1.goIdle hg1
      · exact hg1
    · exact hg1
theorem TeamOk.fresh {g : Grid} {index : Nat} {mates : List Nat} : TeamOk (g.freshTeam index mates) :=
  ⟨rfl, fun _ hb => List.eq_of_mem_replicate hb ▸ rfl⟩
theorem TeamOk.again {t : Team} {mates : List Nat} {e : Nat} (ht : TeamOk t) : TeamOk (t.again mates e) := ht
theorem MemOk.placeHitch {g : Grid} {first : Nat} {cores : List Nat} (h : MemOk f) (hg : GridOk g) :
    MemOk (f.placeHitch ctl g first cores) := by
  unfold Fab.placeHitch
  extract_lets f1 f2 f3 f4 f5
  have h1 : MemOk f1 := h.modGrid fun x hx p hp => hx p (List.mem_of_mem_filter hp)
  have h2 : MemOk f2 := h1.mapGrids fun x hx => by
    split
    · exact hx
    · exact hx
  have h3 : MemOk f3 := h2.foldl fun k p hk => by
    extract_lets e t q
    have ht : TeamOk t := by
      dsimp only [t]
      split
      · next es => exact (hg _ (List.mem_of_find?_eq_some es)).again
      · exact .fresh
    refine MemOk.loadMap (.loadReplicas (.update (hk.setCore ⟨hk.core.1, fun _ e => Option.some.inj e ▸ ht⟩)))
  have h5 : MemOk f5 := h3.unparkAll.foldl fun _ _ hk => hk.cancelCore.idleLanes
  exact h5.foldl fun _ _ hk => hk.reportEnd
theorem MemOk.placeNow {cl : Nat} {m : LanyardMsg} (h : MemOk f) : MemOk (f.placeNow ctl cl m) := by
  dsimp only [Fab.placeNow]
  split
  · exact h
  · next e =>
      have hg := h.grid? e
      exact .ite h (.ite (.ite h h.enterHitch) ((h.placeHitch hg).sendUp))
theorem MemOk.lanyardTeamend {cl : Nat} (h : MemOk f) : MemOk (f.lanyardTeamend ctl cl) := by
  unfold Fab.lanyardTeamend
  split
  · exact h
  · next m e =>
    extract_lets f1 mine teams f2 f3
    have h1 : MemOk f1 := h.tookUp
    have ht : ∀ t ∈ teams, TeamOk t := fun t ht => by
      obtain ⟨k, hk, e⟩ := List.mem_filterMap.mp ht
      exact (h1.2.2.1 k (List.mem_of_mem_filter hk)).2 t e
    have h2 : MemOk f2 := h1.foldl fun _ _ hk => hk.freeCore
    have h3 : MemOk f3 := h2.modGrid fun g hg => 
      List.foldlRecOn (motive := fun l : List (Nat × Team) => ∀ p ∈ l, TeamOk p.2) teams _ hg fun l hl t h =>
        forall_mem_insertTeam (ht t h) hl
    split
    · exact h3
    · exact .ite h3 (.ite h3.gridEnd h3.preemptFinish)
theorem MemOk.discardGroup {c s : Nat} (h : MemOk f) : MemOk (f.discardGroup ctl c s) := by
  unfold Fab.discardGroup
  split
  · extract_lets f1 e k f2 f3 launch
    have h1 : MemOk f1 := h.foldl fun g p hg => by
      split
      · exact hg.waiterDrop
      · exact hg.waiterDrop
      · exact hg
    have h2 : MemOk f2 := h1.updateCore
    have h3 : MemOk f3 := .update h2
    exact h3.modGroup
  · exact h
theorem MemOk.saveHitch {c : Nat} (h : MemOk f) : MemOk (f.saveHitch c) := by
  unfold Fab.saveHitch
  split
  · exact h
  · refine .ite h ?_
    dsimp only
    refine .sendUp (h.foldl fun g m hg => ?_)
    split
    · next x e =>
      exact (hg.modGrid fun _ hx => GridOk.insertTeam (hg.team e).update hx).freeCore
    · exact hg
theorem MemOk.postUndelivered {c s : Nat} (h : MemOk f) : MemOk (f.postUndelivered ctl c s) := by
  dsimp only [Fab.postUndelivered]
  split
  · refine .modGroup (h.foldl fun g1 a hg1 => ?_)
    split
    · exact hg1.postEng
    · exact hg1.postEng
    · exact hg1
  · exact h
theorem MemOk.groupStop {c s : Nat} (h : MemOk f) : MemOk (f.groupStop ctl c s) := by
  unfold Fab.groupStop
  split
  · refine .ite h.saveHitch ?_
    split
    · exact h
    · refine .ite h ?_
      split
      · exact h.modGroup.takeTrap.flushHeld
      · extract_lets f1
        have h1 : MemOk f1 := h.postUndelivered.discardGroup
        split
        · exact h1.modGroup.saveHitch
        · exact h1.modGroup.updateCore.registerDeadlock
  · exact h
theorem MemOk.askStop {c : Nat} (h : MemOk f) : MemOk (f.askStop c) := h.modTeam fun _ ht => .update ht
theorem MemOk.preemptNow {cl : Nat} {m : LanyardMsg} (h : MemOk f) : MemOk (f.preemptNow cl m) :=
  .ite (.ite h.sendUp h) (h.foldl fun _ _ hg => hg.askStop)
theorem MemOk.leafDo {cl : Nat} {m : LanyardMsg} (h : MemOk f) : MemOk (f.leafDo ctl cl m) :=
  .ite h.placeNow h.preemptNow
theorem MemOk.leafTake {cl type : Nat} (h : MemOk f) : MemOk (f.leafTake ctl cl type) := by
  dsimp only [Fab.leafTake]
  split
  · exact h
  · exact .ite (.update h.tookDown) h.tookDown.leafDo
theorem MemOk.leafGo {cl : Nat} (h : MemOk f) : MemOk (f.leafGo ctl cl) := by
  dsimp only [Fab.leafGo]
  split
  · exact h
  · exact h.foldl fun _ _ hg => .ite hg (.leafDo (.update hg))
theorem MemOk.leavesGo (h : MemOk f) : MemOk (f.leavesGo ctl) :=
  .foldl (h.foldl fun _ _ hg => hg.leafGo) fun _ _ hg => hg.saveHitch
theorem MemOk.lanyardSaved {cl : Nat} (h : MemOk f) : MemOk (f.lanyardSaved ctl cl) := by
  dsimp only [Fab.lanyardSaved]
  split
  · exact h
  · split
    · exact h.tookUp
    · exact .ite h.tookUp (.ite (.preemptFinish (h.tookUp.modGrid fun _ hg1 => hg1.answered)) h.tookUp.enterHitch)
theorem MemOk.registerGrant {c : Nat} (h : MemOk f) : MemOk (f.registerGrant ctl c) := by
  dsimp only [Fab.registerGrant]
  split
  · exact h
  · next q qs e =>
    have h1 : MemOk (f.setCore c { f.core c with regQueue := qs }) := h.updateCore
    exact .ite h.registerDeadlock (.registerDeadlock
      (.ite (.idleLanes (.cancelCore (.modGroup (.update h1)))) h1.modGroup))
theorem OutOk.execHitchPlace (h : MemOk s.fab) : OutOk (execHitchPlace s) := .next (.ite_fab h.hitchPlace h)
theorem OutOk.execLanyardPlace {cl : Nat} (h : MemOk s.fab) : OutOk (execLanyardPlace cl s) := .next h.leafTake
theorem OutOk.execLanyardPlaced {cl : Nat} (h : MemOk s.fab) : OutOk (execLanyardPlaced cl s) := by
  dsimp only [Machine.execLanyardPlaced]
  refine .next ?_
  split
  · exact .ite_fab h.tookUp h
  · exact h
theorem OutOk.execLanyardTeamend {cl : Nat} (h : MemOk s.fab) : OutOk (execLanyardTeamend cl s) :=
  .next (.ite_fab h.lanyardTeamend h)
theorem OutOk.execLanyardPreempt {cl : Nat} (h : MemOk s.fab) : OutOk (execLanyardPreempt cl s) := .next h.leafTake
theorem OutOk.execLanyardSaved {cl : Nat} (h : MemOk s.fab) : OutOk (execLanyardSaved cl s) :=
  .next (.ite_fab h.lanyardSaved h)
theorem OutOk.execLanyardRetire {cl : Nat} (h : MemOk s.fab) : OutOk (execLanyardRetire cl s) := .next h.leafTake
theorem OutOk.execLanyardPermit {cl : Nat} {up : Bool} (h : MemOk s.fab) : OutOk (execLanyardPermit cl up s) := by
  dsimp only [Machine.execLanyardPermit]
  refine .next (.ite_fab ?_ ?_)
  · split
    · exact .ite_fab h.tookUp h
    · exact h
  · split
    · exact h.tookDown
    · exact h
theorem OutOk.execPermitReturnTimeout {cl : Nat} {up : Bool} (h : MemOk s.fab) :
    OutOk (execPermitReturnTimeout cl up s) :=
  .next (.update h)
theorem OutOk.execLanyardLinkError {cl : Nat} {up : Bool} (h : MemOk s.fab) : OutOk (execLanyardLinkError cl up s) := by
  dsimp only [Machine.execLanyardLinkError]
  refine .next ?_
  split
  · exact h
  · exact .ite_fab h (.ite h.count.tookUp h.count.tookDown)
theorem OutOk.execGroupStop {core slot : Nat} (h : MemOk s.fab) : OutOk (execGroupStop core slot s) := .next h.groupStop
theorem OutOk.execRegisterGrant {core : Nat} (h : MemOk s.fab) : OutOk (execRegisterGrant core s) :=
  .next h.registerGrant
theorem OutOk.execSleepWake {core slot : Nat} (h : MemOk s.fab) : OutOk (execSleepWake core slot s) := .next h.modGroup
theorem OutOk.execMalformedTaskTrap {core slot : Nat} (h : MemOk s.fab) :
    OutOk (execMalformedTaskTrap core slot s) := by
  dsimp only [Machine.execMalformedTaskTrap]
  refine .next ?_
  split
  · exact h
  · exact .ite_fab h h.modGroup.takeTrap
theorem OutOk.execSyscallRequestPost {core slot : Nat} (h : MemOk s.fab) :
    OutOk (execSyscallRequestPost core slot s) := by
  dsimp only [Machine.execSyscallRequestPost]
  refine .next ?_
  split
  · exact .ite h.postRequests.msi h.postRequests
  · exact h
theorem MemOk.offerReplica {at_ ctx i : Nat} {v : DWord} (h : MemOk f) : MemOk (f.offerReplica at_ ctx i v) := by
  dsimp only [Fab.offerReplica]
  split
  · exact h
  · exact .ite (.update h) h
theorem MemOk.propagate {ctx i stage k : Nat} (h : MemOk f) : MemOk (f.propagate ctl ctx i stage k) := by
  dsimp only [Fab.propagate]
  split
  · exact .ite h.offerReplica h
  · exact .ite h.offerReplica h
  · exact .ite (.offerModule (h.foldl fun _ _ hg => .ite hg hg.offerReplica)) h
  · exact .ite (h.foldl fun _ _ hg => hg.offerReplica) h
  · exact .ite (h.foldl fun _ _ hg => hg.offer) h
  · split
    · exact h.foldl fun _ _ hg => hg.offerReplica
    · exact h
  · exact h
theorem OutOk.execIncumbentPropagate {ctx inc stage idx : Nat} (h : MemOk s.fab) :
    OutOk (execIncumbentPropagate ctx inc stage idx s) :=
  .next (.ite h.propagate h)
theorem MemOk.modPort {p : Nat} {m : Port → Port} (h : MemOk s.fab) : MemOk (s.modPort p m).fab := h
theorem MemOk.of_sendBy {s t : State} {ps : List Nat} {k : Packet} {came : Option Nat} (h : MemOk s.fab)
    (ht : MemOk t.fab) :
    MemOk ((s.sendBy ps k came).getD t).fab := by
  unfold State.sendBy
  cases s.bestPort ps k with
  | none => exact ht
  | some p => exact h
theorem MemOk.flushOutbox (h : MemOk s.fab) : MemOk s.flushOutbox.fab := by
  unfold State.flushOutbox
  refine .foldl_fab (.update h) fun s x hs => ?_
  dsimp only
  split
  · exact hs.of_sendBy (.update hs)
  · refine .ite_fab (.update hs) ?_
    split
    · exact hs
    · exact hs.of_sendBy (.update hs)
theorem MemOk.countPort {p off n : Nat} (h : MemOk f) : MemOk (f.countPort p off n) := .update h
theorem MemOk.dropPort {p st : Nat} (h : MemOk s.fab) : MemOk (s.dropPort p st).fab := by
  dsimp only [State.dropPort]
  split
  · exact h
  · exact .update h.modPort
theorem MemOk.replay {p : Nat} {named : BitVec 12} (h : MemOk s.fab) : MemOk (s.replay p named).fab := by
  dsimp only [State.replay]
  split
  · exact h
  · exact h.modPort.countPort
theorem MemOk.startRetrain {p : Nat} {bit : Bool} (h : MemOk s.fab) : MemOk (s.startRetrain p bit).fab := by
  dsimp only [State.startRetrain]
  split
  · exact h
  · exact .ite_fab h.modPort h.modPort.modPort.countPort
theorem MemOk.train {p good : Nat} (h : MemOk s.fab) : MemOk (s.train p good).fab := by
  dsimp only [State.train]
  split
  · exact h
  · exact .ite_fab h (.ite_fab h.modPort h.modPort)
theorem MemOk.retrained {p good : Nat} (h : MemOk s.fab) : MemOk (s.retrained p good).fab := by
  dsimp only [State.retrained]
  split
  · exact h
  · exact .ite_fab h (.ite_fab h.modPort (.ite_fab h.modPort h.dropPort))
theorem MemOk.packetIn {p : Nat} {b : List Byte} (h : MemOk s.fab) : MemOk (s.packetIn p b).fab :=
  .ite_fab h (.ite_fab h.countPort (.update h))
theorem MemOk.assemble {p : Nat} {f : Flit} (h : MemOk s.fab) : MemOk (s.assemble p f).fab := by
  dsimp only [State.assemble]
  split
  · exact h.packetIn
  · exact h.modPort
  · split
    · exact h.modPort
    · exact h
  · split
    · exact h.modPort.packetIn
    · exact h
theorem MemOk.flitIn {p : Nat} {f : Flit} (h : MemOk s.fab) : MemOk (s.flitIn p f).fab := by
  unfold State.flitIn
  split
  · exact h
  · refine .ite_fab h (.ite_fab h.modPort ?_)
    extract_lets bad s1 s2
    have h1 : MemOk s1.fab := .ite_fab (.update h) h
    have h2 : MemOk s2.fab := .ite_fab h1 h1.modPort
    have h3 : MemOk (s2.modPort p (·.accepts f)).fab := h2.modPort
    split
    · exact .ite_fab h1 h1.modPort
    · exact .ite_fab h1 h1.modPort
    · exact .ite_fab h1 h1.modPort.replay
    iterate 4
      exact .ite_fab (.ite_fab h2 h2.modPort) (.ite_fab h3 h3.assemble)
    · exact h1
theorem OutOk.execPortTrain {port goodLanes : Nat} (h : MemOk s.fab) : OutOk (execPortTrain port goodLanes s) :=
  .next h.train
theorem OutOk.execFlitReceive {port : Nat} {f : Flit} (h : MemOk s.fab) : OutOk (execFlitReceive port f s) :=
  .next h.flitIn
theorem OutOk.execFlitNak {port : Nat} {named : BitVec 12} (h : MemOk s.fab) : OutOk (execFlitNak port named s) := by
  dsimp only [Machine.execFlitNak]
  refine .next ?_
  split
  · exact .ite_fab h.replay h
  · exact h
theorem OutOk.execLinkRetrain {port : Nat} (h : MemOk s.fab) : OutOk (execLinkRetrain port s) := by
  dsimp only [Machine.execLinkRetrain]
  refine .next ?_
  split
  · exact .ite_fab h.startRetrain h
  · exact h
theorem OutOk.execRetrainDone {port goodLanes : Nat} (h : MemOk s.fab) : OutOk (execRetrainDone port goodLanes s) :=
  .next h.retrained
theorem OutOk.execPacketTransit {k : Nat} (h : MemOk s.fab) : OutOk (execPacketTransit k s) := by
  unfold Machine.execPacketTransit
  split
  · exact .next h
  · refine .ite (.next h) ?_
    exact .ite (.next (.update h)) (.next (.of_sendBy (.update h) h))
theorem OutOk.execSwitchGroupReport {port : Nat} {sgid : BitVec 32} {present : Bool} (h : MemOk s.fab) :
    OutOk (execSwitchGroupReport port sgid present s) := by
  dsimp only [Machine.execSwitchGroupReport]
  refine .next ?_
  split
  · exact h
  · exact h.modPort
theorem MemOk.cleared (h : MemOk f) : MemOk f.cleared :=
  ⟨h.1, by simp [Fab.cleared, Fab.reset]⟩
theorem MemOk.orderlyShutdown (h : MemOk s.fab) : MemOk s.orderlyShutdown.fab :=
  .ite_fab h (.cleared (.count (h.foldl fun _ _ hg => hg.contextEnd)))
theorem MemOk.powerOff (h : MemOk s.fab) : MemOk s.powerOff.fab := .update h.cleared
theorem MemOk.reduceSlots {c : Ctl} (h : MemOk s.fab) : MemOk (s.reduce c).fab := .update h
theorem MemOk.onWrite {w : RegWrite} {e : RegEvent} {act : State → State} (h : MemOk s.fab)
    (ha : ∀ s, MemOk s.fab → MemOk (act s).fab) : MemOk (s.onWrite w e act).fab := by
  unfold State.onWrite
  have hw : MemOk (s.takeWrite w).fab := .update h
  exact .ite_fab h (.ite_fab (ha _ hw) hw)
theorem OutOk.execSupplyInputChange {mv : Nat} (h : MemOk s.fab) : OutOk (execSupplyInputChange mv s) := .next h
theorem OutOk.execSupplyLowTimeout (h : MemOk s.fab) : OutOk (execSupplyLowTimeout s) :=
  .next (.ite_fab h.orderlyShutdown h)
theorem OutOk.execSupplyOvervoltage (h : MemOk s.fab) : OutOk (execSupplyOvervoltage s) := .next (.ite_fab h.powerOff h)
theorem OutOk.execSupplyExcursionCount (h : MemOk s.fab) : OutOk (execSupplyExcursionCount s) :=
  .next (.ite_fab h.count h)
theorem OutOk.execThermalThrottle {degC : Nat} (h : MemOk s.fab) : OutOk (execThermalThrottle degC s) :=
  .next (.ite_fab (.ite_fab h.reduceSlots h.reduceSlots.count) h)
theorem OutOk.execThermalRelease {degC : Nat} (h : MemOk s.fab) : OutOk (execThermalRelease degC s) :=
  .next (.ite_fab h.reduceSlots h)
theorem OutOk.execThermalShutdown {degC : Nat} (h : MemOk s.fab) : OutOk (execThermalShutdown degC s) := by
  have ht : MemOk ({ s with ctl := { s.ctl with temp := degC } } : State).fab := h
  exact .next (.ite_fab ht.orderlyShutdown h)
theorem OutOk.execCoolantFlowChange {mlPerMin : Nat} (h : MemOk s.fab) : OutOk (execCoolantFlowChange mlPerMin s) :=
  .next h
theorem OutOk.execCoolantFlowTimeout (h : MemOk s.fab) : OutOk (execCoolantFlowTimeout s) :=
  .next (.ite_fab h.orderlyShutdown h)
theorem OutOk.execPowerCompare {watts : Nat} (h : MemOk s.fab) : OutOk (execPowerCompare watts s) :=
  .next (.ite_fab h.reduceSlots h)
theorem OutOk.execPwrcapWrite {w : RegWrite} (h : MemOk s.fab) : OutOk (execPwrcapWrite w s) :=
  .next (h.onWrite fun _ hp => .ite_fab hp hp)
theorem MemOk.flushLife (h : MemOk s.fab) : MemOk s.flushLife.fab := .ite_fab h h
theorem OutOk.execLifetimeFlush (h : MemOk s.fab) : OutOk (execLifetimeFlush s) := .next h.flushLife
theorem OutOk.execSupplyDroop {mv : Nat} (h : MemOk s.fab) : OutOk (execSupplyDroop mv s) := .next h.count
theorem OutOk.execEccEvent {unit : Nat} {corrected : Bool} (h : MemOk s.fab) : OutOk (execEccEvent unit corrected s) :=
  .next (.ite_fab h.count h)
theorem OutOk.execPoweredSecond {degC : Nat} (h : MemOk s.fab) : OutOk (execPoweredSecond degC s) :=
  .next (.ite_fab h.count.count.count h)
end Sys2Proof.Safety

namespace Sys2Proof.Safety
open Sys2Proof.Machine

/-! ## Boot, DMA, repair, commands and branches -/

variable {ctl : Ctl} {f : Fab} {i : Iss} {s : State}

theorem MemOk.loadBody {kind : Nat} {src : Nat → Nat → List Byte} (h : MemOk s.fab) : MemOk (s.loadBody kind src).fab :=
  .ite_fab h h.agentWrite
theorem MemOk.booted {kind : Nat} {m : List Byte} (h : MemOk s.fab) : MemOk (s.booted kind m).fab := by
  dsimp only [State.booted]
  split <;> exact h
theorem MemOk.bootImages {src : Nat → Nat → List Byte} {room : Nat} {ks : List Nat} {at_ : Nat} (h : MemOk s.fab) :
    MemOk (s.bootImages src room ks at_).2.fab := by
  induction ks generalizing s at_ with
  | nil => exact h
  | cons k ks ih =>
    unfold State.bootImages
    extract_lets img hd
    split
    · exact .update h
    · exact ih h.loadBody.booted
theorem MemOk.bootSlot {src : Nat → Nat → List Byte} {room : Nat} (h : MemOk s.fab) :
    MemOk (s.bootSlot src room).2.fab := by
  have hb := h.bootImages (src := src) (room := room) (ks := [1, 2, 3, 4]) (at_ := 0)
  unfold State.bootSlot
  generalize s.bootImages src room [1, 2, 3, 4] 0 = r at hb ⊢
  obtain ⟨ok, t⟩ := r
  cases ok <;> exact hb
theorem MemOk.bootRom (h : MemOk s.fab) :
    MemOk s.bootRom.fab := by
  unfold State.bootRom
  have h1 := h.bootSlot (src := fun o n => s.ctl.flash.readBytes (16 * 2 ^ 20 + o) n) (room := slotBytes)
  generalize s.bootSlot _ slotBytes = r at h1 ⊢
  obtain ⟨ok, s⟩ := r
  cases ok
  · have h2 := h1.bootSlot (src := fun o n => s.ctl.flash.readBytes (264 * 2 ^ 20 + o) n) (room := slotBytes)
    dsimp only
    generalize s.bootSlot _ slotBytes = r at h2 ⊢
    obtain ⟨ok, t⟩ := r
    cases ok <;> exact h2
  · exact h1
theorem MemOk.resetModule (h : MemOk s.fab) : MemOk s.resetModule.fab :=
  .ite_fab (.update h.cleared) (.bootRom (.update h.cleared))
theorem MemOk.flushKey {k : BitVec 12} (h : MemOk f) : MemOk (f.flushKey ctl k) :=
  .mapCores (.update (.foldl (h.foldl fun _ _ hg => hg.foldl fun _ _ hg1 => hg1.l1Drop) fun _ _ hg => hg.l2Evict))
    fun _ hp => .update hp
theorem MemOk.dmaKey {rid : BitVec 16} (h : MemOk s.fab) : MemOk (s.dmaKey rid).2.fab := by
  unfold State.dmaKey
  extract_lets at_
  split
  · exact h
  · split
    next e => exact MemOk.of_eq e h.agentRead
theorem MemOk.of_dmaKey {s t : State} {rid : BitVec 16} {k : Option (BitVec 12)} (e : s.dmaKey rid = (k, t))
    (h : MemOk s.fab) :
    MemOk t.fab := by
  simpa only [e] using h.dmaKey (rid := rid)
theorem MemOk.dmaEnd {r : DmaReq} {b : Option (List Byte)} (h : MemOk s.fab) : MemOk (s.dmaEnd r b).fab := .update h
theorem MemOk.dmaAt {r : DmaReq} {k : BitVec 12} {pa : Nat} (h : MemOk s.fab) : MemOk (s.dmaAt r k pa).fab := by
  dsimp only [State.dmaAt]
  refine .ite_fab h.dmaEnd ?_
  split
  · exact .dmaEnd h.paRead
  · exact .dmaEnd h.paWrite
theorem MemOk.dma {r : DmaReq} (h : MemOk s.fab) : MemOk (s.dma r).fab := by
  unfold State.dma
  refine .ite_fab h ?_
  split
  · next e => exact (MemOk.of_dmaKey e h).dmaEnd
  · next k t e =>
    have ht := MemOk.of_dmaKey e h
    extract_lets n
    split
    · split
      · exact .update ht
      · exact .dmaEnd (.update ht)
    · split
      · exact .dmaAt (.update ht)
      · exact .dmaEnd (.update ht)
theorem MemOk.plain {w : RegWrite} (h : MemOk s.fab) : MemOk (s.plain w).fab := by
  dsimp only [State.plain]
  split
  · exact h.msiAt
  · exact h
theorem MemOk.disablePort {p : Nat} {off : Bool} (h : MemOk s.fab) : MemOk (s.disablePort p off).fab := by
  dsimp only [State.disablePort]
  split
  · exact h
  · exact .ite_fab h.modPort.dropPort h.modPort
theorem MemOk.hpstatWrite {w : RegWrite} (h : MemOk s.fab) : MemOk (s.hpstatWrite w).fab :=
  .ite_fab h.disablePort.startRetrain h.disablePort
theorem MemOk.updateStart (h : MemOk s.fab) : MemOk s.updateStart.fab := by
  unfold State.updateStart
  extract_lets at_
  refine .ite_fab h ?_
  split
  next hd g e =>
  have hg := MemOk.of_eq e h.agentRead
  extract_lets n
  refine .ite_fab hg ?_
  split
  next b k e =>
  have hk : MemOk (k.agentWrite s.ctl 0 (uzBase (s.ctl.uzHalf + 1)) b) := (MemOk.of_eq e hg.agentRead).agentWrite
  exact .ite_fab hk hk
theorem MemOk.updatePause (h : MemOk s.fab) : MemOk s.updatePause.fab := .ite_fab h.agentWrite h
theorem MemOk.advanceGen (h : MemOk f) : MemOk f.advanceGen := .update h
theorem MemOk.repairAct (h : MemOk s.fab) : MemOk s.repairAct.fab := by
  dsimp only [State.repairAct]
  split
  · exact h
  · exact .ite_fab (.ite_fab h.sendDown h) (.ite_fab h.advanceGen
      (.ite_fab (.disablePort h) (.ite_fab (.startRetrain h) h)))
theorem MemOk.repair {w : RegWrite} {op : Nat} (h : MemOk s.fab) : MemOk (s.repair w op).fab :=
  .ite_fab h (.ite_fab h (.repairAct h))
theorem MemOk.repairResume (h : MemOk s.fab) : MemOk s.repairResume.fab := .ite_fab h.repairAct h
theorem MemOk.repairEnd {result : Nat} (h : MemOk s.fab) : MemOk (s.repairEnd result).fab := .ite h.count h
theorem MemOk.repairFinish {pass : Bool} (h : MemOk s.fab) : MemOk (s.repairFinish pass).fab := by
  dsimp only [State.repairFinish]
  split
  · exact .ite_fab h (.repairEnd (.update h))
  · exact .repairEnd (h.foldl fun _ _ hg => hg.l2Evict)
  · exact .repairEnd h
  · exact .ite_fab h.repairEnd (.repairEnd (.update h))
  · exact .ite_fab h.repairEnd (.repairEnd h.advanceGen)
  · exact .ite_fab h.repairEnd (.repairEnd (.disablePort h))
  · exact h.repairEnd
theorem OutOk.execModuleReset (h : MemOk s.fab) : OutOk (execModuleReset s) := .next h.resetModule
theorem OutOk.execBootImageI3c {image : List Byte} (h : MemOk s.fab) : OutOk (execBootImageI3c image s) :=
  .next (.ite_fab h.bootSlot h)
theorem OutOk.execRegisterWrite {w : RegWrite} (h : MemOk s.fab) : OutOk (execRegisterWrite w s) :=
  .next (h.onWrite fun _ hp => hp.plain)
theorem OutOk.execFuseadvWrite {w : RegWrite} (h : MemOk s.fab) : OutOk (execFuseadvWrite w s) :=
  .next (h.onWrite fun _ hp => .ite_fab hp hp)
theorem OutOk.execKeyLoad {w : RegWrite} (h : MemOk s.fab) : OutOk (execKeyLoad w s) :=
  .next (h.onWrite fun _ hp => .ite_fab hp hp)
theorem OutOk.execKeyRetire {w : RegWrite} (h : MemOk s.fab) : OutOk (execKeyRetire w s) :=
  .next (h.onWrite fun _ hp => .ite_fab hp hp)
theorem OutOk.execKeyRetireDone (h : MemOk s.fab) : OutOk (execKeyRetireDone s) := .next (.ite_fab h.flushKey h)
theorem OutOk.execKeyQuery {w : RegWrite} (h : MemOk s.fab) : OutOk (execKeyQuery w s) :=
  .next (h.onWrite fun _ hp => .ite_fab hp hp)
theorem OutOk.execDmaRequest {r : DmaReq} (h : MemOk s.fab) : OutOk (execDmaRequest r s) := .next h.dma
theorem OutOk.execHpstatRetrain {w : RegWrite} (h : MemOk s.fab) : OutOk (execHpstatRetrain w s) :=
  .next (h.onWrite fun _ hp => hp.hpstatWrite)
theorem OutOk.execHpstatDisable {w : RegWrite} (h : MemOk s.fab) : OutOk (execHpstatDisable w s) :=
  .next (h.onWrite fun _ hp => hp.hpstatWrite)
theorem OutOk.execLiveUpdate {w : RegWrite} (h : MemOk s.fab) : OutOk (execLiveUpdate w s) :=
  .next (h.onWrite fun _ hp => .ite_fab hp.updateStart hp)
theorem OutOk.execUpdatePause (h : MemOk s.fab) : OutOk (execUpdatePause s) := .next h.updatePause
theorem OutOk.execRepairRetire {w : RegWrite} (h : MemOk s.fab) : OutOk (execRepairRetire w s) :=
  .next (h.onWrite fun _ hp => hp.repair)
theorem OutOk.execRepairRestore {w : RegWrite} (h : MemOk s.fab) : OutOk (execRepairRestore w s) :=
  .next (h.onWrite fun _ hp => hp.repair)
theorem OutOk.execRepairRetrain {w : RegWrite} (h : MemOk s.fab) : OutOk (execRepairRetrain w s) :=
  .next (h.onWrite fun _ hp => hp.repair)
theorem OutOk.execRepairDone {selfTestPass : Bool} (h : MemOk s.fab) : OutOk (execRepairDone selfTestPass s) :=
  .next (.ite_fab h.repairFinish h)
theorem MemOk.readDesc {q : Nat} (h : MemOk f) : MemOk (f.readDesc ctl q) := by
  unfold Fab.readDesc
  extract_lets at_ bad
  refine .ite h (.ite (.update h) ?_)
  split
  next b g e =>
  have hg := MemOk.of_eq e h.agentRead
  extract_lets state logn
  refine .ite (.update hg) ?_
  split
  next c k e =>
  exact .update (.of_eq e hg.agentRead)
theorem MemOk.readQueue {q : Nat} (h : MemOk f) : MemOk (f.readQueue ctl q) := by
  dsimp only [Fab.readQueue]
  split
  · exact .ite h.readDesc.readDesc h.readDesc
  · exact h.readDesc
theorem MemOk.flushQueues (h : MemOk f) : MemOk (f.flushQueues ctl) := h.foldl fun _ _ hg => hg.flushQueue
theorem MemOk.bell {q : Nat} (h : MemOk f) : MemOk (f.bell ctl q) := by
  dsimp only [Fab.bell]
  split
  · exact .ite (.update h.readQueue.flushQueues) h.readQueue.flushQueues
  · exact h.readQueue.flushQueues
theorem MemOk.addCmd {queue : Nat} {top : Word} {depth : Nat} {parent : Option Nat} {index : Nat}
    {chain : List (Nat × Nat)} {r : CmdRec} (h : MemOk f) :
    MemOk (f.addCmd queue top depth parent index chain r) :=
  .update h
theorem SomeOk.findSome? {α : Type} {l : List α} {p : α → Option Fab} (hp : ∀ a, SomeOk (p a)) :
    SomeOk (l.findSome? p) :=
  fun f e => by
  obtain ⟨a, -, ha⟩ := List.exists_of_findSome?_eq_some e
  exact hp a f ha
theorem SomeOk.takeCmd {q : Nat} (h : MemOk f) : SomeOk (f.takeCmd ctl q) := by
  unfold Fab.takeCmd
  split
  · exact .absent
  · extract_lets n
    refine .ite .absent ?_
    split
    next b g e =>
    have hg : MemOk g := by
      refine .of_eq e ?_
      split
      · split
        next e => exact .of_eq e h.agentRead
      · exact h
    split
    · split
      · exact .here (.addCmd (.agentWrite (.update hg)))
      · exact .here (.agentWrite (.update hg))
    · exact .here (.agentWrite (.update hg))
theorem SomeOk.callGo {c : Cmd} (h : MemOk f) : SomeOk (f.callGo ctl c) := by
  unfold Fab.callGo
  extract_lets mine
  split
  · exact .ite (.here (.update h)) (.ite (.here h.complete) .absent)
  · refine .ite .absent (.ite ?_ (.ite (.here h.complete) .absent))
    split
    · next e => exact .here (MemOk.of_eq e h.ctxRead).modCmd.addCmd
    · next e => exact .here (MemOk.of_eq e h.ctxRead).failUp
theorem SomeOk.uzOne (h : MemOk f) : SomeOk (f.uzOne ctl) := by
  unfold Fab.uzOne
  split
  · exact .here h.complete
  · split
    · next e => exact .here (SomeOk.of_some e (.findSome? fun _ => .callGo h))
    · exact .findSome? fun _ => .takeCmd h
theorem MemOk.uzTake {n : Nat} (h : MemOk f) : MemOk (f.uzTake ctl n) := by
  induction n generalizing f with
  | zero => exact h
  | succ n ih =>
    unfold Fab.uzTake
    split
    · next e => exact ih (SomeOk.of_some e (.uzOne h))
    · exact h
theorem MemOk.uzSettle (h : MemOk s.fab) : MemOk s.uzSettle.fab := .ite_fab h.uzTake h
theorem MemOk.runCmd {id op : Nat} {m : Cmd → Fab → Fab} (h : MemOk s.fab) (hm : ∀ a k, MemOk k → MemOk (m a k)) :
    MemOk (s.runCmd id op m).fab := by
  dsimp only [State.runCmd]
  split
  · exact .ite_fab h.complete (hm _ _ h.modCmd)
  · exact h
theorem MemOk.forgetCtx {id : Nat} (h : MemOk f) : MemOk (f.forgetCtx id) :=
  .mapCores (.update h) fun _ hp => .update hp
theorem MemOk.cmdCreate {c : Cmd} (h : MemOk f) : MemOk (f.cmdCreate ctl c) := by
  unfold Fab.cmdCreate
  extract_lets id pa
  refine .ite h.complete (.ite h.complete ?_)
  split
  next b g e =>
  have hg := MemOk.of_eq e h.agentRead
  extract_lets x g1 g2
  exact .ite hg.readDesc.complete (.complete (.update hg.readDesc.forgetCtx))
theorem MemOk.filterGrids {p : Grid → Bool} (h : MemOk f) : MemOk { f with grids := f.grids.filter p } := by
  obtain ⟨hm, hl, hc, hs⟩ := h
  exact ⟨hm, hl, hc, fun g hg => hs g (List.mem_of_mem_filter hg)⟩
theorem MemOk.mapL2 {m : L2Line → L2Line} (h : MemOk f) (hm : ∀ l, l.bytes.wf = true → (m l).bytes.wf = true) : MemOk { f with l2 := f.l2.map m } := by
  obtain ⟨hmem, hl, hc, hs⟩ := h
  exact ⟨hmem, List.forall_mem_map.mpr fun l h => hm l (hl l h), hc, hs⟩
theorem MemOk.cmdDestroy {c : Cmd} (h : MemOk f) : MemOk (f.cmdDestroy ctl c) := by
  unfold Fab.cmdDestroy
  extract_lets id f1
  have h1 : MemOk f1 := h.contextEnd.endGrids
  split
  next ok g e =>
  have hg : MemOk g := .of_eq e (.ite_snd h1.semStore h1)
  extract_lets f2 f3
  have h2 : MemOk f2 := hg.forgetCtx
  refine MemOk.complete (MemOk.update (.mapL2 (f := { f2 with grids := f2.grids.filter (fun g => g.ctx != id) }) (.filterGrids h2) fun l hl => ?_))
  split <;> exact hl
theorem MemOk.addGrid {g : Grid} (h : MemOk f) (hg : GridOk g) : MemOk { f with grids := f.grids ++ [g] } := by
  obtain ⟨hm, hl, hc, hs⟩ := h
  exact ⟨hm, hl, hc, List.forall_mem_append.mpr ⟨hs, List.forall_mem_singleton.mpr hg⟩⟩
theorem GridOk.ofImage {hd : ImgHead} {id : Nat} {c : Cmd} {saved : List (Nat × Team)} (hs : ∀ p ∈ saved, TeamOk p.2) :
    GridOk (hd.grid id c saved) :=
  hs
theorem MemOk.cmdResume {c : Cmd} (h : MemOk f) : MemOk (f.cmdResume ctl c) := by
  unfold Fab.cmdResume
  extract_lets ctx
  split
  · next e => exact (MemOk.of_eq e h.ctxRead).complete
  · next b g e =>
    have hg := MemOk.of_eq e h.ctxRead
    extract_lets hd gid g1
    refine .ite hg.complete ?_
    have h1 : MemOk g1 := .update hg
    split
    · next e => exact (MemOk.of_eq e h1.readTeams).complete
    · next ts g2 e =>
      have h2 := MemOk.of_eq e h1.readTeams
      extract_lets x done g3
      have ht := TeamOk.of_readTeams e
      have hx : GridOk x := GridOk.ofImage (List.foldlRecOn
        (motive := fun l : List (Nat × Team) => ∀ p ∈ l, TeamOk p.2) ts _ (fun _ h => nomatch h)
        fun l hl t h => forall_mem_insertTeam (ht t h) hl)
      have h3 : MemOk g3 := .enterHitch (h2.addGrid hx.update)
      exact .ite h3.gridEnd h3
theorem MemOk.preemptUnstarted {c t : Cmd} (h : MemOk f) : MemOk (f.preemptUnstarted ctl c t) := by
  unfold Fab.preemptUnstarted
  extract_lets va
  split
  next ok counts g e =>
  have hg : MemOk g := by
    refine .of_eq₃ e ?_
    split
    · next e => exact .of_eq e h.ctxRead
    · next b g1 e =>
      have h1 := MemOk.of_eq e h.ctxRead
      extract_lets hd x g2
      have h2 : MemOk g2 := .update (h1.addGrid (.cleared rfl))
      split
      next e => exact MemOk.of_eq e h2.ctxWrite
  exact hg.complete.complete
theorem MemOk.cmdPreempt {c : Cmd} (h : MemOk f) : MemOk (f.cmdPreempt ctl c) := by
  dsimp only [Fab.cmdPreempt]
  split
  · exact h.complete
  · refine .ite h.complete (.ite h.preemptUnstarted ?_)
    split
    · exact h.complete
    · exact .ite h (.ite h.modCmd (.preemptFinish
        (.foldl (.modGrid (.update h) fun _ hg1 => .update hg1) fun _ _ hg1 => hg1.sendDown)))
theorem MemOk.cmdCall {c : Cmd} (h : MemOk f) : MemOk (f.cmdCall ctl c) := by
  unfold Fab.cmdCall
  extract_lets va n
  split
  · exact h.complete
  · split
    · exact h.complete
    · exact h.modCmd
theorem MemOk.cmdReply {c : Cmd} (h : MemOk f) : MemOk (f.cmdReply ctl c) := by
  dsimp only [Fab.cmdReply]
  split
  · exact h.writeReg.modGroup.openWindow.complete
  · exact .ite h.modCtx.complete h.complete
  · exact h.complete
theorem MemOk.cmdStamp {c : Cmd} (h : MemOk f) : MemOk (f.cmdStamp ctl c) := by
  unfold Fab.cmdStamp
  split
  next ok g e =>
  exact (MemOk.of_eq e h.ctxWrite).complete
theorem MemOk.semStart {id : Nat} (h : MemOk f) : MemOk (f.semStart ctl id) := by
  dsimp only [Fab.semStart]
  split
  · exact h
  · refine .ite h ?_
    split
    · next e1 => exact (MemOk.of_eq e1 h.semRead).complete
    · next e1 =>
        have hg := MemOk.of_eq e1 h.semRead
        exact .ite hg.modCmd hg
theorem MemOk.bumpEpoch {x : UzQueue} (h : MemOk f) : MemOk (f.bumpEpoch ctl x) := by
  unfold Fab.bumpEpoch
  split
  · exact h
  · split
    next b g e =>
    exact (MemOk.of_eq e h.agentRead).agentWrite
theorem MemOk.restartUzoman (h : MemOk f) : MemOk (f.restartUzoman ctl) := by
  dsimp only [Fab.restartUzoman]
  refine .update (.foldl (.foldl (.foldl (.update h) fun _ _ hg => hg.contextEnd) fun g a hg => ?_) fun _ _ hg =>
    hg.bumpEpoch)
  split
  · exact hg.post
  · exact hg
theorem MemOk.afterPause (h : MemOk s.fab) : MemOk s.afterPause.fab := .repairResume (h.foldl fun _ _ hg => hg.bell)
theorem OutOk.execUzbellWrite {w : RegWrite} (h : MemOk s.fab) : OutOk (execUzbellWrite w s) :=
  .next (h.onWrite fun _ hp => .ite_fab hp.bell hp)
theorem OutOk.execUpdateAlive (h : MemOk s.fab) : OutOk (execUpdateAlive s) := .next (.ite_fab (.afterPause h.count) h)
theorem OutOk.execUpdateWatchdog (h : MemOk s.fab) : OutOk (execUpdateWatchdog s) :=
  .next (.ite_fab (.afterPause (.ite h h.count)) h)
theorem OutOk.execUzomanWatchdogRestart (h : MemOk s.fab) : OutOk (execUzomanWatchdogRestart s) :=
  .next (.ite_fab h.restartUzoman h)
theorem OutOk.execCmdNop {cmd : Nat} (h : MemOk s.fab) : OutOk (execCmdNop cmd s) :=
  .next (h.runCmd fun _ _ hg => hg.complete)
theorem OutOk.execCmdCreate {cmd : Nat} (h : MemOk s.fab) : OutOk (execCmdCreate cmd s) :=
  .next (h.runCmd fun _ _ hg => hg.cmdCreate)
theorem OutOk.execCmdDestroy {cmd : Nat} (h : MemOk s.fab) : OutOk (execCmdDestroy cmd s) :=
  .next (h.runCmd fun _ _ hg => hg.cmdDestroy)
theorem OutOk.execCmdResume {cmd : Nat} (h : MemOk s.fab) : OutOk (execCmdResume cmd s) :=
  .next (h.runCmd fun _ _ hg => hg.cmdResume)
theorem OutOk.execCmdPreempt {cmd : Nat} (h : MemOk s.fab) : OutOk (execCmdPreempt cmd s) :=
  .next (h.runCmd fun _ _ hg => hg.cmdPreempt)
theorem OutOk.execCmdCall {cmd : Nat} (h : MemOk s.fab) : OutOk (execCmdCall cmd s) :=
  .next (h.runCmd fun _ _ hg => hg.cmdCall)
theorem OutOk.execCmdReply {cmd : Nat} (h : MemOk s.fab) : OutOk (execCmdReply cmd s) :=
  .next (h.runCmd fun _ _ hg => hg.cmdReply)
theorem OutOk.execCmdStamp {cmd : Nat} (h : MemOk s.fab) : OutOk (execCmdStamp cmd s) :=
  .next (h.runCmd fun _ _ hg => hg.cmdStamp)
theorem OutOk.execCommandSemaphoreStart {cmd : Nat} (h : MemOk s.fab) : OutOk (execCommandSemaphoreStart cmd s) :=
  .next (.ite_fab h.semStart h)
theorem OutOk.execEventQueueRecheck {q : Nat} (h : MemOk s.fab) : OutOk (execEventQueueRecheck q s) :=
  .next (.ite_fab h.flushQueue h)
theorem MemOk.transfer {targets : List (Nat × Addr)} {prio : Option Byte} (h : MemOk f) :
    MemOk (i.transfer f targets prio) :=
  h.mod
theorem ResOk.branch {x : XbForm} {taken : List Nat} (h : MemOk f) : ResOk (i.branch f x taken) := .done h.transfer
theorem ResOk.indirect {value : Nat → Nat} {prio : Option Byte} (h : MemOk f) : ResOk (i.indirect f value prio) := by
  dsimp only [Iss.indirect]
  split
  · exact .trap
  · exact .trap
  · exact .done h.transfer
theorem ResOk.bodyJmp {x : XbForm} (h : MemOk f) : ResOk (bodyJmp x i ctl f) := .branch h
theorem ResOk.bodyCall {x : XbForm} (h : MemOk f) : ResOk (bodyCall x i ctl f) := .branch h.put
theorem ResOk.bodyBcond {nz : Bool} {x : XbForm} (h : MemOk f) : ResOk (bodyBcond nz x i ctl f) := .branch h
theorem ResOk.bodyBrx {x : XbForm} (h : MemOk f) : ResOk (bodyBrx x i ctl f) := .indirect h
theorem ResOk.bodyRet {x : XrForm} (h : MemOk f) : ResOk (bodyRet x i ctl f) := .indirect h
theorem MemOk.eachActive {m : Lane → Lane} (h : MemOk f) : MemOk (i.eachActive f m) := h.mod
theorem ResOk.bodyJenr {x : XrForm} (h : MemOk f) : ResOk (bodyJenr x i ctl f) := .done h.eachActive
theorem ResOk.bodyJwait {x : XrForm} (h : MemOk f) : ResOk (bodyJwait x i ctl f) :=
  .ite (.done h) (.ite .trap (.done h.eachActive.mod))
theorem ResOk.bodyJstr {x : XrForm} (h : MemOk f) : ResOk (bodyJstr x i ctl f) :=
  .ite (.done h) (.done h.eachActive.mod)
theorem ResOk.bodyJmov {x : XrForm} (h : MemOk f) : ResOk (bodyJmov x i ctl f) := .pure h
end Sys2Proof.Safety

namespace Sys2Proof.Safety
open Sys2Proof.Machine

/-! ## Cross-lane bodies, the ring, stores and loads performed, and faults answered -/

variable {ctl : Ctl} {f : Fab} {i : Iss} {s : State}

theorem ResOk.bodyKpack {x : XrForm} (h : MemOk f) : ResOk (bodyKpack x i ctl f) := .ite .trap (.pure h)
theorem ResOk.bodyKunp {x : XrForm} (h : MemOk f) : ResOk (bodyKunp x i ctl f) := .ite .trap (.pure h)
theorem ResOk.bodyLscan {x : XrForm} (h : MemOk f) : ResOk (bodyLscan x i ctl f) := .done h.put
theorem ResOk.bodyLred {x : XrForm} (h : MemOk f) : ResOk (bodyLred x i ctl f) := .lanewise h
theorem ResOk.bodyVote {x : XrForm} (h : MemOk f) : ResOk (bodyVote x i ctl f) := .pure h
theorem ResOk.bodyBal {x : XrForm} (h : MemOk f) : ResOk (bodyBal x i ctl f) := .pure h
theorem ResOk.bodyMatch {x : XrForm} (h : MemOk f) : ResOk (bodyMatch x i ctl f) := .pure h
theorem MemOk.setFlow {x : RingFlow} (h : MemOk f) : MemOk (f.setFlow x) := .update h
theorem MemOk.ringSend {src dst ctx flow : Nat} {ordered : Bool} {load : RingLoad} (h : MemOk f) :
    MemOk (f.ringSend src dst ctx flow ordered load) :=
  .update h.setFlow
theorem MemOk.atSlice {r : SliceReq} {slice : Nat} {gen : BitVec 16} (h : MemOk f) :
    MemOk (f.atSlice ctl r slice gen) := by
  dsimp only [Fab.atSlice]
  refine .ite (.update h) (.ite h ?_)
  split
  · exact h.l2Write
  · exact .ite (.update h.l2Read) h.l2Read.ringSend
theorem MemOk.send {r : SliceReq} (h : MemOk f) : MemOk (f.send ctl r) := .ite h.atSlice h.ringSend
theorem MemOk.serve {r : SliceReq} (h : MemOk f) : MemOk (f.serve ctl r) := .ite h h.send
theorem MemOk.remapped {k : Nat} (h : MemOk f) : MemOk (f.remapped ctl k) := by
  dsimp only [Fab.remapped]
  split
  · exact h
  · refine .ite h (.send ?_)
    split
    · exact .refreshMap (.count (.update h))
    · exact .count (.update h)
theorem MemOk.ringTake {p : RingPacket} (h : MemOk f) : MemOk (f.ringTake ctl p) := by
  dsimp only [Fab.ringTake]
  split
  · exact .atSlice (.update h.setFlow)
  · exact .update h.setFlow
theorem MemOk.ringGo (h : MemOk f) : MemOk (f.ringGo ctl) :=
  .ite h (.foldl (.update h) fun _ _ hg => .ite hg.ringTake hg)
theorem OutOk.execSliceRequest {r : SliceReq} (h : MemOk s.fab) : OutOk (execSliceRequest r s) := .next h.serve
theorem OutOk.execRemapReceive {k : Nat} (h : MemOk s.fab) : OutOk (execRemapReceive k s) := .next h.remapped
theorem OutOk.execEscapeChannel {k : Nat} (h : MemOk s.fab) : OutOk (execEscapeChannel k s) := .next (.update h)
theorem MemOk.writeLoc {c ctx scope : Nat} {loc : Loc} {b : List Byte} (h : MemOk f) :
    MemOk (f.writeLoc ctl c ctx scope loc b) := by
  dsimp only [Fab.writeLoc]
  split
  · exact h.scrWrite
  · exact .ite h.store (.update h)
theorem MemOk.rmw {c ctx : Nat} {loc : Loc} {n : Nat} {new : Nat → Option Nat} (h : MemOk f) :
    MemOk (f.rmw ctl c ctx loc n new).2 := by
  dsimp only [Fab.rmw]
  split
  · split
    · exact h.scrWrite
    · exact h
  · split
    · exact h.l1Drop.sliceRead.sliceWrite.again
    · exact h.l1Drop.sliceRead
theorem MemOk.returnOld {c s seq : Nat} {olds : List (Nat × Nat)} (h : MemOk f) : MemOk (f.returnOld c s seq olds) := by
  dsimp only [Fab.returnOld]
  split
  · exact h
  · exact h.writeRegs.modGroup
theorem MemOk.atomics {c ctx : Nat} {ps : List Piece} {new : Piece → Nat → Option Nat} (h : MemOk f) :
    MemOk (f.atomics ctl c ctx ps new).2 :=
  h.foldl_snd fun _ _ hp => .pair hp.rmw
theorem MemOk.reachSlice {c ctx : Nat} {loc : Loc} (h : MemOk f) : MemOk (f.reachSlice ctl c ctx loc) := .ite h.route h
theorem MemOk.unpin {pa : Nat} (h : MemOk f) : MemOk (f.unpin pa) := by
  refine h.mapL2 fun l hl => ?_
  split <;> exact hl
theorem MemOk.queueTrap {c s : Nat} {o : StoreOp} {va : Addr} (h : MemOk f) : MemOk (f.queueTrap c s o va) :=
  .modGroup (h.foldl fun _ _ hg => hg.modLane)
theorem MemOk.queueDone {c s l : Nat} (h : MemOk f) : MemOk (f.queueDone c s l) := h.modLane.openWindow
theorem MemOk.queueRun {c s ctx : Nat} {o : StoreOp} {esz order : Nat} {enq : Bool} {go : Loc → Fab → Fab}
    (h : MemOk f) (hgo : ∀ d g, MemOk g → MemOk (go d g)) :
    MemOk (f.queueRun ctl c s ctx o esz order enq go) := by
  unfold Fab.queueRun
  split
  · exact h
  · extract_lets f1
    have h1 : MemOk f1 := .ite h.l1Release h
    split
    · next e => exact (MemOk.of_eq e h1.queueCheck).queueTrap
    · next e => exact hgo _ _ (.of_eq e h1.queueCheck)
theorem MemOk.runQenq {c s ctx : Nat} {o : StoreOp} {esz order : Nat} {d : RegNo} (h : MemOk f) :
    MemOk (f.runQenq ctl c s ctx o esz order d) := by
  refine h.queueRun fun desc g hg => ?_
  split
  next vals f1 e =>
  have h1 : MemOk f1 := .of_eq e (hg.foldl_snd fun _ _ hp => .pair hp.enqueue)
  extract_lets f2 f3
  have h3 : MemOk f3 := .ite h1.writeRegs.l1Acquire h1.writeRegs
  exact h3.foldl fun _ _ hg => hg.queueDone
theorem MemOk.runQdeq {c s ctx : Nat} {o : StoreOp} {esz order : Nat} {d : RegNo} (h : MemOk f) :
    MemOk (f.runQdeq ctl c s ctx o esz order d) := by
  refine h.queueRun fun desc g hg => ?_
  split
  next vals f1 e =>
  have h1 : MemOk f1 := by
    refine .of_eq e (hg.foldl_snd fun p a hp => ?_)
    split
    · next e => exact .of_eq e hp.dequeue
    · next e => exact (MemOk.of_eq e hp.dequeue).modLane.waiterAdd
    · next e => exact .of_eq e hp.dequeue
  extract_lets f2 f3
  have h3 : MemOk f3 := by
    dsimp only [f3]
    split
    · exact h1.writeRegs.l1Acquire
    · exact h1.writeRegs
  exact h3.foldl fun _ _ hg => hg.queueDone
theorem MemOk.perform {c s ctx : Nat} {o : StoreOp} (h : MemOk f) : MemOk (f.perform ctl c s ctx o) := by
  have hrel (b : Bool) : MemOk (if b then f.l1Release ctl c o.scope else f) := .ite h.l1Release h
  have hacq {g : Fab} (hg : MemOk g) (b : Bool) : MemOk (if b then g.l1Acquire ctl c o.scope else g) :=
    .ite hg.l1Acquire hg
  unfold Fab.perform
  cases o.kind with
  | store rel => exact (hrel rel).foldl fun _ _ hg => hg.writeLoc
  | atom op order ret =>
    dsimp only
    exact .ite (.returnOld (hacq (hrel _).atomics _)) (hacq (hrel _).atomics _)
  | cas order =>
    dsimp only
    exact .returnOld (hacq (hrel _).atomics _)
  | bari | barv | barx =>
    refine h.foldl fun g p hg => ?_
    split
    · exact hg.barUpdate
    · exact hg
  | qenq => exact h.runQenq
  | qdeq => exact h.runQdeq
  | presSet =>
    refine h.l1Release.foldl fun g p hg => ?_
    split
    · exact hg.sectorSet
    · exact hg
  | presClr =>
    refine h.foldl fun g p hg => ?_
    split
    · exact hg.sectorClear
    · exact hg
  | unpin =>
    refine h.foldl fun g p hg => ?_
    split
    · exact hg.reachSlice.unpin
    · exact hg
  | cfl l2 =>
    refine h.foldl fun g p hg => ?_
    split
    · exact .ite hg.l1Drop.reachSlice.l2Evict hg.l1Drop
    · exact hg
theorem MemOk.recall {c s ctx : Nat} {pc : Addr} {l : Nat} (h : MemOk f) : MemOk (f.recall ctl c s ctx pc l) := by
  dsimp only [Fab.recall]
  refine .modLane ?_
  split
  · exact h.waiterDrop
  · exact h.unqueue
theorem MemOk.refuseLate {c s ctx seq : Nat} {pc : Addr} {lanes : List Nat} {late : List (Nat × Loc)} (h : MemOk f) :
    MemOk (f.refuseLate ctl c s ctx seq pc lanes late) := by
  dsimp only [Fab.refuseLate]
  split
  · exact .modGroup (h.modGroup.foldl fun _ _ hg => hg.recall)
  · exact h.modGroup
theorem MemOk.drain {c s : Nat} (h : MemOk f) : MemOk (f.drain ctl c s) := by
  dsimp only [Fab.drain]
  split
  · split
    · exact h
    · exact .ite h (.ite h.modGroup.perform.reportEnd (.ite h h.modGroup.refuseLate.reportEnd))
  · exact h
theorem MemOk.readLoc {c ctx : Nat} {loc : Loc} {n : Nat} (h : MemOk f) : MemOk (f.readLoc ctl c ctx loc n).2 := by
  dsimp only [Fab.readLoc]
  split
  · exact h
  · refine .ite_snd h.load ?_
    split
    · next e => exact .of_eq e h.mmioRead
    · next e => exact .of_eq e h.mmioRead
theorem MemOk.loadBytes {c s ctx seq : Nat} {loc : Loc} {n : Nat} (h : MemOk f) :
    MemOk (f.loadBytes ctl c s ctx seq loc n).2 := by
  dsimp only [Fab.loadBytes]
  split
  · exact h
  · exact .ite_snd h (.pair h.readLoc)
theorem MemOk.pinLine {c ctx : Nat} {loc : Loc} (h : MemOk f) : MemOk (f.pinLine ctl c ctx loc).2 := by
  unfold Fab.pinLine
  split
  · exact h
  · refine .ite_snd h ?_
    split
    · exact h.route
    · next pa key home _ _ l g e =>
      obtain ⟨hf, hl⟩ := h.l2Open (ctl := ctl) (core := some c) (ctx := ctx) (key := key) (home := home)
        (pa := pa.toNat)
      rw [e] at hf hl
      exact MemOk.l2Keep hf (foldl_keeps (P := fun l : L2Line => l.bytes.wf = true) _ (hl l rfl) fun _ _ hl =>
        wf_l2Fill hl)
theorem MemOk.complete_ {c s k : Nat} {lanes : BitVec 64} (h : MemOk f) : MemOk (f.complete_ ctl c s k lanes) := by
  dsimp only [Fab.complete_]
  split
  · split
    · exact h
    · refine .ite h (.ite (.ite h h.refuseLate.reportEnd)
        (.reportEnd (.modGroup (.writeRegs (.foldl_snd ?_ fun p a hp => ?_)))))
      · split
        · exact h.l1Acquire
        · exact h
      · split
        · exact .pair hp.pinLine
        · exact hp
        · exact .pair hp.loadBytes
  · exact h
theorem MemOk.walkEvent {core ctx : Nat} {va : Addr} {acc : Access} (h : MemOk f) :
    MemOk (f.walkEvent ctl core ctx va acc) := by
  dsimp only [Fab.walkEvent]
  split
  · next e => exact (MemOk.of_eq e h.translate).faultTake
  · next e => exact .of_eq e h.translate
theorem MemOk.watchdog {c s : Nat} (h : MemOk f) : MemOk (f.watchdog ctl c s) := by
  dsimp only [Fab.watchdog]
  split
  · exact h
  · split
    · exact .ite h.takeTrap h
    · exact h
theorem OutOk.execStoreDrain {core slot : Nat} (h : MemOk s.fab) : OutOk (execStoreDrain core slot s) := .next h.drain
theorem OutOk.execLoadComplete {core slot k : Nat} {lanes : BitVec 64} (h : MemOk s.fab) :
    OutOk (execLoadComplete core slot k lanes s) :=
  .next h.complete_
theorem OutOk.execPageWalk {core ctx : Nat} {va : Addr} {acc : Access} (h : MemOk s.fab) :
    OutOk (execPageWalk core ctx va acc s) :=
  .next h.walkEvent
theorem OutOk.execPresenceWatchdog {core slot : Nat} (h : MemOk s.fab) : OutOk (execPresenceWatchdog core slot s) :=
  .next h.watchdog
theorem MemOk.postEngs (h : MemOk f) : MemOk (f.postEngs ctl) := by
  dsimp only [Fab.postEngs]
  refine h.foldl fun g a hg => .ite ?_ hg
  split
  · next e =>
      have hg1 := MemOk.of_eq e hg.postRecord
      exact .update hg1
  · exact hg
theorem OutOk.execFaultRecordEnqueue {slot : Nat} (h : MemOk s.fab) : OutOk (execFaultRecordEnqueue slot s) :=
  .next (.ite h.postEngs h.faultEnqueue)
theorem MemOk.response {slot : Nat} (h : MemOk f) : MemOk (f.response ctl slot).2 := by
  dsimp only [Fab.response]
  split
  · exact h
  · split
    · next e1 => exact .of_eq e1 h.faultQ
    · next e1 =>
        have hg := MemOk.of_eq e1 h.faultQ
        split
        · next e2 => exact .of_eq e2 hg.ctxRead
        · next e2 => exact .of_eq e2 hg.ctxRead
theorem MemOk.retryFor {slot : Nat} {r : Requester} (h : MemOk f) : MemOk (Fab.retryFor ctl slot f r) := by
  dsimp only [Fab.retryFor]
  split
  · split
    · exact h
    · split
      · exact .ite h (.ite h.modGroup h.restartGroup)
      · exact h
  · exact h.retryEntry
  · exact h
  · exact h
  · exact h.remGo
  · exact h.retryPackets
  · exact h.idleAgain
theorem MemOk.deliverGroup {c s slot : Nat} (h : MemOk f) : MemOk (f.deliverGroup ctl c s slot) := by
  dsimp only [Fab.deliverGroup]
  split
  · exact h
  · split
    · exact .ite h h.modGroup.takeTrap
    · exact h
theorem MemOk.deliverRemote {c s seq va : Nat} (h : MemOk f) : MemOk (f.deliverRemote ctl c s seq va) := by
  dsimp only [Fab.deliverRemote]
  split
  · exact h
  · exact .remGo (.modRem (.remFault (h.foldl fun _ _ hg => .ite hg.rrdWrite hg)))
theorem MemOk.deliverFor {x : FaultSlot} {slot : Nat} {r : Requester} (h : MemOk f) :
    MemOk (Fab.deliverFor ctl x slot f r) := by
  dsimp only [Fab.deliverFor]
  split
  · exact h.deliverGroup
  · exact h.fatal
  · exact h.modCopy
  · exact h.updateCore
  · exact h.deliverRemote
  · exact h.deliverPackets
  · exact h.idleRefused
theorem OutOk.respond {slot : Nat} {want : Nat → Bool} {go : FaultSlot → Fab → Fab} (h : MemOk s.fab)
    (hgo : ∀ a k, MemOk k → MemOk (go a k)) :
    OutOk (s.respond slot want go) := by
  dsimp only [State.respond]
  split
  · next e =>
      have hg := MemOk.of_eq e h.response
      exact .next (.ite (hgo _ _ (.update hg)) hg)
  · next e =>
      have hg := MemOk.of_eq e h.response
      exact .next hg
theorem OutOk.execFaultRetry {slot : Nat} (h : MemOk s.fab) : OutOk (execFaultRetry slot s) :=
  .respond h fun _ _ hg => hg.foldl fun _ _ hg1 => hg1.retryFor
theorem OutOk.execFaultDeliver {slot : Nat} (h : MemOk s.fab) : OutOk (execFaultDeliver slot s) :=
  .respond h fun _ _ hg => hg.foldl fun _ _ hg1 => hg1.deliverFor
theorem OutOk.execFaultEnd {slot : Nat} (h : MemOk s.fab) : OutOk (execFaultEnd slot s) :=
  .respond h fun _ _ hg => hg.fatal
end Sys2Proof.Safety

namespace Sys2Proof.Safety
open Sys2Proof.Machine

/-! ## Every instruction, move and step -/

variable {ctl : Ctl} {f : Fab} {i : Iss} {s : State}

/-- An illegal instruction traps, or ends its context (R257). -/
theorem OutOk.illegal {len opc cause : Nat} (h : MemOk f) : OutOk (s.lift (f.illegal ctl len opc cause)) := by
  refine .lift fun g e => ?_
  unfold Fab.illegal at e
  split at e
  · cases e
  · split at e
    · cases e; exact h.fatal
    · extract_lets late at e
      split at e
      · cases e; exact h.trapHere
      · cases e; exact h.trapHere
/-- Every meaning leaves memories in canonical form. -/
theorem OutOk.exec {j : Instr} (h : MemOk s.fab) : OutOk (exec j s) := by
  cases j with
  | bootImageI3c => exact .execBootImageI3c h
  | supplyInputChange => exact .execSupplyInputChange h
  | thermalThrottle => exact .execThermalThrottle h
  | thermalRelease => exact .execThermalRelease h
  | thermalShutdown => exact .execThermalShutdown h
  | powerCompare => exact .execPowerCompare h
  | pwrcapWrite => exact .execPwrcapWrite h
  | registerWrite => exact .execRegisterWrite h
  | fuseadvWrite => exact .execFuseadvWrite h
  | keyLoad => exact .execKeyLoad h
  | keyRetire => exact .execKeyRetire h
  | keyQuery => exact .execKeyQuery h
  | uzbellWrite => exact .execUzbellWrite h
  | liveUpdate => exact .execLiveUpdate h
  | repairRetire => exact .execRepairRetire h
  | repairRestore => exact .execRepairRestore h
  | repairRetrain => exact .execRepairRetrain h
  | repairDone => exact .execRepairDone h
  | hpstatRetrain => exact .execHpstatRetrain h
  | hpstatDisable => exact .execHpstatDisable h
  | portTrain => exact .execPortTrain h
  | flitReceive => exact .execFlitReceive h
  | flitNak => exact .execFlitNak h
  | linkRetrain => exact .execLinkRetrain h
  | retrainDone => exact .execRetrainDone h
  | packetReceive => exact .execPacketReceive h
  | packetTransit => exact .execPacketTransit h
  | packetAck => exact .execPacketAck h
  | packetNak => exact .execPacketNak h
  | packetResendTimeout => exact .execPacketResendTimeout h
  | packetUnreachableTimeout => exact .execPacketUnreachableTimeout h
  | offerSend => exact .execOfferSend h
  | offerReceive => exact .execOfferReceive h
  | switchGroupReport => exact .execSwitchGroupReport h
  | dmaRequest => exact .execDmaRequest h
  | cmdNop => exact .execCmdNop h
  | cmdCreate => exact .execCmdCreate h
  | cmdDestroy => exact .execCmdDestroy h
  | cmdResume => exact .execCmdResume h
  | cmdPreempt => exact .execCmdPreempt h
  | cmdCall => exact .execCmdCall h
  | cmdReply => exact .execCmdReply h
  | cmdStamp => exact .execCmdStamp h
  | commandSemaphoreStart => exact .execCommandSemaphoreStart h
  | eventQueueRecheck => exact .execEventQueueRecheck h
  | lanyardPlace => exact .execLanyardPlace h
  | lanyardPlaced => exact .execLanyardPlaced h
  | lanyardTeamend => exact .execLanyardTeamend h
  | lanyardPreempt => exact .execLanyardPreempt h
  | lanyardSaved => exact .execLanyardSaved h
  | lanyardRetire => exact .execLanyardRetire h
  | lanyardPermit => exact .execLanyardPermit h
  | permitReturnTimeout => exact .execPermitReturnTimeout h
  | groupStop => exact .execGroupStop h
  | registerGrant => exact .execRegisterGrant h
  | sleepWake => exact .execSleepWake h
  | presenceWatchdog => exact .execPresenceWatchdog h
  | incumbentPropagate => exact .execIncumbentPropagate h
  | malformedTaskTrap => exact .execMalformedTaskTrap h
  | syscallRequestPost => exact .execSyscallRequestPost h
  | loadComplete => exact .execLoadComplete h
  | storeDrain => exact .execStoreDrain h
  | sliceRequest => exact .execSliceRequest h
  | remapReceive => exact .execRemapReceive h
  | pageWalk => exact .execPageWalk h
  | faultRecordEnqueue => exact .execFaultRecordEnqueue h
  | faultRetry => exact .execFaultRetry h
  | faultDeliver => exact .execFaultDeliver h
  | faultEnd => exact .execFaultEnd h
  | copySectorDeliver => exact .execCopySectorDeliver h
  | matrixOpComplete => exact .execMatrixOpComplete h
  | nopSz | nopXr => exact .run h fun _ _ _ hg => .bodyNop hg
  | waitSw => exact .run h fun _ _ _ hg => .bodyWait hg
  | sealSz | sealXr => exact .run h fun _ _ _ hg => .bodySeal hg
  | rgnSz => exact .run h fun _ _ _ hg => .bodyRgn hg
  | growSi | growXr => exact .run h fun _ _ _ hg => .bodyGrow hg
  | shrinkSi | shrinkXr => exact .run h fun _ _ _ hg => .bodyShrink hg
  | fenceSi | fenceXr => exact .run h fun _ _ _ hg => .bodyFence hg
  | trapSz | trapXr => exact .run h fun _ _ _ hg => .bodyTrap hg
  | rtiSz | rtiXr | rtiNextXr => exact .run h fun _ _ _ hg => .bodyRti hg
  | rtiRgnXr => exact .run h fun _ _ _ hg => .bodyRtiRgn hg
  | syscallSi | syscallXr => exact .run h fun _ _ _ hg => .bodySyscall hg
  | irqSi | irqXr => exact .run h fun _ _ _ hg => .bodyIrq hg
  | brkSz | brkXr => exact .run h fun _ _ _ hg => .bodyBrk hg
  | sidSi | sidXr => exact .run h fun _ _ _ hg => .bodySid hg
  | exitSz | exitXr => exact .run h fun _ _ _ hg => .bodyExit hg
  | gctlXr => exact .run h fun _ _ _ hg => .bodyGctl hg
  | sleepSi | sleepXr => exact .run h fun _ _ _ hg => .bodySleep hg
  | addS3 | subS3 | mulS3 | minS3 | maxS3 | movS3 | faddS3 | fsubS3 | fmulS3 | fminS3 | fmaxS3 => exact .runS3 h
  | addXr | subXr | mulXr | mulhXr | madXr | divXr | remXr | minXr | maxXr | absXr | negXr | cmpXr | selXr | lop3Xr | shlXr | shrXr | sarXr |
    fshlXr | fshrXr | pcntXr | clzXr | ctzXr | brevXr | bfeXr | bfiXr | movXr | leaXr | prmtXr | faddXr | fsubXr |
      fmulXr | ffmaXr | fminXr |
    fmaxXr | fabsXr | fnegXr | fcmpXr | fdivXr | fsqrtXr | frcpXr | frsqXr | ex2sXr | lg2Xr | fclsXr | frndXr | cvtXr |
      ordfXr | tagsetXr |
    tagqXr => exact .runXr h
  | shlSi | shrSi | sarSi => exact .runSi h
  | kpackXr => exact .run h fun _ _ _ hg => .bodyKpack hg
  | kunpXr => exact .run h fun _ _ _ hg => .bodyKunp hg
  | lscanXr => exact .run h fun _ _ _ hg => .bodyLscan hg
  | lredXr => exact .run h fun _ _ _ hg => .bodyLred hg
  | voteXr => exact .run h fun _ _ _ hg => .bodyVote hg
  | balXr => exact .run h fun _ _ _ hg => .bodyBal hg
  | matchXr => exact .run h fun _ _ _ hg => .bodyMatch hg
  | jmpSb | jmpXb => exact .run h fun _ _ _ hg => .bodyJmp hg
  | callXb => exact .run h fun _ _ _ hg => .bodyCall hg
  | retXr => exact .run h fun _ _ _ hg => .bodyRet hg
  | bnzXb | bzXb => exact .run h fun _ _ _ hg => .bodyBcond hg
  | brxXb => exact .run h fun _ _ _ hg => .bodyBrx hg
  | jenrXr => exact .run h fun _ _ _ hg => .bodyJenr hg
  | jwaitXr => exact .run h fun _ _ _ hg => .bodyJwait hg
  | jstrXr => exact .run h fun _ _ _ hg => .bodyJstr hg
  | jmovXr => exact .run h fun _ _ _ hg => .bodyJmov hg
  | tspawnXr => exact .run h fun _ _ _ hg => .bodyTspawn hg
  | tnextXr => exact .run h fun _ _ _ hg => .bodyTnext hg
  | bndXr => exact .run h fun _ _ _ hg => .bodyBnd hg
  | incxXr => exact .run h fun _ _ _ hg => .bodyIncx hg
  | incrXr => exact .run h fun _ _ _ hg => .bodyIncr hg
  | ldXm => exact .run h fun _ _ _ hg => .bodyLd hg
  | stXm => exact .run h fun _ _ _ hg => .bodySt hg
  | atomXm => exact .run h fun _ _ _ hg => .bodyAtom hg
  | casXm => exact .run h fun _ _ _ hg => .bodyCas hg
  | pfXm => exact .run h fun _ _ _ hg => .bodyPf hg
  | pinXm => exact .run h fun _ _ _ hg => .bodyPin hg
  | unpinXm => exact .run h fun _ _ _ hg => .bodyUnpin hg
  | cflXm => exact .run h fun _ _ _ hg => .bodyCfl hg
  | cinvXm => exact .run h fun _ _ _ hg => .bodyCinv hg
  | cplXm => exact .run h fun _ _ _ hg => .bodyCpl hg
  | cptXt => exact .run h fun _ _ _ hg => .bodyCpt hg
  | bariXm => exact .run h fun _ _ _ hg => .bodyBari hg
  | barvXm => exact .run h fun _ _ _ hg => .bodyBarv hg
  | barwXm => exact .run h fun _ _ _ hg => .bodyBarw hg
  | barxXm => exact .run h fun _ _ _ hg => .bodyBarx hg
  | qenqXm => exact .run h fun _ _ _ hg => .bodyQenq hg
  | qdeqXm => exact .run h fun _ _ _ hg => .bodyQdeq hg
  | qpollXm => exact .run h fun _ _ _ hg => .bodyQpoll hg
  | presXm => exact .run h fun _ _ _ hg => .bodyPres hg
  | rwrXm => exact .run h fun _ _ _ hg => .bodyRwr hg
  | rrdXm => exact .run h fun _ _ _ hg => .bodyRrd hg
  | raddXm => exact .run h fun _ _ _ hg => .bodyRadd hg
  | rsigXm => exact .run h fun _ _ _ hg => .bodyRsig hg
  | swaitXm => exact .run h fun _ _ _ hg => .bodySwait hg
  | rmcXm => exact .run h fun _ _ _ hg => .bodyRmc hg
  | raccXm => exact .run h fun _ _ _ hg => .bodyRacc hg
  | bldXt => exact .run h fun _ _ _ hg => .bodyBld hg
  | mmaXt | mbinXt => exact .run h fun _ _ _ hg => .bodyMma hg
  | mretXt => exact .run h fun _ _ _ hg => .bodyMret hg
  | mretSendXt => exact .run h fun _ _ _ hg => .bodyMretSend hg
  | mclrXt => exact .run h fun _ _ _ hg => .bodyMclr hg
  | rdefXr => exact .run h fun _ _ _ hg => .bodyRdef hg
  | rdelXr => exact .run h fun _ _ _ hg => .bodyRdel hg
  | foldXt => exact .run h fun _ _ _ hg => .bodyFold hg
  | scanXt => exact .run h fun _ _ _ hg => .bodyScan hg
  | zipXt => exact .run h fun _ _ _ hg => .bodyZip hg
  | zipMergeXt => exact .run h fun _ _ _ hg => .bodyZipMerge hg
  | outrXt => exact .run h fun _ _ _ hg => .bodyOutr hg
  | rendXr | rdropXr | illegalOpcode => exact .illegal h
  | coolantFlowChange => exact .execCoolantFlowChange h
  | supplyDroop => exact .execSupplyDroop h
  | eccEvent => exact .execEccEvent h
  | poweredSecond => exact .execPoweredSecond h
  | escapeChannel => exact .execEscapeChannel h
  | lanyardLinkError => exact .execLanyardLinkError h
  | moduleReset => exact .execModuleReset h
  | supplyLowTimeout => exact .execSupplyLowTimeout h
  | supplyOvervoltage => exact .execSupplyOvervoltage h
  | supplyExcursionCount => exact .execSupplyExcursionCount h
  | coolantFlowTimeout => exact .execCoolantFlowTimeout h
  | lifetimeFlush => exact .execLifetimeFlush h
  | keyRetireDone => exact .execKeyRetireDone h
  | updatePause => exact .execUpdatePause h
  | updateAlive => exact .execUpdateAlive h
  | updateWatchdog => exact .execUpdateWatchdog h
  | uzomanWatchdogRestart => exact .execUzomanWatchdogRestart h
  | hitchPlace => exact .execHitchPlace h
theorem OutOk.issueOn {c slot : Nat} (h : MemOk s.fab) : OutOk (issueOn c slot s) := by
  unfold Machine.issueOn
  split
  · exact .next h
  · split
    · next e =>
      have hg := MemOk.of_eq e h.fetch
      split
      · exact .exec (.update hg)
      · exact .illegal (.update hg)
    · next e => exact .next (MemOk.of_eq e h.fetch).fetchPark
    · next e => exact .next (MemOk.of_eq e h.fetch).fetchTrap
theorem OutOk.runMove {m : Move} (h : MemOk s.fab) : OutOk (runMove m s) := by
  cases m with
  | act i => exact .exec h
  | issue c slot => exact .issueOn h
  | elapse acs => exact .next h.elapse.ringGo
  | hartStore => exact .next h.hartStore
  | evictL1 => exact .next h.l1Drop
  | evictI => exact .next h.evictI
  | evictL2 => exact .next h.evictL2
  | mxPiece => exact .next h.mxUnit
  | takeMsi => exact .next h.takeMsi
theorem MemOk.goOn (h : MemOk f) : MemOk (f.goOn ctl) := h.leavesGo.unparkAll.remotesGo.waitsGo
/-- The fabric goes on, the switch sends what it can, and the fabric settles. -/
theorem MemOk.settled {m : Move} (h : MemOk s.fab) :
    MemOk (({ s with fab := s.fab.goOn s.ctl } : State).flushOutbox.fab.settle ({ s with fab := s.fab.goOn s.ctl } : State).flushOutbox.ctl m) :=
  .settle (.flushOutbox h.goOn)
/-- What every step ends with leaves memories in canonical form. -/
theorem OutOk.settleStep {m : Move} {o : Out} (ho : OutOk o) : OutOk (settleStep m o) := by
  cases ho with
  | fault => exact .fault
  | refused => exact .refused
  | @next s h =>
    have hf : MemOk s.flushLife.fab := h.flushLife
    have hr := hf.uzSettle.repairResume
    exact .next hr.settled
theorem OutOk.step (h : MemOk s.fab) : OutOk (step s) := by
  unfold Machine.step
  split
  · exact .settleStep (.runMove h)
  · exact .settleStep (.runMove h)

/-- Settles O7: whatever a step does it does to memories that are in canonical form by writes that keep them so (`OutOk.step`). -/
theorem memoriesCanonicalKept : Obligations.MemoriesCanonicalKept := by
  unfold Obligations.MemoriesCanonicalKept
  intro s t hs e
  have hstep : OutOk (step s) := .step hs
  rw [e] at hstep
  cases hstep with
  | next h => exact h
end Sys2Proof.Safety

end

section
set_option Elab.async false

/-! # The control part stays within its rules (O6)

Of the invariant `CtlOk` only two things can break: the limits themselves (`Limits`), and that a retirement in progress
leaves them standing when it ends. Most functions of the model change neither, and then the invariant of the new
control part is that of the old one. A repair is the exception: it starts a retirement only where `Ctl.repairLimit` lets it
(`repairAct`), nothing retires a unit or names another one meanwhile, and its end keeps the limits by that (`repairFinish`). -/

namespace Sys2Proof.Safety
open Sys2Proof.Machine

/-- The limits of R24, R26, R53 and R69 on what a control part holds. -/
def Limits (c : Ctl) : Prop :=
  (800 ≤ c.cap ∧ c.cap ≤ 2600) ∧ c.fuses ≤ 64 ∧ c.ports.length = 18 ∧ (∃ k, k < 48 ∧ c.retClu.getLsbD k = false) ∧
  ∀ d, d < 8 → retiredSlices c d ≤ 16

/-! ## Limits and repairs -/

theorem repairLimit_cluster {c : Ctl} {i : Nat} :
    c.repairLimit 0 i = false ↔ ∃ k, k < 48 ∧ k ≠ i ∧ c.retClu.getLsbD k = false := by
  simp [Ctl.repairLimit]
theorem repairLimit_slice {c : Ctl} {i : Nat} :
    c.repairLimit 1 i = false ↔ ((List.range 48).filter (fun k => 48 * (i / 48) + k != i &&
      c.retSlc.getLsbD (48 * (i / 48) + k))).length < 16 := by
  simp [Ctl.repairLimit]

/-- The invariant is the limits, and that the retirement in progress passes none. -/
theorem ctlOk_iff {c : Ctl} : CtlOk c ↔ Limits c ∧
    (c.repBusy = true → c.repStarted = true → c.repOp = 1 → c.repairLimit c.repKind c.repIndex.toNat = false) := by
  constructor
  · rintro ⟨hlo, hhi, hf, hp, hc, hs, hclu, hslc⟩
    refine ⟨⟨⟨hlo, hhi⟩, hf, hp, hc, hs⟩, fun hb hst ho => ?_⟩
    match hk : c.repKind with
    | 0 => exact repairLimit_cluster.mpr (hclu ⟨hb, hst, ho, hk⟩)
    | 1 => exact repairLimit_slice.mpr (hslc ⟨hb, hst, ho, hk⟩)
    | _ + 2 => rfl
  · rintro ⟨⟨⟨hlo, hhi⟩, hf, hp, hc, hs⟩, hr⟩
    refine ⟨hlo, hhi, hf, hp, hc, hs, ?_, ?_⟩
    · rintro ⟨hb, hst, ho, hk⟩
      exact repairLimit_cluster.mp (hk ▸ hr hb hst ho)
    · rintro ⟨hb, hst, ho, hk⟩
      exact repairLimit_slice.mp (hk ▸ hr hb hst ho)

theorem CtlOk.limits {c : Ctl} (h : CtlOk c) : Limits c := (ctlOk_iff.mp h).1
/-- With no repair in progress the limits are the whole invariant. -/
theorem Limits.of_idle {c : Ctl} (h : Limits c) (hb : c.repBusy = false) : CtlOk c :=
  ctlOk_iff.mpr ⟨h, fun hb' => by simp [hb] at hb'⟩
/-- So they are while a repair waits to start. -/
theorem Limits.of_waiting {c : Ctl} (h : Limits c) (hs : c.repStarted = false) : CtlOk c :=
  ctlOk_iff.mpr ⟨h, fun _ hs' => by simp [hs] at hs'⟩

theorem Limits.clampCap {c : Ctl} (h : Limits c) (w : Nat) : Limits { c with cap := Machine.clampCap w } := by
  obtain ⟨-, hf, hp, hc, hs⟩ := h
  refine ⟨?_, hf, hp, hc, hs⟩
  unfold Machine.clampCap
  dsimp only
  split
  · omega
  · split <;> omega
/-- Retiring a cluster that is not the last one leaves one in service. -/
theorem Limits.retireCluster {c : Ctl} (h : Limits c) {i : Nat} (hr : c.repairLimit 0 i = false) :
    Limits { c with retClu := c.retClu ||| (1#48 <<< i) } := by
  obtain ⟨hcap, hf, hp, -, hs⟩ := h
  obtain ⟨k, hk, hki, hck⟩ := repairLimit_cluster.mp hr
  refine ⟨hcap, hf, hp, ⟨k, hk, ?_⟩, hs⟩
  have : k - i ≠ 0 ∨ k < i := by omega
  simp [hck, BitVec.getLsbD_one]
  omega
theorem Limits.restoreCluster {c : Ctl} (h : Limits c) (m : BitVec 48) : Limits { c with retClu := c.retClu &&& m } := by
  obtain ⟨hcap, hf, hp, ⟨k, hk, hck⟩, hs⟩ := h
  exact ⟨hcap, hf, hp, ⟨k, hk, by simp [hck]⟩, hs⟩

theorem length_filter_le_of_imp {α : Type} {p q : α → Bool} {l : List α} (h : ∀ a ∈ l, p a = true → q a = true) :
    (l.filter p).length ≤ (l.filter q).length := by
  simpa only [List.countP_eq_length_filter] using List.countP_mono_left h
/-- One more element of a list without repetitions satisfies a test. -/
theorem length_filter_or_le {l : List Nat} (hl : l.Nodup) (p : Nat → Bool) (j : Nat) :
    (l.filter (fun k => p k || k == j)).length ≤ (l.filter (fun k => k != j && p k)).length + 1 := by
  have h1 : (l.filter (fun k => p k || k == j)).length ≤ (l.filter (fun k => k != j && p k)).length + l.count j := by
    clear hl
    induction l with
    | nil => simp
    | cons a l ih =>
      by_cases ha : a = j <;> cases hp : p a <;> simp [ha, hp] <;> grind
  have h2 := List.nodup_iff_count_le_one.mp hl j
  omega

/-- Retiring one more slice of a die that has fewer than 16 others retired. -/
theorem Limits.retireSlice {c : Ctl} (h : Limits c) {i : Nat} (hr : c.repairLimit 1 i = false) :
    Limits { c with retSlc := c.retSlc ||| (1#384 <<< i) } := by
  obtain ⟨hcap, hf, hp, hc, hs⟩ := h
  refine ⟨hcap, hf, hp, hc, fun d hd => ?_⟩
  have hbit (n : Nat) (hn : (c.retSlc ||| (1#384 <<< i)).getLsbD n = true) : c.retSlc.getLsbD n = true ∨ n = i := by
    simp only [BitVec.getLsbD_or, BitVec.getLsbD_shiftLeft, BitVec.getLsbD_one, Bool.or_eq_true, Bool.and_eq_true,
      decide_eq_true_eq, Bool.not_eq_true', decide_eq_false_iff_not] at hn
    exact hn.imp_right fun hn => by omega
  by_cases hdi : d = i / 48
  · have hfew := repairLimit_slice.mp hr
    have hone := length_filter_or_le List.nodup_range (fun k => c.retSlc.getLsbD (48 * d + k)) (i % 48) (l := List.range 48)
    have hnew : retiredSlices { c with retSlc := c.retSlc ||| (1#384 <<< i) } d ≤ _ :=
      length_filter_le_of_imp (q := fun k => c.retSlc.getLsbD (48 * d + k) || k == i % 48) fun k _ hk => by
        simp only [Bool.or_eq_true, beq_iff_eq]
        exact (hbit _ hk).imp id (by omega)
    have hother : ((List.range 48).filter (fun k => k != i % 48 && c.retSlc.getLsbD (48 * d + k))).length ≤ _ :=
      length_filter_le_of_imp (q := fun k => 48 * (i / 48) + k != i && c.retSlc.getLsbD (48 * (i / 48) + k)) fun k _ hk => by
        simp only [Bool.and_eq_true, bne_iff_ne, ne_eq, ← hdi] at hk ⊢
        exact ⟨by omega, hk.2⟩
    omega
  · refine (length_filter_le_of_imp fun k hk hnew => ?_).trans (hs d hd)
    rw [List.mem_range] at hk
    exact (hbit _ hnew).resolve_right (by omega)
theorem Limits.restoreSlice {c : Ctl} (h : Limits c) (m : BitVec 384) : Limits { c with retSlc := c.retSlc &&& m } := by
  obtain ⟨hcap, hf, hp, hc, hs⟩ := h
  refine ⟨hcap, hf, hp, hc, fun d hd => (length_filter_le_of_imp fun k _ hk => ?_).trans (hs d hd)⟩
  simp only [BitVec.getLsbD_and, Bool.and_eq_true] at hk
  exact hk.1

variable {s t : State} {c : Ctl}

/-! ## Outcomes -/

/-- A step leaves a control part that meets its invariant, if it leaves a state. -/
inductive CtlKept : Out → Prop
  | next {s : State} (h : CtlOk s.ctl) : CtlKept (.next s)
  | fault {e : Fault} : CtlKept (.fault e)
  | refused {e : Refusal} : CtlKept (.refused e)

theorem CtlKept.of_next {o : Out} (h : ∀ t, o = .next t → CtlOk t.ctl) : CtlKept o := by
  cases o with
  | next t => exact .next (h t rfl)
  | fault => exact .fault
  | refused => exact .refused
theorem CtlOk.setFab (h : CtlOk s.ctl) (f : Fab) : CtlOk ({ s with fab := f } : State).ctl := h
theorem CtlOk.of_same (h : CtlOk s.ctl) (e : t.ctl = s.ctl) : CtlOk t.ctl := e ▸ h
theorem CtlOk.ite_ctl {p : Prop} {_ : Decidable p} (hs : CtlOk s.ctl) (ht : CtlOk t.ctl) : CtlOk (if p then s else t).ctl := by
  split <;> assumption
theorem CtlOk.ite {p : Prop} {_ : Decidable p} {c d : Ctl} (hc : CtlOk c) (hd : CtlOk d) : CtlOk (if p then c else d) := by
  split <;> assumption

/-! ## Ports and the switch -/

theorem CtlOk.setPorts (h : CtlOk c) {ps : List Port} (hp : ps.length = 18) : CtlOk { c with ports := ps } := by
  obtain ⟨⟨hcap, hf, -, hc, hs⟩, hr⟩ := ctlOk_iff.mp h
  exact ctlOk_iff.mpr ⟨⟨hcap, hf, hp, hc, hs⟩, hr⟩
theorem CtlOk.modPort {p : Nat} {m : Port → Port} (h : CtlOk s.ctl) : CtlOk (s.modPort p m).ctl :=
  h.setPorts (by rw [modAt, List.length_modify]; exact h.limits.2.2.1)
theorem CtlOk.sendBy_getD {ps : List Nat} {k : Packet} {came : Option Nat} (h : CtlOk s.ctl) (ht : CtlOk t.ctl) :
    CtlOk ((s.sendBy ps k came).getD t).ctl := by
  unfold State.sendBy
  cases s.bestPort ps k with
  | none => exact ht
  | some p => exact h.modPort
theorem CtlOk.flushOutbox (h : CtlOk s.ctl) : CtlOk s.flushOutbox.ctl := by
  unfold State.flushOutbox
  refine foldl_keeps (P := fun s : State => CtlOk s.ctl) _ h fun s x hs => ?_
  dsimp only
  split
  · exact .sendBy_getD hs hs
  · refine .ite_ctl hs ?_
    split
    · exact hs
    · exact .sendBy_getD hs hs
theorem CtlOk.dropPort {p st : Nat} (h : CtlOk s.ctl) : CtlOk (s.dropPort p st).ctl := by
  unfold State.dropPort
  split
  · exact h
  · exact h.modPort
theorem CtlOk.replay {p : Nat} {named : BitVec 12} (h : CtlOk s.ctl) : CtlOk (s.replay p named).ctl := by
  unfold State.replay
  split
  · exact h
  · exact h.modPort
theorem CtlOk.startRetrain {p : Nat} {bit : Bool} (h : CtlOk s.ctl) : CtlOk (s.startRetrain p bit).ctl := by
  unfold State.startRetrain
  split
  · exact h
  · exact .ite_ctl h.modPort h.modPort.modPort
theorem CtlOk.train {p good : Nat} (h : CtlOk s.ctl) : CtlOk (s.train p good).ctl := by
  unfold State.train
  split
  · exact h
  · exact .ite_ctl h (.ite_ctl h.modPort h.modPort)
theorem CtlOk.retrained {p good : Nat} (h : CtlOk s.ctl) : CtlOk (s.retrained p good).ctl := by
  unfold State.retrained
  split
  · exact h
  · exact .ite_ctl h (.ite_ctl h.modPort (.ite_ctl h.modPort h.dropPort))
theorem CtlOk.packetIn {p : Nat} {b : List Byte} (h : CtlOk s.ctl) : CtlOk (s.packetIn p b).ctl :=
  .ite_ctl h (.ite_ctl h h)
theorem CtlOk.assemble {p : Nat} {f : Flit} (h : CtlOk s.ctl) : CtlOk (s.assemble p f).ctl := by
  unfold State.assemble
  dsimp only
  split
  · exact h.packetIn
  · exact h.modPort
  · split
    · exact h.modPort
    · exact h
  · split
    · exact .packetIn h.modPort
    · exact h
theorem CtlOk.flitIn {p : Nat} {f : Flit} (h : CtlOk s.ctl) : CtlOk (s.flitIn p f).ctl := by
  unfold State.flitIn
  split
  · exact h
  next x _ =>
  refine .ite_ctl h (.ite_ctl h.modPort ?_)
  extract_lets bad u
  have hu : CtlOk u.ctl := .ite_ctl h h
  have numbered {v : State} (hv : CtlOk v.ctl) :
      CtlOk (if f.lseq ≠ x.rxSeq then (if x.awaitReplay ∨ serialLt f.lseq x.rxSeq then v else v.modPort p Port.nak)
        else if bad then v.modPort p (·.accepts f) else (v.modPort p (·.accepts f)).assemble p f).ctl :=
    .ite_ctl (.ite_ctl hv hv.modPort) (.ite_ctl hv.modPort (.assemble hv.modPort))
  split
  · exact .ite_ctl hu hu.modPort
  · exact .ite_ctl hu hu.modPort
  · exact .ite_ctl hu (.replay hu.modPort)
  iterate 4 exact numbered (.ite_ctl hu hu.modPort)
  · exact hu
theorem CtlOk.disablePort {p : Nat} {off : Bool} (h : CtlOk s.ctl) : CtlOk (s.disablePort p off).ctl := by
  unfold State.disablePort
  split
  · exact h
  · exact .ite_ctl (.dropPort h.modPort) h.modPort
theorem CtlOk.hpstatWrite {w : RegWrite} (h : CtlOk s.ctl) : CtlOk (s.hpstatWrite w).ctl :=
  .ite_ctl h.disablePort.startRetrain h.disablePort
theorem CtlKept.execPacketTransit {k : Nat} (h : CtlOk s.ctl) : CtlKept (execPacketTransit k s) := by
  unfold Machine.execPacketTransit
  split
  · exact .next h
  · split
    · exact .next h
    · dsimp only
      split
      · exact .next h
      · exact .next (.sendBy_getD h h)
theorem CtlKept.arrival {k : Nat} {ok : Packet → Bool} {go : Fab → Packet → Fab} (h : CtlOk s.ctl) :
    CtlKept (s.arrival k ok go) := by
  unfold State.arrival
  split
  · split <;> exact .next h
  · exact .next h

/-! ## Power -/

/-- Outputs in reset: no repair goes on, and the ports are fresh. -/
theorem CtlOk.halted (h : CtlOk c) : CtlOk c.halted := by
  obtain ⟨hcap, hf, -, hc, hs⟩ := h.limits
  exact Limits.of_idle ⟨hcap, hf, List.length_replicate, hc, hs⟩ rfl
theorem CtlOk.orderlyShutdown (h : CtlOk s.ctl) : CtlOk s.orderlyShutdown.ctl := .ite_ctl h h.halted
theorem CtlOk.onWrite {w : RegWrite} {e : RegEvent} {act : State → State} (h : CtlOk s.ctl)
    (hact : ∀ u : State, CtlOk u.ctl → CtlOk (act u).ctl) : CtlOk (s.onWrite w e act).ctl :=
  .ite_ctl h (.ite_ctl (hact _ h) h)
theorem CtlOk.setCap (h : CtlOk c) (w : Nat) : CtlOk { c with cap := clampCap w } := by
  obtain ⟨hl, hr⟩ := ctlOk_iff.mp h
  exact ctlOk_iff.mpr ⟨hl.clampCap w, hr⟩
theorem CtlOk.flushLife (h : CtlOk s.ctl) : CtlOk s.flushLife.ctl := .ite_ctl h h

/-! ## Boot and reset -/

theorem CtlOk.loadBody {kind : Nat} {src : Nat → Nat → List Byte} (h : CtlOk s.ctl) : CtlOk (s.loadBody kind src).ctl :=
  .ite_ctl h h
theorem CtlOk.booted {kind : Nat} {hd : List Byte} (h : CtlOk s.ctl) : CtlOk (s.booted kind hd).ctl := by
  unfold State.booted
  split <;> simpa only [CtlOk, retiredSlices] using h
theorem CtlOk.bootImages {src : Nat → Nat → List Byte} {room : Nat} {ks : List Nat} {at_ : Nat} (h : CtlOk s.ctl) :
    CtlOk (s.bootImages src room ks at_).2.ctl := by
  induction ks generalizing s at_ with
  | nil => exact h
  | cons k ks ih =>
    unfold State.bootImages
    extract_lets img hd
    split
    · exact h
    · exact ih h.loadBody.booted
theorem CtlOk.bootSlot {src : Nat → Nat → List Byte} {room : Nat} (h : CtlOk s.ctl) : CtlOk (s.bootSlot src room).2.ctl := by
  have hb := h.bootImages (src := src) (room := room) (ks := [1, 2, 3, 4]) (at_ := 0)
  unfold State.bootSlot
  split
  · next e => exact e ▸ hb
  · next e => rw [e] at hb; exact hb
theorem CtlOk.bootRom (h : CtlOk s.ctl) : CtlOk s.bootRom.ctl := by
  unfold State.bootRom
  split
  · next e => exact (congrArg Prod.snd e ▸ h.bootSlot :)
  · next u e =>
    have hu : CtlOk u.ctl := (congrArg Prod.snd e ▸ h.bootSlot :)
    split
    · next e => exact (congrArg Prod.snd e ▸ hu.bootSlot :)
    · next e => exact (congrArg Prod.snd e ▸ hu.bootSlot :)
/-- A reset keeps the retirements, blows a scheduled fuse only where one is left, and ends any repair. -/
theorem CtlOk.afterReset (h : CtlOk c) : CtlOk c.afterReset := by
  obtain ⟨-, hf, -, hc, hs⟩ := h.limits
  refine Limits.of_idle ⟨⟨by simp [Ctl.afterReset, Ctl.reset], by simp [Ctl.afterReset, Ctl.reset]⟩, ?_, by simp [Ctl.afterReset], hc, hs⟩ rfl
  show (if c.fuseAdv ∧ c.fuses < 64 then c.fuses + 1 else c.fuses) ≤ 64
  split <;> omega
theorem CtlOk.resetModule (h : CtlOk s.ctl) : CtlOk s.resetModule.ctl :=
  .ite_ctl h.afterReset (.bootRom h.afterReset)

/-! ## Keys, DMA and registers -/

theorem CtlOk.keyLoad {k : BitVec 12} (h : CtlOk c) : CtlOk (c.keyLoad k) := by
  unfold Ctl.keyLoad
  extract_lets r d
  have hd : CtlOk d := .ite h h
  exact hd
theorem CtlOk.keyRetire {k : BitVec 12} (h : CtlOk c) : CtlOk (c.keyRetire k) := by
  unfold Ctl.keyRetire
  extract_lets r d
  have hd : CtlOk d := .ite h h
  exact hd
theorem State.dmaKey_ctl (s : State) (rid : BitVec 16) : (s.dmaKey rid).2.ctl = s.ctl := by
  unfold State.dmaKey
  dsimp only
  split <;> rfl
theorem State.dmaAt_ctl (s : State) (r : DmaReq) (k : BitVec 12) (pa : Nat) : (s.dmaAt r k pa).ctl = s.ctl := by
  unfold State.dmaAt
  extract_lets n
  split
  · rfl
  · split <;> rfl
theorem State.dma_ctl (s : State) (r : DmaReq) : (s.dma r).ctl = s.ctl := by
  unfold State.dma
  have hk := State.dmaKey_ctl s r.rid
  split
  · rfl
  · split
    · next e => rw [e] at hk; exact hk
    · next e =>
      rw [e] at hk
      dsimp only
      split
      · split <;> exact hk
      · split
        · exact (State.dmaAt_ctl ..).trans hk
        · exact hk
/-- A write of REPCTL without an operation sets KIND and INDEX only while no repair is in progress. -/
theorem CtlOk.plainWrite {w : RegWrite} (h : CtlOk c) : CtlOk (c.plainWrite w) := by
  unfold Ctl.plainWrite
  extract_lets a o old i
  refine .ite (.ite h h) (.ite h (.ite (.ite h h) (.ite h (.ite (.ite h h) (.ite ?_ (.ite h (.ite h (.ite h h))))))))
  split
  · exact h
  · next hidle =>
    refine Limits.of_idle ?_ ?_
    · exact h.limits
    · simp only [not_or, Bool.not_eq_true] at hidle
      exact hidle.1
theorem CtlOk.plain {w : RegWrite} (h : CtlOk s.ctl) : CtlOk (s.plain w).ctl := by
  unfold State.plain
  split
  · exact h
  · exact h.plainWrite

/-! ## Live update -/

theorem CtlOk.updateStart (h : CtlOk s.ctl) : CtlOk s.updateStart.ctl := by
  unfold State.updateStart
  dsimp only
  split
  · exact h
  · split
    · exact h
    · split <;> simpa only [CtlOk, retiredSlices] using h
theorem CtlOk.updatePause (h : CtlOk s.ctl) : CtlOk s.updatePause.ctl := by
  unfold State.updatePause
  split
  · simpa only [CtlOk, retiredSlices] using h
  · exact h

/-! ## Repair -/

/-- A retirement that is not refused at once passes no limit. -/
theorem repairLimit_of_not_refused {op kind i : Nat} (e : c.repairRefused op kind i = none) (ho : op = 1) :
    c.repairLimit kind i = false := by
  unfold Ctl.repairRefused at e
  split at e
  · cases e
  · split at e
    · cases e
    · next hl => simpa [ho] using hl
theorem CtlOk.repairAct (h : CtlOk s.ctl) : CtlOk s.repairAct.ctl := by
  unfold State.repairAct
  dsimp only
  split
  · exact Limits.of_idle (c := { s.ctl with repBusy := false, repStarted := false, repResult := _ }) h.limits rfl
  · next e =>
    have hu : CtlOk { s.ctl with repStarted := true } := ctlOk_iff.mpr ⟨h.limits, fun _ _ ho => repairLimit_of_not_refused e ho⟩
    exact .ite_ctl (.ite_ctl hu h) (.ite_ctl hu (.ite_ctl (.disablePort hu) (.ite_ctl (.startRetrain hu) hu)))
theorem CtlOk.repair {w : RegWrite} {op : Nat} (h : CtlOk s.ctl) : CtlOk (s.repair w op).ctl := by
  unfold State.repair
  dsimp only
  refine .ite_ctl h ?_
  have hu (kind : Nat) (i : BitVec 16) : CtlOk { s.ctl with repBusy := true, repStarted := false, repOp := op, repKind := kind, repIndex := i } :=
    Limits.of_waiting (c := { s.ctl with repBusy := true, repStarted := false, repOp := op, repKind := kind, repIndex := i }) h.limits rfl
  exact .ite_ctl (hu _ _) (.repairAct (hu _ _))
theorem CtlOk.repairResume (h : CtlOk s.ctl) : CtlOk s.repairResume.ctl := .ite_ctl h.repairAct h
/-- Once a repair has ended the limits are all that the invariant asks. -/
theorem CtlOk.repairEnd {r : Nat} (h : Limits s.ctl) : CtlOk (s.repairEnd r).ctl :=
  Limits.of_idle (c := (s.repairEnd r).ctl) h rfl
theorem CtlOk.repairFinish {pass : Bool} (h : CtlOk s.ctl) (hb : s.ctl.repBusy = true) (hs : s.ctl.repStarted = true) :
    CtlOk (s.repairFinish pass).ctl := by
  obtain ⟨hl, hr⟩ := ctlOk_iff.mp h
  unfold State.repairFinish
  dsimp only
  split
  · next ho hk => exact .ite_ctl h (.repairEnd (hl.retireCluster (hk ▸ hr hb hs ho)))
  · next ho hk => exact .repairEnd (hl.retireSlice (hk ▸ hr hb hs ho))
  · exact .repairEnd hl
  · exact .ite_ctl (.repairEnd hl) (.repairEnd (hl.restoreCluster _))
  · exact .ite_ctl (.repairEnd hl) (.repairEnd (hl.restoreSlice _))
  · have hp : CtlOk { s.ctl with retPorts := s.ctl.retPorts &&& ~~~(1#18 <<< s.ctl.repIndex.toNat) } := h
    refine .ite_ctl (.repairEnd hl) (.repairEnd (CtlOk.limits ?_))
    exact .disablePort hp
  · exact .repairEnd hl

/-! ## Commands -/

theorem CtlOk.uzSettle (h : CtlOk s.ctl) : CtlOk s.uzSettle.ctl := .ite_ctl h h
theorem CtlOk.runCmd {id op : Nat} {m : Cmd → Fab → Fab} (h : CtlOk s.ctl) : CtlOk (s.runCmd id op m).ctl := by
  unfold State.runCmd
  split
  · exact .ite_ctl h h
  · exact h
theorem CtlOk.afterPause (h : CtlOk s.ctl) : CtlOk s.afterPause.ctl := .repairResume h
theorem CtlKept.respond {slot : Nat} {want : Nat → Bool} {go : FaultSlot → Fab → Fab} (h : CtlOk s.ctl) :
    CtlKept (s.respond slot want go) := by
  unfold State.respond
  split <;> exact .next h

/-! ## Every instruction, move and step -/

/-- A core instruction leaves the control part alone (O9). -/
theorem CtlKept.of_enc {j : Instr} {e : Enc} (he : j.enc? = some e) (h : CtlOk s.ctl) : CtlKept (exec j s) :=
  .of_next fun t ht => h.of_same (coreInstructionsKeepControl.1 j e s t he ht).1
/-- Every meaning leaves the control part within its rules. -/
theorem CtlKept.exec {j : Instr} (h : CtlOk s.ctl) : CtlKept (exec j s) := by
  cases he : j.enc? with
  | some e => exact .of_enc he h
  | none =>
    cases j with
    | bootImageI3c => exact .next (.ite_ctl h.bootSlot h)
    | moduleReset => exact .next h.resetModule
    | thermalThrottle => exact .next (.ite_ctl (.ite_ctl h h) h)
    | thermalShutdown => exact .next (.ite_ctl (.orderlyShutdown h) h)
    | supplyLowTimeout | coolantFlowTimeout => exact .next (.ite_ctl h.orderlyShutdown h)
    | supplyOvervoltage => exact .next (.ite_ctl h.halted h)
    | lifetimeFlush => exact .next h.flushLife
    | supplyExcursionCount | thermalRelease | powerCompare | eccEvent | poweredSecond | keyRetireDone | uzomanWatchdogRestart |
        hitchPlace | lanyardTeamend | lanyardSaved | commandSemaphoreStart | eventQueueRecheck =>
      exact .next (.ite_ctl h h)
    | supplyInputChange | coolantFlowChange | supplyDroop | offerSend | lanyardPlace | lanyardPreempt | lanyardRetire | permitReturnTimeout |
        groupStop | registerGrant | sleepWake | presenceWatchdog | incumbentPropagate | loadComplete | storeDrain | sliceRequest |
        remapReceive | pageWalk | faultRecordEnqueue | copySectorDeliver | matrixOpComplete | escapeChannel =>
      exact .next h
    | pwrcapWrite => exact .next (h.onWrite fun _ hu => .ite_ctl (hu.setCap _) hu)
    | registerWrite => exact .next (h.onWrite fun _ hu => hu.plain)
    | fuseadvWrite | keyQuery => exact .next (h.onWrite fun _ hu => .ite_ctl hu hu)
    | uzbellWrite => exact .next (h.onWrite fun _ hu => .ite_ctl hu hu)
    | keyLoad => exact .next (h.onWrite fun _ hu => .ite_ctl hu hu.keyLoad)
    | keyRetire => exact .next (h.onWrite fun _ hu => .ite_ctl hu hu.keyRetire)
    | liveUpdate => exact .next (h.onWrite fun _ hu => .ite_ctl hu.updateStart hu)
    | repairRetire | repairRestore | repairRetrain => exact .next (h.onWrite fun _ hu => hu.repair)
    | hpstatRetrain | hpstatDisable => exact .next (h.onWrite fun _ hu => hu.hpstatWrite)
    | updatePause => exact .next h.updatePause
    | updateAlive | updateWatchdog => exact .next (.ite_ctl (.afterPause h) h)
    | repairDone =>
      refine .next ?_
      split
      · next hb => exact h.repairFinish hb.1 hb.2
      · exact h
    | dmaRequest => exact .next (h.of_same (State.dma_ctl ..))
    | portTrain => exact .next h.train
    | flitReceive => exact .next h.flitIn
    | flitNak =>
      refine .next ?_
      split
      · exact .ite_ctl h.replay h
      · exact h
    | linkRetrain =>
      refine .next ?_
      split
      · exact .ite_ctl h.startRetrain h
      · exact h
    | retrainDone => exact .next h.retrained
    | switchGroupReport =>
      refine .next ?_
      split
      · exact h
      · exact h.modPort
    | packetTransit => exact .execPacketTransit h
    | packetReceive | packetAck | packetNak | offerReceive =>
      dsimp only [Machine.exec, execPacketReceive, execPacketAck, execPacketNak, execOfferReceive]
      exact .arrival h
    | packetResendTimeout | packetUnreachableTimeout =>
      dsimp only [Machine.exec, execPacketResendTimeout, execPacketUnreachableTimeout]
      split
      · split <;> exact .next h
      · exact .next h
    | cmdNop | cmdCreate | cmdDestroy | cmdResume | cmdPreempt | cmdCall | cmdReply | cmdStamp => exact .next h.runCmd
    | lanyardPlaced =>
      refine .next ?_
      split
      · exact .ite_ctl h h
      · exact h
    | lanyardPermit =>
      refine .next (.ite_ctl ?_ ?_)
      · split
        · exact .ite_ctl h h
        · exact h
      · split <;> exact h
    | lanyardLinkError =>
      refine .next ?_
      split
      · exact h
      · exact .ite_ctl h h
    | malformedTaskTrap =>
      refine .next ?_
      split
      · exact h
      · exact .ite_ctl h h
    | syscallRequestPost =>
      refine .next ?_
      split <;> exact h
    | faultRetry | faultDeliver | faultEnd =>
      dsimp only [Machine.exec, execFaultRetry, execFaultDeliver, execFaultEnd]
      exact .respond h
    | _ => cases he
theorem CtlKept.issueOn {c slot : Nat} (h : CtlOk s.ctl) : CtlKept (issueOn c slot s) := by
  unfold Machine.issueOn
  split
  · exact .next h
  · split
    · split
      · exact .exec h
      · refine .of_next fun t ht => ?_
        obtain ⟨f, -, rfl⟩ := State.lift_next ht
        exact h
    · exact .next h
    · exact .next h
theorem CtlKept.runMove {m : Move} (h : CtlOk s.ctl) : CtlKept (runMove m s) := by
  cases m with
  | act i => exact .exec h
  | issue c slot => exact .issueOn h
  | elapse | hartStore | evictL1 | evictI | evictL2 | mxPiece | takeMsi => exact .next h
/-- Of what every step ends with, the repair that starts and the packets that leave touch the rules. -/
theorem CtlKept.settleStep {m : Move} {o : Out} (ho : CtlKept o) : CtlKept (settleStep m o) := by
  cases ho with
  | fault => exact .fault
  | refused => exact .refused
  | @next s h =>
    have hr : CtlOk s.flushLife.uzSettle.repairResume.ctl := h.flushLife.uzSettle.repairResume
    exact .next (.setFab (.flushOutbox (.setFab hr _)) _)
theorem CtlKept.step (h : CtlOk s.ctl) : CtlKept (step s) := by
  unfold Machine.step
  split
  · exact .settleStep (.runMove h)
  · exact .settleStep (.runMove h)

/-- Settles O6: every function that the step is made of leaves the control part within its rules (`CtlKept.step`). -/
theorem controlInvariantKept : Obligations.ControlInvariantKept := by
  unfold Obligations.ControlInvariantKept
  intro s t hs e
  have hstep : CtlKept (step s) := .step hs
  rw [e] at hstep
  cases hstep with
  | next h => exact h

end Sys2Proof.Safety
end

section
set_option Elab.async false

/-! # The machine after reset (O1, O8) -/

namespace Sys2Proof.Safety
open Sys2Proof.Machine

theorem Limits.reset : Limits Ctl.reset := by
  refine ⟨by decide, by decide, by decide, ⟨0, by decide, by decide⟩, fun d _ => ?_⟩
  simp [retiredSlices, Ctl.reset]
theorem MemOk.reset : MemOk Fab.reset := by
  refine ⟨rfl, ?_, ?_, ?_⟩ <;> simp [Fab.reset]

/-- Settles O8: the limits hold of the reset values, and no memory holds a byte. -/
theorem invariantsAtReset : Obligations.InvariantsAtReset := by
  unfold Obligations.InvariantsAtReset
  exact ⟨Limits.reset.of_idle rfl, .reset⟩

/-- The HPSTAT of a port reads its status (R28). -/
theorem readReg_hpstat {c : Ctl} {p : Nat} {x : Port} (hp : p < 18) (hx : c.ports[p]? = some x) :
    c.readReg (0xF00000401000 + 16 * p) = .reg (BitVec.ofNat 64 x.status) := by
  have hindex : (0xF00000401000 + 16 * p - 0xF00000401000) / 16 = p := by omega
  unfold Ctl.readReg
  iterate 15 rw [if_neg (by omega)]
  rw [if_pos (by omega), hindex, hx]
theorem getElem?_ports_reset {p : Nat} (hp : p < 18) : Ctl.reset.ports[p]? = some Port.fresh :=
  List.getElem?_replicate_of_lt hp

/-- Settles O1: each field is read off `State.reset`. -/
theorem resetLeavesSpecValues : Obligations.ResetLeavesSpecValues := by
  unfold Obligations.ResetLeavesSpecValues
  have hports : ∀ p ∈ State.reset.ctl.ports, p.replays = 0 ∧ p.lanes = 0 ∧ p.state = 0 ∧ p.retrain = false ∧ p.disable = false := by
    intro p hp
    cases List.eq_of_mem_replicate hp
    exact ⟨rfl, rfl, rfl, rfl, rfl⟩
  exact ⟨rfl, rfl, rfl, rfl, rfl, rfl, rfl, rfl, rfl, rfl, rfl, rfl, rfl, rfl, rfl, rfl, rfl, rfl, rfl, rfl, ⟨_, rfl, rfl⟩, rfl,
    fun p hp => readReg_hpstat hp (getElem?_ports_reset hp), rfl, rfl, rfl, rfl, rfl, fun _ _ => rfl, rfl, hports, fun _ => rfl, rfl, rfl⟩

end Sys2Proof.Safety
end

section
set_option Elab.async false

/-! # What ports and a repair that starts leave of the control part -/

namespace Sys2Proof.Machine

/-- A control part without its ports and without the progress of a repair: what a change of the ports and the start of a
repair (R69) leave as it is. -/
def Ctl.apart (c : Ctl) : Ctl := { c with ports := [], repBusy := false, repStarted := false, repResult := 0, retiringSlc := none }

variable (s : State)

@[simp] theorem State.apart_modPort (p : Nat) (h : Port → Port) : (s.modPort p h).ctl.apart = s.ctl.apart := rfl
theorem State.apart_sendBy_getD {s t : State} {c : Ctl} (ps : List Nat) (k : Packet) (came : Option Nat) (hs : s.ctl.apart = c)
    (ht : t.ctl.apart = c) : ((s.sendBy ps k came).getD t).ctl.apart = c := by
  unfold State.sendBy
  cases s.bestPort ps k with
  | none => exact ht
  | some p => exact hs
@[simp] theorem State.apart_flushOutbox : s.flushOutbox.ctl.apart = s.ctl.apart := by
  unfold State.flushOutbox
  refine foldl_keeps (P := fun u : State => u.ctl.apart = s.ctl.apart) _ rfl fun u x hu => ?_
  dsimp only
  split
  · exact State.apart_sendBy_getD _ _ _ hu hu
  · split
    · exact hu
    · split
      · exact hu
      · exact State.apart_sendBy_getD _ _ _ hu hu
@[simp] theorem State.apart_dropPort (p st : Nat) : (s.dropPort p st).ctl.apart = s.ctl.apart := by
  unfold State.dropPort
  split <;> rfl
@[simp] theorem State.apart_startRetrain (p : Nat) (bit : Bool) : (s.startRetrain p bit).ctl.apart = s.ctl.apart := by
  unfold State.startRetrain
  split
  · rfl
  · dsimp only
    split <;> rfl
@[simp] theorem State.apart_disablePort (p : Nat) (off : Bool) : (s.disablePort p off).ctl.apart = s.ctl.apart := by
  unfold State.disablePort
  split
  · rfl
  · split
    · simp
    · rfl
@[simp] theorem State.apart_repairAct : s.repairAct.ctl.apart = s.ctl.apart := by
  unfold State.repairAct
  dsimp only
  split
  · rfl
  · split
    · split <;> rfl
    · split
      · rfl
      · split
        · exact State.apart_disablePort ..
        · split
          · exact State.apart_startRetrain ..
          · rfl
@[simp] theorem State.apart_repairResume : s.repairResume.ctl.apart = s.ctl.apart := by
  unfold State.repairResume
  split
  · exact s.apart_repairAct
  · rfl
@[simp] theorem State.apart_uzSettle : s.uzSettle.ctl.apart = s.ctl.apart := by
  unfold State.uzSettle
  split <;> rfl
/-- After its write of the lifetime record a step changes the control part in ports and repair alone. -/
theorem settleStep_apart {m : Move} {s t : State} (e : settleStep m (.next s) = .next t) :
    t.ctl.apart = s.flushLife.ctl.apart := by
  unfold settleStep at e
  dsimp only at e
  rw [Host.Outcome.next.injEq] at e
  subst e
  dsimp only
  simp only [State.apart_flushOutbox, State.apart_repairResume, State.apart_uzSettle]

end Sys2Proof.Machine

/-! # Supply, temperature, coolant and power (O52) -/

namespace Sys2Proof.Machine
open Sys2Proof.Safety

/-! ## Counters of the lifetime record (R70) -/

theorem Table.getD_set_self {α : Type} (t : Table α) (n : Nat) (x d : α) : Table.getD (Table.set t n x) n d = x := by
  rw [Table.getD, Table.get?_set_self, Option.getD_some]
theorem Table.getD_set_other {α : Type} (t : Table α) {n m : Nat} (x d : α) (h : m ≠ n) :
    Table.getD (Table.set t n x) m d = Table.getD t m d := by
  rw [Table.getD, Table.get?_set_other _ _ _ _ h, Table.getD]

/-- Counting raises a counter by 1 until it stands at its largest value. -/
theorem Fab.count_eq_counted (f : Fab) (off : Nat) : f.count off = counted f off := by
  unfold Fab.count counted Lifetime.add
  dsimp only
  generalize Table.getD f.life off 0 = v
  by_cases h : v = BitVec.allOnes 64
  · subst h
    rfl
  · have hv : v.toNat ≠ 2 ^ 64 - 1 := fun e => h (BitVec.eq_of_toNat_eq (by simpa using e))
    rw [if_neg (by omega), if_neg h, BitVec.ofNat_add, BitVec.ofNat_toNat, BitVec.setWidth_eq]
    rfl
/-- A counter has one count more than before, whatever other counters have risen. -/
theorem getD_count_self (f : Fab) (k : Nat) : Table.getD (f.count k).life k 0 = Table.getD (counted f k).life k 0 := by
  rw [Fab.count_eq_counted]
theorem getD_count_other (f : Fab) {k m : Nat} (h : m ≠ k) : Table.getD (f.count k).life m 0 = Table.getD f.life m 0 :=
  Table.getD_set_other _ _ _ h
theorem getD_counted_congr {f g : Fab} {k : Nat} (h : Table.getD f.life k 0 = Table.getD g.life k 0) :
    Table.getD (counted f k).life k 0 = Table.getD (counted g k).life k 0 := by
  simp only [counted, Table.getD_set_self, h]

/-! ## Supply (R21) -/

variable {s : State} {n x : Nat}

theorem runs_eq_true (h : Runs s) : s.ctl.runs = true := by simp [Ctl.runs, h]
theorem since_some {f : Fab} {ns : Nat} : f.since (some x) ns = true ↔ x + ns ≤ f.time.toNat := by simp [Fab.since]

theorem isSome_setSupply_bandSince (c : Ctl) (mv now : Nat) :
    (c.setSupply mv now).bandSince.isSome = true ↔ (47000 ≤ mv ∧ mv < 48000) ∨ (54000 < mv ∧ mv ≤ 56000) := by
  have hband : toleranceBand mv = 0 ↔ ¬((47000 ≤ mv ∧ mv < 48000) ∨ (54000 < mv ∧ mv ≤ 56000)) := by
    unfold toleranceBand
    grind
  unfold Ctl.setSupply
  dsimp only
  rw [← not_iff_not, ← hband]
  split
  · simp_all
  · split <;> simp_all
/-- An orderly shutdown of a module that runs (R21). -/
theorem shutDown_orderlyShutdown (h : Runs s) : ShutDown s s.orderlyShutdown := by
  unfold State.orderlyShutdown
  rw [if_neg (by simp [runs_eq_true h])]
  exact ⟨rfl, rfl, rfl, rfl, rfl, rfl, rfl, rfl, rfl, rfl, rfl, rfl⟩
/-- A timeout of the board: once its time has passed, the module shuts down in order. -/
theorem shutDown_of_since {since : Option Nat} {ns : Nat} (e : since = some x) (ht : x + ns ≤ s.fab.time.toNat) (h : Runs s) :
    ShutDown s (if s.fab.since since ns then s.orderlyShutdown else s) := by
  rw [e, if_pos (since_some.mpr ht)]
  exact shutDown_orderlyShutdown h
theorem exec_supplyLowTimeout_early (e : s.ctl.lowSince = some x) (ht : s.fab.time.toNat < x + 1000000) :
    exec .supplyLowTimeout s = .next s := by
  show Host.Outcome.next (if s.fab.since s.ctl.lowSince 1000000 then s.orderlyShutdown else s) = _
  rw [e, if_neg (by simp [Fab.since]; omega)]
theorem exec_supplyExcursionCount_due (e : s.ctl.bandSince = some x) (ht : x + 1000000 ≤ s.fab.time.toNat) (h : Runs s) :
    exec .supplyExcursionCount s = .next (if s.ctl.bandCounted then s else
      { s with ctl := { s.ctl with bandCounted := true }, fab := counted s.fab 0x30 }) := by
  show Host.Outcome.next (if s.fab.since s.ctl.bandSince 1000000 ∧ !s.ctl.bandCounted ∧ s.ctl.runs then _ else s) = _
  rw [e, since_some.mpr ht, runs_eq_true h, Fab.count_eq_counted]
  cases s.ctl.bandCounted <;> rfl

/-! ## Temperature and power (R23, R24) -/

theorem slotsFor_true : 2 ≤ slotsFor true ∧ slotsFor true < 4 := by decide
theorem exec_thermalThrottle_hot (h : 105 ≤ n) : ∃ t, exec (.thermalThrottle n) s = .next t ∧ t.ctl.thermal = true ∧
    t.ctl.temp = n ∧ 2 ≤ t.fab.issueSlots ∧ t.fab.issueSlots < 4 := by
  refine ⟨_, congrArg Host.Outcome.next (if_pos h), ?_⟩
  dsimp only
  split <;> exact ⟨rfl, rfl, slotsFor_true⟩
theorem exec_thermalRelease_cool (h : n < 100) : ∃ t, exec (.thermalRelease n) s = .next t ∧ t.ctl.thermal = false ∧
    (s.ctl.capped = false → t.fab.issueSlots = 4) :=
  ⟨_, congrArg Host.Outcome.next (if_pos h), rfl, fun hc => by simp [State.reduce, hc, slotsFor]⟩
theorem exec_thermalShutdown_hot (h : 115 ≤ n) (hr : Runs s) : ∃ t, exec (.thermalShutdown n) s = .next t ∧ ShutDown s t :=
  ⟨_, congrArg Host.Outcome.next (if_pos h), shutDown_orderlyShutdown (s := { s with ctl := { s.ctl with temp := n } }) hr⟩
theorem exec_coolantFlowChange : exec (.coolantFlowChange n) s = .next { s with ctl := { s.ctl with
    coolant := n
    coolantSince := if n < 1000 then some (match s.ctl.coolantSince with | some x => x | none => s.fab.time.toNat) else none } } := by
  show Host.Outcome.next _ = _
  cases s.ctl.coolantSince <;> rfl
theorem compareDue_of_last (h : Runs s) (hl : ∀ x, s.ctl.comparedAt = some x → x + 1000000 ≤ s.fab.time.toNat) :
    s.compareDue = true := by
  unfold State.compareDue
  rw [runs_eq_true h, Bool.true_and]
  cases hc : s.ctl.comparedAt with
  | none => rfl
  | some x => simp [since_some.mpr (hl x hc)]
theorem exec_powerCompare_due (hn : n < 65536) (h : s.compareDue = true) :
    ∃ t, exec (.powerCompare n) s = .next t ∧ t.ctl.meas = n ∧
      t.ctl.cap = s.ctl.cap ∧ t.ctl.capped = decide (s.ctl.cap < n) ∧ t.ctl.comparedAt = some s.fab.time.toNat ∧
      (s.ctl.cap < n → 2 ≤ t.fab.issueSlots ∧ t.fab.issueSlots < 4) ∧ (n ≤ s.ctl.cap → s.ctl.thermal = false → t.fab.issueSlots = 4) := by
  refine ⟨_, congrArg Host.Outcome.next (if_pos h), Nat.mod_eq_of_lt hn, rfl, rfl, rfl, fun hc => ?_, fun hc ht => ?_⟩
  · have hs : (s.ctl.thermal || decide (s.ctl.cap < n)) = true := by simp [hc]
    show 2 ≤ slotsFor (s.ctl.thermal || decide (s.ctl.cap < n)) ∧ slotsFor (s.ctl.thermal || decide (s.ctl.cap < n)) < 4
    rw [hs]
    exact slotsFor_true
  · have hs : (s.ctl.thermal || decide (s.ctl.cap < n)) = false := by simp [ht, hc]
    show slotsFor (s.ctl.thermal || decide (s.ctl.cap < n)) = 4
    rw [hs]
    rfl
theorem exec_powerCompare_early (e : s.ctl.comparedAt = some x) (ht : s.fab.time.toNat < x + 1000000) :
    exec (.powerCompare n) s = .next s := by
  refine congrArg Host.Outcome.next (if_neg ?_)
  simp [State.compareDue, e, Fab.since]
  omega

/-! ## The lifetime record (R70) -/

theorem flushLife_due (h : Runs s) (ht : s.ctl.flushedAt + 600000000000 ≤ (s.fab.time.toNat : Int)) :
    s.flushLife = { s with ctl := { s.ctl with flashLife := s.fab.life, flushedAt := s.fab.time.toNat } } :=
  if_pos (by simp [State.flushDue, runs_eq_true h, ht])
theorem flushLife_early (ht : (s.fab.time.toNat : Int) < s.ctl.flushedAt + 600000000000) : s.flushLife = s :=
  if_neg (by simp [State.flushDue]; omega)
theorem exec_supplyDroop (h : n < 160) : exec (.supplyDroop n) s = .next { s with fab := counted s.fab (0x600 + 8 * (n / 10)) } := by
  show Host.Outcome.next { s with fab := s.fab.count (0x600 + 8 * min 15 (n / 10)) } = _
  rw [Fab.count_eq_counted, Nat.min_eq_right (by omega)]
theorem exec_eccEvent {b : Bool} (h : n < 12) : exec (.eccEvent n b) s =
    .next { s with fab := counted s.fab (0x100 + 16 * n + (if b then 0 else 8)) } := by
  rw [← Fab.count_eq_counted]
  exact congrArg Host.Outcome.next (if_pos h)
/-- The three counters of a powered second differ, so that each rises by 1. -/
theorem exec_poweredSecond_due (h : Runs s) (ht : s.ctl.secondAt + 1000000000 ≤ (s.fab.time.toNat : Int)) :
    ∃ t, exec (.poweredSecond n) s = .next t ∧ t.ctl.secondAt = s.ctl.secondAt + 1000000000 ∧
      t.ctl.replaySeen = s.fab.life.replays ∧ t.ctl.temp = n ∧
      ∀ k ∈ [8, 0x500 + 8 * min 15 (Nat.log2 (s.fab.life.replays - s.ctl.replaySeen)), 0x580 + 8 * min 15 ((n - 40) / 5)],
        Table.getD t.fab.life k 0 = Table.getD (counted s.fab k).life k 0 := by
  refine ⟨_, congrArg Host.Outcome.next (if_pos (by simp [State.secondDue, runs_eq_true h, ht])), rfl, rfl, rfl, ?_⟩
  dsimp only [replayBucket, tempBucket]
  generalize hr : 0x500 + 8 * min 15 (Nat.log2 (s.fab.life.replays - s.ctl.replaySeen)) = r
  generalize hb : 0x580 + 8 * min 15 ((n - 40) / 5) = b
  have h8r : 8 ≠ r := by omega
  have h8b : 8 ≠ b := by omega
  have hrb : r ≠ b := by omega
  intro k hk
  simp only [List.mem_cons, List.not_mem_nil, or_false] at hk
  rcases hk with rfl | rfl | rfl
  · rw [getD_count_other _ h8b, getD_count_other _ h8r, getD_count_self]
  · rw [getD_count_other _ hrb, getD_count_self]
    exact getD_counted_congr (getD_count_other _ h8r.symm)
  · rw [getD_count_self]
    exact getD_counted_congr (by rw [getD_count_other _ hrb.symm, getD_count_other _ h8b.symm])
theorem exec_poweredSecond_early (ht : (s.fab.time.toNat : Int) < s.ctl.secondAt + 1000000000) : exec (.poweredSecond n) s = .next s :=
  congrArg Host.Outcome.next (if_neg (by simp [State.secondDue]; omega))

/-! ## TIME between powered seconds -/

@[simp] theorem Fab.markEligible_time (f : Fab) (m : Nat) : (f.markEligible m).time = f.time := rfl
theorem Fab.groupRoom_le (f : Fab) (c : Nat) (t : Team) (g : Group) (acs : Nat) : f.groupRoom c t g acs ≤ acs := by
  unfold Fab.groupRoom
  extract_lets n
  have hn : n ≤ acs := by unfold n; split <;> grind
  split <;> grind
theorem Fab.room_le (f : Fab) (acs : Nat) : f.room acs ≤ acs := by
  unfold Fab.room
  split
  · omega
  · refine foldl_keeps (P := fun n : Nat => n ≤ acs) _ le_rfl fun n k hn => ?_
    split
    · exact hn
    · exact foldl_keeps (P := fun n : Nat => n ≤ acs) _ hn fun n g hn => (f.groupRoom_le ..).trans hn
/-- No more cycles pass than a number of nanoseconds takes. -/
theorem nsOf_add_cyclesIn_le {ac ns n : Nat} (h : n ≤ cyclesIn ac ns) : nsOf (ac + n) - nsOf ac ≤ ns := by
  unfold cyclesIn nsOf at *
  omega
/-- TIME rises by no more than the nanoseconds of the cycles asked for. -/
theorem Fab.elapse_time_le (f : Fab) {acs ns : Nat} (h : acs ≤ cyclesIn f.ac ns) :
    (f.elapse acs).time.toNat ≤ f.time.toNat + ns := by
  unfold Fab.elapse
  extract_lets g m
  have hns : nsOf (f.ac + m) - nsOf f.ac ≤ ns := nsOf_add_cyclesIn_le ((g.room_le acs).trans h)
  have hac : g.ac = f.ac := rfl
  have htime : g.time = f.time := rfl
  rw [Fab.markEligible_time]
  dsimp only
  rw [BitVec.toNat_add, BitVec.toNat_ofNat, htime, hac]
  omega
theorem elapse_secondRoom_le (h : Runs s) (ht : (s.fab.time.toNat : Int) ≤ s.ctl.secondAt + 1000000000) (acs : Nat) :
    ((s.fab.elapse (s.secondRoom acs)).time.toNat : Int) ≤ s.ctl.secondAt + 1000000000 := by
  have hroom : s.secondRoom acs ≤ cyclesIn s.fab.ac (s.ctl.secondAt + 1000000000 - s.fab.time.toNat).toNat := by
    unfold State.secondRoom
    rw [if_pos (runs_eq_true h)]
    omega
  have := s.fab.elapse_time_le hroom
  omega

end Sys2Proof.Machine

namespace Sys2Proof.Safety
open Sys2Proof.Machine

/-- Settles O52, event by event. -/
theorem boardEvents : Obligations.BoardEvents := by
  unfold Obligations.BoardEvents
  intro s n b now c
  refine ⟨⟨_, rfl, rfl, rfl, ?_, isSome_setSupply_bandSince ..⟩,
    fun x e ht h => ⟨_, rfl, shutDown_of_since e ht h⟩,
    fun x e ht => exec_supplyLowTimeout_early e ht,
    fun h => ⟨_, congrArg Host.Outcome.next (if_pos h), rfl, rfl, rfl⟩,
    fun x e ht h => exec_supplyExcursionCount_due e ht h,
    exec_thermalThrottle_hot, exec_thermalRelease_cool, exec_thermalShutdown_hot, exec_coolantFlowChange,
    fun x e ht h => ⟨_, rfl, shutDown_of_since e ht h⟩,
    fun hn h hl => exec_powerCompare_due hn (compareDue_of_last h hl),
    fun x e ht => exec_powerCompare_early e ht,
    fun h ht => congrArg Host.Outcome.next (flushLife_due h ht),
    fun ht => congrArg Host.Outcome.next (flushLife_early ht),
    fun m t e h ht => ?_, fun hn => ?_, fun hn => ?_,
    exec_poweredSecond_due, fun _ ht => exec_poweredSecond_early ht, elapse_secondRoom_le⟩
  · show (if n < 47000 then some (c.lowSince.getD now) else none) = _
    cases c.lowSince <;> rfl
  · have hf : t.ctl.apart.flushedAt = s.flushLife.ctl.apart.flushedAt := congrArg Ctl.flushedAt (settleStep_apart e)
    exact hf.trans (congrArg (fun u : State => u.ctl.flushedAt) (flushLife_due h ht))
  · exact exec_supplyDroop hn
  · exact exec_eccEvent hn

end Sys2Proof.Safety
end

section
set_option Elab.async false

/-! # What memory accesses, events and scratchpad writes leave alone

None of them ends or makes a context, touches a command, a placement, a fault slot or what an engine has in hand: `SameWork`.
One lemma for each function that makes a fabric of a fabric, in the order of the model. -/

namespace Sys2Proof.Safety
open Sys2Proof.Machine

/-- A core's engines have the copies and matrix operations in hand that another's have. -/
def SameHand (k m : Core) : Prop := m.copies = k.copies ∧ m.mxq = k.mxq
/-- A fabric holds the contexts, commands, placements and fault slots of another, and its engines what the other's have in hand. -/
def SameWork (f g : Fab) : Prop :=
  g.ctxs = f.ctxs ∧ g.cmds = f.cmds ∧ g.placement = f.placement ∧ g.faults = f.faults ∧
    ∀ c, SameHand (f.core c) (g.core c)

variable {f₀ f : Fab} {ctl : Ctl} {core owner : Option Nat} {c ctx pa n line slice stamp scope : Nat} {key : BitVec 12}
  {home : BitVec 4} {bs : List Byte}

theorem SameWork.refl : SameWork f f := ⟨rfl, rfl, rfl, rfl, fun _ => ⟨rfl, rfl⟩⟩
theorem SameWork.ctxs (h : SameWork f₀ f) : f.ctxs = f₀.ctxs := h.1
theorem SameWork.cmds (h : SameWork f₀ f) : f.cmds = f₀.cmds := h.2.1
theorem SameWork.placement (h : SameWork f₀ f) : f.placement = f₀.placement := h.2.2.1
theorem SameWork.faults (h : SameWork f₀ f) : f.faults = f₀.faults := h.2.2.2.1
theorem SameWork.copies (h : SameWork f₀ f) (c : Nat) : (f.core c).copies = (f₀.core c).copies := (h.2.2.2.2 c).1
theorem SameWork.mxq (h : SameWork f₀ f) (c : Nat) : (f.core c).mxq = (f₀.core c).mxq := (h.2.2.2.2 c).2

theorem SameWork.ite {p : Prop} {_ : Decidable p} {f g : Fab} (hf : SameWork f₀ f) (hg : SameWork f₀ g) :
    SameWork f₀ (if p then f else g) := by
  split <;> assumption
theorem SameWork.ite_snd {α : Type} {p : Prop} {_ : Decidable p} {x y : α × Fab} (hx : SameWork f₀ x.2) (hy : SameWork f₀ y.2) :
    SameWork f₀ (if p then x else y).2 := by
  split <;> assumption
/-- The fabric of a pair that a branch has named. -/
theorem SameWork.of_eq {α : Type} {p : α × Fab} {a : α} (e : p = (a, f)) (h : SameWork f₀ p.2) : SameWork f₀ f := by
  subst e
  exact h

section
variable (h : SameWork f₀ f)
include h

theorem SameWork.foldl {α : Type} {l : List α} {op : Fab → α → Fab} (hop : ∀ g a, SameWork f₀ g → SameWork f₀ (op g a)) :
    SameWork f₀ (l.foldl op f) := foldl_keeps _ h hop
theorem SameWork.foldl_fst {α β : Type} {b : β} {l : List α} {op : Fab × β → α → Fab × β}
    (hop : ∀ p a, SameWork f₀ p.1 → SameWork f₀ (op p a).1) : SameWork f₀ (l.foldl op (f, b)).1 :=
  foldl_keeps (P := fun p : Fab × β => SameWork f₀ p.1) _ h hop
theorem SameWork.foldl_snd {α β : Type} {b : β} {l : List α} {op : β × Fab → α → β × Fab}
    (hop : ∀ p a, SameWork f₀ p.2 → SameWork f₀ (op p a).2) : SameWork f₀ (l.foldl op (b, f)).2 :=
  foldl_keeps (P := fun p : β × Fab => SameWork f₀ p.2) _ h hop

theorem SameWork.pair {α : Type} {a : α} : SameWork f₀ (a, f).2 := h
/-- A change of a fabric's other parts. -/
theorem SameWork.update {time ac issueSlots mem memKeys l2 marks dieTlb waiters grids replicas engPosts remaps replies ring ringFlows links
    queues posts msis sendFlows sent recvFlows arrived outbox redHeld bights bypasses refused copying life regWrites dmaDone peerOut nextId
    epoch issuer} : SameWork f₀ { f with
      time, ac, issueSlots, mem, memKeys, l2, marks, dieTlb, waiters, grids, replicas, engPosts, remaps, replies, ring, ringFlows, links,
      queues, posts, msis, sendFlows, sent, recvFlows, arrived, outbox, redHeld, bights, bypasses, refused, copying, life, regWrites,
      dmaDone, peerOut, nextId, epoch, issuer } := h
theorem SameWork.foldl_mid {α β γ : Type} {a : β} {b : γ} {l : List α} {op : β × Fab × γ → α → β × Fab × γ}
    (hop : ∀ p a, SameWork f₀ p.2.1 → SameWork f₀ (op p a).2.1) : SameWork f₀ (l.foldl op (a, f, b)).2.1 :=
  foldl_keeps (P := fun p : β × Fab × γ => SameWork f₀ p.2.1) _ h hop

/-! ## Cores -/

theorem SameWork.setCore {k : Core} (hk : SameHand (f.core c) k) : SameWork f₀ (f.setCore c k) := by
  obtain ⟨hx, hm, hp, hs, hc⟩ := h
  refine ⟨hx, hm, hp, hs, fun d => ?_⟩
  by_cases hd : d = c
  · rw [hd, Fab.core_setCore_self]
    exact ⟨hk.1.trans (hc c).1, hk.2.trans (hc c).2⟩
  · rw [Fab.core_setCore_other _ _ hd]
    exact hc d
theorem SameWork.modTeam {m : Team → Team} : SameWork f₀ (f.modTeam c m) := by
  unfold Fab.modTeam
  dsimp only
  split
  · exact h
  · exact h.setCore ⟨rfl, rfl⟩
theorem SameWork.modGroup {s : Nat} {m : Group → Group} : SameWork f₀ (f.modGroup c s m) := by
  rw [Fab.modGroup_eq]
  exact h.modTeam
omit h in
theorem getD_map_sameHand {t : Table Core} {m : Nat × Core → Nat × Core} (hm : ∀ p, (m p).1 = p.1 ∧ SameHand p.2 (m p).2) :
    SameHand (Table.getD t c Core.empty) (Table.getD (t.map m) c Core.empty) := by
  induction t with
  | nil => exact ⟨rfl, rfl⟩
  | cons p t ih =>
    obtain ⟨hk, hc⟩ := hm p
    simp only [List.map_cons, Table.getD, Table.get?, hk]
    split
    · exact hc
    · exact ih
theorem SameWork.mapCores {m : Nat × Core → Nat × Core} (hm : ∀ p, (m p).1 = p.1 ∧ SameHand p.2 (m p).2) :
    SameWork f₀ { f with cores := f.cores.map m } := by
  obtain ⟨hx, hd, hp, hs, hc⟩ := h
  refine ⟨hx, hd, hp, hs, fun c => ?_⟩
  obtain ⟨hcm, hmm⟩ := getD_map_sameHand (t := f.cores) (c := c) hm
  exact ⟨hcm.trans (hc c).1, hmm.trans (hc c).2⟩

/-! ## Memory and the slices -/

theorem SameWork.memPut {km : BitVec 512} {b : Byte} : SameWork f₀ (f.memPut km pa b) := by
  unfold Fab.memPut
  dsimp only
  split
  · exact .ite (.update h) (.update h)
  · exact .update h
omit h in
theorem SameWork.memPutBytes (h : SameWork f₀ f) {km : BitVec 512} : SameWork f₀ (f.memPutBytes km pa bs) := by
  induction bs generalizing f pa with
  | nil => exact h
  | cons b bs ih => exact ih h.memPut
theorem SameWork.l2Evict : SameWork f₀ (f.l2Evict ctl line) := by
  unfold Fab.l2Evict
  split
  · exact h
  · exact .update (h.foldl fun _ _ hg => .ite hg.memPut hg)
theorem SameWork.refreshMap : SameWork f₀ (f.refreshMap ctl c ctx) := .ite h (h.setCore ⟨rfl, rfl⟩)
theorem SameWork.crossRing {src dst flow : Nat} {ordered : Bool} : SameWork f₀ (f.crossRing src dst ctx flow ordered) := .ite h h
theorem SameWork.crossTo : SameWork f₀ (f.crossTo c ctx pa slice) := h.crossRing.crossRing
theorem SameWork.count : SameWork f₀ (f.count n) := h
theorem SameWork.route : SameWork f₀ (f.route ctl core ctx home pa).2 := by
  unfold Fab.route
  split
  · exact h
  · exact .ite_snd h.crossTo.count.refreshMap.crossTo h.crossTo
theorem SameWork.l2Take : SameWork f₀ (f.l2Take ctl slice key line stamp).2 := by
  unfold Fab.l2Take
  dsimp only
  split
  · exact h
  · split
    · exact h
    · split
      · exact h
      · exact h.l2Evict
theorem SameWork.l2Open : SameWork f₀ (f.l2Open ctl core ctx key home pa).2 := by
  unfold Fab.l2Open
  have hr : SameWork f₀ { (f.route ctl core ctx home pa).2 with nextId := (f.route ctl core ctx home pa).2.nextId + 1 } := h.route
  dsimp only
  split
  · exact .ite_snd hr (.ite hr.l2Evict.l2Take hr.l2Evict.l2Take)
  · exact hr.l2Take
theorem SameWork.l2Keep {l : L2Line} : SameWork f₀ (f.l2Keep l) := .update h
theorem SameWork.l2ReadLine : SameWork f₀ (f.l2ReadLine ctl core ctx key home pa n).2 := by
  unfold Fab.l2ReadLine
  dsimp only
  split
  · next e => exact .of_eq e h.l2Open
  · next e => exact (SameWork.of_eq e h.l2Open).l2Keep
theorem SameWork.l2WriteLine : SameWork f₀ (f.l2WriteLine ctl core ctx key home pa bs) := by
  unfold Fab.l2WriteLine
  split
  · next e => exact (SameWork.of_eq e h.l2Open).memPutBytes
  · next e => exact (SameWork.of_eq e h.l2Open).l2Keep

/-! ## What follows a write -/

theorem SameWork.mapLanes {m : Nat → Team → Group → Nat → Lane → Lane} : SameWork f₀ (f.mapLanes m) :=
  h.mapCores fun _ => ⟨rfl, rfl, rfl⟩
theorem SameWork.wakeWatchers : SameWork f₀ (f.wakeWatchers ctl pa n) := h.mapLanes
theorem SameWork.shootdown : SameWork f₀ (f.shootdown line) := .ite (h.mapCores fun _ => ⟨rfl, rfl, rfl⟩) h
theorem SameWork.written : SameWork f₀ (f.written ctl core pa n) := by
  have hs := h.foldl (l := parts pa n) (op := fun f p => f.shootdown (p.1 / 256)) fun _ _ hg => hg.shootdown
  refine (hs.mapCores fun p => ?_).wakeWatchers
  dsimp only
  split <;> exact ⟨rfl, rfl, rfl⟩
theorem SameWork.l2Read : SameWork f₀ (f.l2Read ctl core ctx key home pa n).2 := h.foldl_snd fun _ _ hp => hp.l2ReadLine
theorem SameWork.l2Write : SameWork f₀ (f.l2Write ctl core ctx key home pa bs) :=
  (h.foldl_fst fun _ _ hp => hp.l2WriteLine).written
theorem SameWork.agentRead : SameWork f₀ (f.agentRead ctl key pa n).2 := h.foldl fun _ _ hg => hg.l2Evict
theorem SameWork.agentWrite : SameWork f₀ (f.agentWrite ctl key pa bs) :=
  (h.foldl fun _ _ hg => hg.l2Evict).memPutBytes.written

/-! ## Translation, and accesses of a context -/

omit h in
theorem SameWork.walkFrom {va fuel level table : Nat} {lines : List Nat} (h : SameWork f₀ f) :
    SameWork f₀ (f.walkFrom ctl ctx va fuel level table lines).2 := by
  induction fuel generalizing f level table lines with
  | zero => exact h
  | succ fuel ih =>
    have hr : SameWork f₀ (f.l2Read ctl none ctx 0 0 (table + 8 * levelIndex level va) 8).2 := h.l2Read
    exact .ite_snd h (.ite_snd hr (.ite_snd hr (.ite_snd (ih hr) hr)))
theorem SameWork.setAD {pte at_ : Nat} {w : Bool} : SameWork f₀ (f.setAD ctl ctx pte at_ w).2 := by
  have hw : SameWork f₀ (({ f with marks := f.marks.filter (fun x => x != at_ / 256) } : Fab).l2Write ctl none ctx 0 0 at_
    (leBytes 8 (if w then pte ||| 0x30 else pte ||| 0x10))) := SameWork.l2Write h
  exact .ite_snd h (hw.mapCores fun _ => ⟨rfl, rfl, rfl⟩)
theorem SameWork.lookup {x : Ctx} {va : Nat} : SameWork f₀ (f.lookup ctl core x va).2 := by
  unfold Fab.lookup
  split
  · exact h.walkFrom
  · dsimp only
    split
    · exact h
    · split
      · exact h
      · split
        · next e => exact SameWork.setCore (.of_eq e h.walkFrom) ⟨rfl, rfl⟩
        · exact h.walkFrom
theorem SameWork.translate {va : Nat} {acc : Access} : SameWork f₀ (f.translate ctl core ctx va acc).2 := by
  unfold Fab.translate
  split
  · exact h
  · split
    · next e => exact .of_eq e h.lookup
    · next e => exact .of_eq e h.lookup
    · next e =>
      have hg := SameWork.of_eq e h.lookup
      exact .ite_snd hg (.ite_snd hg.setAD hg.setAD)
theorem SameWork.mmioRead {a : Nat} : SameWork f₀ (ctl.mmioRead f a n).2 := by
  unfold Ctl.mmioRead
  refine .ite_snd h ?_
  split <;> exact h
theorem SameWork.paRead : SameWork f₀ (f.paRead ctl key pa n).2 := by
  dsimp only [Fab.paRead]
  exact .ite_snd (.pair h.agentRead) (.ite_snd h.mmioRead h)
theorem SameWork.paWrite {who : Writer} : SameWork f₀ (f.paWrite ctl key who pa bs).2 :=
  .ite_snd (.pair h.agentWrite) (.ite_snd (.pair (.update h)) h)
theorem SameWork.ctxParts {vs : List (Nat × Nat)} {acc : Access} : SameWork f₀ (f.ctxParts ctl ctx vs acc).2 := by
  dsimp only [Fab.ctxParts]
  refine h.foldl_snd fun p a hp => ?_
  split
  · exact hp
  · refine .ite_snd hp ?_
    split
    · next e => exact .of_eq e hp.translate
    · next e => exact .of_eq e hp.translate
theorem SameWork.ctxRead {va : Nat} : SameWork f₀ (f.ctxRead ctl ctx va n).2 := by
  dsimp only [Fab.ctxRead, Fab.readParts]
  split
  · next e => exact .of_eq e h.ctxParts
  · next e =>
    refine (SameWork.of_eq e h.ctxParts).foldl_snd fun p a hp => ?_
    split
    · next e => exact .of_eq e hp.paRead
    · exact hp
theorem SameWork.ctxWrite {va : Nat} : SameWork f₀ (f.ctxWrite ctl ctx va bs).2 := by
  dsimp only [Fab.ctxWrite, Fab.writeParts]
  split
  · next e => exact .of_eq e h.ctxParts
  · next e =>
    exact .pair ((SameWork.of_eq e h.ctxParts).foldl_mid fun _ _ hp => hp.paWrite)
theorem SameWork.faultQ : SameWork f₀ (f.faultQ ctl ctx).2 := by
  unfold Fab.faultQ
  split
  · exact h
  · split
    · next e => exact .of_eq e h.ctxRead
    · next e => exact .of_eq e h.ctxRead

/-! ## Events -/

theorem SameWork.msi {hart identity : Nat} : SameWork f₀ (f.msi hart identity) := .update h
theorem SameWork.irqRetire {s : Nat} : SameWork f₀ (f.irqRetire c s) := h.modGroup
theorem SameWork.writeEvent {q : UzQueue} {p : EventPost} : SameWork f₀ (f.writeEvent ctl q p) := by
  dsimp only [Fab.writeEvent]
  split
  · exact .msi (.update h.paWrite.paWrite)
  · exact .irqRetire (.msi (.update h.paWrite.paWrite))
theorem SameWork.flushQueue {qi : Nat} : SameWork f₀ (f.flushQueue ctl qi) := by
  dsimp only [Fab.flushQueue]
  refine h.foldl fun g p hg => ?_
  split
  · exact hg
  · exact .ite (.update hg.writeEvent) hg
theorem SameWork.post {p : EventPost} : SameWork f₀ (f.post ctl p) := by
  unfold Fab.post
  split
  · exact .ite (.flushQueue (.update h)) h
  · exact h
theorem SameWork.bumpEpoch {x : UzQueue} : SameWork f₀ (f.bumpEpoch ctl x) := by
  dsimp only [Fab.bumpEpoch]
  exact .ite h h.agentRead.agentWrite
theorem SameWork.putFlow {x : RecvFlow} : SameWork f₀ (f.putFlow x) := .update h
theorem SameWork.emit {p : Packet} : SameWork f₀ (f.emit p) := .update h
theorem SameWork.reject {p : Packet} {reason : Nat} : SameWork f₀ (f.reject p reason) := h.putFlow.emit

/-! ## The L1 data caches and the scratchpads -/

theorem SameWork.l1Keep {l : L1Line} : SameWork f₀ (f.l1Keep c l) := h.setCore ⟨rfl, rfl⟩
theorem SameWork.l1Clean {l : L1Line} : SameWork f₀ (f.l1Clean ctl c l).2 := by
  unfold Fab.l1Clean
  dsimp only
  split
  · exact h
  · refine .foldl ?_ fun _ _ hg => hg.written
    split
    · next e => exact (SameWork.of_eq e h.l2Open).foldl fun _ _ hg => .ite hg.memPut hg
    · next e => exact (SameWork.of_eq e h.l2Open).l2Keep
theorem SameWork.l1Refresh {l : L1Line} : SameWork f₀ (f.l1Refresh ctl c l).2 := by
  dsimp only [Fab.l1Refresh]
  exact h.foldl_snd fun _ _ hp => .ite_snd hp hp.l2ReadLine
theorem SameWork.l1Acquire : SameWork f₀ (f.l1Acquire ctl c scope) :=
  .ite h (h.foldl fun _ _ hg => hg.l1Clean.l1Refresh.l1Keep)
theorem SameWork.sectorSet {sec : Nat} : SameWork f₀ (f.sectorSet c sec) := h.modTeam
theorem SameWork.wakeBarriers : SameWork f₀ (f.wakeBarriers ctl c) := h.mapLanes.foldl fun _ _ hg => hg.l1Acquire
theorem SameWork.scrWrite {a : Nat} : SameWork f₀ (f.scrWrite ctl c a bs) := h.modTeam.wakeBarriers
theorem SameWork.barUpdate {a : Nat} {m : Bar → Bar} : SameWork f₀ (f.barUpdate ctl c a m) := h.scrWrite

/-! ## The end of a team -/

theorem SameWork.reapBatches {s : Nat} : SameWork f₀ (f.reapBatches c s) := h.modGroup
theorem SameWork.reportHitch : SameWork f₀ (f.reportHitch c) := by
  unfold Fab.reportHitch
  split
  · exact h
  · exact .ite (h.foldl fun _ _ hg => hg.modTeam) h
theorem SameWork.reportEnd : SameWork f₀ (f.reportEnd c) := by
  unfold Fab.reportEnd
  split
  · exact h
  · exact .ite h h.modTeam.reportHitch

end
end Sys2Proof.Safety
end

section
set_option Elab.async false

/-! # What the work of an engine leaves alone

The pieces of an engine's work read and write memory and the planes of a core; they leave what the engines have in hand. -/

namespace Sys2Proof.Safety
open Sys2Proof.Machine

variable {f₀ f : Fab} {ctl : Ctl} {c core ctx as addr n bits v : Nat} {owner : Option Nat} {pa : Nat} {key : BitVec 12} {home : BitVec 4}
  {bs : List Byte} {loc : Loc} {t a b d : Tile} {rc p : Nat × Nat} {r : Routine} {gcw : Word}

/-- A piece of work leaves the work of `f₀` alone, however it ends. -/
inductive EngSame (f₀ : Fab) {α : Type} : Eng α → Prop
  | ok {a : α} {f : Fab} (h : SameWork f₀ f) : EngSame f₀ (.ok a f)
  | xlate {va r l : Nat} {acc : Access} {e : Option (Nat × Nat)} {f : Fab} (h : SameWork f₀ f) : EngSame f₀ (.xlate va acc r l e f)
  | fault {e : EngErr} {f : Fab} (h : SameWork f₀ f) : EngSame f₀ (.fault e f)

/-! ## Memory as engines reach it -/

section
variable (h : SameWork f₀ f)
include h

theorem SameWork.routeLines {core : Option Nat} : SameWork f₀ (f.routeLines ctl core ctx home pa n) := h.foldl fun _ _ hg => hg.route
theorem SameWork.sliceRead {core : Option Nat} : SameWork f₀ (f.sliceRead ctl core ctx loc n).2 :=
  .ite_snd h.routeLines.agentRead h.l2Read
theorem SameWork.sliceWrite {core : Option Nat} : SameWork f₀ (f.sliceWrite ctl core ctx loc bs) :=
  .ite h.routeLines.agentWrite ((h.foldl_fst fun _ _ hp => hp.l2WriteLine).written)
theorem SameWork.l1Put {l : L1Line} : SameWork f₀ (f.l1Put c l) := h.setCore ⟨rfl, rfl⟩
theorem SameWork.l1Drop {line : Nat} : SameWork f₀ (f.l1Drop ctl c line) := by
  unfold Fab.l1Drop
  split
  · exact h
  · exact h.l1Clean.l1Put
theorem SameWork.l1DropRange : SameWork f₀ (f.l1DropRange ctl c pa n) := h.foldl fun _ _ hg => hg.l1Drop
theorem SameWork.engGet : SameWork f₀ (f.engGet ctl core ctx loc n).2 := by
  dsimp only [Fab.engGet]
  split
  · exact h
  · refine .ite_snd ?_ h.sliceRead
    split
    · next e => exact .of_eq e h.mmioRead
    · next e => exact .of_eq e h.mmioRead
theorem SameWork.engPut : SameWork f₀ (f.engPut ctl core ctx loc bs) := by
  dsimp only [Fab.engPut]
  split
  · exact h.scrWrite
  · exact .ite (.update h) h.l1DropRange.sliceWrite
theorem SameWork.setSlot {s : Nat} {x : BSlot} : SameWork f₀ (f.setSlot c s x) := h.modTeam
end

/-! ## Pieces of work -/

theorem EngSame.of_ok {α : Type} {x : Eng α} {a : α} (e : x = .ok a f) (h : EngSame f₀ x) : SameWork f₀ f := by
  subst e
  cases h
  assumption
theorem EngSame.ite {α : Type} {p : Prop} {_ : Decidable p} {x y : Eng α} (hx : EngSame f₀ x) (hy : EngSame f₀ y) :
    EngSame f₀ (if p then x else y) := by
  split <;> assumption
theorem EngSame.bind {α β : Type} {x : Eng α} {g : α → Fab → Eng β} (hx : EngSame f₀ x)
    (hg : ∀ a f, SameWork f₀ f → EngSame f₀ (g a f)) : EngSame f₀ (x.bind g) := by
  cases hx with
  | ok h => exact hg _ _ h
  | xlate h => exact .xlate h
  | fault h => exact .fault h
theorem EngSame.elem {α : Type} {x : Eng α} {r c : Nat} (hx : EngSame f₀ x) : EngSame f₀ (x.elem r c) := by
  cases hx with
  | ok h => exact .ok h
  | xlate h => exact .xlate h
  | fault h => exact .fault h
theorem EngSame.engMap {α β : Type} {g : α → Fab → Eng β} {xs : List α} (hg : ∀ a f, SameWork f₀ f → EngSame f₀ (g a f))
    (h : SameWork f₀ f) : EngSame f₀ (engMap g xs f) := by
  induction xs generalizing f with
  | nil => exact .ok h
  | cons x xs ih => exact .bind (hg x f h) fun _ _ hf => .bind (ih hf) fun _ _ hk => .ok hk
theorem EngSame.denying {α : Type} {pages : List Nat} {g : Fab → Eng α} (hg : ∀ f, SameWork f₀ f → EngSame f₀ (g f))
    (h : SameWork f₀ f) : EngSame f₀ (Eng.denying pages g f) := by
  have hk := hg { f with refused := pages } h
  unfold Eng.denying
  generalize g { f with refused := pages } = x at hk
  cases hk with
  | ok h => exact .ok (.update h)
  | xlate h => exact .xlate (.update h)
  | fault h => exact .fault (.update h)

section
variable (h : SameWork f₀ f)
include h

theorem EngSame.engLocs {acc : Access} : EngSame f₀ (Fab.engLocs ctl core ctx as addr n acc f) := by
  dsimp only [Fab.engLocs]
  refine .ite (.bind (.engMap (fun a g hg => .ite (.fault hg) ?_) h) fun _ _ hg => .ite (.ok hg) (.fault hg)) (.ite (.ok h) (.fault h))
  split
  · next e => exact .xlate (.of_eq e hg.translate)
  · next e => exact .fault (.of_eq e hg.translate)
  · next e =>
    have hk := SameWork.of_eq e hg.translate
    exact .ite (.ok hk) (.ite (.ok hk) (.fault hk))
theorem EngSame.engRead : EngSame f₀ (Fab.engRead ctl core ctx as addr n f) := by
  dsimp only [Fab.engRead]
  refine .bind (.engLocs h) fun a g hg => ?_
  split
  · exact .ok hg
  · exact .ok (hg.foldl_snd fun _ _ hp => .pair hp.engGet)
theorem EngSame.engWrite : EngSame f₀ (Fab.engWrite ctl core ctx as addr bs f) :=
  .bind (.engLocs h) fun _ _ hg => .ok (hg.foldl_fst fun _ _ hp => hp.engPut)
theorem EngSame.bitsRead : EngSame f₀ (Fab.bitsRead ctl core ctx as p bits f) := .bind (.engRead h) fun _ _ hg => .ok hg
theorem EngSame.bitsWrite : EngSame f₀ (Fab.bitsWrite ctl core ctx as p bits v f) :=
  .ite (.engWrite h) (.bind (.engRead h) fun _ _ hg => .engWrite hg)

/-! ## Elements of tiles -/

theorem EngSame.scaleRead {line blk : Nat} : EngSame f₀ (Fab.scaleRead ctl ctx t line blk f) := .bitsRead h
theorem EngSame.storedAt : EngSame f₀ (Fab.storedAt ctl ctx t rc f) := .bind (.engRead h) fun _ _ hg => .ok hg
theorem EngSame.sparseElt : EngSame f₀ (Fab.sparseElt ctl ctx t rc f) := by
  dsimp only [Fab.sparseElt]
  refine .elem (.bind (.storedAt h) fun a g hg => ?_)
  split
  · exact .ok hg
  · exact .bind (.bitsRead hg) fun _ _ hg => .ite (.bind (.scaleRead hg) fun _ _ hg => .ok hg) (.ok hg)
theorem EngSame.tileElt : EngSame f₀ (Fab.tileElt ctl ctx t rc f) :=
  .ite (.sparseElt h) (.elem (.bind (.bitsRead h) fun _ _ hg => .ite (.bind (.scaleRead hg) fun _ _ hg => .ok hg) (.ok hg)))
theorem EngSame.tileElts : EngSame f₀ (Fab.tileElts ctl ctx t f) := .engMap (fun _ _ hg => .tileElt hg) h
theorem EngSame.tilePut : EngSame f₀ (Fab.tilePut ctl ctx t rc v f) := by
  dsimp only [Fab.tilePut]
  refine .ite (.elem (.bind (.storedAt h) fun a g hg => ?_)) (.elem (.bitsWrite h))
  split
  · exact .ok hg
  · exact .bitsWrite hg
theorem EngSame.blockPut {line blk : Nat} {x : Nat × Nat} : EngSame f₀ (Fab.blockPut ctl ctx t line blk x f) :=
  .elem (.bind (.bitsWrite h) fun _ _ hg => .bitsWrite hg)
theorem EngSame.outPut : EngSame f₀ (Fab.outPut ctl ctx d rc v f) := .ite (.elem (.bitsWrite h)) (.tilePut h)

/-! ## B slots and block products (R169-R173) -/

theorem EngSame.bldElements : EngSame f₀ (Fab.bldElements ctl ctx t f) :=
  .ite (.bind (.engMap (fun _ _ hg => .elem (.engRead hg)) h) fun _ _ hg => .ok hg)
    (.bind (.engMap (fun _ _ hg => .tileElt hg) h) fun _ _ hg => .ok hg)
theorem EngSame.bldMeta : EngSame f₀ (Fab.bldMeta ctl ctx t f) :=
  .ite (.ok h) (.bind (.engMap (fun _ _ hg => .bind (.engRead hg) fun _ _ hg => .ite (.ok hg) (.fault hg)) h) fun _ _ hg => .ok hg)
theorem EngSame.bldScales : EngSame f₀ (Fab.bldScales ctl ctx t f) :=
  .ite (.ok h) (.bind (.engMap (fun _ _ hg => .elem (.bind (.scaleRead hg) fun _ _ hg => .ok hg)) h) fun _ _ hg => .ok hg)
theorem EngSame.bldWork {slot : Nat} : EngSame f₀ (Fab.bldWork ctl c ctx slot t f) :=
  .bind (.bldElements h.setSlot) fun _ _ hg => .bind (.bldMeta hg) fun _ _ hg => .bind (.bldScales hg) fun _ _ hg => .ok hg.setSlot
theorem EngSame.overflowPut : EngSame f₀ (Fab.overflowPut ctl ctx t v f) := .engWrite h
theorem EngSame.mmaQuarter {binary : Option Bool} {s : BSlot} {start count : Nat} :
    EngSame f₀ (Fab.mmaQuarter ctl ctx binary s a d start count f) :=
  .ite (.fault h) (.bind (.tileElts h) fun _ _ hg => .bind (.tileElts hg) fun _ _ hg =>
    .bind (.engMap (fun _ _ hg => .tilePut hg) hg) fun _ _ hg => .ite (.overflowPut hg) (.ok hg))
theorem EngSame.retire {routine : Option Routine} {b : Option Tile} : EngSame f₀ (Fab.retire ctl ctx gcw routine a b f) := by
  dsimp only [Fab.retire]
  refine .bind (.tileElts h) fun a1 g hg => ?_
  split
  · exact .bind (.tileElts hg) fun _ _ hg => .ok hg
  · exact .ok hg
theorem EngSame.retirePut {mode : RMode} {keep : Nat → Bool} {l : List Retired} :
    EngSame f₀ (Fab.retirePut ctl ctx d mode keep l f) := by
  dsimp only [Fab.retirePut]
  refine .bind (.engMap (fun a g hg => ?_) h) fun _ _ hg => .ok hg
  split
  · exact .ite (.tilePut hg) (.ok hg)
  · exact .ok hg
theorem EngSame.retireBlocks {keep : Nat → Bool} {l : List Retired} : EngSame f₀ (Fab.retireBlocks ctl ctx d keep l f) := by
  dsimp only [Fab.retireBlocks]
  refine .bind (.engMap (fun a g hg => .ite (.ok hg) (.bind (.engMap (fun a1 g1 hg1 => ?_) hg) fun _ _ hg => .blockPut hg)) h)
    fun _ _ hg => .ok hg
  split
  · exact .ok hg1
  · exact .bind (.tileElt hg1) fun _ _ hg => .ok hg
theorem EngSame.mretQuarter {routine : Option Routine} {mode : RMode} {ovr : Bool} {b : Option Tile} :
    EngSame f₀ (Fab.mretQuarter ctl ctx gcw routine mode ovr a d b f) := by
  dsimp only [Fab.mretQuarter]
  refine .ite (.fault h) (.bind (.retire h) fun _ _ hg => .bind (.ite (.retireBlocks (.update hg)) (.retirePut (.update hg))) fun _ _ hg => ?_)
  split
  · exact .fault hg
  · exact .ite (.bind (.engRead hg) fun _ _ hg => .bind (.engWrite hg) fun _ _ hg => .overflowPut hg) (.ok hg)
theorem EngSame.mclrQuarter : EngSame f₀ (Fab.mclrQuarter ctl ctx t f) :=
  .bind (.engMap (fun _ _ hg => .tilePut hg) h) fun _ _ hg => .ite (.overflowPut hg) (.ok hg)
theorem EngSame.packTile {routine : Option Routine} {fmt mode : Nat} {b : Option Tile} :
    EngSame f₀ (Fab.packTile ctl ctx gcw routine fmt mode a b f) := by
  dsimp only [Fab.packTile]
  refine .ite (.fault h) (.bind (.retire h) fun _ _ hg => ?_)
  split
  · exact .fault hg
  · exact .ok hg

/-! ## Operations on whole tiles (R174, R338-R342) -/

theorem EngSame.outPuts {l : List Retired} : EngSame f₀ (Fab.outPuts ctl ctx d l f) := by
  dsimp only [Fab.outPuts]
  refine .bind (.engMap (fun a g hg => ?_) (.update h)) fun a g hg => ?_
  · split
    · exact .ite (.outPut hg) (.ok hg)
    · exact .ok hg
  · split
    · exact .fault hg
    · exact .ok hg
theorem EngSame.entering : EngSame f₀ (Fab.entering ctl ctx t f) := .bind (.tileElts h) fun _ _ hg => .ok hg
theorem EngSame.foldWork {all : Bool} : EngSame f₀ (Fab.foldWork ctl ctx gcw r all d a f) :=
  .ite (.fault h) (.bind (.entering h) fun _ _ hg => .outPuts hg)
theorem EngSame.scanWork {ex : Bool} : EngSame f₀ (Fab.scanWork ctl ctx gcw r ex d a f) :=
  .ite (.fault h) (.bind (.entering h) fun _ _ hg => .outPuts hg)
theorem EngSame.zipWork : EngSame f₀ (Fab.zipWork ctl ctx gcw r d a b f) :=
  .ite (.fault h) (.bind (.entering h) fun _ _ hg => .bind (.entering hg) fun _ _ hg => .outPuts hg)
theorem EngSame.outrWork : EngSame f₀ (Fab.outrWork ctl ctx gcw r d a b f) :=
  .ite (.fault h) (.bind (.entering h) fun _ _ hg => .bind (.entering hg) fun _ _ hg => .outPuts hg)
theorem EngSame.pairs : EngSame f₀ (Fab.pairs ctl ctx t n f) := .engMap (fun _ _ hg => .bind (.tileElt hg) fun _ _ hg => .ok hg) h
theorem EngSame.mergeWork {at_ : Nat} {dz la lb : Bool} : EngSame f₀ (Fab.mergeWork ctl ctx gcw r d a b at_ dz la lb f) := by
  dsimp only [Fab.mergeWork]
  refine .ite (.fault h) (.bind (.engRead h) fun _ _ hg => .ite (.fault hg) (.ite (.fault hg) (.ite (.fault hg) ?_)))
  refine .bind (.pairs hg) fun _ _ hg => .bind (.pairs hg) fun _ _ hg => ?_
  refine .bind (.engMap (fun _ _ hk => .ite (.tilePut hk) (.ok hk)) (.update hg)) fun _ _ hg => ?_
  split
  · exact .fault hg
  · exact .engWrite hg

/-- The work of a quarter leaves the engine's queue as it is. -/
theorem EngSame.mxWork {o : MxOp} {count : Nat} : EngSame f₀ (Fab.mxWork ctl c ctx o count f) := by
  have unit {x : Eng Unit} (hx : EngSame f₀ x) : EngSame f₀ (x.bind (fun _ f => Eng.ok ([] : List Byte) f)) := .bind hx fun _ _ hg => .ok hg
  dsimp only [Fab.mxWork]
  split
  case h_1 => exact unit (.bldWork h)
  case h_2 => split <;> [exact unit (.mmaQuarter h); exact .ok h]
  case h_3 => split <;> [exact unit (.mretQuarter h); exact .ok h]
  case h_4 => split <;> [exact unit (.mclrQuarter h); exact .ok h]
  case h_5 => split <;> [exact unit (.foldWork h); exact .ok h]
  case h_6 => split <;> [exact unit (.scanWork h); exact .ok h]
  case h_7 => split <;> [exact unit (.zipWork h); exact .ok h]
  case h_8 => split <;> [exact unit (.mergeWork h); exact .ok h]
  case h_9 => split <;> [exact unit (.outrWork h); exact .ok h]
  case h_10 => split <;> [exact .packTile h; exact .ok h]
end
end Sys2Proof.Safety
end

section
set_option Elab.async false

/-! # Reset, boot, live update, repair, and the restart of Uzoman (O54) -/

namespace Sys2Proof.Machine
open Sys2Proof.Safety

variable {s t : State} {w : RegWrite}

/-! ## A reset, and the boot that follows (R54)

A reset leaves no context and no core, and a boot adds none; it changes only what its images start. -/

theorem Fab.memPut_cores (f : Fab) (km : BitVec 512) (pa : Nat) (b : Byte) : (f.memPut km pa b).cores = f.cores := by
  unfold Fab.memPut
  dsimp only
  split
  · split <;> rfl
  · rfl
theorem Fab.memPutBytes_cores (f : Fab) (km : BitVec 512) (pa : Nat) (bs : List Byte) : (f.memPutBytes km pa bs).cores = f.cores := by
  induction bs generalizing f pa with
  | nil => rfl
  | cons b bs ih => exact (ih _ _).trans (f.memPut_cores km pa b)
theorem Fab.l2Evict_cores (ctl : Ctl) (f : Fab) (line : Nat) : (f.l2Evict ctl line).cores = f.cores := by
  unfold Fab.l2Evict
  split
  · rfl
  · refine foldl_keeps (P := fun g : Fab => g.cores = f.cores) _ rfl fun g i hg => ?_
    split
    · exact (g.memPut_cores ..).trans hg
    · exact hg
theorem Fab.shootdown_cores_nil {f : Fab} (h : f.cores = []) (line : Nat) : (f.shootdown line).cores = [] := by
  unfold Fab.shootdown
  split
  · simp [h]
  · exact h
theorem Fab.agentWrite_cores_nil {f : Fab} (h : f.cores = []) (ctl : Ctl) (key : BitVec 12) (pa : Nat) (bs : List Byte) :
    (f.agentWrite ctl key pa bs).cores = [] := by
  have he : ((parts pa bs.length).foldl (fun f p => f.l2Evict ctl (p.1 / 256)) f).cores = [] :=
    foldl_keeps (P := fun g : Fab => g.cores = []) _ h fun g p hg => (g.l2Evict_cores ctl _).trans hg
  have hs : ((parts pa bs.length).foldl (fun f p => f.shootdown (p.1 / 256))
      (((parts pa bs.length).foldl (fun f p => f.l2Evict ctl (p.1 / 256)) f).memPutBytes (ctl.keyMat key) pa bs)).cores = [] :=
    foldl_keeps (P := fun g : Fab => g.cores = []) _ ((Fab.memPutBytes_cores ..).trans he) fun g p hg => g.shootdown_cores_nil hg _
  simp only [Fab.agentWrite, Fab.written, Fab.wakeWatchers, Fab.mapLanes, hs, List.map_nil]

/-- What a boot leaves of a fabric without contexts and cores, and of the control part `c`. -/
def BootKeeps (c : Ctl) (t : State) : Prop :=
  t.fab.ctxs = [] ∧ t.fab.cores = [] ∧ t.ctl.retClu = c.retClu ∧ t.ctl.retSlc = c.retSlc ∧ t.ctl.fuses = c.fuses ∧
    t.ctl.cap = c.cap ∧ t.ctl.keyData = c.keyData

variable {c : Ctl} {src : Nat → Nat → List Byte} {room at_ kind : Nat}

@[simp] theorem State.loadBody_ctl (s : State) (kind : Nat) (src : Nat → Nat → List Byte) : (s.loadBody kind src).ctl = s.ctl := by
  unfold State.loadBody
  dsimp only
  split <;> rfl
theorem BootKeeps.setFab (h : BootKeeps c s) {f : Fab} (hx : f.ctxs = []) (hk : f.cores = []) : BootKeeps c { s with fab := f } :=
  ⟨hx, hk, h.2.2⟩
theorem BootKeeps.agentWrite (h : BootKeeps c s) {ctl : Ctl} {key : BitVec 12} {pa : Nat} {bs : List Byte} :
    BootKeeps c { s with fab := s.fab.agentWrite ctl key pa bs } := by
  obtain ⟨hx, hk, -⟩ := id h
  have hw : SameWork s.fab (s.fab.agentWrite ctl key pa bs) := SameWork.refl.agentWrite
  exact h.setFab (hw.ctxs.trans hx) (s.fab.agentWrite_cores_nil hk ..)
theorem BootKeeps.loadBody (h : BootKeeps c s) : BootKeeps c (s.loadBody kind src) := by
  unfold State.loadBody
  dsimp only
  split
  · exact h
  · exact h.agentWrite
theorem BootKeeps.booted {hd : List Byte} (h : BootKeeps c s) : BootKeeps c (s.booted kind hd) := by
  unfold State.booted
  split <;> simpa only [BootKeeps] using h
theorem BootKeeps.bootImages {ks : List Nat} (h : BootKeeps c s) : BootKeeps c (s.bootImages src room ks at_).2 := by
  induction ks generalizing s at_ with
  | nil => exact h
  | cons k ks ih =>
    unfold State.bootImages
    dsimp only
    split
    · exact h
    · exact ih h.loadBody.booted

/-- An image of a slot fails the slot, or it is loaded, what it starts is started, and the next one follows. -/
theorem bootImages_cons (s : State) (src : Nat → Nat → List Byte) (room k : Nat) (ks : List Nat) (at_ : Nat) :
    (∃ f, s.bootImages src room (k :: ks) at_ = (false, { s with fab := f })) ∨
      ∃ img hd a, s.bootImages src room (k :: ks) at_ = ((s.loadBody k img).booted k hd).bootImages src room ks a := by
  rw [State.bootImages]
  dsimp only
  split
  · exact .inl ⟨_, rfl⟩
  · exact .inr ⟨_, _, _, rfl⟩
/-- A slot whose images are all accepted runs; one that fails has not released the harts. -/
theorem bootImages_ends (s : State) (src : Nat → Nat → List Byte) (room at_ : Nat) :
    (∃ t, s.bootImages src room [1, 2, 3, 4] at_ = (true, t) ∧ t.ctl.boot = .running ∧ t.ctl.harts = true ∧ t.ctl.scheduler = true ∧
      t.ctl.leaves = true) ∨
    ∃ t, s.bootImages src room [1, 2, 3, 4] at_ = (false, t) ∧ t.ctl.boot = s.ctl.boot ∧ t.ctl.harts = s.ctl.harts := by
  rcases bootImages_cons s src room 1 [2, 3, 4] at_ with ⟨f, e⟩ | ⟨i, hd, a, e⟩ <;> rw [e]
  · exact .inr ⟨_, rfl, rfl, rfl⟩
  generalize h₁ : (s.loadBody 1 i).booted 1 hd = s₁
  have b₁ : s₁.ctl.boot = s.ctl.boot ∧ s₁.ctl.harts = s.ctl.harts := by simp [← h₁, State.booted]
  rcases bootImages_cons s₁ src room 2 [3, 4] a with ⟨f, e⟩ | ⟨i, hd, a, e⟩ <;> rw [e]
  · exact .inr ⟨_, rfl, b₁⟩
  generalize h₂ : (s₁.loadBody 2 i).booted 2 hd = s₂
  have b₂ : s₂.ctl.boot = s.ctl.boot ∧ s₂.ctl.harts = s.ctl.harts := by simp [← h₂, State.booted, b₁]
  rcases bootImages_cons s₂ src room 3 [4] a with ⟨f, e⟩ | ⟨i, hd, a, e⟩ <;> rw [e]
  · exact .inr ⟨_, rfl, b₂⟩
  generalize h₃ : (s₂.loadBody 3 i).booted 3 hd = s₃
  have b₃ : s₃.ctl.boot = s.ctl.boot ∧ s₃.ctl.harts = s.ctl.harts := by simp [← h₃, State.booted, b₂]
  have u₃ : s₃.ctl.scheduler = true ∧ s₃.ctl.leaves = true := by simp [← h₃, State.booted]
  rcases bootImages_cons s₃ src room 4 [] a with ⟨f, e⟩ | ⟨i, hd, a, e⟩ <;> rw [e]
  · exact .inr ⟨_, rfl, b₃⟩
  · exact .inl ⟨_, rfl, by simp [State.booted, u₃]⟩

/-- A boot has accepted a slot: all its images run. -/
def BootRuns (t : State) : Prop := t.ctl.boot = .running ∧ t.ctl.harts = true ∧ t.ctl.scheduler = true ∧ t.ctl.leaves = true

/-- A slot runs, or it leaves the boot where it was: nothing of it runs, and key ID 0 is gone. -/
theorem bootSlot_ends (h : BootKeeps c s) (src : Nat → Nat → List Byte) (room : Nat) :
    ∃ t, BootKeeps c t ∧ ((s.bootSlot src room = (true, t) ∧ BootRuns t) ∨
      (s.bootSlot src room = (false, t) ∧ t.ctl.boot = s.ctl.boot ∧ t.ctl.harts = s.ctl.harts ∧ t.ctl.scheduler = false ∧ t.ctl.keys = [])) := by
  unfold State.bootSlot
  have hk := h.bootImages (src := src) (room := room) (ks := [1, 2, 3, 4]) (at_ := 0)
  rcases bootImages_ends s src room 0 with ⟨t, e, ht⟩ | ⟨t, e, hb, hh⟩ <;> rw [e] at hk ⊢
  · exact ⟨t, hk, .inl ⟨rfl, ht⟩⟩
  · exact ⟨t.unboot, hk, .inr ⟨rfl, hb, hh, rfl, rfl⟩⟩
/-- The ROM ends running, or failed with hart 0 in the ROM. -/
theorem bootRom_ends (h : BootKeeps c s) (hh : s.ctl.harts = false) : BootKeeps c s.bootRom ∧ (BootRuns s.bootRom ∨
    (s.bootRom.ctl.boot = .failed ∧ s.bootRom.ctl.harts = false ∧ s.bootRom.ctl.scheduler = false ∧ s.bootRom.ctl.keys = [])) := by
  unfold State.bootRom
  obtain ⟨t, ht, ⟨e, hr⟩ | ⟨e, -, hth, -⟩⟩ :=
    bootSlot_ends h (fun o n => s.ctl.flash.readBytes (16 * 2 ^ 20 + o) n) slotBytes <;> rw [e] <;> dsimp only
  · exact ⟨ht, .inl hr⟩
  · obtain ⟨u, hu, ⟨e, hr⟩ | ⟨e, -, huh, hs, hk⟩⟩ :=
      bootSlot_ends ht (fun o n => t.ctl.flash.readBytes (264 * 2 ^ 20 + o) n) slotBytes <;> rw [e] <;> dsimp only
    · exact ⟨hu, .inl hr⟩
    · exact ⟨hu, .inr ⟨rfl, huh.trans (hth.trans hh), hs, hk⟩⟩
/-- A reset below 48 V or above 56 V does not boot; any other one does (R21). -/
theorem resetModule_ends (s : State) : BootKeeps s.ctl.afterReset s.resetModule ∧
    (s.ctl.supply < 48000 ∨ 56000 < s.ctl.supply → s.resetModule.ctl.boot = .off ∧ s.resetModule.ctl.harts = false) ∧
    (48000 ≤ s.ctl.supply → s.ctl.supply ≤ 56000 → BootRuns s.resetModule ∨ (s.resetModule.ctl.boot = .failed ∧
      s.resetModule.ctl.harts = false ∧ s.resetModule.ctl.scheduler = false ∧ s.resetModule.ctl.keys = [])) := by
  unfold State.resetModule
  dsimp only
  by_cases hv : s.ctl.afterReset.supply < 48000 ∨ 56000 < s.ctl.afterReset.supply
  · rw [if_pos hv]
    exact ⟨⟨rfl, rfl, rfl, rfl, rfl, rfl, rfl⟩, fun _ => ⟨rfl, rfl⟩, fun h1 h2 =>
      absurd hv (not_or.mpr ⟨Nat.not_lt.mpr h1, Nat.not_lt.mpr h2⟩)⟩
  · rw [if_neg hv]
    exact (bootRom_ends ⟨rfl, rfl, rfl, rfl, rfl, rfl, rfl⟩ rfl).imp_right fun he => ⟨fun h => absurd h hv, fun _ _ => he⟩

end Sys2Proof.Machine
end

section
set_option Elab.async false

namespace Sys2Proof.Machine
open Sys2Proof.Safety

variable {s t : State} {w : RegWrite}

/-! ## Writes that start something (R380) -/

/-- A write that reaches its register is performed as the event that it is. -/
theorem State.onWrite_of_writes {reg : Nat} {e : RegEvent} (hw : Writes s w reg) (he : regEvent w = e) (act : State → State) :
    s.onWrite w e act = act (taken s w) := by
  obtain ⟨hh, -⟩ := hw
  simp only [State.hits, Bool.and_eq_true, beq_iff_eq] at hh
  obtain ⟨⟨hok, -⟩, hrun⟩ := hh
  have hhit : (s.takeWrite w).hits w (writeReg w) = true := by simp [State.hits, hok, State.takeWrite, hrun]
  unfold State.onWrite
  rw [if_neg (not_not.mpr he)]
  exact if_pos hhit
theorem regEvent_update (hw : Writes s w 0xF00000300008) (hv : (writeData w).toNat % 2 = 1) : regEvent w = .update := by
  obtain ⟨hh, hl⟩ := hw
  simp only [State.hits, Bool.and_eq_true, beq_iff_eq] at hh
  simp [regEvent, hh, hl, bitAt, hv]
/-- The event that an operation of REPCTL is (Table 3.5). -/
def repairEvent (op : Nat) : RegEvent := match op with | 1 => .repRetire | 2 => .repRestore | 3 => .repRetrain | _ => .plain
theorem regEvent_repair (hw : Writes s w 0xF00000301000) : regEvent w = repairEvent ((writeData w).toNat / 2 ^ 20 % 4) := by
  obtain ⟨hh, hl⟩ := hw
  simp only [State.hits, Bool.and_eq_true, beq_iff_eq] at hh
  obtain ⟨⟨hok, hreg⟩, -⟩ := hh
  simp only [regEvent, hok, hl, hreg, bitsOf]
  rfl

/-! ## Live update (R63-R66) -/

theorem imgVerdict_mem (key : List Byte) (ok : Bool) (floor kind room : Nat) (src : Nat → Nat → List Byte) :
    imgVerdict key ok floor kind room src = 0 ∨ imgVerdict key ok floor kind room src = 2 ∨ imgVerdict key ok floor kind room src = 3 := by
  unfold imgVerdict
  grind
/-- Setting GO verifies the image, or ends at once with RESULT 2 or 3. -/
theorem updateStart_ends (h : s.ctl.uzBusy = false) : (s.updateStart.ctl.uzBusy = true ∧ s.updateStart.ctl.updPhase = .verified) ∨
    (s.updateStart.ctl.uzBusy = false ∧ (s.updateStart.ctl.uzResult = 2 ∨ s.updateStart.ctl.uzResult = 3)) := by
  unfold State.updateStart
  dsimp only
  split
  · exact .inr ⟨h, .inl rfl⟩
  · split
    · exact .inr ⟨h, .inl rfl⟩
    · split
      · exact .inl ⟨rfl, rfl⟩
      · next hv =>
        have hr := (imgVerdict_mem ..).resolve_left hv
        refine .inr ⟨h, ?_⟩
        dsimp only
        exact hr
theorem exec_liveUpdate (hw : Writes s w 0xF00000300008) (hv : (writeData w).toNat % 2 = 1) (hs : s.ctl.scheduler = true) :
    (s.ctl.uzBusy = true → exec (.liveUpdate w) s = .next (taken s w)) ∧
    (s.ctl.uzBusy = false → ∃ t, exec (.liveUpdate w) s = .next t ∧ ((t.ctl.uzBusy = true ∧ t.ctl.updPhase = .verified) ∨
      (t.ctl.uzBusy = false ∧ (t.ctl.uzResult = 2 ∨ t.ctl.uzResult = 3)))) := by
  have he : exec (.liveUpdate w) s = .next (if !(taken s w).ctl.uzBusy ∧ (taken s w).ctl.scheduler then (taken s w).updateStart else taken s w) :=
    congrArg Host.Outcome.next (State.onWrite_of_writes hw (regEvent_update hw hv) _)
  refine ⟨fun hb => he.trans (congrArg Host.Outcome.next (if_neg ?_)), fun hb => ⟨_, he.trans (congrArg Host.Outcome.next (if_pos ?_)), ?_⟩⟩
  · simp [taken, hb]
  · simp [taken, hb, hs]
  · exact updateStart_ends (s := taken s w) hb
theorem exec_updatePause (h : s.ctl.updPhase = .verified) :
    (s.ctl.repBusy = true ∨ s.fab.recordInHand = true → exec .updatePause s = .next s) ∧
    (s.ctl.repBusy = false → s.fab.recordInHand = false → ∃ t, exec .updatePause s = .next t ∧
      t.ctl = { s.ctl with updPhase := .paused, updAt := s.fab.time.toNat, tableNo := s.ctl.tableNo + 1 } ∧ t.ctl.uzRuns = false) := by
  refine ⟨fun hb => congrArg Host.Outcome.next (if_neg ?_), fun hb hr => ⟨_, congrArg Host.Outcome.next (if_pos ?_), rfl, ?_⟩⟩
  · rintro ⟨-, h1, h2⟩
    rcases hb with hb | hb <;> simp_all
  · simp [h, hb, hr]
  · exact Bool.and_false _
/-- What follows a pause leaves the rest of the control part as it is, and no doorbell waits. -/
theorem afterPause_apart (s : State) : s.afterPause.ctl.apart = { s.ctl with bells := [] }.apart :=
  State.apart_repairResume _
theorem exec_updateAlive (h : s.ctl.updPhase = .paused) (hd : s.updateDead = false) : ∃ t, exec .updateAlive s = .next t ∧
    t.ctl.updPhase = .idle ∧ t.ctl.uzBusy = false ∧ t.ctl.uzResult = 1 ∧ t.ctl.runver = s.ctl.updVer ∧
    t.ctl.uzHalf = (s.ctl.uzHalf + 1) % 2 ∧ t.ctl.bells = [] := by
  refine ⟨_, congrArg Host.Outcome.next (if_pos (by simp [h, hd])), ?_⟩
  generalize hu : ({ s with
    ctl := { s.ctl.updateEnd 1 with runver := s.ctl.updVer, uzHalf := (s.ctl.uzHalf + 1) % 2 }, fab := s.fab.count 0x20 } : State) = u
  have ha := afterPause_apart u
  have hc : u.ctl = { s.ctl.updateEnd 1 with runver := s.ctl.updVer, uzHalf := (s.ctl.uzHalf + 1) % 2 } := by rw [← hu]
  rw [hc] at ha
  exact ⟨congrArg Ctl.updPhase ha, congrArg Ctl.uzBusy ha, congrArg Ctl.uzResult ha, congrArg Ctl.runver ha, congrArg Ctl.uzHalf ha,
    congrArg Ctl.bells ha⟩
theorem exec_updateWatchdog (h : s.ctl.updPhase = .paused) (hd : s.updateDead = true) : ∃ t, exec .updateWatchdog s = .next t ∧
    t.ctl.updPhase = .idle ∧ t.ctl.uzBusy = false ∧ (t.ctl.uzResult = 4 ∨ t.ctl.uzResult = 5) ∧ t.ctl.runver = s.ctl.runver ∧
    t.ctl.uzHalf = s.ctl.uzHalf := by
  refine ⟨_, congrArg Host.Outcome.next (if_pos ⟨h, hd⟩), ?_⟩
  dsimp only
  generalize hr : (if s.tableRefused then 4 else 5) = r
  generalize hu : ({ s with ctl := s.ctl.updateEnd r, fab := if s.tableRefused then s.fab else s.fab.count 0x28 } : State) = u
  have ha := afterPause_apart u
  have hc : u.ctl = s.ctl.updateEnd r := by rw [← hu]
  rw [hc] at ha
  have h45 : r = 4 ∨ r = 5 := by rw [← hr]; split <;> simp
  exact ⟨congrArg Ctl.updPhase ha, congrArg Ctl.uzBusy ha, (congrArg Ctl.uzResult ha).symm ▸ h45, (congrArg Ctl.runver ha).trans rfl,
    (congrArg Ctl.uzHalf ha).trans rfl⟩

end Sys2Proof.Machine
end

section
set_option Elab.async false

namespace Sys2Proof.Machine
open Sys2Proof.Safety

variable {s t : State} {w : RegWrite} {op kind i r : Nat}

/-! ## A repair that REPCTL asks for (R68, R69) -/

theorem repairUnits_eq (kind : Nat) : repairUnits kind = if kind = 0 then 48 else if kind = 1 then 384 else if kind = 2 then 18 else 0 := by
  unfold repairUnits
  split <;> simp_all

/-- What makes a repair begin: its unit exists, its kind can be retrained, no limit would be passed, and what is restored is retired. -/
theorem repairRefused_none {c : Ctl} (hi : i < repairUnits kind) (h3 : op = 3 → kind = 2) (h1 : op = 1 → c.repairLimit kind i = false)
    (h2 : op = 2 → c.retired kind i = true) : c.repairRefused op kind i = none := by
  unfold Ctl.repairRefused
  grind
theorem repairRefused_two {c : Ctl} (h : repairUnits kind ≤ i ∨ (op = 3 ∧ kind ≠ 2)) : c.repairRefused op kind i = some 2 := if_pos h
theorem repairRefused_three {c : Ctl} (hi : i < repairUnits kind) (h : c.repairLimit kind i = true) : c.repairRefused 1 kind i = some 3 := by
  unfold Ctl.repairRefused
  simp [Nat.not_le.mpr hi, h]
theorem repairRefused_four {c : Ctl} (hi : i < repairUnits kind) (h : c.retired kind i = false) : c.repairRefused 2 kind i = some 4 := by
  unfold Ctl.repairRefused
  simp [Nat.not_le.mpr hi, h]

theorem repairAct_of_some (h : s.ctl.repairRefused s.ctl.repOp s.ctl.repKind s.ctl.repIndex.toNat = some r) :
    s.repairAct = { s with ctl := { s.ctl with repBusy := false, repStarted := false, repResult := r } } := by
  unfold State.repairAct
  dsimp only
  rw [h]
/-- What a repair that is not refused starts. -/
theorem repairAct_of_none (h : s.ctl.repairRefused s.ctl.repOp s.ctl.repKind s.ctl.repIndex.toNat = none) :
    s.repairAct =
      let i := s.ctl.repIndex.toNat
      let t : State := { s with ctl := { s.ctl with repStarted := true } }
      if s.ctl.repOp = 1 ∧ s.ctl.repKind = 0 then
        (if s.fab.downFree i then { t with fab := s.fab.sendDown i ⟨0x06, 0, 0, 0, 0, 0, 0, 0, 0, true⟩ } else s)
      else if s.ctl.repOp = 1 ∧ s.ctl.repKind = 1 then { t with ctl := { t.ctl with retiringSlc := some i }, fab := s.fab.advanceGen }
      else if s.ctl.repOp = 1 then t.disablePort i true
      else if s.ctl.repOp = 3 then t.startRetrain i true
      else t := by
  unfold State.repairAct
  dsimp only
  rw [h]

section
variable (h : s.ctl.repairRefused s.ctl.repOp s.ctl.repKind s.ctl.repIndex.toNat = none)
include h

theorem repairAct_retireCluster (ho : s.ctl.repOp = 1) (hk : s.ctl.repKind = 0) :
    s.repairAct = if s.fab.downFree s.ctl.repIndex.toNat then
      { s with ctl := { s.ctl with repStarted := true }, fab := s.fab.sendDown s.ctl.repIndex.toNat ⟨0x06, 0, 0, 0, 0, 0, 0, 0, 0, true⟩ } else s :=
  (repairAct_of_none h).trans (if_pos ⟨ho, hk⟩)
theorem repairAct_retireSlice (ho : s.ctl.repOp = 1) (hk : s.ctl.repKind = 1) :
    s.repairAct = { s with ctl := { s.ctl with repStarted := true, retiringSlc := some s.ctl.repIndex.toNat }, fab := s.fab.advanceGen } :=
  (repairAct_of_none h).trans ((if_neg (by simp [hk])).trans (if_pos ⟨ho, hk⟩))
theorem repairAct_retirePort (ho : s.ctl.repOp = 1) (hk : s.ctl.repKind = 2) :
    s.repairAct = ({ s with ctl := { s.ctl with repStarted := true } } : State).disablePort s.ctl.repIndex.toNat true :=
  (repairAct_of_none h).trans ((if_neg (by simp [hk])).trans ((if_neg (by simp [hk])).trans (if_pos ho)))
theorem repairAct_restore (ho : s.ctl.repOp = 2) : s.repairAct = { s with ctl := { s.ctl with repStarted := true } } :=
  (repairAct_of_none h).trans ((if_neg (by simp [ho])).trans ((if_neg (by simp [ho])).trans ((if_neg (by simp [ho])).trans
    (if_neg (by simp [ho])))))
theorem repairAct_retrain (ho : s.ctl.repOp = 3) :
    s.repairAct = ({ s with ctl := { s.ctl with repStarted := true } } : State).startRetrain s.ctl.repIndex.toNat true :=
  (repairAct_of_none h).trans ((if_neg (by simp [ho])).trans ((if_neg (by simp [ho])).trans ((if_neg (by simp [ho])).trans (if_pos ho))))

end

/-- The state in which REPCTL's write has been taken and asks for a repair. -/
def asked (s : State) (w : RegWrite) (op : Nat) : State :=
  { taken s w with ctl := { s.ctl with
      repBusy := true
      repStarted := false
      repOp := op
      repKind := (writeData w).toNat / 2 ^ 26 % 4
      repIndex := BitVec.ofNat 16 (writeData w).toNat } }

/-- A write of REPCTL performs the repair that it names. -/
theorem exec_repair {j : Instr} (hj : (op = 1 ∧ j = .repairRetire w) ∨ (op = 2 ∧ j = .repairRestore w) ∨ (op = 3 ∧ j = .repairRetrain w))
    (hw : Writes s w 0xF00000301000) (hop : (writeData w).toNat / 2 ^ 20 % 4 = op) : exec j s = .next ((taken s w).repair w op) := by
  have he := regEvent_repair hw
  rw [hop] at he
  obtain ⟨rfl, rfl⟩ | ⟨rfl, rfl⟩ | ⟨rfl, rfl⟩ := hj <;> exact congrArg Host.Outcome.next (State.onWrite_of_writes hw he _)
theorem repair_busy (h : s.ctl.repBusy = true) : (taken s w).repair w op = taken s w := if_pos h
theorem repair_idle (h : s.ctl.repBusy = false) (hp : s.ctl.updPhase ≠ .paused) :
    (taken s w).repair w op = (asked s w op).repairAct := by
  have hb : ¬(taken s w).ctl.repBusy = true := by simp [taken, h]
  unfold State.repair
  dsimp only
  rw [if_neg hb]
  exact if_neg hp

theorem asked_repIndex (s : State) (w : RegWrite) (op : Nat) : (asked s w op).ctl.repIndex.toNat = (writeData w).toNat % 65536 :=
  BitVec.toNat_ofNat ..
theorem asked_refused (s : State) (w : RegWrite) (op : Nat) :
    (asked s w op).ctl.repairRefused (asked s w op).ctl.repOp (asked s w op).ctl.repKind (asked s w op).ctl.repIndex.toNat =
      s.ctl.repairRefused op ((writeData w).toNat / 2 ^ 26 % 4) ((writeData w).toNat % 65536) := by
  rw [asked_repIndex]
  rfl

/-! ### Ports that a repair starts with -/

/-- A control part without its ports. -/
def Ctl.portless (c : Ctl) : Ctl := { c with ports := [] }
theorem State.portless_modPort (s : State) (p : Nat) (h : Port → Port) : (s.modPort p h).ctl.portless = s.ctl.portless := rfl
theorem State.portless_dropPort (s : State) (p st : Nat) : (s.dropPort p st).ctl.portless = s.ctl.portless := by
  unfold State.dropPort
  split <;> rfl
theorem State.portless_startRetrain (s : State) (p : Nat) (bit : Bool) : (s.startRetrain p bit).ctl.portless = s.ctl.portless := by
  unfold State.startRetrain
  split
  · rfl
  · dsimp only
    split <;> rfl
theorem State.portless_disablePort (s : State) (p : Nat) (off : Bool) : (s.disablePort p off).ctl.portless = s.ctl.portless := by
  unfold State.disablePort
  split
  · rfl
  · split
    · exact (State.portless_dropPort ..).trans (State.portless_modPort ..)
    · exact State.portless_modPort ..

theorem State.modPort_ports_self (s : State) (p : Nat) (h : Port → Port) : (s.modPort p h).ctl.ports[p]? = s.ctl.ports[p]?.map h := by
  show (s.ctl.ports.modify p h)[p]? = _
  simp
/-- A port that is held down is disabled. -/
theorem disablePort_disable {p : Nat} {x : Port} (hr : s.ctl.runs = true) (e : s.ctl.ports[p]? = some x) :
    ∃ y, (s.disablePort p true).ctl.ports[p]? = some y ∧ y.disable = true := by
  have hp (t : State) (ht : t.ctl.runs = true) : t.port? p = t.ctl.ports[p]? := if_pos ht
  unfold State.disablePort
  rw [hp s hr, e]
  dsimp only
  split
  · unfold State.dropPort
    rw [hp (s.modPort p _) hr, State.modPort_ports_self, e, Option.map_some]
    dsimp only
    exact ⟨_, by rw [State.modPort_ports_self, State.modPort_ports_self, e]; rfl, rfl⟩
  · exact ⟨_, by rw [State.modPort_ports_self, e]; rfl, rfl⟩

/-! ## The end of a repair (R68) -/

theorem getLsbD_one_shiftLeft {n i m : Nat} (h : m < n) : (1#n <<< i).getLsbD m = (m == i) := by
  simp only [BitVec.getLsbD_shiftLeft, BitVec.getLsbD_one]
  grind
theorem getLsbD_or_one_shiftLeft {n : Nat} (x : BitVec n) {i m : Nat} (h : m < n) :
    (x ||| (1#n <<< i)).getLsbD m = (x.getLsbD m || m == i) := by
  rw [BitVec.getLsbD_or, getLsbD_one_shiftLeft h]
theorem getLsbD_and_not_one_shiftLeft {n : Nat} (x : BitVec n) {i m : Nat} (h : m < n) :
    (x &&& ~~~(1#n <<< i)).getLsbD m = (x.getLsbD m && m != i) := by
  rw [BitVec.getLsbD_and, BitVec.getLsbD_not, getLsbD_one_shiftLeft h, decide_eq_true h, Bool.true_and]
  rfl

theorem exec_repairDone {pass : Bool} (hb : s.ctl.repBusy = true) (hs : s.ctl.repStarted = true) :
    exec (.repairDone pass) s = .next (s.repairFinish pass) := congrArg Host.Outcome.next (if_pos ⟨hb, hs⟩)
theorem repairFinish_failed (ho : s.ctl.repOp = 2) (hk : s.ctl.repKind < 3) :
    s.repairFinish false = { s with ctl := { s.ctl with repBusy := false, repStarted := false, repResult := 5 } } := by
  have hk' : s.ctl.repKind = 0 ∨ s.ctl.repKind = 1 ∨ s.ctl.repKind = 2 := by omega
  have he : s.repairFinish false = s.repairEnd 5 := by
    unfold State.repairFinish
    rcases hk' with h | h | h <;> simp [ho, h]
  exact he
theorem repairFinish_slice {pass : Bool} (ho : s.ctl.repOp = 1) (hk : s.ctl.repKind = 1) :
    (s.repairFinish pass).ctl.repBusy = false ∧ (s.repairFinish pass).ctl.repResult = 0 ∧
      ∀ m, m < 384 → (s.repairFinish pass).ctl.retSlc.getLsbD m = (s.ctl.retSlc.getLsbD m || m == s.ctl.repIndex.toNat) := by
  unfold State.repairFinish
  simp only [ho, hk]
  exact ⟨rfl, rfl, fun m hm => getLsbD_or_one_shiftLeft _ hm⟩
theorem repairFinish_cluster_waits {pass : Bool} (ho : s.ctl.repOp = 1) (hk : s.ctl.repKind = 0)
    (he : s.fab.clusterEmpty s.ctl.repIndex.toNat = false) : s.repairFinish pass = s := by
  unfold State.repairFinish
  simp only [ho, hk]
  exact if_pos (by simp [he])
theorem repairFinish_cluster {pass : Bool} (ho : s.ctl.repOp = 1) (hk : s.ctl.repKind = 0)
    (he : s.fab.clusterEmpty s.ctl.repIndex.toNat = true) :
    (s.repairFinish pass).ctl.repBusy = false ∧ (s.repairFinish pass).ctl.repResult = 0 ∧
      ∀ m, m < 48 → (s.repairFinish pass).ctl.retClu.getLsbD m = (s.ctl.retClu.getLsbD m || m == s.ctl.repIndex.toNat) := by
  have he' : ¬(!s.fab.clusterEmpty s.ctl.repIndex.toNat) = true := by simp [he]
  unfold State.repairFinish
  simp only [ho, hk]
  rw [if_neg he']
  exact ⟨rfl, rfl, fun m hm => getLsbD_or_one_shiftLeft _ hm⟩
theorem repairFinish_cluster_restored (ho : s.ctl.repOp = 2) (hk : s.ctl.repKind = 0) :
    (s.repairFinish true).ctl.repBusy = false ∧ (s.repairFinish true).ctl.repResult = 0 ∧
      ∀ m, m < 48 → (s.repairFinish true).ctl.retClu.getLsbD m = (s.ctl.retClu.getLsbD m && m != s.ctl.repIndex.toNat) := by
  unfold State.repairFinish
  simp only [ho, hk]
  exact ⟨rfl, rfl, fun m hm => getLsbD_and_not_one_shiftLeft _ hm⟩

end Sys2Proof.Machine
end

section
set_option Elab.async false

namespace Sys2Proof.Machine
open Sys2Proof.Safety

variable {f₀ f g : Fab} {ctl : Ctl} {i ctx status : Nat} {s : State} {w : RegWrite}

/-! ## The restart of Uzoman (R77)

Uzoman drops its commands and its placements first. Then no command completes any more, and ending a context only maps the
list of contexts. -/

/-- The context of an ID, if there is one, has ended. -/
def EndedAt (f : Fab) (i : Nat) : Prop := ∀ y, f.ctx? i = some y → y.ended = true
/-- Without commands and placements, a fabric in which every context that had ended in another still has. -/
def Ending (f g : Fab) : Prop := g.cmds = [] ∧ g.placement = [] ∧ ∀ i, EndedAt f i → EndedAt g i

theorem ctx?_of_map {m : Ctx → Ctx} (e : g.ctxs = f.ctxs.map m) (hid : ∀ c, (m c).id = c.id) (i : Nat) :
    g.ctx? i = (f.ctx? i).map m := by
  have hp : ((fun c : Ctx => c.id == i) ∘ m) = fun c => c.id == i := funext fun c => by simp [hid]
  rw [Fab.ctx?, Fab.ctx?, e, List.find?_map, hp]
theorem EndedAt.of_map {m : Ctx → Ctx} (h : EndedAt f i) (e : g.ctxs = f.ctxs.map m)
    (hm : ∀ c, (m c).id = c.id ∧ (c.ended = true → (m c).ended = true)) : EndedAt g i := by
  intro y hy
  rw [ctx?_of_map e (fun c => (hm c).1)] at hy
  obtain ⟨x, hx, rfl⟩ := Option.map_eq_some_iff.mp hy
  exact (hm x).2 (h x hx)

theorem Ending.of_map {m : Ctx → Ctx} (h : Ending f₀ f) (e : g.ctxs = f.ctxs.map m) (hc : g.cmds = f.cmds)
    (hp : g.placement = []) (hm : ∀ c, (m c).id = c.id ∧ (c.ended = true → (m c).ended = true)) : Ending f₀ g := by
  obtain ⟨hcmds, -, hend⟩ := h
  exact ⟨hc.trans hcmds, hp, fun i hi => (hend i hi).of_map e hm⟩
theorem Ending.of_sameWork (h : Ending f₀ f) (hw : SameWork f g) : Ending f₀ g :=
  h.of_map (m := id) (hw.ctxs.trans (List.map_id _).symm) hw.cmds (hw.placement.trans h.2.1) fun _ => ⟨rfl, id⟩
theorem Ending.self (h : Ending f₀ f) : Ending f f := ⟨h.1, h.2.1, fun _ => id⟩
theorem Ending.setFaults (h : Ending f₀ f) {faults engPosts} : Ending f₀ { f with faults, engPosts } := h
/-- What has ended on the way stays ended. -/
theorem Ending.and_endedAt (h : Ending f₀ f) (he : EndedAt f i) (hg : Ending f g) : Ending f₀ g ∧ EndedAt g i :=
  ⟨⟨hg.1, hg.2.1, fun j hj => hg.2.2 j (h.2.2 j hj)⟩, hg.2.2 i he⟩
theorem Ending.complete (h : Ending f₀ f) {id : Nat} {ss : Bool} {data : List Byte} : Ending f₀ (f.complete ctl id status ss data) := by
  have he : f.cmd? id = none := by rw [Fab.cmd?, h.1, List.find?_nil]
  unfold Fab.complete
  rw [he]
  exact h
theorem Ending.foldl {α : Type} {l : List α} {op : Fab → α → Fab} (h : Ending f₀ f) (hop : ∀ g a, Ending f₀ g → Ending f₀ (op g a)) :
    Ending f₀ (l.foldl op f) := foldl_keeps _ h hop
theorem Ending.releaseTeams (h : Ending f₀ f) : Ending f₀ (f.releaseTeams ctx) :=
  h.of_map rfl rfl h.2.1 fun c => by split <;> exact ⟨rfl, id⟩
theorem Ending.modGrid (h : Ending f₀ f) {id : Nat} {m : Grid → Grid} : Ending f₀ (f.modGrid id m) := h
theorem Ending.endGrids (h : Ending f₀ f) : Ending f₀ (f.endGrids ctl ctx status) := by
  have hp : ∀ p : Hitch → Bool, Ending f₀ { f with placement := f.placement.filter p } := fun p =>
    ⟨h.1, by rw [h.2.1]; rfl, h.2.2⟩
  exact .foldl (.foldl (hp _).releaseTeams fun _ _ hg => (hg.complete.foldl fun _ _ hg => hg.complete).modGrid) fun _ _ hg =>
    hg.complete.foldl fun _ _ hg => hg.complete
/-- Ending a context ends it, and un-ends none. -/
theorem Ending.contextEnd (h : Ending f₀ f) : Ending f₀ (f.contextEnd ctl ctx status) ∧ EndedAt (f.contextEnd ctl ctx status) ctx := by
  unfold Fab.contextEnd
  split
  · next e => exact ⟨h, fun y hy => by simp [e] at hy⟩
  next x e =>
  split
  · next hx => exact ⟨h, fun y hy => by simp_all⟩
  dsimp only
  generalize hm : f.modCtx ctx _ = f₁
  have hid : ∀ c : Ctx, (if c.id == ctx then { c with ended := true, parked := [], ovflUsed := 0 } else c).id = c.id := fun c => by
    split <;> rfl
  have h₁ : Ending f₀ f₁ := by
    subst hm
    refine h.of_map rfl rfl h.2.1 fun c => ⟨hid c, ?_⟩
    split <;> simp
  have he : EndedAt f₁ ctx := by
    subst hm
    intro y hy
    rw [ctx?_of_map (f := f) rfl hid] at hy
    obtain ⟨z, hz, rfl⟩ := Option.map_eq_some_iff.mp hy
    rw [if_pos (List.find?_some hz)]
  refine h₁.and_endedAt he (Ending.setFaults ?_).endGrids
  exact h₁.self.of_sameWork (.foldl (.update (.foldl .refl fun _ _ hg => .ite hg.count hg.reject)) fun _ _ hg => hg.reject)
theorem Ending.foldl_contextEnd (h : Ending f₀ f) (l : List Ctx) : Ending f₀ (l.foldl (fun f c => f.contextEnd ctl c.id status) f) ∧
    ∀ c ∈ l, EndedAt (l.foldl (fun f c => f.contextEnd ctl c.id status) f) c.id := by
  induction l generalizing f₀ f with
  | nil => exact ⟨h, fun _ hc => nomatch hc⟩
  | cons c l ih =>
    obtain ⟨hc, he⟩ := h.contextEnd (ctl := ctl) (ctx := c.id) (status := status)
    obtain ⟨hl, hall⟩ := ih hc
    obtain ⟨hl', -⟩ := ih hc.self
    exact ⟨hl, List.forall_mem_cons.mpr ⟨hl'.2.2 _ he, hall⟩⟩
/-- After the restart no command is in hand, nothing is placed, and every context has ended. -/
theorem restartUzoman_ends (ctl : Ctl) (f : Fab) : (f.restartUzoman ctl).cmds = [] ∧ (f.restartUzoman ctl).placement = [] ∧
    ∀ x ∈ f.ctxs, EndedAt (f.restartUzoman ctl) x.id := by
  obtain ⟨h, hall⟩ := Ending.foldl_contextEnd (f := { f with cmds := [], placement := [] }) (ctl := ctl) (status := 8)
    ⟨rfl, rfl, fun _ => id⟩ f.ctxs
  have hw : SameWork (f.ctxs.foldl (fun f c => f.contextEnd ctl c.id 8) { f with cmds := [], placement := [] }) (f.restartUzoman ctl) := by
    refine .update (.foldl (.foldl .refl fun _ _ hg => ?_) fun _ _ hg => hg.bumpEpoch)
    split
    · exact hg.post
    · exact hg
  obtain ⟨hc, hp, hend⟩ := h.self.of_sameWork hw
  exact ⟨hc, hp, fun x hx => hend _ (hall x hx)⟩

theorem exec_uzomanWatchdogRestart (h : s.ctl.uzRuns = true) : ∃ t, exec .uzomanWatchdogRestart s = .next t ∧ t.fab.cmds = [] ∧
    t.fab.placement = [] ∧ ∀ x ∈ s.fab.ctxs, ∀ y, t.fab.ctx? x.id = some y → y.ended = true :=
  ⟨_, congrArg Host.Outcome.next (if_pos h), restartUzoman_ends s.ctl s.fab⟩

/-! ## Reset and boot as instructions (R54) -/

theorem exec_moduleReset (s : State) : ∃ t, exec .moduleReset s = .next t ∧ t.fab.ctxs = [] ∧ t.fab.cores = [] ∧
    t.ctl.retClu = s.ctl.retClu ∧ t.ctl.retSlc = s.ctl.retSlc ∧
    t.ctl.fuses = (if s.ctl.fuseAdv = true ∧ s.ctl.fuses < 64 then s.ctl.fuses + 1 else s.ctl.fuses) ∧ t.ctl.cap = 2600 ∧ t.ctl.keyData = 0 ∧
    (s.ctl.supply < 48000 ∨ 56000 < s.ctl.supply → t.ctl.boot = .off ∧ t.ctl.harts = false) ∧
    (48000 ≤ s.ctl.supply → s.ctl.supply ≤ 56000 →
      (t.ctl.boot = .running ∧ t.ctl.harts = true ∧ t.ctl.scheduler = true ∧ t.ctl.leaves = true) ∨
      (t.ctl.boot = .failed ∧ t.ctl.harts = false ∧ t.ctl.scheduler = false ∧ t.ctl.keys = [])) := by
  obtain ⟨⟨hx, hk, hclu, hslc, hf, hcap, hkey⟩, hoff, hon⟩ := resetModule_ends s
  exact ⟨_, rfl, hx, hk, hclu, hslc, hf, hcap, hkey, hoff, hon⟩
theorem exec_bootImageI3c (image : List Byte) : (s.ctl.boot ≠ .failed → exec (.bootImageI3c image) s = .next s) ∧
    (s.ctl.boot = .failed → ∃ t, exec (.bootImageI3c image) s = .next t ∧
      ((t.ctl.boot = .running ∧ t.ctl.harts = true) ∨ (t.ctl.boot = .failed ∧ t.ctl.keys = []))) := by
  refine ⟨fun h => congrArg Host.Outcome.next (if_neg h), fun h => ⟨_, congrArg Host.Outcome.next (if_pos h), ?_⟩⟩
  unfold State.bootSlot
  rcases bootImages_ends s (fun o n => sliceBytes image o n) image.length 0 with ⟨t, e, hb, hh, -⟩ | ⟨t, e, hb, -⟩ <;> rw [e]
  · exact .inl ⟨hb, hh⟩
  · exact .inr ⟨hb.trans h, rfl⟩

/-! ## Repairs as instructions (R68, R69, Table 3.6) -/

section
variable {op : Nat} {j : Instr} (he : exec j s = .next (asked s w op).repairAct)
include he

theorem exec_repair_refused {r : Nat}
    (h : s.ctl.repairRefused op ((writeData w).toNat / 2 ^ 26 % 4) ((writeData w).toNat % 65536) = some r) :
    ∃ t, exec j s = .next t ∧ t.fab = (taken s w).fab ∧ t.ctl.repBusy = false ∧ t.ctl.repResult = r :=
  ⟨_, he.trans (congrArg Host.Outcome.next (repairAct_of_some ((asked_refused s w op).trans h))), rfl, rfl, rfl⟩

variable (hn : s.ctl.repairRefused op ((writeData w).toNat / 2 ^ 26 % 4) ((writeData w).toNat % 65536) = none)
include hn

theorem exec_repair_retireCluster (ho : op = 1) (hk : (writeData w).toNat / 2 ^ 26 % 4 = 0) :
    ∃ t, exec j s = .next t ∧ t.ctl.repBusy = true ∧ t.ctl.repStarted = s.fab.downFree ((writeData w).toNat % 65536) ∧
      t.fab = (if s.fab.downFree ((writeData w).toNat % 65536) then
        (taken s w).fab.sendDown ((writeData w).toNat % 65536) ⟨0x06, 0, 0, 0, 0, 0, 0, 0, 0, true⟩ else (taken s w).fab) := by
  have ha := repairAct_retireCluster ((asked_refused s w op).trans hn) ho hk
  rw [asked_repIndex] at ha
  have hd : (asked s w op).fab.downFree ((writeData w).toNat % 65536) = s.fab.downFree ((writeData w).toNat % 65536) := rfl
  rw [hd] at ha
  cases hf : s.fab.downFree ((writeData w).toNat % 65536) <;> rw [hf] at ha <;> exact ⟨_, he.trans (congrArg Host.Outcome.next ha), rfl, rfl, rfl⟩
theorem exec_repair_retireSlice (ho : op = 1) (hk : (writeData w).toNat / 2 ^ 26 % 4 = 1) :
    ∃ t, exec j s = .next t ∧ t.ctl.repBusy = true ∧ t.ctl.retiringSlc = some ((writeData w).toNat % 65536) ∧
      t.fab = { (taken s w).fab with ctxs := (taken s w).fab.ctxs.map (fun x => { x with gen := x.gen + 1 }) } := by
  have ha := repairAct_retireSlice ((asked_refused s w op).trans hn) ho hk
  rw [asked_repIndex] at ha
  exact ⟨_, he.trans (congrArg Host.Outcome.next ha), rfl, rfl, rfl⟩
theorem exec_repair_retirePort (ho : op = 1) (hk : (writeData w).toNat / 2 ^ 26 % 4 = 2) (hr : s.ctl.runs = true)
    (hp : (writeData w).toNat % 65536 < s.ctl.ports.length) :
    ∃ t y, exec j s = .next t ∧ t.ctl.repBusy = true ∧ t.ctl.ports[(writeData w).toNat % 65536]? = some y ∧ y.disable = true := by
  have ha := repairAct_retirePort ((asked_refused s w op).trans hn) ho hk
  rw [asked_repIndex] at ha
  obtain ⟨y, hy, hd⟩ := disablePort_disable (s := { asked s w op with ctl := { (asked s w op).ctl with repStarted := true } }) hr
    (List.getElem?_eq_getElem hp)
  exact ⟨_, y, he.trans (congrArg Host.Outcome.next ha), congrArg Ctl.repBusy (State.portless_disablePort _ _ true), hy, hd⟩
theorem exec_repair_restore (ho : op = 2) : ∃ t, exec j s = .next t ∧ t.ctl.repBusy = true ∧ t.ctl.repStarted = true :=
  ⟨_, he.trans (congrArg Host.Outcome.next (repairAct_restore ((asked_refused s w op).trans hn) ho)), rfl, rfl⟩
theorem exec_repair_retrain (ho : op = 3) : ∃ t, exec j s = .next t ∧ t.ctl.repBusy = true ∧ t.ctl.repStarted = true := by
  have hs := State.portless_startRetrain { asked s w op with ctl := { (asked s w op).ctl with repStarted := true } }
    (asked s w op).ctl.repIndex.toNat true
  exact ⟨_, he.trans (congrArg Host.Outcome.next (repairAct_retrain ((asked_refused s w op).trans hn) ho)), congrArg Ctl.repBusy hs,
    congrArg Ctl.repStarted hs⟩

end

end Sys2Proof.Machine

namespace Sys2Proof.Safety
open Sys2Proof.Machine

/-- Settles O54, event by event. -/
theorem bootUpdateRepair : Obligations.BootUpdateRepair := by
  unfold Obligations.BootUpdateRepair
  intro s w pass u c v idx kind
  refine ⟨exec_moduleReset s, exec_bootImageI3c, exec_liveUpdate, exec_updatePause,
    fun hp => ⟨exec_updateAlive hp, exec_updateWatchdog hp⟩, exec_uzomanWatchdogRestart, fun j op hj hw hop => ?_, fun hb hs => ?_⟩
  · have hr := exec_repair hj hw hop
    refine ⟨fun hb => hr.trans (congrArg Host.Outcome.next (repair_busy hb)), fun hb hp => ?_⟩
    have he := hr.trans (congrArg Host.Outcome.next (repair_idle hb hp))
    have hrun : s.ctl.runs = true := by
      obtain ⟨hh, -⟩ := hw
      simp only [State.hits, Bool.and_eq_true] at hh
      exact hh.2
    intro units ends
    refine ⟨fun h => ?_, fun ho hk hi hall => ?_, fun ho hk hi hs => ?_, fun ho hk hi => ?_, fun ho hk hi hl => ?_, fun ho hk hi hs => ?_,
      fun ho hk hi hall => ?_, fun ho hk hi hlim => ?_⟩
    · exact exec_repair_refused he (repairRefused_two (by rwa [repairUnits_eq]))
    · have hlim : c.repairLimit kind idx = true := by
        rw [hk]
        simpa [Ctl.repairLimit, or_iff_not_imp_left] using hall
      have hn : c.repairRefused op kind idx = some 3 := by
        rw [ho]
        exact repairRefused_three (by rw [hk]; exact hi) hlim
      exact exec_repair_refused he hn
    · have hn : c.repairRefused op kind idx = some 4 := by
        rw [ho]
        exact repairRefused_four (by rw [hk]; exact hi) (by rw [hk]; exact hs)
      exact exec_repair_refused he hn
    · have hn : c.repairRefused op kind idx = none :=
        repairRefused_none (by rw [hk]; exact hi) (fun _ => hk) (by simp [ho]) (by simp [ho])
      exact exec_repair_retrain he hn ho
    · have hn : c.repairRefused op kind idx = none :=
        repairRefused_none (by rw [hk]; exact hi) (by simp [ho]) (fun _ => by rw [hk]; rfl) (by simp [ho])
      exact exec_repair_retirePort he hn ho hk hrun (hl ▸ hi)
    · have hn : c.repairRefused op kind idx = none :=
        repairRefused_none (by rw [hk]; exact hi) (by simp [ho]) (by simp [ho]) (fun _ => by rw [hk]; exact hs)
      exact exec_repair_restore he hn ho
    · have hn : c.repairRefused op kind idx = none :=
        repairRefused_none (by rw [hk]; exact hi) (by simp [ho]) (fun _ => by rw [hk]; exact repairLimit_cluster.mpr hall) (by simp [ho])
      exact exec_repair_retireCluster he hn ho hk
    · have hn : c.repairRefused op kind idx = none :=
        repairRefused_none (by rw [hk]; exact hi) (by simp [ho]) (fun _ => by rw [hk]; exact hlim) (by simp [ho])
      exact exec_repair_retireSlice he hn ho hk
  · have he := exec_repairDone (pass := pass) hb hs
    refine ⟨fun ho hk hp => ?_, fun ho hk _ => ?_, fun ho hk hc => ?_, fun ho hk _ hc => ?_, fun ho hk hp _ => ?_⟩
    · subst hp
      exact he.trans (congrArg Host.Outcome.next (repairFinish_failed ho hk))
    · exact ⟨_, he, repairFinish_slice ho hk⟩
    · exact he.trans (congrArg Host.Outcome.next (repairFinish_cluster_waits ho hk hc))
    · exact ⟨_, he, repairFinish_cluster ho hk hc⟩
    · subst hp
      exact ⟨_, he, repairFinish_cluster_restored ho hk⟩

end Sys2Proof.Safety
end

section
set_option Elab.async false

/-! # Slices, walks, fault slots, and engine deliveries (O60) -/

namespace Sys2Proof.Machine
open Sys2Proof.Safety

variable {s : State} {ctl : Ctl} {f : Fab} {r : SliceReq}

/-! ## Requests of the slices (R184-R188, R194) -/

theorem lineHeld_of_remap (h : ∃ x ∈ f.remaps, x.req.core = r.core ∧ x.req.slot = r.slot ∧ x.req.pa.toNat / 256 = r.pa.toNat / 256)
    (slice : Option Nat) : f.lineHeld r.core r.slot (r.pa.toNat / 256) slice = true := by
  obtain ⟨x, hx, hc, hs, hl⟩ := h
  unfold Fab.lineHeld
  exact Bool.or_eq_true_iff.mpr (.inl (List.any_eq_true.mpr ⟨x, hx, by simp [hc, hs, hl]⟩))
/-- A request waits behind one of its group and line that was answered REMAP, and is refused under a key that retires. -/
theorem serve_waits (h : ctl.keyRefused r.key = true ∨ f.lineHeld r.core r.slot (r.pa.toNat / 256) (some (f.sliceFor ctl r)) = true) :
    f.serve ctl r = f := by
  unfold Fab.serve
  exact if_pos (.inr (h.imp id .inl))
theorem serve_eq_send (hm : memRange r.pa.toNat r.len = true) (hk : ctl.keyRefused r.key = false)
    (hl : f.lineHeld r.core r.slot (r.pa.toNat / 256) (some (f.sliceFor ctl r)) = false) (hs : f.sendable ctl r = true) :
    f.serve ctl r = f.send ctl r := by
  unfold Fab.serve
  exact if_neg (by simp [hm, hk, hl, hs])
theorem exec_sliceRequest {g : Fab} (e : s.fab.serve s.ctl r = g) : exec (.sliceRequest r) s = .next { s with fab := g } := by
  rw [← e]
  rfl
theorem exec_remapReceive {n : Nat} {g : Fab} (e : s.fab.remapped s.ctl n = g) :
    exec (.remapReceive n) s = .next { s with fab := g } := by
  rw [← e]
  rfl
theorem send_ring (h : dieStop (f.sliceFor ctl r / 48) ≠ reqStop r) : f.send ctl r =
    f.ringSend (reqStop r) (dieStop (f.sliceFor ctl r / 48)) r.ctx (r.pa.toNat / 256 % 8) true
      (.request r (f.sliceFor ctl r) (f.reqGen ctl r)) := if_neg h
theorem send_own (h : dieStop (f.sliceFor ctl r / 48) = reqStop r) : f.send ctl r = f.atSlice ctl r (f.sliceFor ctl r) (f.reqGen ctl r) :=
  if_pos h

section
variable {slice : Nat} {gen : BitVec 16}

theorem atSlice_remap (h : ctl.sliceOut slice = true) : f.atSlice ctl r slice gen = { f with remaps := f.remaps ++ [⟨r, gen⟩] } := if_pos h
theorem atSlice_write {b : List Byte} (h : ctl.sliceOut slice = false) (hk : ctl.keyRefused r.key = false) (hw : r.write = some b) :
    f.atSlice ctl r slice gen = f.l2Write ctl r.core r.ctx r.key r.home r.pa.toNat b := by
  unfold Fab.atSlice
  simp [h, hk, hw]
theorem atSlice_read {b : List Byte} {f₁ : Fab} (h : ctl.sliceOut slice = false) (hk : ctl.keyRefused r.key = false) (hw : r.write = none)
    (hd : dieStop (slice / 48) = reqStop r) (e : f.l2Read ctl r.core r.ctx r.key r.home r.pa.toNat r.len = (b, f₁)) :
    f.atSlice ctl r slice gen = { f₁ with replies := f₁.replies ++ [(r, b)] } := by
  unfold Fab.atSlice
  simp [h, hk, hw, e, hd]
end

section
variable {n c : Nat} {m : Remap} (e : f.remaps[n]? = some m) (hc : m.req.core = some c)
include e hc

/-- What a requester does on REMAP: it refreshes its map, and sends again unless its turn or the ring's room makes it wait. -/
theorem remapped_eq : f.remapped ctl n =
    let r := m.req
    let g := (counted { f with remaps := f.remaps.eraseIdx n } 0x718).refreshMap ctl c r.ctx
    let behind := ({ g with remaps := f.remaps.take n } : Fab).lineHeld r.core r.slot (r.pa.toNat / 256) (some (g.sliceFor ctl r))
    if behind ∨ !g.sendable ctl r then f else g.send ctl r := by
  unfold Fab.remapped
  rw [e]
  dsimp only
  rw [hc, Fab.count_eq_counted]
end
/-- A map that is not as recent as the module's is the module's once refreshed (R187). -/
theorem mapOf_refreshMap {c ctx : Nat} (h : serialLe (f.genOf ctx) (f.mapOf ctl c ctx).gen = false) :
    (f.refreshMap ctl c ctx).mapOf ctl c ctx = ⟨f.genOf ctx, ctl.outSlices⟩ := by
  unfold Fab.refreshMap
  rw [if_neg (by simp [h])]
  unfold Fab.mapOf
  rw [Fab.core_setCore_self]
  exact Table.getD_set_self ..

/-! ## Walks and fault slots (R199, R204, R205) -/

/-- A fault takes the first slot of its die where no slot is taken; its record waits. -/
theorem faultTake_of_empty (h : f.faults = []) (die : Nat) (x : FaultSlot) :
    (f.faultTake ctl die x).2.faults = [(1024 * die, { x with time := f.time, merged := 1, enqueued := false })] := by
  have hfree : ((List.range 1024).map (fun i => 1024 * die + i)).find? (fun n => (Table.get? f.faults n).isNone) = some (1024 * die) := by
    rw [List.range_succ_eq_map, List.map_cons, h]
    rfl
  unfold Fab.faultTake
  dsimp only
  rw [hfree, h]
  have hw (g : Fab) : SameWork g (match g.faultQ ctl x.ctx with
      | (some q, f) => (f.ctxWrite ctl x.ctx (q.resp + 8 * (1024 * die)) (leBytes 8 0)).2
      | (none, f) => f) := by
    split
    · next e => exact (SameWork.of_eq e SameWork.refl.faultQ).ctxWrite
    · next e => exact .of_eq e SameWork.refl.faultQ
  exact (hw _).faults
section
variable {core ctx : Nat} {va : Addr} {acc : Access} {f₁ : Fab}

theorem exec_pageWalk_ok {l : Loc} {p : Nat} (e : s.fab.translate s.ctl (some core) ctx va.toNat acc = (.ok l p, f₁)) :
    exec (.pageWalk core ctx va acc) s = .next { s with fab := f₁ } := by
  show Host.Outcome.next { s with fab := s.fab.walkEvent s.ctl core ctx va acc } = _
  rw [Fab.walkEvent, e]
theorem exec_pageWalk_fault {r l : Nat} (e : s.fab.translate s.ctl (some core) ctx va.toNat acc = (.fault r l, f₁)) (h : f₁.faults = []) :
    ∃ t x n, exec (.pageWalk core ctx va acc) s = .next t ∧ t.fab.faults = [(n, x)] ∧ n = 1024 * (core / 48) ∧ x.va = va ∧ x.reason = r ∧
      x.level = l ∧ x.ctx = ctx ∧ x.enqueued = false := by
  have he : exec (.pageWalk core ctx va acc) s = .next { s with fab := (f₁.faultTake s.ctl (core / 48)
      ⟨ctx, va, accessBits acc, 0, r, l, 1, core, 0, 0, 0, f₁.time, false, []⟩).2 } := by
    show Host.Outcome.next { s with fab := s.fab.walkEvent s.ctl core ctx va acc } = _
    rw [Fab.walkEvent, e]
  exact ⟨_, _, _, he, faultTake_of_empty h _ _, rfl, rfl, rfl, rfl, rfl, rfl⟩
end
theorem exec_presenceWatchdog {c slot a : Nat} {g : Group} {lanes : BitVec 64} {addr : DWord} (hg : groupAt s c slot = some g)
    (ha : g.absentSince = some (a, lanes, addr)) (hh : g.hold = some .retry) :
    exec (.presenceWatchdog c slot) s = .next (if a + 16777216 < s.fab.ac then
      { s with fab := s.fab.takeTrap s.ctl c slot ⟨0x13, 0, lanes, maskOf g.entry, addr, 0,
        match g.entry with | l :: _ => ((g.lanes[l]?).map (·.pc)).getD 0 | [] => 0⟩ } else s) := by
  show Host.Outcome.next { s with fab := s.fab.watchdog s.ctl c slot } = _
  unfold Fab.watchdog
  rw [show s.fab.group? c slot = some g from hg]
  dsimp only
  rw [ha, hh]
  dsimp only
  by_cases hd : a + 2 ^ 24 < s.fab.ac
  · rw [if_pos hd]
    exact congrArg Host.Outcome.next (if_pos (c := a + 16777216 < s.fab.ac) hd).symm
  · rw [if_neg hd]
    exact congrArg Host.Outcome.next (if_neg (c := a + 16777216 < s.fab.ac) hd).symm

section
variable {n : Nat} {x : FaultSlot} (hn : n ≠ 0xFFFF)
include hn

theorem exec_faultRecordEnqueue : exec (.faultRecordEnqueue n) s = .next { s with fab := s.fab.faultEnqueue s.ctl n } := by
  show Host.Outcome.next { s with fab := if n = 0xFFFF then s.fab.postEngs s.ctl else s.fab.faultEnqueue s.ctl n } = _
  rw [if_neg hn]
variable (hx : Table.get? s.fab.faults n = some x)
include hx

theorem exec_faultRecordEnqueue_done (he : x.enqueued = true) : exec (.faultRecordEnqueue n) s = .next s := by
  rw [exec_faultRecordEnqueue hn, Fab.faultEnqueue, hx]
  dsimp only
  rw [if_pos he]
theorem exec_faultRecordEnqueue_new (he : x.enqueued = false) {ok : Bool} {f₁ : Fab}
    (e : s.fab.postRecord s.ctl x.ctx (({ x with time := s.fab.time } : FaultSlot).bytes n) = (ok, f₁)) :
    exec (.faultRecordEnqueue n) s = .next { s with fab := if ok then
      { f₁ with faults := Table.set f₁.faults n { x with time := s.fab.time, enqueued := true } } else f₁ } := by
  rw [exec_faultRecordEnqueue hn, Fab.faultEnqueue, hx]
  dsimp only
  rw [if_neg (by simp [he]), e]
  cases ok <;> rfl
end
/-- A response that can be read acts and frees its slot, if it is the one that the event answers. -/
theorem respond_eq {n v : Nat} {x : FaultSlot} {f₁ : Fab} (e : s.fab.response s.ctl n = (some (x, v), f₁)) (want : Nat → Bool)
    (go : FaultSlot → Fab → Fab) : s.respond n want go =
      .next { s with fab := if want v then go x { f₁ with faults := Table.erase f₁.faults n } else f₁ } := by
  unfold State.respond
  rw [e]
/-- The three events of a response: each acts on its own values, and no other value does anything. -/
theorem faultResponse {n v : Nat} {x : FaultSlot} {f₁ : Fab} (e : s.fab.response s.ctl n = (some (x, v), f₁)) :
    let put (h : Fab) : State := { s with fab := h }
    let f₂ : Fab := { f₁ with faults := Table.erase f₁.faults n }
    (v = 1 → exec (.faultRetry n) s = .next (put (x.who.foldl (fun h r => h.retryFor s.ctl n r) f₂))) ∧
    (v = 2 → exec (.faultDeliver n) s = .next (put (x.who.foldl (fun h r => h.deliverFor s.ctl x n r) f₂))) ∧
    (2 < v → exec (.faultEnd n) s = .next (put (f₂.fatal s.ctl x.ctx (f₂.faultGrid x) 0x09 x.pc))) ∧
    (v = 0 → exec (.faultRetry n) s = .next (put f₁) ∧ exec (.faultDeliver n) s = .next (put f₁) ∧
      exec (.faultEnd n) s = .next (put f₁)) := by
  have hretry : exec (.faultRetry n) s = s.respond n (fun v => v == 1) (fun x f => x.who.foldl (fun f r => f.retryFor s.ctl n r) f) := rfl
  have hdeliver : exec (.faultDeliver n) s =
      s.respond n (fun v => v == 2) (fun x f => x.who.foldl (fun f r => f.deliverFor s.ctl x n r) f) := rfl
  have hend : exec (.faultEnd n) s =
      s.respond n (fun v => v != 0 && v != 1 && v != 2) (fun x f => f.fatal s.ctl x.ctx (f.faultGrid x) 0x09 x.pc) := rfl
  rw [respond_eq e] at hretry hdeliver hend
  refine ⟨fun h => ?_, fun h => ?_, fun h => ?_, fun h => ?_⟩
  · rw [hretry, if_pos (by simp [h])]
  · rw [hdeliver, if_pos (by simp [h])]
  · rw [hend, if_pos]
    simp only [bne_iff_ne, Bool.and_eq_true, ne_eq]
    omega
  · rw [hretry, hdeliver, hend, if_neg (by simp [h]), if_neg (by simp [h]), if_neg (by simp [h])]
    exact ⟨rfl, rfl, rfl⟩

end Sys2Proof.Machine
end

section
set_option Elab.async false

namespace Sys2Proof.Machine
open Sys2Proof.Safety

variable {s : State} {ctl : Ctl} {f f₁ h : Fab} {c op piece line : Nat} {o o' : CopyOp}

/-! ## Copies of a core -/

theorem Fab.copy?_modCopy_self (f : Fab) (c op : Nat) (m : CopyOp → CopyOp) (hm : ∀ x, (m x).id = x.id) :
    (f.modCopy c op m).copy? c op = (f.copy? c op).map m := by
  unfold Fab.copy? Fab.modCopy
  dsimp only
  rw [Fab.core_setCore_self]
  dsimp only
  induction (f.core c).copies with
  | nil => rfl
  | cons x xs ih =>
    by_cases hx : x.id = op
    · simp [hx, hm]
    · simpa [hx] using ih
theorem copy?_of_sameWork (hw : SameWork f f₁) (c op : Nat) : f₁.copy? c op = f.copy? c op := by
  rw [Fab.copy?, Fab.copy?, hw.copies]
theorem id_of_copy? (e : f.copy? c op = some o) : o.id = op := by simpa using List.find?_some e

/-! ## Source lines and bights (R168) -/

/-- The bights of a cluster are all busy. -/
def BightsBusy (f : Fab) (c : Nat) : Prop := 16 ≤ (f.bights.filter (fun b => b.core / 8 == c / 8)).length

theorem bightFree_iff : f.bightFree c = true ↔ ¬BightsBusy f c := by simp [Fab.bightFree, BightsBusy]
theorem mem_unread {l : Nat} : l ∈ o.unread ctl line ↔ ¬line ∈ o.ready ∧ l ∈ o.sources ctl [line] ∧ Table.get? o.lines l = none := by
  unfold CopyOp.unread
  by_cases hr : line ∈ o.ready <;> simp [hr]
theorem bightFor_iff (hr : o.receivers ≠ []) : f.bightFor ctl c o line = true ↔ o.unread ctl line = [] ∨ ¬BightsBusy f c := by
  simp [Fab.bightFor, hr, bightFree_iff]
/-- A line that has been read is kept with its copy, and in a bight where one is free. -/
theorem holdLine_one (e : f.copy? c op = some o) (l : Nat) (b : List Byte) :
    ((f.holdLine c op [(l, b)]).copy? c op).bind (fun x => Table.get? x.lines l) = some b ∧
      (BightsBusy f c → (f.holdLine c op [(l, b)]).bights = f.bights) ∧
      (¬BightsBusy f c → (f.holdLine c op [(l, b)]).bights = f.bights ++ [⟨c, op, l⟩]) := by
  generalize hg : f.modCopy c op (fun o => { o with lines := Table.set o.lines l b }) = g
  have hcopy : g.copy? c op = some { o with lines := Table.set o.lines l b } := by
    rw [← hg, Fab.copy?_modCopy_self f c op (fun o => { o with lines := Table.set o.lines l b }) fun _ => rfl, e, Option.map_some]
  have hb : g.bights = f.bights := by rw [← hg]; rfl
  have hfree : g.bightFree c = f.bightFree c := by unfold Fab.bightFree; rw [hb]
  have hhold : f.holdLine c op [(l, b)] = if g.bightFree c then { g with bights := g.bights ++ [⟨c, op, l⟩] } else g := by
    subst hg
    rfl
  have hline : (some { o with lines := Table.set o.lines l b }).bind (fun x : CopyOp => Table.get? x.lines l) = some b :=
    Table.get?_set_self ..
  rw [hhold, hfree]
  by_cases hbusy : BightsBusy f c
  · rw [if_neg (by simpa [bightFree_iff] using hbusy), hcopy, hb]
    exact ⟨hline, fun _ => rfl, fun hn => absurd hbusy hn⟩
  · rw [if_pos (bightFree_iff.mpr hbusy)]
    refine ⟨?_, fun hn => absurd hn hbusy, fun _ => by rw [← hb]⟩
    exact (congrArg (Option.bind · _) hcopy).trans hline
/-- Bights of a copy are kept while a line that it has left needs theirs. -/
theorem mem_freeBights {b : Bight} : b ∈ (f.freeBights ctl c o).bights ↔
    b ∈ f.bights ∧ ((b.core = c ∧ b.op = o.id) → o.lines ≠ [] ∧ b.line ∈ o.sources ctl o.linesLeft) := by
  show b ∈ f.bights.filter _ ↔ _
  rw [List.mem_filter]
  by_cases hl : o.lines = []
  · simp [hl]
    grind
  · simp [hl, List.isEmpty_iff]
    grind

theorem copy?_freeBights {x : CopyOp} (e : f.copy? c o.id = some x) : ∃ y, (f.freeBights ctl c o).copy? c o.id = some y := by
  let needed := if o.lines.isEmpty then [] else o.sources ctl o.linesLeft
  have hm := Fab.copy?_modCopy_self f c o.id (fun x => { x with lines := x.lines.filter (fun p => needed.contains p.1) }) fun _ => rfl
  rw [e] at hm
  exact ⟨_, hm⟩

theorem mapM_eq_some_map {α β : Type} {g : α → Option β} {v : α → β} {l : List α} (hg : ∀ a ∈ l, g a = some (v a)) :
    l.mapM g = some (l.map v) := by
  induction l with
  | nil => rfl
  | cons a l ih =>
    obtain ⟨ha, hl⟩ := List.forall_mem_cons.mp hg
    simp [List.mapM_cons, ha, ih hl]
theorem engAddr_add {as a k n : Nat} (hk : k < n) (hn : engAddr as a + n ≤ (if as = 0 then 2 ^ 64 else 2 ^ 32)) :
    engAddr as (a + k) = engAddr as a + k := by
  unfold engAddr at *
  split at hn <;> rename_i has <;> simp only [has, if_true, if_false] at hn ⊢ <;> omega
/-- Bytes of one source line that the bights hold are taken from it. -/
theorem bightBytes_of_line {ls : List (Nat × List Byte)} {as a n : Nat} {b : List Byte} (hc : f.copying = some ls) (hb : b.length = 256)
    (hl : Table.get? ls (engAddr as a / 256) = some b) (hin : engAddr as a % 256 + n ≤ 256)
    (hn : engAddr as a + n ≤ (if as = 0 then 2 ^ 64 else 2 ^ 32)) :
    f.bightBytes as a n = some ((b.drop (engAddr as a % 256)).take n) := by
  have hbyte : ∀ k ∈ List.range n, (Table.get? ls (engAddr as (a + k) / 256)).bind (fun b => b[engAddr as (a + k) % 256]?) =
      some (b.getD (engAddr as a % 256 + k) 0) := fun k hk => by
    rw [List.mem_range] at hk
    have hq : (engAddr as a + k) / 256 = engAddr as a / 256 := by omega
    have hr : (engAddr as a + k) % 256 = engAddr as a % 256 + k := by omega
    rw [engAddr_add hk hn, hq, hr, hl, Option.bind_some, List.getD_eq_getElem?_getD, List.getElem?_eq_getElem (by omega)]
    rfl
  unfold Fab.bightBytes
  rw [hc, Option.bind_some, mapM_eq_some_map hbyte]
  congr 1
  apply List.ext_getElem
  · simp
    omega
  · intro k hk hk'
    simp only [List.length_map, List.length_range] at hk
    simp [List.getElem?_eq_getElem (show engAddr as a % 256 + k < b.length by omega)]
theorem engRead_of_bight {ctx as a n : Nat} {locs : List (Loc × Nat)} {b : List Byte}
    (e : f.engLocs ctl c ctx as a n .load = .ok locs f₁) (hb : f₁.bightBytes as a n = some b) : f.engRead ctl c ctx as a n = .ok b f₁ := by
  unfold Fab.engRead
  rw [e]
  dsimp only [Eng.bind]
  rw [hb]

/-! ## Deliveries (R164, R168) -/

section
variable {p : CopyPart} (e : f.copy? c op = some o) (hp : o.pend[piece]? = some p)
include e hp

/-- A delivery waits where its line needs a bight and none is free. -/
theorem copyDeliver_of_no_bight (hb : f.bightFor ctl c o (p.sector / 4) = false) : f.copyDeliver ctl c op piece = f := by
  have hd : o.pend.getD piece default = p := by rw [List.getD_eq_getElem?_getD, hp, Option.getD_some]
  unfold Fab.copyDeliver
  rw [e]
  dsimp only
  rw [hd, if_pos (by simp [hb])]
/-- One that does not wait delivers, once the copy has what its sector writes. -/
theorem copyDeliver_of_ready (hw : f.copyWaits c op = false) (hb : f.bightFor ctl c o (p.sector / 4) = true)
    (hr : f.copyReady ctl c o (p.sector / 4) = .ok o' f₁) : f.copyDeliver ctl c op piece = f₁.deliverPart ctl c o' piece := by
  obtain ⟨hlt, -⟩ := List.getElem?_eq_some_iff.mp hp
  have hd : o.pend.getD piece default = p := by rw [List.getD_eq_getElem?_getD, hp, Option.getD_some]
  unfold Fab.copyDeliver
  rw [e]
  dsimp only
  rw [hd, if_neg (by simp [hw, hb, Nat.not_le.mpr hlt]), hr]
end
/-- A copy has read what a line of it writes. -/
def HasRead (o : CopyOp) (line : Nat) : Prop := (o.receivers = [] ∧ o.handed = true) ∨ (o.receivers ≠ [] ∧ line ∈ o.ready)
theorem copyReady_of_read (h : HasRead o line) : f.bightFor ctl c o line = true ∧ f.copyReady ctl c o line = .ok o f := by
  unfold Fab.copyReady Fab.bightFor CopyOp.unread
  obtain ⟨hr, hh⟩ | ⟨hr, hl⟩ := h
  · simp [hr, hh]
  · simp [hr, hl]

section
variable {p : CopyPart} (e : f.copy? c op = some o) (hp : o.pend[piece]? = some p)
include e hp

/-- A delivery writes bytes, presence and credits and frees bights, and the copy is still there; then it loses the sector, or
leaves with its last one. -/
theorem deliverPart_eq : ∃ (g : Fab) (x : CopyOp), g.copy? c op = some x ∧ f.deliverPart ctl c o piece =
    if (o.pend.eraseIdx piece).isEmpty then
      ((g.setCore c { g.core c with copies := (g.core c).copies.filter (fun x => x.id != op) }).reapBatches c o.slot).reportEnd c
    else g.modCopy c op (fun x => { x with pend := o.pend.eraseIdx piece }) := by
  obtain rfl := id_of_copy? e
  unfold Fab.deliverPart
  rw [hp]
  dsimp only
  generalize hg : p.credits.foldl _ _ = g
  have hw : SameWork f g := by
    subst hg
    exact .foldl (.sectorSet (.foldl .refl fun _ _ hg => hg.scrWrite)) fun _ _ hg => hg.barUpdate
  obtain ⟨x, hx⟩ := copy?_freeBights (ctl := ctl) (o := { o with pend := o.pend.eraseIdx piece }) ((copy?_of_sameWork hw c o.id).trans e)
  exact ⟨_, x, hx, rfl⟩
theorem deliverPart_pend (hr : o.pend.eraseIdx piece ≠ []) :
    ((f.deliverPart ctl c o piece).copy? c op).map (·.pend) = some (o.pend.eraseIdx piece) := by
  obtain ⟨g, x, hx, hd⟩ := deliverPart_eq (ctl := ctl) e hp
  rw [hd, if_neg (by simpa [List.isEmpty_iff] using hr),
    Fab.copy?_modCopy_self g c op (fun x => { x with pend := o.pend.eraseIdx piece }) fun _ => rfl, hx]
  rfl
theorem deliverPart_last (hr : o.pend.eraseIdx piece = []) : (f.deliverPart ctl c o piece).copy? c op = none := by
  obtain ⟨g, x, hx, hd⟩ := deliverPart_eq (ctl := ctl) e hp
  rw [hd, if_pos (by rw [hr]; rfl)]
  refine (copy?_of_sameWork (SameWork.reportEnd (SameWork.reapBatches .refl)) c op).trans ?_
  rw [Fab.copy?, Fab.core_setCore_self]
  simp [List.find?_eq_none]
end

theorem Eng.bind_eq_ok {α β : Type} {x : Eng α} {k : α → Fab → Eng β} {b : β} (e : x.bind k = .ok b f₁) :
    ∃ a f, x = .ok a f ∧ k a f = .ok b f₁ := by
  cases x with
  | ok a f => exact ⟨a, f, rfl, e⟩
  | xlate => cases e
  | fault => cases e
/-- A line of a multicast that has been read counts as read. -/
theorem ready_of_bightHand (e : f.bightHand ctl c o line = .ok o' f₁) : line ∈ o'.ready := by
  unfold Fab.bightHand at e
  obtain ⟨_, _, -, e⟩ := Eng.bind_eq_ok e
  obtain ⟨_, _, -, e⟩ := Eng.bind_eq_ok e
  dsimp only at e
  rw [Eng.ok.injEq] at e
  obtain ⟨rfl, -⟩ := e
  simp

end Sys2Proof.Machine
end

section
set_option Elab.async false

namespace Sys2Proof.Machine
open Sys2Proof.Safety

variable {s : State} {ctl : Ctl} {f f₁ : Fab} {c n op piece : Nat} {o : CopyOp} {p : CopyPart}

/-! ## COPY_SECTOR_DELIVER -/

theorem exec_copySectorDeliver (e : s.fab.copyDeliver s.ctl c op piece = f) :
    exec (.copySectorDeliver c op piece) s = .next { s with fab := f } := by
  rw [← e]
  rfl

section
variable (e : f.copy? c op = some o) (hp : o.pend[piece]? = some p)
include e hp

/-- A multicast whose line has not been read waits while every bight of its cluster is busy. -/
theorem copyDeliver_waits (hr : o.receivers ≠ []) (hu : o.unread ctl (p.sector / 4) ≠ []) (hb : BightsBusy f c) :
    f.copyDeliver ctl c op piece = f := by
  have hf : f.bightFor ctl c o (p.sector / 4) = false := by
    rw [← Bool.not_eq_true, bightFor_iff hr]
    exact fun h => h.elim hu (absurd hb)
  exact copyDeliver_of_no_bight e hp hf
theorem copyDeliver_of_read (hw : f.copyWaits c op = false) (h : HasRead o (p.sector / 4)) : f.copyDeliver ctl c op piece = f.deliverPart ctl c o piece := by
  obtain ⟨hb, hr⟩ := copyReady_of_read (ctl := ctl) (f := f) (c := c) h
  exact copyDeliver_of_ready e hp hw hb hr
theorem copyDeliver_of_bightHand (hw : f.copyWaits c op = false) (hr : o.receivers ≠ []) (hl : ¬p.sector / 4 ∈ o.ready)
    (hb : o.unread ctl (p.sector / 4) = [] ∨ ¬BightsBusy f c) {o' : CopyOp}
    (hh : f.bightHand ctl c o (p.sector / 4) = .ok o' f₁) : f.copyDeliver ctl c op piece = f₁.deliverPart ctl c o' piece := by
  have hready : f.copyReady ctl c o (p.sector / 4) = .ok o' f₁ := by
    unfold Fab.copyReady
    rw [if_neg (by simpa using hr), if_neg (by simpa using hl), hh]
  exact copyDeliver_of_ready e hp hw ((bightFor_iff hr).mpr hb) hready
end

/-! ## The matrix engine (R171, R175) -/

/-- The handle that a fault record of a matrix operation names: its routine's, if it has one. -/
def MxOp.handle (o : MxOp) : Byte := match o.routine with | some r => r.handle | none => 0

section
variable {t : Team} {o : MxOp} {rest : List MxOp} (ht : (f.core c).team = some t) (hq : (f.core c).mxq = o :: rest)
include ht hq

/-- The engine waits for a page and for the sectors that the quarter reads. -/
theorem mxUnit_waits (h : f.mxWaits c = true ∨ ∃ x ∈ o.op.reads o.quarter, f.tilePresent x = false) : f.mxUnit ctl c true = f := by
  unfold Fab.mxUnit
  rw [ht, hq]
  refine if_pos (.inr (h.imp_right fun ⟨x, hx, hp⟩ => ?_))
  rw [Bool.not_eq_true', List.all_eq_false]
  exact ⟨x, hx, by simp [hp]⟩
omit ht in
theorem mxHead_congr {g h : MxOp → MxOp} (e : g o = h o) : f.mxHead c g = f.mxHead c h := by
  unfold Fab.mxHead
  dsimp only
  rw [hq]
  show f.setCore c { f.core c with mxq := g o :: rest } = f.setCore c { f.core c with mxq := h o :: rest }
  rw [e]

section
variable (hlt : o.quarter < o.op.quarters) (hw : f.mxWaits c = false) (hp : ∀ x ∈ o.op.reads o.quarter, f.tilePresent x = true)
include hlt hw hp

omit ht hq in
theorem mxUnit_guard :
    ¬(o.op.quarters ≤ o.quarter ∨ f.mxWaits c = true ∨ (!(o.op.reads o.quarter).all (fun t => f.tilePresent t)) = true) := by
  simp [hw, List.all_eq_true.mpr hp, hlt]
/-- Otherwise it works the rest of the quarter's operation; the next quarter follows, also on a fault, which is the quarter's own. -/
theorem mxUnit_ok {b : List Byte}
    (e : Eng.denying o.denied (Fab.mxWork ctl c t.ctx o (f.mxBlocks c o.op - o.blocks)) f = .ok b f₁) :
    f.mxUnit ctl c true = f₁.mxHead c (fun o => o.next (some b)) := by
  have hq₁ : (f₁.core c).mxq = o :: rest := ((EngSame.of_ok e (.denying (fun _ hg => .mxWork hg) .refl)).mxq c).trans hq
  unfold Fab.mxUnit
  rw [ht, hq]
  dsimp only
  rw [if_neg (mxUnit_guard hlt hw hp), if_pos rfl, e]
  exact mxHead_congr hq₁ (if_pos (by omega))
theorem mxUnit_fault {x : EngErr}
    (e : Eng.denying o.denied (Fab.mxWork ctl c t.ctx o (f.mxBlocks c o.op - o.blocks)) f = .fault x f₁) :
    f.mxUnit ctl c true = ((f₁.mxHead c (fun o => o.next none)).bldEmpty c o).engFault ctl c o.slot o.seq o.op.cls o.ord o.lanes
      (x.record 1 (BitVec.ofNat 8 o.op.cls) o.handle o.pc) := by
  unfold Fab.mxUnit
  rw [ht, hq]
  dsimp only
  rw [if_neg (mxUnit_guard hlt hw hp), if_pos rfl, e]
  rfl
end

theorem mxPop_done (h : o.op.quarters ≤ o.quarter) :
    f.mxPop ctl c = ((f.setCore c { f.core c with mxq := rest }).sendHand ctl c t.ctx o).retireHeld c o.slot := by
  unfold Fab.mxPop
  rw [ht, hq]
  exact if_neg (Nat.not_lt.mpr h)
theorem mxPop_working (h : o.quarter < o.op.quarters) : f.mxPop ctl c = f := by
  unfold Fab.mxPop
  rw [ht, hq]
  exact if_pos h
end
theorem exec_matrixOpComplete {o : MxOp} {rest : List MxOp} (hq : (s.fab.core c).mxq = o :: rest) : exec (.matrixOpComplete c) s =
    .next { s with fab := ((List.range (o.op.quarters - o.quarter)).foldl (fun f _ => f.mxUnit s.ctl c true) s.fab).mxPop s.ctl c } := by
  show Host.Outcome.next { s with fab := s.fab.mxComplete s.ctl c } = _
  unfold Fab.mxComplete
  rw [hq]

end Sys2Proof.Machine

namespace Sys2Proof.Safety
open Sys2Proof.Machine

/-- Settles O60, event by event. -/
theorem memoryEvents : Obligations.MemoryEvents := by
  unfold Obligations.MemoryEvents
  intro s put
  refine ⟨fun r => ⟨fun h => ?_, fun h => ?_, fun hm hk hl hs => ?_⟩,
    fun n m c e hc => ⟨fun h => ?_, fun hb hs => ?_, fun h => mapOf_refreshMap h⟩,
    fun core ctx va acc => ⟨fun l p f₁ e => exec_pageWalk_ok e, fun r l f₁ e h => exec_pageWalk_fault e h⟩,
    fun c slot g a lanes addr hg ha hh => ?_,
    fun n x hn hx => ⟨exec_faultRecordEnqueue_done hn hx, fun he ok f₁ e => exec_faultRecordEnqueue_new hn hx he e, fun v f₁ e => ?_⟩,
    fun c op piece o p e hw hp => ?_,
    fun h c tm o rest ht hq => ⟨fun hlt => mxUnit_waits ht hq, fun hlt hw hp => ⟨fun b f₁ e => mxUnit_ok ht hq hlt hw hp e,
      fun x f₁ e => mxUnit_fault ht hq hlt hw hp e⟩, mxPop_done ht hq, mxPop_working ht hq⟩,
    fun c o rest hq => exec_matrixOpComplete hq⟩
  · exact exec_sliceRequest (serve_waits (.inr (lineHeld_of_remap h _)))
  · exact exec_sliceRequest (serve_waits (.inl h))
  · have hserve := serve_eq_send hm hk hl hs
    refine ⟨fun hd => exec_sliceRequest (hserve.trans (send_ring hd)), fun hd => ?_⟩
    have hslice := hserve.trans (send_own hd)
    exact ⟨fun ho => exec_sliceRequest (hslice.trans (atSlice_remap ho)),
      fun ho b hw => exec_sliceRequest (hslice.trans (atSlice_write ho hk hw)),
      fun ho hw b f₁ e => exec_sliceRequest (hslice.trans (atSlice_read ho hk hw hd e))⟩
  · exact exec_remapReceive ((remapped_eq e hc).trans (if_pos (h.imp id fun h => by rw [h]; rfl)))
  · exact exec_remapReceive ((remapped_eq e hc).trans (if_neg (by rintro (h | h) <;> simp_all)))
  · exact exec_presenceWatchdog hg ha hh
  · exact faultResponse e
  · intro line unread busy read
    refine ⟨fun hr hu hb => exec_copySectorDeliver (copyDeliver_waits e hp hr hu hb), fun l => mem_unread, fun h l b eh => ?_,
      fun h h₁ ls as b a n locs hc hl hc₁ hb hline hin hn => engRead_of_bight hl (bightBytes_of_line hc₁ hb hline hin hn),
      fun h b => mem_freeBights, fun hr hne => ?_, fun hr hnil => ?_, fun hr hl hb o' f₁ eh => ?_⟩
    · obtain ⟨hcopy, hbusy, hfree⟩ := holdLine_one eh l b
      refine ⟨hcopy, ?_⟩
      split
      · next hb => exact hbusy hb
      · next hb => exact hfree hb
    · exact ⟨_, exec_copySectorDeliver (copyDeliver_of_read e hp hw hr), rfl, deliverPart_pend e hp hne⟩
    · exact ⟨_, exec_copySectorDeliver (copyDeliver_of_read e hp hw hr), deliverPart_last e hp hnil⟩
    · exact ⟨exec_copySectorDeliver (copyDeliver_of_bightHand e hp hw hr hl hb eh), ready_of_bightHand eh⟩

end Sys2Proof.Safety
end

section
set_option Elab.async false

/-! # Halyard ports (O55) -/

namespace Sys2Proof.Machine
open Sys2Proof.Safety

variable {s : State} {p : Nat} {x : Port}

/-! ## One port of a module that runs -/

/-- A state with one port replaced: what an event of that port ends in. -/
abbrev State.setPort (s : State) (p : Nat) (x : Port) : State := { s with ctl := { s.ctl with ports := s.ctl.ports.set p x } }

theorem State.port?_of_runs (hr : s.ctl.runs = true) : s.port? p = s.ctl.ports[p]? := if_pos hr
theorem State.port?_of_halted (hr : s.ctl.runs = false) : s.port? p = none := if_neg (by simp [hr])
theorem State.getElem?_ports_setPort_self (e : s.ctl.ports[p]? = some x) (y : Port) : (s.setPort p y).ctl.ports[p]? = some y := by
  obtain ⟨hlt, -⟩ := List.getElem?_eq_some_iff.mp e
  exact List.getElem?_set_self hlt
theorem State.modPort_setPort (e : s.ctl.ports[p]? = some x) (y : Port) (h : Port → Port) :
    (s.setPort p y).modPort p h = s.setPort p (h y) := by
  rw [State.modPort_eq _ _ _ _ (State.getElem?_ports_setPort_self e y)]
  exact congrArg (fun ps => { s with ctl := { s.ctl with ports := ps } }) (List.set_set ..)
theorem State.getElem?_ports_modPort_other {q : Nat} (hq : q ≠ p) (h : Port → Port) :
    (s.modPort p h).ctl.ports[q]? = s.ctl.ports[q]? := by
  simp [State.modPort, modAt, hq.symm]
theorem Fab.countPort_one (f : Fab) (p off : Nat) : f.countPort p off 1 = counted f (0x200 + 32 * p + off) :=
  f.count_eq_counted _

/-- While outputs are in reset no event of a port does anything (R21). -/
theorem exec_port_halted (hr : s.ctl.runs = false) (good : Nat) : ∀ j ∈ [Instr.portTrain p good, .flitReceive p default, .flitNak p 0,
    .linkRetrain p, .retrainDone p good, .switchGroupReport p 0 true], exec j s = .next s := by
  have hn : s.port? p = none := State.port?_of_halted hr
  have htrain : s.train p good = s := by rw [State.train, hn]
  have hflit : s.flitIn p default = s := by rw [State.flitIn, hn]
  have hnak : execFlitNak p 0 s = .next s := by rw [execFlitNak, hn]
  have hretrain : execLinkRetrain p s = .next s := by rw [execLinkRetrain, hn]
  have hretrained : s.retrained p good = s := by rw [State.retrained, hn]
  have hgroup : execSwitchGroupReport p 0 true s = .next s := by rw [execSwitchGroupReport, hn]
  simp only [List.forall_mem_cons]
  exact ⟨congrArg Host.Outcome.next htrain, congrArg Host.Outcome.next hflit, hnak, hretrain, congrArg Host.Outcome.next hretrained, hgroup,
    List.forall_mem_nil _⟩

section
variable (hr : s.ctl.runs = true) (e : s.ctl.ports[p]? = some x)
include hr e

theorem State.port?_eq : s.port? p = some x := (State.port?_of_runs hr).trans e

/-! ## Training and retrains (R26, R30) -/

theorem exec_portTrain_down (good : Nat) (hd : x.disable = false) (h0 : x.state = 0) :
    exec (.portTrain p good) s = .next (s.setPort p { x with state := 1 }) := by
  show Host.Outcome.next (s.train p good) = _
  rw [State.train, State.port?_eq hr e]
  dsimp only
  rw [if_neg (by simp [hd, h0]), if_pos h0, State.modPort_eq _ _ _ _ e]
theorem exec_portTrain_training (good : Nat) (hd : x.disable = false) (h1 : x.state = 1) :
    exec (.portTrain p good) s =
      .next (s.setPort p { x with lanes := trainedLanes good, state := if trainedLanes good = 0 then 0 else 2 }) := by
  show Host.Outcome.next (s.train p good) = _
  rw [State.train, State.port?_eq hr e]
  dsimp only
  rw [if_neg (by simp [hd, h1]), if_neg (by simp [h1]), State.modPort_eq _ _ _ _ e]
theorem exec_linkRetrain_quiet (h : ∀ q ∈ x.sent, q.replays < 8) : exec (.linkRetrain p) s = .next s := by
  show execLinkRetrain p s = _
  rw [execLinkRetrain, State.port?_eq hr e]
  exact congrArg Host.Outcome.next (if_neg (by simpa using h))
/-- Eight replays of a flit start a retrain, which keeps the flits not acknowledged. -/
theorem exec_linkRetrain_starts (h2 : x.state = 2) (hd : x.disable = false) (h : ∃ q ∈ x.sent, 8 ≤ q.replays) :
    ∃ t y, exec (.linkRetrain p) s = .next t ∧ t.ctl.ports[p]? = some y ∧ y.state = 3 ∧ y.sent.map (·.flit) = x.sent.map (·.flit) := by
  have hexec : exec (.linkRetrain p) s = .next (s.startRetrain p false) := by
    show execLinkRetrain p s = _
    rw [execLinkRetrain, State.port?_eq hr e]
    exact congrArg Host.Outcome.next (if_pos (by simpa using h))
  have hport : (s.startRetrain p false).ctl.ports[p]? =
      some { x with retrain := x.retrain || false, state := 3, sent := x.sent.map (fun f => { f with replays := 0 }) } := by
    rw [State.startRetrain, State.port?_eq hr e]
    dsimp only
    rw [if_neg (by simp [h2, hd])]
    dsimp only
    rw [State.modPort_ports_self, State.modPort_ports_self, e]
    rfl
  exact ⟨_, _, hexec, hport, rfl, by simp⟩

theorem exec_retrainDone_up {good : Nat} (h3 : x.state = 3) (h : 4 ≤ good) :
    exec (.retrainDone p good) s = .next (s.setPort p
      { x with state := 2, lanes := trainedLanes good, retrain := false, failedRetrains := 0, wire := x.wire ++ x.sent.map (·.flit) }) := by
  have hlanes : trainedLanes good ≠ 0 := by
    unfold trainedLanes
    grind
  show Host.Outcome.next (s.retrained p good) = _
  rw [State.retrained, State.port?_eq hr e]
  dsimp only
  rw [if_neg (by simp [h3]), if_pos hlanes, State.modPort_eq _ _ _ _ e]
omit hr e in
theorem trainedLanes_of_lt {good : Nat} (h : good < 4) : trainedLanes good = 0 := by
  unfold trainedLanes
  grind
theorem exec_retrainDone_fails {good : Nat} (h3 : x.state = 3) (h : good < 4) (hf : x.failedRetrains < 2) :
    exec (.retrainDone p good) s = .next (s.setPort p { x with failedRetrains := x.failedRetrains + 1 }) := by
  show Host.Outcome.next (s.retrained p good) = _
  rw [State.retrained, State.port?_eq hr e]
  dsimp only
  rw [if_neg (by simp [h3]), if_neg (by simp [trainedLanes_of_lt h]), if_pos hf, State.modPort_eq _ _ _ _ e]
/-- A port that goes down gives its whole packets back to the switch, with the ports by which they came (R27). -/
theorem State.dropPort_eq (st : Nat) : ∃ y, (s.dropPort p st).ctl.ports[p]? = some y ∧ y.state = st ∧ y.sent = [] ∧
    (s.dropPort p st).fab.outbox.map (·.came) = s.fab.outbox.map (·.came) ++ (wholePackets [] x.sent).map (·.1) := by
  rw [State.dropPort, State.port?_eq hr e]
  dsimp only
  refine ⟨_, (State.modPort_ports_self ..).trans (congrArg _ e), rfl, rfl, ?_⟩
  rw [List.map_append, List.map_map]
  rfl
theorem exec_retrainDone_ends {good : Nat} (h3 : x.state = 3) (h : good < 4) (hf : 2 ≤ x.failedRetrains) :
    ∃ t y, exec (.retrainDone p good) s = .next t ∧ t.ctl.ports[p]? = some y ∧ y.state = 4 ∧ y.sent = [] ∧
      t.fab.outbox.map (·.came) = s.fab.outbox.map (·.came) ++ (wholePackets [] x.sent).map (·.1) := by
  have hexec : exec (.retrainDone p good) s = .next (s.dropPort p 4) := by
    show Host.Outcome.next (s.retrained p good) = _
    rw [State.retrained, State.port?_eq hr e]
    dsimp only
    rw [if_neg (by simp [h3]), if_neg (by simp [trainedLanes_of_lt h]), if_neg (by omega)]
  obtain ⟨y, hy⟩ := State.dropPort_eq hr e 4
  exact ⟨_, y, hexec, hy⟩

/-! ## Flits (R29-R32) -/

/-- A negative acknowledge resends what follows the flit it names. -/
theorem exec_flitNak_replays (named : BitVec 12) (h2 : x.state = 2) : ∃ t y, exec (.flitNak p named) s = .next t ∧
    t.ctl.ports[p]? = some y ∧ y.wire = x.wire ++ (x.sent.filter (fun q => !serialLe q.flit.lseq named)).map (·.flit) := by
  have hexec : exec (.flitNak p named) s = .next (s.replay p named) := by
    show execFlitNak p named s = _
    rw [execFlitNak, State.port?_eq hr e]
    exact congrArg Host.Outcome.next (if_pos h2)
  rw [State.replay, State.port?_eq hr e] at hexec
  refine ⟨_, _, hexec, (State.modPort_ports_self ..).trans (congrArg _ e), ?_⟩
  dsimp only
  rw [List.map_map]
  rfl

variable {f : Flit} (h2 : x.state = 2)
include h2

theorem exec_flitReceive_badCrc (hc : crc32c (flitBytes f) ≠ f.crc) : exec (.flitReceive p f) s = .next (s.setPort p x.nak) := by
  show Host.Outcome.next (s.flitIn p f) = _
  rw [State.flitIn, State.port?_eq hr e]
  dsimp only
  rw [if_neg (by simp [h2]), if_pos hc, State.modPort_eq _ _ _ _ e]

variable (hc : crc32c (flitBytes f) = f.crc)
include hc

/-- A flit without a number whose KIND or virtual channel is unassigned is counted, and has no other effect. -/
theorem exec_flitReceive_discarded (hk : 7 ≤ f.kind.toNat ∨ 4 ≤ f.vc.toNat ∧ (f.kind = 0 ∨ f.kind = 5 ∨ f.kind = 6)) :
    exec (.flitReceive p f) s = .next { s with fab := counted s.fab (0x200 + 32 * p + 16) } := by
  show Host.Outcome.next (s.flitIn p f) = _
  rw [State.flitIn, State.port?_eq hr e]
  dsimp only
  rw [if_neg (by simp [h2]), if_neg (by simp [hc]), if_pos (hk.imp_right And.left), Fab.countPort_one]
  obtain h7 | ⟨hv, h | h | h⟩ := hk
  · split
    case h_8 => exact congrArg _ (if_pos (.inl h7))
    all_goals omega
  all_goals simp [h, hv]
theorem exec_flitReceive_credit (hk : f.kind = 5) (hv : f.vc.toNat < 4) : exec (.flitReceive p f) s =
    .next (s.setPort p { x.freed f.lack with spent := x.spent.modify f.vc.toNat (· - 1) }) := by
  have h5 : f.kind.toNat = 5 := by rw [hk]; rfl
  have hgood : ¬(7 ≤ f.kind.toNat ∨ 4 ≤ f.vc.toNat) := by omega
  show Host.Outcome.next (s.flitIn p f) = _
  rw [State.flitIn, State.port?_eq hr e]
  dsimp only
  rw [if_neg (by simp [h2]), if_neg (by simp [hc]), if_neg hgood]
  simp only [h5] at hgood ⊢
  rw [if_neg hgood, if_neg hgood, State.modPort_eq _ _ _ _ e]
  rfl

variable (h1 : 1 ≤ f.kind.toNat) (h4 : f.kind.toNat ≤ 4)
include h1 h4

/-- A numbered flit on an unassigned virtual channel is counted, and takes its place in the sequence. -/
theorem exec_flitReceive_numbered_bad (hv : 4 ≤ f.vc.toNat) (hseq : f.lseq = x.rxSeq) : exec (.flitReceive p f) s =
    .next ({ s with fab := counted s.fab (0x200 + 32 * p + 16) }.setPort p (x.accepts f)) := by
  show Host.Outcome.next (s.flitIn p f) = _
  rw [State.flitIn, State.port?_eq hr e]
  dsimp only
  rw [if_neg (by simp [h2]), if_neg (by simp [hc]), if_pos (.inr hv), Fab.countPort_one]
  obtain hk | hk | hk | hk : f.kind.toNat = 1 ∨ f.kind.toNat = 2 ∨ f.kind.toNat = 3 ∨ f.kind.toNat = 4 := by omega
  all_goals
    simp only [hk]
    rw [if_neg (by simp [hseq]), if_pos (.inr hv), if_pos (.inr hv)]
    exact congrArg Host.Outcome.next (State.modPort_eq _ _ x _ e)
/-- A numbered flit frees what it acknowledges. It is taken where its number is the next; else it is discarded, with a negative
acknowledge where it is ahead of its sequence and none is outstanding. -/
theorem exec_flitReceive_numbered (hv : f.vc.toNat < 4) : exec (.flitReceive p f) s =
    .next (if f.lseq ≠ x.rxSeq then
      if x.awaitReplay = true ∨ serialLt f.lseq x.rxSeq = true then s.setPort p (x.freed f.lack) else s.setPort p (x.freed f.lack).nak
    else (s.setPort p ((x.freed f.lack).accepts f)).assemble p f) := by
  have hgood : ¬(7 ≤ f.kind.toNat ∨ 4 ≤ f.vc.toNat) := by omega
  have hset (h : Port → Port) : s.modPort p h = s.setPort p (h x) := State.modPort_eq _ _ _ _ e
  show Host.Outcome.next (s.flitIn p f) = _
  rw [State.flitIn, State.port?_eq hr e]
  dsimp only
  rw [if_neg (by simp [h2]), if_neg (by simp [hc]), if_neg hgood]
  obtain hk | hk | hk | hk : f.kind.toNat = 1 ∨ f.kind.toNat = 2 ∨ f.kind.toNat = 3 ∨ f.kind.toNat = 4 := by omega
  all_goals
    simp only [hk] at hgood ⊢
    simp only [if_neg hgood, hset, State.modPort_setPort e]
end

/-! ### Packets assembled (R31, R32) -/

theorem State.packetIn_ctl (b : List Byte) : (s.packetIn p b).ctl = s.ctl := by
  unfold State.packetIn
  grind
/-- Assembling a flit changes its port in the packets being received alone. -/
theorem State.getElem?_ports_assemble (e : s.ctl.ports[p]? = some x) (f : Flit) :
    ∃ partials, (s.assemble p f).ctl.ports[p]? = some { x with partials } := by
  have hmod (m : Table (List Byte) → Table (List Byte)) :
      (s.modPort p (fun y => { y with partials := m y.partials })).ctl.ports[p]? = some { x with partials := m x.partials } := by
    rw [State.modPort_ports_self, e]
    rfl
  unfold State.assemble
  dsimp only
  split
  · exact ⟨_, by rw [State.packetIn_ctl, e]⟩
  · exact ⟨_, hmod fun t => Table.set t f.vc.toNat f.payload⟩
  · split
    · exact ⟨_, hmod fun t => Table.set t f.vc.toNat (_ ++ f.payload)⟩
    · exact ⟨_, e⟩
  · split
    · exact ⟨_, by rw [State.packetIn_ctl]; exact hmod fun t => Table.erase t f.vc.toNat⟩
    · exact ⟨_, e⟩
/-- A packet of one flit has arrived, unless its HOPS are used up or it is malformed and for this device (R32, R34). -/
theorem State.arrived_assemble_whole {f : Flit} (hk : f.kind = 4) (hh : (parsePacket f.payload).hops ≠ 0)
    (hok : s.ctl.mine (parsePacket f.payload) = true → packetOk (parsePacket f.payload) = true) :
    (s.assemble p f).fab.arrived = s.fab.arrived ++ [(p, parsePacket f.payload)] := by
  have hpkt : s.assemble p f = s.packetIn p f.payload := by rw [State.assemble, hk]; rfl
  rw [hpkt, State.packetIn]
  dsimp only
  rw [if_neg hh, if_neg (by simpa using hok)]

/-- The next flit in sequence: its credit is returned, what it acknowledges is freed, and a packet that is whole has arrived. -/
theorem exec_flitReceive_accepted {f : Flit} (hr : s.ctl.runs = true) (e : s.ctl.ports[p]? = some x) (h2 : x.state = 2)
    (hc : crc32c (flitBytes f) = f.crc) (h1 : 1 ≤ f.kind.toNat) (h4 : f.kind.toNat ≤ 4) (hv : f.vc.toNat < 4) (hseq : f.lseq = x.rxSeq) :
    ∃ t y, exec (.flitReceive p f) s = .next t ∧ t.ctl.ports[p]? = some y ∧ y.rxSeq = x.rxSeq + 1 ∧ y.awaitReplay = false ∧
      y.sent = (x.freed f.lack).sent ∧ y.wire = x.wire ++ [makeFlit 5 f.vc x.txSeq x.rxSeq []] ∧
      (f.kind = 4 → (parsePacket f.payload).hops ≠ 0 →
        (s.ctl.mine (parsePacket f.payload) = true → packetOk (parsePacket f.payload) = true) →
        t.fab.arrived = s.fab.arrived ++ [(p, parsePacket f.payload)]) := by
  have hexec := exec_flitReceive_numbered hr e h2 hc h1 h4 hv
  rw [if_neg (not_not.mpr hseq)] at hexec
  obtain ⟨partials, hy⟩ := State.getElem?_ports_assemble (State.getElem?_ports_setPort_self e _) f
  have hvc : f.vc % 4 = f.vc := BitVec.eq_of_toNat_eq (by simpa using Nat.mod_eq_of_lt hv)
  refine ⟨_, _, hexec, hy, rfl, rfl, rfl, ?_, fun hk hh hok => State.arrived_assemble_whole hk hh hok⟩
  show x.wire ++ [makeFlit 5 (f.vc % 4) x.txSeq x.rxSeq []] = _
  rw [hvc]

/-! ## The switch (R27, R34) -/

/-- A fabric from which an arrived packet has been taken. -/
abbrev Fab.takeArrival (f : Fab) (k : Nat) : Fab := { f with arrived := f.arrived.eraseIdx k }

theorem State.mem_of_bestPort {ps : List Nat} {k : Packet} {q : Nat} (h : s.bestPort ps k = some q) : q ∈ ps := by
  unfold State.bestPort at h
  refine List.foldlRecOn (motive := fun b : Option Nat => ∀ q, b = some q → q ∈ ps) ps _ (by simp) (fun b hb a ha q hq => ?_) q h
  split at hq
  · exact hb q hq
  · grind
/-- Of one port alone, a packet leaves by that port if it can take it. -/
theorem State.sendBy_singleton (hr : s.ctl.runs = true) (e : s.ctl.ports[p]? = some x) {k : Packet} (ht : x.takes k = true)
    (came : Option Nat) : s.sendBy [p] k came = some (s.setPort p (x.push k came)) := by
  have hbest : s.bestPort [p] k = some p := by
    rw [State.bestPort, List.foldl_cons, List.foldl_nil, State.port?_eq hr e]
    simp [ht]
  rw [State.sendBy, hbest, Option.map_some, State.modPort_eq _ _ _ _ e]
/-- What leaves by one of a list of ports changes no other port. -/
theorem State.getElem?_ports_sendBy_getD {ps : List Nat} {n : Nat} (hn : n ∉ ps) (k : Packet) (came : Option Nat) {t : State}
    (ht : t.ctl.ports[n]? = s.ctl.ports[n]?) : ((s.sendBy ps k came).getD t).ctl.ports[n]? = s.ctl.ports[n]? := by
  unfold State.sendBy
  cases h : s.bestPort ps k with
  | none => exact ht
  | some q => exact State.getElem?_ports_modPort_other (ne_of_mem_of_not_mem (State.mem_of_bestPort h) hn).symm _
/-- The switch does not send a packet by the port on which it came. -/
theorem State.getElem?_ports_flushOutbox {o : OutPacket} {n : Nat} (ho : s.fab.outbox = [o]) (honly : o.only = none)
    (hcame : o.came = some n) : s.flushOutbox.ctl.ports[n]? = s.ctl.ports[n]? := by
  unfold State.flushOutbox
  rw [ho, List.foldl_cons, List.foldl_nil]
  dsimp only
  rw [honly]
  dsimp only
  split
  · rfl
  · split
    · rfl
    · exact State.getElem?_ports_sendBy_getD (by simp [hcame]) _ _ rfl

section
variable {k : Nat} {q : Packet} (ha : s.fab.arrived[k]? = some (p, q)) (hm : s.ctl.mine q = false)
include ha hm

theorem exec_packetTransit_discarded (h : q.hops = 0 ∨ (s.ctl.mask q.dst).filter (fun n => n != p) = []) :
    exec (.packetTransit k) s = .next { s with fab := s.fab.takeArrival k } := by
  show execPacketTransit k s = _
  rw [execPacketTransit, ha]
  dsimp only
  rw [if_neg (by simp [hm]), if_pos (h.imp_right List.isEmpty_iff.mpr)]
theorem exec_packetTransit_sent (hr : s.ctl.runs = true) (hh : q.hops ≠ 0) {n : Nat} {y : Port}
    (hps : (s.ctl.mask q.dst).filter (fun n => n != p) = [n]) (e : s.ctl.ports[n]? = some y)
    (ht : y.takes { q with hops := q.hops - 1 } = true) : exec (.packetTransit k) s =
      .next ({ s with fab := s.fab.takeArrival k }.setPort n (y.push { q with hops := q.hops - 1 } (some p))) := by
  show execPacketTransit k s = _
  rw [execPacketTransit, ha]
  dsimp only
  rw [if_neg (by simp [hm]), hps, if_neg (not_or.mpr ⟨hh, by simp⟩)]
  exact congrArg (fun o : Option State => Host.Outcome.next (o.getD s)) 
    (State.sendBy_singleton (s := { s with fab := s.fab.takeArrival k }) hr e ht _)
end

/-! ## Switch groups (R367) -/

section
variable (hr : s.ctl.runs = true) (e : s.ctl.ports[p]? = some x) (id : BitVec 32)
include hr e

theorem exec_switchGroupReport_new (hid : id ∉ x.groups) (hl : x.groups.length < 1024) :
    exec (.switchGroupReport p id true) s = .next (s.setPort p { x with groups := x.groups ++ [id] }) := by
  show execSwitchGroupReport p id true s = _
  rw [execSwitchGroupReport, State.port?_eq hr e]
  dsimp only
  rw [State.modPort_eq _ _ _ _ e, if_neg (by simp), if_neg (by simp [hid, hl])]
theorem exec_switchGroupReport_gone :
    exec (.switchGroupReport p id false) s = .next (s.setPort p { x with groups := x.groups.filter (fun g => g != id) }) := by
  show execSwitchGroupReport p id false s = _
  rw [execSwitchGroupReport, State.port?_eq hr e]
  dsimp only
  rw [State.modPort_eq _ _ _ _ e, if_pos (by simp)]
end

end Sys2Proof.Machine

namespace Sys2Proof.Safety
open Sys2Proof.Machine

/-- Settles O55, event by event. -/
theorem linkEvents : Obligations.LinkEvents := by
  unfold Obligations.LinkEvents
  intro p good s x e
  refine ⟨fun hr => exec_port_halted hr good, fun hr => ?_⟩
  intro port lanes nak
  refine ⟨exec_portTrain_down hr e good, exec_portTrain_training hr e good, fun f h2 => ⟨exec_flitReceive_badCrc hr e h2, fun hc => ?_⟩,
    fun named => exec_flitNak_replays hr e named, exec_linkRetrain_starts hr e, exec_linkRetrain_quiet hr e,
    fun h3 => ⟨exec_retrainDone_up hr e h3, exec_retrainDone_fails hr e h3, exec_retrainDone_ends hr e h3⟩,
    fun o n => State.getElem?_ports_flushOutbox,
    fun k q ha hm => ⟨exec_packetTransit_discarded ha hm, fun hh n y => exec_packetTransit_sent ha hm hr hh⟩,
    exec_switchGroupReport_new hr e, exec_switchGroupReport_gone hr e⟩
  intro sent bad
  refine ⟨fun hk => exec_flitReceive_discarded hr e h2 hc (.inl hk), fun hv hk => exec_flitReceive_discarded hr e h2 hc (.inr ⟨hv, hk⟩),
    exec_flitReceive_credit hr e h2 hc, fun h1 h4 => ⟨fun hv hseq => ?_, fun hv => ⟨fun hne ha hlt => ?_, fun hne hlt => ?_,
      exec_flitReceive_accepted hr e h2 hc h1 h4 hv⟩⟩⟩
  · exact ⟨_, _, exec_flitReceive_numbered_bad hr e h2 hc h1 h4 hv hseq, rfl, State.getElem?_ports_setPort_self e _, rfl⟩
  · rw [exec_flitReceive_numbered hr e h2 hc h1 h4 hv, if_pos hne, if_neg (by simp [ha, hlt])]
    rfl
  · rw [exec_flitReceive_numbered hr e h2 hc h1 h4 hv, if_pos hne, if_pos (.inr hlt)]
    rfl

end Sys2Proof.Safety
end

section
set_option Elab.async false

/-! # Packets for this device, acknowledgements, timeouts and offers (O56) -/

namespace Sys2Proof.Machine
open Sys2Proof.Safety

/-! ## Sequence numbers (R33, R379) -/

theorem serialLt_self {n : Nat} (a : BitVec n) : serialLt a a = false := by simp [serialLt]
/-- A number before another is not half the range ahead of it. -/
theorem sub_ne_half_of_serialLt {a b : BitVec 32} (h : serialLt a b = true) : a - b ≠ 2 ^ 31 := by
  have hhalf : (2 : BitVec 32) ^ 31 = 2147483648#32 := rfl
  simp only [serialLt, Bool.and_eq_true, decide_eq_true_eq] at h
  rw [hhalf]
  bv_omega
theorem add_one_add_ofNat (a : BitVec 32) (m : Nat) : a + 1 + BitVec.ofNat 32 m = a + BitVec.ofNat 32 (m + 1) := by
  rw [BitVec.add_assoc, Nat.add_comm m 1, BitVec.ofNat_add]
  rfl
theorem add_ofNat_inj {a : BitVec 32} {m n : Nat} (hm : m < 2 ^ 32) (hn : n < 2 ^ 32)
    (h : a + BitVec.ofNat 32 m = a + BitVec.ofNat 32 n) : m = n := by
  have := congrArg BitVec.toNat ((BitVec.add_right_inj a).mp h)
  rwa [BitVec.toNat_ofNat, BitVec.toNat_ofNat, Nat.mod_eq_of_lt hm, Nat.mod_eq_of_lt hn] at this
/-- A run of numbers in a list, if the number after it is not there, is no longer than the list, and does not come round. -/
theorem run_le_length {l : List (BitVec 32)} {a : BitVec 32} {n : Nat} (hin : ∀ m, m < n → a + BitVec.ofNat 32 m ∈ l)
    (hout : a + BitVec.ofNat 32 n ∉ l) : n < 2 ^ 32 ∧ n ≤ l.length := by
  have hlt : n < 2 ^ 32 := by
    by_contra hge
    refine hout ?_
    have hmod : BitVec.ofNat 32 n = BitVec.ofNat 32 (n % 2 ^ 32) := BitVec.eq_of_toNat_eq (by simp)
    rw [hmod]
    exact hin _ (by omega)
  have hnodup : ((List.range n).map fun m => a + BitVec.ofNat 32 m).Nodup := by
    refine List.Nodup.map_on (fun i hi j hj => add_ofNat_inj ?_ ?_) List.nodup_range
    · have := List.mem_range.mp hi
      omega
    · have := List.mem_range.mp hj
      omega
  have hsub : ((List.range n).map fun m => a + BitVec.ofNat 32 m) ⊆ l := by
    intro q hq
    obtain ⟨m, hm, rfl⟩ := List.mem_map.mp hq
    exact hin m (List.mem_range.mp hm)
  exact ⟨hlt, by simpa using (List.subperm_of_subset hnodup hsub).length_le⟩

/-- An unordered flow moves its next number over the run of decided ones that starts there, and forgets those. -/
theorem RecvFlow.advance_run {n fuel : Nat} {x : RecvFlow} (hfuel : n ≤ fuel) (hn : n < 2 ^ 32) (hnodup : x.decided.Nodup)
    (hin : ∀ m, m < n → x.next + BitVec.ofNat 32 m ∈ x.decided) (hout : x.next + BitVec.ofNat 32 n ∉ x.decided) :
    (x.advance fuel).next = x.next + BitVec.ofNat 32 n ∧ (x.advance fuel).early = x.early ∧
      (x.advance fuel).rejected = x.rejected ∧
      ∀ q, q ∈ (x.advance fuel).decided ↔ q ∈ x.decided ∧ ∀ m, m < n → q ≠ x.next + BitVec.ofNat 32 m := by
  induction n generalizing fuel x with
  | zero =>
    have hstop : x.advance fuel = x := by
      cases fuel with
      | zero => rfl
      | succ fuel => exact if_neg (by simpa using hout)
    simp [hstop]
  | succ n ih =>
    obtain ⟨fuel, rfl⟩ : ∃ k, fuel = k + 1 := ⟨fuel - 1, by omega⟩
    have hfirst : x.next ∈ x.decided := by simpa using hin 0 (by omega)
    have hstep : x.advance (fuel + 1) = RecvFlow.advance fuel { x with next := x.next + 1, decided := x.decided.erase x.next } :=
      if_pos (by simpa using hfirst)
    have hother (m : Nat) (hm : m < n) : x.next + BitVec.ofNat 32 (m + 1) ≠ x.next := fun h => by
      have := add_ofNat_inj (a := x.next) (m := m + 1) (n := 0) (by omega) (by omega) (by simpa using h)
      omega
    obtain ⟨hnext, hearly, hrej, hmem⟩ := ih (x := { x with next := x.next + 1, decided := x.decided.erase x.next })
      (Nat.le_of_succ_le_succ hfuel) (by omega) (hnodup.erase _)
      (fun m hm => by
        rw [add_one_add_ofNat]
        exact (List.mem_erase_of_ne (hother m hm)).mpr (hin _ (by omega)))
      (fun h => hout (by
        rw [add_one_add_ofNat] at h
        exact List.mem_of_mem_erase h))
    rw [hstep]
    refine ⟨hnext.trans (add_one_add_ofNat ..), hearly, hrej, fun q => (hmem q).trans ?_⟩
    have hzero : x.next + BitVec.ofNat 32 0 = x.next := BitVec.add_zero _
    simp only [hnodup.mem_erase_iff, add_one_add_ofNat, Nat.forall_lt_succ_left, hzero]
    tauto

variable {s : State} {f f₁ : Fab} {ctl : Ctl} {k : Nat} {p : Packet}

/-! ## Requests (R33-R36, R39) -/

section
variable {c : Option (Nat × BitVec 12)} {d : Decided}

section
variable (h : serialLt p.seq (f.recvFlow p).next = true ∨ p.seq ∈ (f.recvFlow p).decided ∧ p.seq - (f.recvFlow p).next ≠ 2 ^ 31)
include h

/-- A duplicate is answered as it was before: where it was rejected, with the reason. -/
theorem receive_rejected {r : BitVec 32 × Nat} (hr : (f.recvFlow p).rejected.find? (fun r => r.1 == p.seq) = some r) :
    f.receive ctl p = { f with outbox := f.outbox ++ [⟨none, none, nakFor p r.2⟩] } := by
  unfold Fab.receive
  dsimp only
  rw [if_neg (h.elim sub_ne_half_of_serialLt And.right), if_pos (h.imp_right (by simpa using And.left ·)), hr]
  rfl
theorem receive_duplicate (hr : ∀ r ∈ (f.recvFlow p).rejected, r.1 ≠ p.seq) (ho : p.seq ∉ f.openSeqs p) :
    f.receive ctl p = f.ackFlow p := by
  have hfind : (f.recvFlow p).rejected.find? (fun r => r.1 == p.seq) = none := by simpa using hr
  unfold Fab.receive
  dsimp only
  rw [if_neg (h.elim sub_ne_half_of_serialLt And.right), if_pos (h.imp_right (by simpa using And.left ·)), hfind]
  dsimp only
  rw [if_neg (by simpa using ho)]
end

/-- The next packet of an ordered flow is decided and settled. -/
theorem receive_next (hd : p.seq ∉ (f.recvFlow p).decided) (ho : p.ord = true) (hs : p.seq = (f.recvFlow p).next)
    (he : ∀ q ∈ (f.recvFlow p).early, q.seq ≠ (f.recvFlow p).next + 1)
    {g : Fab} (hg : f.putFlow { f.recvFlow p with
      next := (f.recvFlow p).next + 1, early := (f.recvFlow p).early.filter (fun q => q.seq != p.seq) } = g)
    (hj : g.judge ctl p (g.behindParked p g.nextId) = (c, d, f₁)) : f.receive ctl p = f₁.settleDecision ctl p c d := by
  have hnone : (f.recvFlow p).early.find? (fun q => q.seq == (f.recvFlow p).next + 1) = none := by simpa using he
  have hhalf : p.seq - (f.recvFlow p).next ≠ 2 ^ 31 := by
    rw [hs, BitVec.sub_self]
    decide
  have hself : serialLt p.seq (f.recvFlow p).next = false := by rw [hs, serialLt_self]
  unfold Fab.receive
  dsimp only
  rw [if_neg hhalf, if_neg (by simp [hd, hself]), if_pos ho, if_pos hs, Fab.takeNext]
  dsimp only
  rw [hg, hj]
  dsimp only
  rw [hnone]

section
variable (hl : serialLt p.seq (f.recvFlow p).next = false) (hh : p.seq - (f.recvFlow p).next ≠ 2 ^ 31) (hd : p.seq ∉ (f.recvFlow p).decided)
include hl hh hd

/-- An early packet of an ordered flow waits, where there is room for it (R36). -/
theorem receive_early (ho : p.ord = true) (hs : p.seq ≠ (f.recvFlow p).next) (he : ∀ q ∈ (f.recvFlow p).early, q.seq ≠ p.seq)
    (hroom : f.reorderUsed (homeDie p.src p.sctx p.flow) < 4096) :
    f.receive ctl p = f.putFlow { f.recvFlow p with early := (f.recvFlow p).early ++ [p] } := by
  unfold Fab.receive
  dsimp only
  rw [if_neg hh, if_neg (by simp [hl, hd]), if_pos ho, if_neg hs, if_neg (by simpa using ⟨he, hroom⟩)]
/-- A new packet of an unordered flow is decided and settled, once its number has been noted. -/
theorem receive_unordered (ho : p.ord = false)
    (hj : (f.putFlow (RecvFlow.advance ((f.recvFlow p).decided.length + 1) { f.recvFlow p with decided := (f.recvFlow p).decided ++ [p.seq] })).judge
      ctl p false = (c, d, f₁)) : f.receive ctl p = f₁.settleDecision ctl p c d := by
  unfold Fab.receive
  dsimp only
  rw [if_neg hh, if_neg (by simp [hl, hd]), if_neg (by simp [ho]), hj]
end
end

/-- A handle without a live import entry is answered REVOKED. -/
theorem judge_revoked (h : f.importEntry ctl p.handle = none) (b : Bool) : f.judge ctl p b = (none, .neg 1, f) := by
  rw [Fab.judge, h]

/-! ## Packets as they arrive -/

theorem State.arrival_of_ok {port : Nat} (ha : s.fab.arrived[k]? = some (port, p)) {ok : Packet → Bool} (hok : ok p = true)
    (go : Fab → Packet → Fab) : s.arrival k ok go = .next { s with fab := go (s.fab.takeArrival k) p } := by
  rw [State.arrival, ha]
  exact if_pos hok

section
variable {port : Nat} (ha : s.fab.arrived[k]? = some (port, p)) (hm : s.ctl.mine p = true)
include ha hm

theorem exec_packetReceive (hq : isRequest p.op.toNat = true) :
    exec (.packetReceive k) s = .next { s with fab := (s.fab.takeArrival k).receive s.ctl p } :=
  State.arrival_of_ok ha (by simp [hm, hq]) _
theorem exec_packetAck (ho : p.op = 0x0A ∨ p.op = 0x04) : exec (.packetAck k) s = .next { s with
    fab := (s.fab.sent.filter (acknowledges p)).foldl (fun h y => h.answered s.ctl y none (if y.pk.seq = p.seq then p.data else []))
      (s.fab.takeArrival k) } := by
  show execPacketAck k s = _
  rw [execPacketAck, State.arrival_of_ok ha (by obtain h | h := ho <;> simp [hm, h])]
theorem exec_packetNak (ho : p.op = 0x0B) {y : SentPacket} (hy : s.fab.sent.find? (fun y => !y.waiting && y.pk.sctx == p.sctx &&
      y.pk.dst == p.src && y.pk.flow == p.flow && y.pk.seq == p.seq) = some y) :
    exec (.packetNak k) s = .next { s with fab := (s.fab.takeArrival k).answered s.ctl y (some (p.aux.toNat % 8)) [] } := by
  show execPacketNak k s = _
  rw [execPacketNak, State.arrival_of_ok ha (by simp [hm, ho]), hy]
theorem exec_offerReceive (ho : p.op = 0x09) :
    exec (.offerReceive k) s = .next { s with fab := (s.fab.takeArrival k).receiveOffer s.ctl p } :=
  State.arrival_of_ok ha (by simp [hm, ho]) _
end

/-! ## Acknowledgements (R33, R348) -/

theorem acknowledges_eq_ack (ho : p.op = 0x0A) : acknowledges p = fun y => !y.waiting && y.pk.sctx == p.sctx && y.pk.dst == p.src &&
    y.pk.flow == p.flow && y.pk.op != 3 && serialLe y.pk.seq p.seq && (p.aux == 0 || decide ((p.seq - y.pk.seq).toNat < p.aux.toNat)) := by
  funext y
  simp [acknowledges, ho, Bool.and_assoc]
theorem acknowledges_eq_reply (ho : p.op = 0x04) : acknowledges p = fun y => !y.waiting && y.pk.sctx == p.sctx && y.pk.dst == p.src &&
    y.pk.flow == p.flow && y.pk.op == 3 && y.pk.seq == p.seq := by
  funext y
  simp [acknowledges, ho, Bool.and_assoc]
/-- A packet that no group's operation has sent is taken off the sender's list, and that is all. -/
theorem answered_unowned {y : SentPacket} (h : y.owner = none) (neg : Option Nat) (data : List Byte) :
    f.answered ctl y neg data = f.unsend y := by
  rw [Fab.answered, h]

section
variable {port : Nat} (ha : s.fab.arrived[k]? = some (port, p)) (hm : s.ctl.mine p = true)
include ha hm

/-- An acknowledgement of packets that no group's operation has sent takes them off the sender's list. -/
theorem exec_packetAck_unowned (ho : p.op = 0x0A ∨ p.op = 0x04) (hown : ∀ y ∈ s.fab.sent, y.owner = none) : exec (.packetAck k) s =
    .next { s with fab := (s.fab.sent.filter (acknowledges p)).foldl (fun h y => h.unsend y) (s.fab.takeArrival k) } := by
  rw [exec_packetAck ha hm ho]
  exact congrArg (fun g => Host.Outcome.next { s with fab := g })
    (List.foldl_ext _ _ _ fun h y hy => answered_unowned (hown y (List.mem_of_mem_filter hy)) _ _)
/-- A reply answers its own read with its data. -/
theorem exec_packetAck_reply (ho : p.op = 0x04) : exec (.packetAck k) s = .next { s with
    fab := (s.fab.sent.filter (acknowledges p)).foldl (fun h y => h.answered s.ctl y none p.data) (s.fab.takeArrival k) } := by
  rw [exec_packetAck ha hm (.inr ho)]
  refine congrArg (fun g => Host.Outcome.next { s with fab := g }) (List.foldl_ext _ _ _ fun h y hy => ?_)
  obtain ⟨-, hacks⟩ := List.mem_filter.mp hy
  rw [acknowledges_eq_reply ho, Bool.and_eq_true, beq_iff_eq] at hacks
  rw [if_pos hacks.2]
end

/-! ## Timeouts (R33, R34) -/

section
variable {id : Nat} {y : SentPacket} (hy : s.fab.sent.find? (fun y => y.id == id) = some y)
include hy

theorem exec_packetResendTimeout_early (h : s.fab.time.toNat < y.lastAt + 20000) : exec (.packetResendTimeout id) s = .next s := by
  show execPacketResendTimeout id s = _
  rw [execPacketResendTimeout, hy]
  exact if_pos (.inr h)
theorem exec_packetResendTimeout_resends (hw : y.waiting = false) (h : y.lastAt + 20000 ≤ s.fab.time.toNat) :
    ∃ t, exec (.packetResendTimeout id) s = .next t ∧ t.fab.outbox = s.fab.outbox ++ [⟨y.port, none, y.pk⟩] ∧
    t.fab.sent = s.fab.sent.map (fun z => if z.id = id then { z with lastAt := s.fab.time.toNat } else z) := by
  have hexec : exec (.packetResendTimeout id) s = .next { s with
      fab := ({ s.fab with sent := s.fab.sent.map (fun z => if z.id == id then { z with lastAt := s.fab.time.toNat } else z) } : Fab).resend y } := by
    show execPacketResendTimeout id s = _
    rw [execPacketResendTimeout, hy]
    exact if_neg (by simp [hw, h])
  exact ⟨_, hexec, rfl, by simp [Fab.resend]⟩
theorem exec_packetUnreachableTimeout_early (h : s.fab.time.toNat < y.firstAt + 2000000) :
    exec (.packetUnreachableTimeout id) s = .next s := by
  show execPacketUnreachableTimeout id s = _
  rw [execPacketUnreachableTimeout, hy]
  exact if_pos (.inr h)
theorem exec_packetUnreachableTimeout_gives_up (hw : y.waiting = false) (h : y.firstAt + 2000000 ≤ s.fab.time.toNat) :
    exec (.packetUnreachableTimeout id) s = .next { s with fab := s.fab.answered s.ctl y (some 2) [] } := by
  show execPacketUnreachableTimeout id s = _
  rw [execPacketUnreachableTimeout, hy]
  exact if_neg (by simp [hw, h])
end

/-! ## Offers (R47) -/

theorem Ctx.offerReady_iff {c : Ctx} {i now : Nat} : c.offerReady i now = true ↔ c.ended = false ∧ c.offerDue.getD i false = true ∧
    ∀ t, c.offerAt.getD i none = some t → t + 1000 ≤ now := by
  unfold Ctx.offerReady
  cases c.offerAt.getD i none <;> simp [and_assoc]
theorem Ctx.not_offerReady_of_not_due {c : Ctx} {i now : Nat} (h : c.offerDue.getD i false = false ∨ c.ended = true) :
    c.offerReady i now = false := by
  refine Bool.eq_false_iff.mpr fun hr => ?_
  obtain ⟨hend, hdue, -⟩ := Ctx.offerReady_iff.mp hr
  rw [hend, hdue] at h
  exact absurd h (by decide)
theorem Ctx.not_offerReady_of_recent {c : Ctx} {i now t : Nat} (ht : c.offerAt.getD i none = some t) (hlt : now < t + 1000) :
    c.offerReady i now = false := by
  refine Bool.eq_false_iff.mpr fun hr => ?_
  obtain ⟨-, -, hat⟩ := Ctx.offerReady_iff.mp hr
  exact absurd (hat t ht) (by omega)

theorem ofNat_bitsOf_low (x n : Nat) : BitVec.ofNat (n + 1) (bitsOf x n 0) = BitVec.ofNat (n + 1) x :=
  BitVec.eq_of_toNat_eq (by simp [bitsOf])

section
variable {ctx i : Nat} {c : Ctx} (hc : s.fab.ctx? ctx = some c)
include hc

/-- An offer that is not due, or that comes within 1 µs of the last, is not sent. -/
theorem exec_offerSend_waits (h : c.offerReady i s.fab.time.toNat = false) : exec (.offerSend ctx i) s = .next s := by
  show Host.Outcome.next { s with fab := s.fab.sendOffer s.ctl ctx i } = _
  rw [Fab.sendOffer, hc]
  dsimp only
  rw [if_pos (by simp [h])]

variable {g₁ : Fab} (h : c.offerReady i s.fab.time.toNat = true)
include h

theorem exec_offerSend_unread (e : (s.fab.modCtx ctx (fun y => { y with
      offerDue := y.offerDue.set i false, offerAt := y.offerAt.set i (some s.fab.time.toNat) })).ctxRead s.ctl ctx
        (c.mcastT.toNat + 16 * ((c.incLink.getD i 0).toNat % 256)) 16 = (none, g₁)) :
    exec (.offerSend ctx i) s = .next { s with fab := counted g₁ 0x720 } := by
  show Host.Outcome.next { s with fab := s.fab.sendOffer s.ctl ctx i } = _
  rw [Fab.sendOffer, hc]
  dsimp only
  rw [if_neg (by simp [h]), ← Fab.count_eq_counted]
  unfold setAt
  rw [e]
theorem exec_offerSend_header {b : List Byte} (e : (s.fab.modCtx ctx (fun y => { y with
      offerDue := y.offerDue.set i false, offerAt := y.offerAt.set i (some s.fab.time.toNat) })).ctxRead s.ctl ctx
        (c.mcastT.toNat + 16 * ((c.incLink.getD i 0).toNat % 256)) 16 = (some b, g₁)) :
    exec (.offerSend ctx i) s = .next { s with
      fab := if fieldAt b 0 8 / 2 ^ 16 % 2 = 0 then g₁ else
        ((List.range (fieldAt b 0 8 % 2 ^ 13)).map (fun n => fieldAt b 8 8 + 8 * n)).foldl
          (Fab.offerTo s.ctl ctx ((c.incLink.getD i 0).toNat / 2 ^ 8 % 16) (c.incMod.getD i 0)) g₁ } := by
  have hcount : bitsOf (fieldAt b 0 8) 12 0 = fieldAt b 0 8 % 2 ^ 13 := by simp [bitsOf]
  have hlive : ((!bitAt (fieldAt b 0 8) 16) = true) = (fieldAt b 0 8 / 2 ^ 16 % 2 = 0) := by simp [bitAt]
  show Host.Outcome.next { s with fab := s.fab.sendOffer s.ctl ctx i } = _
  rw [Fab.sendOffer, hc]
  dsimp only
  rw [if_neg (by simp [h])]
  unfold setAt
  rw [e]
  dsimp only
  rw [hcount]
  simp only [hlive]
  rfl
end

theorem offerTo_unread {ctx slot va : Nat} {v : DWord} (e : f.ctxRead ctl ctx va 8 = (none, f₁)) :
    Fab.offerTo ctl ctx slot v f va = counted f₁ 0x720 := by
  rw [Fab.offerTo, e]
  exact f₁.count_eq_counted _
section
variable {ctx slot va : Nat} {v : DWord} {b : List Byte} (e : f.ctxRead ctl ctx va 8 = (some b, f₁))
include e

theorem offerTo_skipped (h : (leNat b / 2 ^ 32 % 4 == 1) = false ∨ ctl.reaches (BitVec.ofNat 12 (leNat b)) = false) :
    Fab.offerTo ctl ctx slot v f va = f₁ := by
  rw [Fab.offerTo, e]
  dsimp only
  rw [ofNat_bitsOf_low]
  exact if_pos (h.imp (by simp [bitsOf]) (by simp))
theorem offerTo_sends (hl : (leNat b / 2 ^ 32 % 4 == 1) = true) (hr : ctl.reaches (BitVec.ofNat 12 (leNat b)) = true) :
    ∃ q, Fab.offerTo ctl ctx slot v f va = { f₁ with outbox := f₁.outbox ++ [⟨none, none, q⟩] } ∧ q.op = 9 ∧
      q.dst = BitVec.ofNat 12 (leNat b) ∧ q.src = ctl.hdevid ∧ q.sctx = 0 ∧ q.handle = BitVec.ofNat 20 (leNat b / 2 ^ 12) ∧
      q.va = BitVec.ofNat 48 slot ∧ q.aux = v := by
  have hhandle : BitVec.ofNat 20 (bitsOf (leNat b) 31 12) = BitVec.ofNat 20 (leNat b / 2 ^ 12) :=
    BitVec.eq_of_toNat_eq (by simp [bitsOf])
  rw [Fab.offerTo, e]
  dsimp only
  rw [ofNat_bitsOf_low, hhandle, if_neg (by simpa [bitsOf, hr] using hl)]
  exact ⟨_, rfl, rfl, rfl, rfl, rfl, rfl, rfl, rfl⟩
end

theorem ctx?_modCtx_self {n : Nat} {c : Ctx} {h : Ctx → Ctx} (hc : f.ctx? n = some c) (hid : ∀ c, (h c).id = c.id) :
    (f.modCtx n h).ctx? n = some (h c) := by
  have hmap := ctx?_of_map (f := f) (g := f.modCtx n h) rfl (fun c => by split; exacts [hid c, rfl]) n
  have hn : (c.id == n) = true := List.find?_some (p := fun c : Ctx => c.id == n) hc
  rw [hmap, hc, Option.map_some, if_pos hn]
/-- A value offered at an incumbent lands where it improves, and leaves the other module values. -/
theorem offerModule_incMod {ctx : Nat} {c : Ctx} (hc : f.ctx? ctx = some c) (i : Nat) (v : DWord) :
    ∃ d, (f.offerModule ctx i v).ctx? ctx = some d ∧
      d.incMod = if c.improves i v (c.incMod.getD i 0) = true then c.incMod.set i v else c.incMod := by
  rw [Fab.offerModule, hc]
  dsimp only
  split
  · exact ⟨_, ctx?_modCtx_self hc fun _ => rfl, rfl⟩
  · exact ⟨c, hc, rfl⟩

section

theorem receiveOffer_unimported (h : f.importEntry ctl p.handle = none) : f.receiveOffer ctl p = counted f 0x720 := by
  rw [Fab.receiveOffer, h]
  exact f.count_eq_counted _
variable {ctx : Nat} {key : BitVec 12} (h : f.importEntry ctl p.handle = some (ctx, key))
include h

theorem receiveOffer_applied (hd : f.descheduled ctx = false) :
    f.receiveOffer ctl p = f.offerModule ctx (p.va.toNat % 16) p.aux := by
  rw [Fab.receiveOffer, h]
  exact if_neg (by simp [hd])
theorem receiveOffer_parked (hd : f.descheduled ctx = true) {ok : Bool} (e : f.park ctl ctx key p none = (ok, f₁)) :
    f.receiveOffer ctl p = if ok then f₁ else counted f₁ 0x720 := by
  rw [Fab.receiveOffer, h]
  dsimp only
  rw [if_pos hd, e]
  cases ok
  · exact f₁.count_eq_counted _
  · rfl
end

end Sys2Proof.Machine

namespace Sys2Proof.Safety
open Sys2Proof.Machine

/-- Settles O56, packet by packet. -/
theorem packetEvents : Obligations.PacketEvents := by
  unfold Obligations.PacketEvents
  intro k s port p ha hm f x put
  have hreceive (hq : isRequest p.op.toNat = true) {g : Fab} (hg : f.receive s.ctl p = g) : exec (.packetReceive k) s = .next (put g) :=
    hg ▸ exec_packetReceive ha hm hq
  have hoffer (ho : p.op = 0x09) {g : Fab} (hg : f.receiveOffer s.ctl p = g) : exec (.offerReceive k) s = .next (put g) :=
    hg ▸ exec_offerReceive ha hm ho
  refine ⟨fun hq => ⟨fun hh => hreceive hq (if_pos hh),
      fun hd => ⟨fun r hr => hreceive hq (receive_rejected hd hr), fun hr ho => hreceive hq (receive_duplicate hd hr ho)⟩,
      fun hl hh hd ho hs he hroom => hreceive hq (receive_early hl hh hd ho hs he hroom),
      fun hd ho hs he => ?_, fun hl hh hd ho hnodup n hin hout => ?_⟩,
    fun h b hi => ⟨judge_revoked hi b, rfl⟩, fun ho => ?_, fun ho => ?_, fun ho y hy => exec_packetNak ha hm ho hy,
    fun id y hy hw => ⟨exec_packetResendTimeout_early hy, exec_packetResendTimeout_resends hy hw, exec_packetUnreachableTimeout_early hy,
      exec_packetUnreachableTimeout_gives_up hy hw⟩,
    fun ctx i c hc _ => ?_, fun h ctx slot v va => ⟨fun h₁ => offerTo_unread, fun b h₁ e => ⟨offerTo_skipped e, offerTo_sends e⟩⟩,
    fun h ctx i c v hc _ => offerModule_incMod hc i v, fun ho => ⟨fun hi => hoffer ho (receiveOffer_unimported hi),
      fun ctx key hi hd => hoffer ho (receiveOffer_applied hi hd), fun ctx key hi hd ok h e => hoffer ho (receiveOffer_parked hi hd e)⟩⟩
  · intro f₁ c d f₂ hj
    exact hreceive hq (receive_next hd ho hs he rfl hj)
  · obtain ⟨hn, hlen⟩ := run_le_length hin hout
    obtain ⟨hnext, hearly, hrej, hmem⟩ := RecvFlow.advance_run (x := { x with decided := x.decided ++ [p.seq] })
      (by simpa using hlen) hn (List.concat_eq_append ▸ hnodup.concat hd) hin hout
    exact ⟨_, hnext, hearly, hrej, fun q => (hmem q).trans (by simp), fun c d f₂ hj => hreceive hq (receive_unordered hl hh hd ho hj)⟩
  · intro mine
    have hmine : acknowledges p = mine := acknowledges_eq_ack ho
    rw [← hmine]
    exact ⟨exec_packetAck ha hm (.inl ho), exec_packetAck_unowned ha hm (.inl ho)⟩
  · rw [← acknowledges_eq_reply ho]
    exact exec_packetAck_reply ha hm ho
  · refine ⟨fun h => exec_offerSend_waits hc (Ctx.not_offerReady_of_not_due h),
      fun t₀ ht hlt => exec_offerSend_waits hc (Ctx.not_offerReady_of_recent ht hlt), fun hdue hend hat => ?_⟩
    have hready := Ctx.offerReady_iff.mpr ⟨hend, hdue, hat⟩
    exact ⟨fun g₁ e => exec_offerSend_unread hc hready e, fun b g₁ e => exec_offerSend_header hc hready e⟩

end Sys2Proof.Safety
end

section
set_option Elab.async false

/-! # Writes of the service range, keys and DMA (O53) -/

namespace Sys2Proof.Machine
open Sys2Proof.Safety

variable {s : State} {w : RegWrite} {j : Instr} {e : RegEvent} {reg : Nat}

/-! ## A write as the event that it is (R380) -/

theorem State.hits_iff : s.hits w reg = true ↔ writeOk w = true ∧ writeReg w = reg ∧ s.ctl.runs = true := by
  simp [State.hits, and_assoc]
/-- A write of a register, of its low half or not, is performed as the event that it is. -/
theorem State.onWrite_of_hits (hh : s.hits w reg = true) (he : regEvent w = e) (act : State → State) :
    s.onWrite w e act = act (taken s w) := by
  obtain ⟨hok, -, hrun⟩ := State.hits_iff.mp hh
  unfold State.onWrite
  rw [if_neg (not_not.mpr he)]
  exact if_pos (State.hits_iff (s := s.takeWrite w).mpr ⟨hok, rfl, hrun⟩)
/-- The instructions that perform a write, each with the event that it takes the write for. -/
def writeEvents (w : RegWrite) : List (Instr × RegEvent) :=
  [(.registerWrite w, .plain), (.pwrcapWrite w, .cap), (.fuseadvWrite w, .fuseadv), (.keyLoad w, .keyLoad), (.keyRetire w, .keyRetire),
    (.keyQuery w, .keyQuery), (.uzbellWrite w, .bell), (.hpstatRetrain w, .retrain), (.hpstatDisable w, .disable), (.liveUpdate w, .update),
    (.repairRetire w, .repRetire), (.repairRestore w, .repRestore), (.repairRetrain w, .repRetrain)]
theorem exec_writeEvents (h : (j, e) ∈ writeEvents w) : ∃ act, exec j s = .next (s.onWrite w e act) := by
  have hall : ∀ x ∈ writeEvents w, ∃ act, exec x.1 s = .next (s.onWrite w x.2 act) := by
    simp only [writeEvents, List.forall_mem_cons]
    exact ⟨⟨_, rfl⟩, ⟨_, rfl⟩, ⟨_, rfl⟩, ⟨_, rfl⟩, ⟨_, rfl⟩, ⟨_, rfl⟩, ⟨_, rfl⟩, ⟨_, rfl⟩, ⟨_, rfl⟩, ⟨_, rfl⟩, ⟨_, rfl⟩, ⟨_, rfl⟩, ⟨_, rfl⟩,
      List.forall_mem_nil _⟩
  exact hall _ h
/-- An instruction leaves a write that is another event where it waits. -/
theorem exec_otherEvent (h : (j, e) ∈ writeEvents w) (he : regEvent w ≠ e) : exec j s = .next s := by
  obtain ⟨act, hact⟩ := exec_writeEvents (s := s) h
  exact hact.trans (congrArg Host.Outcome.next (if_pos he))

/-! ## Which event a write is -/

theorem getLsbD_eq_decide (x : DWord) (i : Nat) : x.getLsbD i = decide (x.toNat / 2 ^ i % 2 = 1) := by
  rw [← BitVec.testBit_toNat, Nat.testBit_eq_decide_div_mod_eq]
/-- A write that sets bit 0 of a register writes its low half. -/
theorem writesLow_of_odd (hok : writeOk w = true) (hv : (writeData w).toNat % 2 = 1) : writesLow w = true := by
  by_contra hl
  simp only [writesLow, Bool.or_eq_true, beq_iff_eq, not_or] at hl
  obtain ⟨h8, hlow⟩ := hl
  have h4 : w.bytes = 4 ∧ w.addr.toNat % 4 = 0 := by
    simp only [writeOk, Bool.and_eq_true, Bool.or_eq_true, beq_iff_eq] at hok
    obtain ⟨hb, hal⟩ := hok
    have hb4 := hb.resolve_left h8
    exact ⟨hb4, hb4 ▸ hal⟩
  have hhigh : w.addr.toNat % 8 = 4 := by omega
  have hbit : (writeData w).getLsbD 0 = false := by simp [writeData, h4.1, hhigh]
  rw [getLsbD_eq_decide] at hbit
  simp [hv] at hbit
theorem regEvent_cap (hw : Writes s w 0xF00000302000) : regEvent w = .cap := by
  obtain ⟨hh, hl⟩ := hw
  obtain ⟨hok, hreg, -⟩ := State.hits_iff.mp hh
  simp [regEvent, hok, hl, hreg]
theorem regEvent_fuseadv (hw : Writes s w 0xF00000100100) : regEvent w = .fuseadv := by
  obtain ⟨hh, hl⟩ := hw
  obtain ⟨hok, hreg, -⟩ := State.hits_iff.mp hh
  simp [regEvent, hok, hl, hreg]
theorem regEvent_bell (hw : Writes s w 0xF00000300018) : regEvent w = .bell := by
  obtain ⟨hh, hl⟩ := hw
  obtain ⟨hok, hreg, -⟩ := State.hits_iff.mp hh
  simp [regEvent, hok, hl, hreg]
/-- The event that an OP of KEYCMD is (Table 3.3). -/
def keyEvent (op : Nat) : RegEvent := match op with | 1 => .keyLoad | 2 => .keyRetire | 3 => .keyQuery | _ => .plain
theorem regEvent_key (hw : Writes s w 0xF00000200040) : regEvent w = keyEvent ((writeData w).toNat / 2 ^ 24 % 4) := by
  obtain ⟨hh, hl⟩ := hw
  obtain ⟨hok, hreg, -⟩ := State.hits_iff.mp hh
  simp only [regEvent, hok, hl, hreg, bitsOf]
  rfl
theorem regEvent_hpstat {p : Nat} (hw : Writes s w (0xF00000401000 + 16 * p)) (hp : p < 18) :
    regEvent w = if (writeData w).toNat / 4 % 2 = 1 then .retrain else .disable := by
  obtain ⟨hh, hl⟩ := hw
  obtain ⟨hok, hreg, -⟩ := State.hits_iff.mp hh
  have hport : isHpstat (0xF00000401000 + 16 * p) = true := by simp [isHpstat]; omega
  simp only [regEvent, hok, hl, hreg, hport, bitAt, beq_iff_eq]
  grind
theorem regEvent_uzimg (hh : s.hits w 0xF00000300000 = true) : regEvent w = .plain := by
  obtain ⟨-, hreg, -⟩ := State.hits_iff.mp hh
  simp [regEvent, hreg, isHpstat]
theorem regEvent_uzqroot (hh : s.hits w 0xF00000300010 = true) : regEvent w = .plain := by
  obtain ⟨-, hreg, -⟩ := State.hits_iff.mp hh
  simp [regEvent, hreg, isHpstat]

/-! ## Registers whose write only stores (R24, R53, R62, R71) -/

theorem clampCap_eq (n : Nat) : clampCap n = max 800 (min 2600 n) := by
  unfold clampCap
  grind
theorem exec_pwrcapWrite (hw : Writes s w 0xF00000302000) : exec (.pwrcapWrite w) s = .next (if privileged w.by_ then
    { taken s w with ctl := { s.ctl with cap := max 800 (min 2600 ((writeData w).toNat % 4096)) } } else taken s w) := by
  rw [← clampCap_eq]
  exact congrArg Host.Outcome.next (State.onWrite_of_writes hw (regEvent_cap hw) _)
theorem exec_fuseadvWrite (hh : s.hits w 0xF00000100100 = true) (hv : (writeData w).toNat % 2 = 1) : exec (.fuseadvWrite w) s =
    .next (if w.by_ = .machine then { taken s w with ctl := { s.ctl with fuseAdv := true } } else taken s w) := by
  have hw : Writes s w 0xF00000100100 := ⟨hh, writesLow_of_odd (State.hits_iff.mp hh).1 hv⟩
  have hbit : (writeData w).getLsbD 0 = true := by simp [getLsbD_eq_decide, hv]
  refine congrArg Host.Outcome.next ((State.onWrite_of_writes hw (regEvent_fuseadv hw) _).trans ?_)
  simp only [hbit, and_true]
  rfl

/-- The interrupt files lie above every other register that is written here. -/
theorem imsicMessage_eq_none (h : writeReg w < 0xF00001000000) : imsicMessage w = none := by
  refine if_neg fun hm => ?_
  unfold writeReg at h
  omega
/-- A write without an event of its own to a register that is no interrupt file changes the control part alone. -/
theorem exec_registerWrite (hh : s.hits w reg = true) (he : regEvent w = .plain) (hreg : reg < 0xF00001000000) :
    exec (.registerWrite w) s = .next { taken s w with ctl := s.ctl.plainWrite w } := by
  obtain ⟨-, rfl, -⟩ := State.hits_iff.mp hh
  refine congrArg Host.Outcome.next ((State.onWrite_of_hits hh he _).trans ?_)
  rw [State.plain, imsicMessage_eq_none hreg]
  rfl
/-- A write of eight bytes reaches every read-write bit of its register. -/
theorem writeInto_of_eight (h : w.bytes = 8) (old rw : DWord) : writeInto w old rw = (old &&& ~~~rw) ||| (w.data &&& rw) := by
  have hm : writeMask w = BitVec.allOnes 64 := if_pos h
  have hd : writeData w = w.data := by rw [writeData, hm, BitVec.and_allOnes, if_neg (by simp [h])]
  rw [writeInto, hm, hd, BitVec.allOnes_and]
theorem plainWrite_uzimg (c : Ctl) (h : writeReg w = 0xF00000300000) :
    c.plainWrite w = { c with uzimg := writeInto w c.uzimg (BitVec.allOnes 64) } := by
  simp [Ctl.plainWrite, h]
theorem plainWrite_uzqroot (c : Ctl) (h : writeReg w = 0xF00000300010) :
    c.plainWrite w = if c.belled then c else { c with uzqroot := writeInto w c.uzqroot 0xFFFFFFFFF000#64 } := by
  simp [Ctl.plainWrite, h]
theorem exec_registerWrite_uzimg (hh : s.hits w 0xF00000300000 = true) (h8 : w.bytes = 8) :
    exec (.registerWrite w) s = .next { taken s w with ctl := { s.ctl with uzimg := w.data } } := by
  rw [exec_registerWrite hh (regEvent_uzimg hh) (by decide), plainWrite_uzimg _ (State.hits_iff.mp hh).2.1, writeInto_of_eight h8,
    BitVec.not_allOnes, BitVec.and_zero, BitVec.and_allOnes, BitVec.zero_or]
theorem exec_registerWrite_uzqroot (hh : s.hits w 0xF00000300010 = true) : exec (.registerWrite w) s = .next { taken s w with
    ctl := if s.ctl.belled then s.ctl else { s.ctl with uzqroot := writeInto w s.ctl.uzqroot 0xFFFFFFFFF000#64 } } := by
  rw [exec_registerWrite hh (regEvent_uzqroot hh) (by decide), plainWrite_uzqroot _ (State.hits_iff.mp hh).2.1]

/-! ## Messages to interrupt files (R49, log 42) -/

variable {f : Fab} {h n : Nat} {file : ImsicFile}

/-- An identity of an interrupt file is pending once, however often it is raised. -/
theorem Fab.count_msis_msiAt_self (h1 : 1 ≤ n) (h2 : n < 2048) : (f.msiAt h file n).msis.count (h, file, n) = 1 := by
  have hm : (f.msiAt h file n).msis = f.msis.filter (fun m => m != (h, file, n)) ++ [(h, file, n)] := if_pos ⟨h1, by omega⟩
  rw [hm, List.count_append, List.count_eq_zero.mpr (by simp)]
  simp
theorem Fab.count_msis_msiAt_other {m : Nat × ImsicFile × Nat} (hm : m ≠ (h, file, n)) : (f.msiAt h file n).msis.count m = f.msis.count m := by
  unfold Fab.msiAt
  dsimp only
  split
  · have hlast : [(h, file, n)].count m = 0 := List.count_eq_zero.mpr (by simpa using hm)
    rw [List.count_append, List.count_filter (by simpa using hm), hlast, Nat.add_zero]
  · rfl
theorem imsicMessage_hart_lt (e : imsicMessage w = some (h, file, n)) : h < 16 := by
  unfold imsicMessage at e
  dsimp only at e
  split at e
  · simp only [Option.some.injEq, Prod.mk.injEq] at e
    obtain ⟨rfl, -⟩ := e
    exact Fin.isLt _
  · exact nomatch e
theorem exec_registerWrite_imsic (e : imsicMessage w = some (h, file, n)) (hh : s.hits w (writeReg w) = true) (he : regEvent w = .plain) :
    exec (.registerWrite w) s = .next { taken s w with fab := (taken s w).fab.msiAt h file n } := by
  refine congrArg Host.Outcome.next ((State.onWrite_of_hits hh he _).trans ?_)
  rw [State.plain, e]

/-! ## Keys (R56-R58) -/

section
variable {c : Ctl} {k : BitVec 12} {st : KeyState} {m : BitVec 512}

/-- A control part in which a key ID has taken a state and a key. -/
abbrev Ctl.withKey (c : Ctl) (k : BitVec 12) (st : KeyState) (m : BitVec 512) : Ctl :=
  { c with keys := Table.set c.keys k.toNat (st, m) }
theorem Ctl.keyState_withKey : (c.withKey k st m).keyState k = st := by
  rw [Ctl.keyState, Table.getD_set_self]
theorem Ctl.keyMat_withKey (h : st ≠ .empty) : (c.withKey k st m).keyMat k = m := by
  rw [Ctl.keyMat, Table.get?_set_self]
  cases st
  · exact absurd rfl h
  · rfl
  · rfl
theorem Ctl.kstateOf_eq : c.kstateOf k = if c.keyState k = .empty then 0 else if c.keyState k = .loaded then 1 else 2 := by
  unfold Ctl.kstateOf
  cases c.keyState k <;> rfl

/-- LOAD leaves KEYDATA clear, and loads it under an EMPTY key ID alone. -/
theorem Ctl.keyLoad_ends : (c.keyLoad k).keyData = 0 ∧ (c.keyLoad k).kid = k ∧
    (k = 0 → (c.keyLoad k).kresult = 3 ∧ (c.keyLoad k).keys = c.keys) ∧
    (k ≠ 0 → c.keyState k = .empty → (c.keyLoad k).kresult = 0 ∧ (c.keyLoad k).keyState k = .loaded ∧ (c.keyLoad k).keyMat k = c.keyData) ∧
    (k ≠ 0 → c.keyState k ≠ .empty → (c.keyLoad k).kresult = 1 ∧ (c.keyLoad k).keys = c.keys) := by
  refine ⟨rfl, rfl, fun h0 => ?_, fun (h0 : ¬k = 0#12) he => ?_, fun (h0 : ¬k = 0#12) he => ?_⟩
  · simp [Ctl.keyLoad, h0]
  · have hk : (c.keyLoad k).kresult = 0 ∧ (c.keyLoad k).keys = (c.withKey k .loaded c.keyData).keys := by simp [Ctl.keyLoad, h0, he]
    refine ⟨hk.1, ?_, ?_⟩
    · rw [Ctl.keyState, hk.2]
      exact keyState_withKey
    · rw [Ctl.keyMat, hk.2]
      exact keyMat_withKey (by decide)
  · simp [Ctl.keyLoad, h0, he]
/-- RETIRE refuses accesses under a LOADED key ID from now on, and keeps its key for those that are on their way. -/
theorem Ctl.keyRetire_ends : (c.keyRetire k).kid = k ∧
    (k ≠ 0 → c.keyState k = .loaded → (c.keyRetire k).kresult = 0 ∧ (c.keyRetire k).kbusy = true ∧ (c.keyRetire k).keyRefused k = true ∧
      (c.keyRetire k).keyMat k = c.keyMat k) ∧
    (k ≠ 0 → c.keyState k ≠ .loaded → (c.keyRetire k).kresult = 2 ∧ (c.keyRetire k).keys = c.keys) := by
  refine ⟨rfl, fun (h0 : ¬k = 0#12) hl => ?_, fun (h0 : ¬k = 0#12) hl => ?_⟩
  · have hk : (c.keyRetire k).kresult = 0 ∧ (c.keyRetire k).kbusy = true ∧
        (c.keyRetire k).keys = (c.withKey k .retiring (c.keyMat k)).keys := by simp [Ctl.keyRetire, h0, hl]
    obtain ⟨hres, hbusy, hkeys⟩ := hk
    refine ⟨hres, hbusy, ?_, ?_⟩
    · rw [Ctl.keyRefused, Ctl.keyState, hkeys]
      exact beq_iff_eq.mpr keyState_withKey
    · rw [Ctl.keyMat, hkeys]
      exact keyMat_withKey (by decide)
  · simp [Ctl.keyRetire, h0, hl]
end

/-- A command of an idle key controller is performed (R58). -/
theorem State.onWrite_key (hw : Writes s w 0xF00000200040) (hb : s.ctl.kbusy = false)
    (he : keyEvent ((writeData w).toNat / 2 ^ 24 % 4) = e) (act : State → State) :
    s.onWrite w e (fun s => if s.ctl.kbusy then s else act s) = act (taken s w) :=
  (State.onWrite_of_writes hw ((regEvent_key hw).trans he) _).trans (if_neg (by simp [taken, hb]))
section
variable (hw : Writes s w 0xF00000200040) (hb : s.ctl.kbusy = false)
include hw hb

theorem exec_keyLoad (hop : (writeData w).toNat / 2 ^ 24 % 4 = 1) :
    exec (.keyLoad w) s = .next { taken s w with ctl := s.ctl.keyLoad (keyId w) } :=
  congrArg Host.Outcome.next (State.onWrite_key hw hb (congrArg keyEvent hop) _)
theorem exec_keyRetire (hop : (writeData w).toNat / 2 ^ 24 % 4 = 2) :
    exec (.keyRetire w) s = .next { taken s w with ctl := s.ctl.keyRetire (keyId w) } :=
  congrArg Host.Outcome.next (State.onWrite_key hw hb (congrArg keyEvent hop) _)
theorem exec_keyQuery (hop : (writeData w).toNat / 2 ^ 24 % 4 = 3) : exec (.keyQuery w) s =
    .next { taken s w with ctl := { s.ctl with kid := keyId w, kresult := 0, kstate := s.ctl.kstateOf (keyId w) } } :=
  congrArg Host.Outcome.next (State.onWrite_key hw hb (congrArg keyEvent hop) _)
end

/-! ### The end of a retirement: no line of L2 keeps the key ID -/

/-- A write of a byte changes memory and its keys alone. -/
theorem Fab.memPut_eq (f : Fab) (km : BitVec 512) (pa : Nat) (b : Byte) :
    ∃ m ks, f.memPut km pa b = { f with mem := m, memKeys := ks } := by
  unfold Fab.memPut
  dsimp only
  split
  · split <;> exact ⟨_, _, rfl⟩
  · exact ⟨_, _, rfl⟩
/-- Evicting a line takes it, and no other, out of its slice; of the rest it changes memory, its keys and the waiters alone. -/
theorem Fab.l2Evict_eq (ctl : Ctl) (f : Fab) (line : Nat) : ∃ m ks ws, f.l2Evict ctl line =
    { f with mem := m, memKeys := ks, waiters := ws, l2 := f.l2.filter (fun x => x.line != line) } := by
  unfold Fab.l2Evict
  split
  · next hn =>
    have hall : f.l2.filter (fun x => x.line != line) = f.l2 :=
      List.filter_eq_self.mpr fun x hx => by simpa using List.find?_eq_none.mp hn x hx
    exact ⟨_, _, _, by rw [hall]⟩
  · next l _ =>
    obtain ⟨m, ks, e⟩ : ∃ m ks, (List.range 256).foldl (fun f i => if l.mask.getLsbD i then
        f.memPut (ctl.keyMat l.key) (line * 256 + i) (l.bytes.read i) else f) f = { f with mem := m, memKeys := ks } := by
      refine foldl_keeps (P := fun g : Fab => ∃ m ks, g = { f with mem := m, memKeys := ks }) _ ⟨_, _, rfl⟩ fun g i hg => ?_
      split
      · obtain ⟨m, ks, rfl⟩ := hg
        exact Fab.memPut_eq ..
      · exact hg
    dsimp only
    rw [e]
    exact ⟨_, _, _, rfl⟩
theorem Fab.l2Evict_l2 (ctl : Ctl) (f : Fab) (line : Nat) : (f.l2Evict ctl line).l2 = f.l2.filter (fun x => x.line != line) := by
  obtain ⟨m, ks, ws, e⟩ := f.l2Evict_eq ctl line
  rw [e]
theorem Fab.mem_l2_foldl_l2Evict (ctl : Ctl) (ls : List L2Line) (f : Fab) (x : L2Line) :
    x ∈ (ls.foldl (fun f l => f.l2Evict ctl l.line) f).l2 ↔ x ∈ f.l2 ∧ ∀ l ∈ ls, x.line ≠ l.line := by
  induction ls generalizing f with
  | nil => simp
  | cons l ls ih =>
    rw [List.foldl_cons, ih, Fab.l2Evict_l2, List.mem_filter, List.forall_mem_cons, and_assoc, bne_iff_ne]
/-- A key ID that is flushed tags no line of L2 afterwards, those among them that an L1 has just written back. -/
theorem Fab.flushKey_l2 (f : Fab) (ctl : Ctl) (k : BitVec 12) : ∀ l ∈ (f.flushKey ctl k).l2, l.key ≠ k := by
  intro l hl hk
  obtain ⟨hmem, hline⟩ := (Fab.mem_l2_foldl_l2Evict ..).mp hl
  exact hline l (List.mem_filter.mpr ⟨hmem, beq_iff_eq.mpr hk⟩) rfl
theorem exec_keyRetireDone_waits (h : s.fab.keyInUse s.ctl.kid = true) : exec .keyRetireDone s = .next s :=
  congrArg Host.Outcome.next (if_neg (by simp [h]))
theorem exec_keyRetireDone (hb : s.ctl.kbusy = true) (h : s.fab.keyInUse s.ctl.kid = false) : ∃ t, exec .keyRetireDone s = .next t ∧
    t.ctl.kbusy = false ∧ t.ctl.kstate = 0 ∧ t.ctl.keyState s.ctl.kid = .empty ∧ ∀ l ∈ t.fab.l2, l.key ≠ s.ctl.kid :=
  ⟨_, congrArg Host.Outcome.next (if_pos (by simp [hb, h])), rfl, rfl, Ctl.keyState_withKey, s.fab.flushKey_l2 s.ctl s.ctl.kid⟩

end Sys2Proof.Machine
end

section
set_option Elab.async false

namespace Sys2Proof.Machine
open Sys2Proof.Safety

variable {s : State} {w : RegWrite}

/-! ## Doorbells (R71, R72) -/

section
variable {ctl : Ctl} {f : Fab}

theorem Fab.memPutBytes_queues (f : Fab) (km : BitVec 512) (pa : Nat) (bs : List Byte) : (f.memPutBytes km pa bs).queues = f.queues := by
  induction bs generalizing f pa with
  | nil => rfl
  | cons b bs ih =>
    obtain ⟨m, ks, e⟩ := f.memPut_eq km pa b
    rw [Fab.memPutBytes, ih, e]
theorem Fab.l2Evict_queues (ctl : Ctl) (f : Fab) (line : Nat) : (f.l2Evict ctl line).queues = f.queues := by
  obtain ⟨m, ks, ws, e⟩ := f.l2Evict_eq ctl line
  rw [e]
theorem Fab.shootdown_queues (f : Fab) (line : Nat) : (f.shootdown line).queues = f.queues := by
  unfold Fab.shootdown
  split <;> rfl
theorem Fab.written_queues (f : Fab) (ctl : Ctl) (core : Option Nat) (pa n : Nat) : (f.written ctl core pa n).queues = f.queues :=
  foldl_keeps (P := fun g : Fab => g.queues = f.queues) (parts pa n) rfl fun g _ hg => (g.shootdown_queues _).trans hg
theorem Fab.agentRead_queues (f : Fab) (ctl : Ctl) (key : BitVec 12) (pa n : Nat) : (f.agentRead ctl key pa n).2.queues = f.queues :=
  foldl_keeps (P := fun g : Fab => g.queues = f.queues) (parts pa n) rfl fun g _ hg => (g.l2Evict_queues ctl _).trans hg
theorem Fab.agentWrite_queues (f : Fab) (ctl : Ctl) (key : BitVec 12) (pa : Nat) (bs : List Byte) :
    (f.agentWrite ctl key pa bs).queues = f.queues :=
  (Fab.written_queues ..).trans ((Fab.memPutBytes_queues ..).trans (f.agentRead_queues ctl key pa bs.length))
theorem Fab.paWrite_queues (f : Fab) (ctl : Ctl) (key : BitVec 12) (who : Writer) (pa : Nat) (bs : List Byte) :
    (f.paWrite ctl key who pa bs).2.queues = f.queues := by
  unfold Fab.paWrite
  split
  · exact f.agentWrite_queues ..
  · split <;> rfl
theorem Fab.irqRetire_queues (f : Fab) (c s : Nat) : (f.irqRetire c s).queues = f.queues := f.modGroup_queues ..

/-- Uzoman has read the descriptor of a queue. -/
def QueueKnown (q : Nat) (f : Fab) : Prop := (Table.get? f.queues q).isSome = true

variable {q r : Nat}

theorem QueueKnown.congr {g : Fab} (h : QueueKnown q f) (e : g.queues = f.queues) : QueueKnown q g := by rwa [QueueKnown, e]
theorem QueueKnown.of_set {g : Fab} {x : UzQueue} (e : g.queues = Table.set f.queues q x) : QueueKnown q g := by
  rw [QueueKnown, e, Table.get?_set_self]
  rfl
/-- A queue whose entry is set is known, and those known before still are. -/
theorem QueueKnown.set {g : Fab} {x : UzQueue} (h : QueueKnown q f) (e : g.queues = Table.set f.queues r x) : QueueKnown q g := by
  by_cases hr : q = r
  · subst hr
    exact .of_set e
  · rwa [QueueKnown, e, Table.get?_set_other _ _ _ _ hr]
theorem QueueKnown.writeEvent {x : UzQueue} {p : EventPost} (h : QueueKnown q f) : QueueKnown q (f.writeEvent ctl x p) := by
  unfold Fab.writeEvent
  extract_lets n at_ f₁ f₂ f₃
  have h₂ : QueueKnown q f₂ := h.congr ((f₁.paWrite_queues ..).trans (f.paWrite_queues ..))
  have h₃ : QueueKnown q f₃ := h₂.set rfl
  split
  · exact h₃
  · exact h₃.congr (Fab.irqRetire_queues ..)
theorem QueueKnown.flushQueue (h : QueueKnown q f) : QueueKnown q (f.flushQueue ctl r) := by
  refine foldl_keeps (P := QueueKnown q) _ h fun g p hg => ?_
  split
  · exact hg
  · split
    · exact hg.writeEvent
    · exact hg
theorem QueueKnown.flushQueues (h : QueueKnown q f) : QueueKnown q (f.flushQueues ctl) :=
  foldl_keeps (P := QueueKnown q) _ h fun _ _ hg => hg.flushQueue
/-- Reading a descriptor finds it known, or sets the entry of its queue. -/
theorem readDesc_cases (ctl : Ctl) (f : Fab) (r : Nat) : (QueueKnown r f ∧ f.readDesc ctl r = f) ∨
    ∃ x, (f.readDesc ctl r).queues = Table.set f.queues r x := by
  unfold Fab.readDesc
  by_cases hr : (Table.get? f.queues r).isSome = true
  · exact .inl ⟨hr, if_pos hr⟩
  · rw [if_neg hr]
    refine .inr ?_
    dsimp only
    split
    · exact ⟨_, rfl⟩
    · split <;> simp only [Fab.agentRead_queues] <;> exact ⟨_, rfl⟩
theorem known_readDesc (ctl : Ctl) (f : Fab) (q : Nat) : QueueKnown q (f.readDesc ctl q) := by
  obtain ⟨h, e⟩ | ⟨x, e⟩ := readDesc_cases ctl f q
  · rwa [e]
  · exact .of_set e
theorem QueueKnown.readDesc (h : QueueKnown q f) : QueueKnown q (f.readDesc ctl r) := by
  obtain ⟨-, e⟩ | ⟨x, e⟩ := readDesc_cases ctl f r
  · rwa [e]
  · exact h.set e
/-- After a doorbell Uzoman has read the descriptor of its queue. -/
theorem known_bell (ctl : Ctl) (f : Fab) (q : Nat) : QueueKnown q (f.bell ctl q) := by
  have hread : QueueKnown q (f.readQueue ctl q) := by
    unfold Fab.readQueue
    dsimp only
    split
    · split
      · exact (known_readDesc ctl f q).readDesc
      · exact known_readDesc ctl f q
    · exact known_readDesc ctl f q
  have hflush : QueueKnown q ((f.readQueue ctl q).flushQueues ctl) := hread.flushQueues
  unfold Fab.bell
  dsimp only
  split
  · split
    · exact .of_set rfl
    · exact hflush
  · exact hflush
end

theorem exec_uzbellWrite (hw : Writes s w 0xF00000300018) : exec (.uzbellWrite w) s = .next (if s.ctl.uzRuns then
    { taken s w with ctl := { s.ctl with belled := true },
                     fab := (taken s w).fab.bell { s.ctl with belled := true } ((writeData w).toNat % 64) }
    else { taken s w with ctl := { s.ctl with belled := true, bells := s.ctl.bells ++ [(writeData w).toNat % 64] } }) :=
  congrArg Host.Outcome.next (State.onWrite_of_writes hw (regEvent_bell hw) _)

/-! ## HPSTAT (R28) -/

section
variable {p : Nat} {x : Port} (hr : s.ctl.runs = true) (hp : s.ctl.ports[p]? = some x)
include hr hp

theorem disablePort_port (off : Bool) : ∃ y, (s.disablePort p off).ctl.ports[p]? = some y ∧ y.disable = off := by
  cases off with
  | true => exact disablePort_disable hr hp
  | false =>
    have he : s.disablePort p false = s.modPort p (fun x => { x with disable := false }) := by
      rw [State.disablePort, State.port?_eq hr hp]
      exact if_neg (by simp)
    exact ⟨_, by rw [he, State.modPort_ports_self, hp]; rfl, rfl⟩
/-- RETRAIN is set whatever the port's state, and a port that is not held down retrains. -/
theorem startRetrain_port : ∃ y, (s.startRetrain p true).ctl.ports[p]? = some y ∧ y.retrain = true ∧ (x.disable = false → y.state = 3) := by
  rw [State.startRetrain, State.port?_eq hr hp]
  dsimp only
  split
  · next hc =>
    refine ⟨_, by rw [State.modPort_ports_self, hp]; rfl, Bool.or_true _, fun hd => ?_⟩
    exact hc.resolve_right (by simp [hd])
  · exact ⟨_, by rw [State.modPort_ports_self, State.modPort_ports_self, hp]; rfl, Bool.or_true _, fun _ => rfl⟩
end

/-- What a write of HPSTAT makes of its port. -/
theorem hpstatWrite_of_writes {p : Nat} (hw : Writes s w (0xF00000401000 + 16 * p)) : (taken s w).hpstatWrite w =
    if (writeData w).getLsbD 2 then ((taken s w).disablePort p ((writeData w).getLsbD 1)).startRetrain p true
    else (taken s w).disablePort p ((writeData w).getLsbD 1) := by
  obtain ⟨-, hreg, -⟩ := State.hits_iff.mp hw.1
  have hport : (writeReg w - 0xF00000401000) / 16 = p := by omega
  rw [State.hpstatWrite, hport]
section
variable {p : Nat} {x : Port} (hw : Writes s w (0xF00000401000 + 16 * p)) (hx : s.ctl.ports[p]? = some x) (hp : p < 18)
include hw hx hp

theorem exec_hpstatDisable (hv : (writeData w).toNat / 4 % 2 = 0) : ∃ t y, exec (.hpstatDisable w) s = .next t ∧
    t.ctl.ports[p]? = some y ∧ y.disable = decide ((writeData w).toNat / 2 % 2 = 1) := by
  have he : regEvent w = .disable := by simp [regEvent_hpstat hw hp, hv]
  have hbit : (writeData w).getLsbD 2 = false := (getLsbD_eq_decide _ 2).trans (decide_eq_false (by omega))
  obtain ⟨y, hy, hd⟩ := disablePort_port (s := taken s w) (State.hits_iff.mp hw.1).2.2 hx ((writeData w).getLsbD 1)
  refine ⟨_, y, congrArg Host.Outcome.next ((State.onWrite_of_writes hw he _).trans ?_), hy, hd.trans (getLsbD_eq_decide _ 1)⟩
  rw [hpstatWrite_of_writes hw, hbit]
  rfl
theorem exec_hpstatRetrain (hv : (writeData w).toNat / 4 % 2 = 1) : ∃ t y, exec (.hpstatRetrain w) s = .next t ∧
    t.ctl.ports[p]? = some y ∧ y.retrain = true ∧ ((writeData w).toNat / 2 % 2 = 0 → y.state = 3) := by
  have he : regEvent w = .retrain := by simp [regEvent_hpstat hw hp, hv]
  have hbit : (writeData w).getLsbD 2 = true := (getLsbD_eq_decide _ 2).trans (decide_eq_true hv)
  obtain ⟨-, -, hr⟩ := State.hits_iff.mp hw.1
  obtain ⟨y, hy, hd⟩ := disablePort_port (s := taken s w) hr hx ((writeData w).getLsbD 1)
  have hr' : ((taken s w).disablePort p ((writeData w).getLsbD 1)).ctl.runs = true :=
    (congrArg Ctl.runs (State.portless_disablePort (taken s w) p ((writeData w).getLsbD 1))).trans hr
  obtain ⟨z, hz, hret, hst⟩ := startRetrain_port hr' hy
  refine ⟨_, z, congrArg Host.Outcome.next ((State.onWrite_of_writes hw he _).trans ?_), hz, hret, fun h0 => hst ?_⟩
  · rw [hpstatWrite_of_writes hw, hbit]
    rfl
  · exact hd.trans ((getLsbD_eq_decide _ 1).trans (decide_eq_false (by omega)))
end

/-! ## DMA (R60, R61) -/

section
variable {r : DmaReq} {k : BitVec 12} {f : Fab}

theorem exec_dmaRequest_halted (h : s.ctl.runs = false) : exec (.dmaRequest r) s = .next s :=
  congrArg Host.Outcome.next (if_pos (by simp [h]))
theorem exec_dmaRequest_unlisted (hr : Runs s) (h : s.ctl.pcktab.getLsbD 0 = false) : exec (.dmaRequest r) s = .next (s.dmaEnd r none) := by
  have hk : s.dmaKey r.rid = (none, s) := if_pos (.inl (by simp only [h]; rfl))
  show Host.Outcome.next (s.dma r) = _
  rw [State.dma, if_neg (by simp [runs_eq_true hr]), hk]

/-- The state in which the device-key table has been read, and the access has its number. -/
abbrev numbered (s : State) (f : Fab) : State := { s with fab := { f with nextId := f.nextId + 1 } }

variable (hr : Runs s) (hk : s.dmaKey r.rid = (some k, { s with fab := f }))
include hr hk

theorem exec_dmaRequest_peer {a b : BitVec 64} (ha : Config.iommuPeer f.nextId r.port r.rid r.addr r.write.isSome = some a)
    (hb : Config.iommuPeer f.nextId (1 - r.port) r.rid a r.write.isSome = some b) : exec (.dmaRequest r) s =
      .next { s with fab := { f with nextId := f.nextId + 1, peerOut := f.peerOut ++ [(1 - r.port, { r with addr := b })] } } := by
  show Host.Outcome.next (s.dma r) = _
  simp only [State.dma, runs_eq_true hr, hk, ha, hb, Bool.not_true, Bool.false_eq_true, if_false]

variable (hn : Config.iommuPeer f.nextId r.port r.rid r.addr r.write.isSome = none)
include hn

theorem exec_dmaRequest_refused (h : Config.iommu f.nextId r.port r.rid r.addr r.write.isSome = none) :
    exec (.dmaRequest r) s = .next ((numbered s f).dmaEnd r none) := by
  show Host.Outcome.next (s.dma r) = _
  simp only [State.dma, runs_eq_true hr, hk, hn, h, Bool.not_true, Bool.false_eq_true, if_false]
theorem exec_dmaRequest_at {pa : Addr} (h : Config.iommu f.nextId r.port r.rid r.addr r.write.isSome = some pa) :
    exec (.dmaRequest r) s = .next ((numbered s f).dmaAt r k pa.toNat) := by
  show Host.Outcome.next (s.dma r) = _
  simp only [State.dma, runs_eq_true hr, hk, hn, h, Bool.not_true, Bool.false_eq_true, if_false]
end

section
variable {r : DmaReq} {k : BitVec 12} {pa : Nat} {bs : List Byte}

/-- A write to memory is made under its key, unless the key is being retired. -/
theorem dmaAt_write (hw : r.write = some bs) (hm : memRange pa bs.length = true) : s.dmaAt r k pa =
    if s.ctl.keyRefused k then s.dmaEnd r none else ({ s with fab := s.fab.agentWrite s.ctl k pa bs } : State).dmaEnd r (some []) := by
  unfold State.dmaAt
  rw [hw]
  dsimp only
  rw [hm, Bool.true_and, Fab.paWrite, if_pos hm]
  rfl
theorem dmaAt_read {b : List Byte} {h : Fab} (hw : r.write = none) (hm : memRange pa r.len = true) (hk : s.ctl.keyRefused k = false)
    (e : s.fab.agentRead s.ctl k pa r.len = (b, h)) : s.dmaAt r k pa = ({ s with fab := h } : State).dmaEnd r (some b) := by
  unfold State.dmaAt
  rw [hw]
  dsimp only
  rw [hm, hk, Fab.paRead, if_pos hm, e]
  rfl
end

end Sys2Proof.Machine

namespace Sys2Proof.Safety
open Sys2Proof.Machine

/-- Settles O53, register by register. -/
theorem registerWrites : Obligations.RegisterWrites := by
  unfold Obligations.RegisterWrites
  intro s w u c v k key
  refine ⟨fun hw hp => ?_, fun hw hp => ?_, fun j e => exec_otherEvent, exec_registerWrite_uzimg, fun h file n e hh he => ?_,
    fun hh h8 hb => ?_, fun hh hb => ?_, exec_fuseadvWrite, fun ⟨hw, hb, hop⟩ => ?_, fun ⟨hw, hb, hop⟩ => ?_, fun ⟨hw, hb, hop⟩ => ?_,
    exec_keyRetireDone_waits, exec_keyRetireDone, fun hw hu => ?_, fun hw hu => ?_,
    fun p x hw hx hp => ⟨exec_hpstatDisable hw hx hp, exec_hpstatRetrain hw hx hp⟩,
    fun r => exec_dmaRequest_halted, fun r => exec_dmaRequest_unlisted, fun r k f hr hk => ?_⟩
  · rw [exec_pwrcapWrite hw, if_pos hp]
  · rw [exec_pwrcapWrite hw, if_neg (by simp [hp])]
  · exact ⟨imsicMessage_hart_lt e, _, exec_registerWrite_imsic e hh he, rfl, Fab.count_msis_msiAt_self,
      fun m => Fab.count_msis_msiAt_other⟩
  · rw [exec_registerWrite_uzqroot hh, if_neg (Bool.eq_false_iff.mp hb), writeInto_of_eight h8]
  · rw [exec_registerWrite_uzqroot hh, if_pos hb]
    rfl
  · exact ⟨_, exec_keyLoad hw hb hop, rfl, Ctl.keyLoad_ends⟩
  · exact ⟨_, exec_keyRetire hw hb hop, rfl, Ctl.keyRetire_ends⟩
  · rw [exec_keyQuery hw hb hop, Ctl.kstateOf_eq]
    rfl
  · rw [exec_uzbellWrite hw, if_neg (Bool.eq_false_iff.mp hu)]
  · rw [exec_uzbellWrite hw, if_pos hu]
    exact ⟨_, rfl, rfl, known_bell ..⟩
  · intro n g ends
    refine ⟨fun a b => exec_dmaRequest_peer hr hk, fun hn => ⟨exec_dmaRequest_refused hr hk hn, fun pa hpa => ⟨fun bs hw hm => ?_,
      fun hw hm hkey b h e => ?_⟩⟩⟩
    · rw [exec_dmaRequest_at hr hk hn hpa, dmaAt_write hw hm]
      rfl
    · rw [exec_dmaRequest_at hr hk hn hpa, dmaAt_read (s := numbered s f) hw hm hkey e]
      rfl

end Sys2Proof.Safety
end

section
set_option Elab.async false

/-! # System calls (O35)

`Obligations.SystemCallAndInterrupt` says that each active lane of a `syscall` stands parked in it afterwards. Posting the request of one lane
can end another: the request may be handed to a lane that waits in `tnext` on the syscall queue, which discards a record whose bound is dominated,
and the discard of a grid's last task ends every idle lane (R129, R130). The statement asks neither that no active lane is idle nor that
the context's ID has 12 bits, with which a request is never a bounded record; the state below has an active lane that is idle, in
context 2^20. -/

namespace Sys2Proof.Machine

/-- A lane parks in `syscall` with its request under a token (R94). -/
def Fab.parkCall (f : Fab) (i : Iss) (tok : Word) (l : Nat) : Fab :=
  ({ f with nextId := f.nextId + 1 } : Fab).modLane i.core i.slot l
    (fun y => { y with park := some (.syscall none (f.sysRequest i tok l)), parkNext := y.pc })

@[simp] theorem Fab.parkCall_nextId (f : Fab) (i : Iss) (tok : Word) (l : Nat) : (f.parkCall i tok l).nextId = f.nextId + 1 :=
  Fab.modGroup_nextId ..

/-- Moving past an instruction leaves source B and every context. -/
theorem Iss.srcB_advance (f : Fab) (i j : Iss) (hints : Bool × Nat) (x : XrForm) (n l : Nat) :
    i.srcB (f.advance j hints) x n l = i.srcB f x n l := by
  simp only [Iss.srcB, Fab.source_advance]
theorem Fab.ctx?_advance (f : Fab) (i : Iss) (hints : Bool × Nat) (n : Nat) : (f.advance i hints).ctx? n = f.ctx? n := by
  rw [Fab.advance_eq, Fab.ctx?, Fab.modGroup_ctxs, Fab.ctx?]

theorem Fab.lane?_msi (f : Fab) (h n c s l : Nat) : (f.msi h n).lane? c s l = f.lane? c s l := rfl

/-- `syscall` without a service number parks its lanes, each under the next token, posts what it can, and may raise the interrupt. -/
theorem bodySyscall_done {x : XrForm} {i : Iss} {ctl : Ctl} {f : Fab} {c : Ctx} (ha : i.active ≠ []) (hb : i.srcB f x 1 i.lowest = 0)
    (hc : f.ctx? i.ctx = some c) :
    let g := i.active.foldl (fun f l => f.parkCall i (Config.tokenBase + BitVec.ofNat 32 f.nextId) l) f
    let r := g.postRequests ctl i.core i.slot c.sysQ i.ctx i.active
    bodySyscall x i ctl f = .done (if r.1 then r.2.2.msi c.sysHart c.sysId else r.2.2) := by
  unfold bodySyscall Iss.withValue
  rw [if_neg (by simpa using ha), hb]
  dsimp only
  rw [if_pos (by decide), hc]
  rfl

/-- Merging the frontier parks and unparks no lane (R145). -/
theorem Fab.park_mergeHere (f : Fab) (i : Iss) (l : Nat) :
    ((f.mergeHere i).lane? i.core i.slot l).map (·.park) = (f.lane? i.core i.slot l).map (·.park) := by
  unfold Fab.mergeHere Fab.lane?
  rw [Fab.group?_modGroup_self]
  cases f.group? i.core i.slot with
  | none => rfl
  | some g =>
    obtain ⟨p, hp⟩ := g.merge_spec.2 l
    simp only [Option.map_some, Option.bind_some, hp, Option.map_map]
    rfl

end Sys2Proof.Machine

namespace Sys2Proof.Safety
open Sys2Proof.Machine

/-! ## A call that ends one of its lanes -/

/-- The syscall queue, of two entries, with its ring a page further on. -/
def endingQueue : List Byte := leBytes 8 0x15000 ++ leBytes 8 0x81 ++ leBytes 8 0 ++ leBytes 4 0 ++ leBytes 4 1
/-- Where its descriptor lies. -/
def endingDesc : Loc := .glob 0x14000 (BitVec.ofNat 48 (loadBase + 0x14000)) 0 0 0
/-- Lanes 0 and 1 stand at one instruction, the second of them idle; lane 2 waits in `tnext` for a record of the syscall queue. -/
def endingLanes : List Lane :=
  let x := Lane.launch loadVa [] none
  [x, { x with idle := true }, { x with park := some (.tnext 0 endingDesc) }]
/-- The context of the call, its ID beyond the 12 bits of a command record. -/
def endingCtx : Ctx := { loadCtx with id := 2 ^ 20, sysQ := 0x14000 }
/-- The three lanes are a group of a grid with one task left. Identifiers have been handed out up to the one whose token is 0. -/
def endingState : State := { State.reset with fab := { Fab.reset with
  mem := (loadTables []).writeBytes (loadBase + 0x14000) endingQueue
  cores := [(0, { Core.empty with team := some (Team.launch 1 (2 ^ 20) 0 0 0 [0] 0x100000 [Group.launch 0 true 1016 endingLanes]) })]
  ctxs := [endingCtx]
  grids := [{ loadGrid with ctx := 2 ^ 20, tasks := 1 }]
  waiters := [⟨loadBase + 0x14000, 0, 0, 2, some 0⟩]
  nextId := (-Config.tokenBase).toNat
  issuer := some (0, 0) } }
/-- `syscall` of lanes 0 and 1. -/
def endingIss : Iss := ⟨0, 0, 3, 1016, loadVa, 4, [0, 1], [0, 1], 1, 2 ^ 20, 0x10000, false⟩
/-- The lanes have parked with tokens 0 and 1. -/
def endingParked : Fab :=
  ((moved endingState (.si 0x0A ⟨0, 0, 0, none⟩) endingIss).parkCall endingIss 0 0).parkCall endingIss 1 1

theorem issues_ending : Issues endingState (.si 0x0A ⟨0, 0, 0, none⟩) noGate endingIss := by decide +kernel
theorem srcB_ending : endingIss.srcB endingState.fab (SiForm.toXr ⟨0, 0, 0, none⟩) 1 endingIss.lowest = 0 := by decide +kernel
theorem ctx?_ending : endingState.fab.ctx? endingIss.ctx = some endingCtx := by decide +kernel
/-- Once lane 0 has posted its request, lane 1 is parked no more. -/
theorem park_postRequests_ending :
    ((endingParked.postRequests endingState.ctl endingIss.core endingIss.slot endingCtx.sysQ endingIss.ctx endingIss.active).2.2.lane?
      endingIss.core endingIss.slot 1).map (·.park) = some none := by
  decide +kernel

theorem parkCalls_ending : endingIss.active.foldl (fun f l => f.parkCall endingIss (Config.tokenBase + BitVec.ofNat 32 f.nextId) l)
    (moved endingState (.si 0x0A ⟨0, 0, 0, none⟩) endingIss) = endingParked := by
  have h0 : Config.tokenBase + BitVec.ofNat 32 (-Config.tokenBase).toNat = 0 := by
    rw [BitVec.ofNat_toNat, BitVec.setWidth_eq, BitVec.add_right_neg]
    rfl
  have h1 : Config.tokenBase + BitVec.ofNat 32 ((-Config.tokenBase).toNat + 1) = 1 := by
    rw [BitVec.ofNat_add, ← BitVec.add_assoc, h0]
    rfl
  have hn : (moved endingState (.si 0x0A ⟨0, 0, 0, none⟩) endingIss).nextId = (-Config.tokenBase).toNat := Fab.modGroup_nextId ..
  rw [show endingIss.active = [0, 1] from rfl, List.foldl_cons, List.foldl_cons, List.foldl_nil, Fab.parkCall_nextId, hn, h0, h1]
  rfl

/-- The call ends with lane 1 parked no more. -/
theorem exec_ending : ∃ h, exec (.syscallSi ⟨0, 0, 0, none⟩) endingState = .next (retired endingState endingIss h) ∧
    (h.lane? endingIss.core endingIss.slot 1).map (·.park) = some none := by
  have hbody := bodySyscall_done (ctl := endingState.ctl) (f := moved endingState (.si 0x0A ⟨0, 0, 0, none⟩) endingIss) (by decide) ((Iss.srcB_advance ..).trans srcB_ending)
    ((Fab.ctx?_advance ..).trans ctx?_ending)
  have hrun := run_done issues_ending hbody
  refine ⟨_, hrun, ?_⟩
  rw [parkCalls_ending]
  split
  · rw [Fab.lane?_msi, park_postRequests_ending]
  · exact park_postRequests_ending

/-- Refutes O35: lane 1 of the call above is active, and ends as the request of lane 0 is posted. -/
theorem not_systemCallAndInterrupt : ¬ Obligations.SystemCallAndInterrupt := by
  unfold Obligations.SystemCallAndInterrupt
  rintro ⟨hcall, -⟩
  obtain ⟨h, he, hl⟩ := (hcall (.syscallSi ⟨0, 0, 0, none⟩) _ _ endingState endingIss endingCtx rfl rfl issues_ending (by decide)).2 srcB_ending ctx?_ending
    (by decide) (by decide) (by decide)
  obtain ⟨x, tok, b, hx, hp, -⟩ := hl 1 (by decide) (by decide)
  obtain ⟨g, hg, hend⟩ := exec_ending
  have hm : h.mergeHere endingIss = g.mergeHere endingIss :=
    congrArg State.fab (Host.Outcome.next.inj (he.symm.trans hg))
  have hpark := h.park_mergeHere endingIss 1
  rw [hm, g.park_mergeHere, hend, hx, Option.map_some, hp] at hpark
  cases hpark

end Sys2Proof.Safety
end

section
set_option Elab.async false

/-! # Stopping groups, registers, sleep, requests, incumbents (O59) -/

namespace Sys2Proof.Machine

/-! ## What the withdrawal of a waiter leaves of the lanes (R108, R328) -/

/-- What a stop does not change of a lane: its status, its checkpoint and whether it holds a task. -/
def Lane.kept (x : Lane) : LaneStatus × Checkpoint × Bool := (x.status, x.ck, x.task)
/-- The same of every lane of a core's team, group by group. -/
def Core.kept (k : Core) : Option (List (List (LaneStatus × Checkpoint × Bool))) :=
  k.team.map (fun t => t.groups.map (fun g => g.lanes.map Lane.kept))
/-- The lanes of a fabric stand as those of another, but for what a stop may change. -/
def SameLanes (f g : Fab) : Prop := ∀ c, (g.core c).kept = (f.core c).kept

section
variable {f₀ f : Fab} {ctl : Ctl} {core owner : Option Nat} {c ctx pa n line slice stamp : Nat} {key : BitVec 12} {home : BitVec 4}
  {bs : List Byte} {loc : Loc}

theorem SameLanes.refl : SameLanes f f := fun _ => rfl
theorem SameLanes.of_cores {g : Fab} (h : SameLanes f₀ f) (e : g.cores = f.cores) : SameLanes f₀ g :=
  fun c => (congrArg Core.kept (Fab.core_congr e c)).trans (h c)
theorem SameLanes.of_eq {α : Type} {p : α × Fab} {a : α} (e : p = (a, f)) (h : SameLanes f₀ p.2) : SameLanes f₀ f := by
  subst e
  exact h
theorem kept_getD_map {t : Table Core} {m : Nat × Core → Nat × Core} (hm : ∀ p, (m p).1 = p.1 ∧ (m p).2.kept = p.2.kept) :
    (Table.getD (t.map m) c Core.empty).kept = (Table.getD t c Core.empty).kept := by
  induction t with
  | nil => rfl
  | cons p t ih =>
    obtain ⟨hk, hc⟩ := hm p
    simp only [List.map_cons, Table.getD, Table.get?, hk]
    split
    · exact hc
    · exact ih

section
variable (h : SameLanes f₀ f)
include h

theorem SameLanes.mapCores {m : Nat × Core → Nat × Core} (hm : ∀ p, (m p).1 = p.1 ∧ (m p).2.kept = p.2.kept) :
    SameLanes f₀ { f with cores := f.cores.map m } := fun c => (kept_getD_map hm).trans (h c)
theorem SameLanes.mapLanes {m : Nat → Team → Group → Nat → Lane → Lane} (hm : ∀ c t g i x, (m c t g i x).kept = x.kept) :
    SameLanes f₀ (f.mapLanes m) := by
  refine h.mapCores fun p => ⟨rfl, ?_⟩
  obtain ⟨c, k⟩ := p
  cases ht : k.team with
  | none => simp [Core.kept, ht]
  | some t =>
    have hl (g : Group) : (g.lanes.mapIdx (fun i x => m c t g i x)).map Lane.kept = g.lanes.map Lane.kept :=
      List.ext_getElem (by simp) fun i _ _ => by simp [hm]
    simp [Core.kept, ht, hl]

theorem SameLanes.refreshMap : SameLanes f₀ (f.refreshMap ctl c ctx) := by
  unfold Fab.refreshMap
  split
  · exact h
  · intro d
    by_cases hd : d = c
    · rw [hd, Fab.core_setCore_self]
      exact h c
    · rw [Fab.core_setCore_other _ _ hd]
      exact h d
theorem SameLanes.crossRing {src dst flow : Nat} {ordered : Bool} : SameLanes f₀ (f.crossRing src dst ctx flow ordered) := by
  unfold Fab.crossRing
  split
  · exact h
  · exact h.of_cores rfl
theorem SameLanes.crossTo : SameLanes f₀ (f.crossTo c ctx pa slice) := h.crossRing.crossRing
theorem SameLanes.route : SameLanes f₀ (f.route ctl core ctx home pa).2 := by
  unfold Fab.route
  split
  · exact h
  · dsimp only
    split
    · exact (h.crossTo.of_cores rfl : SameLanes f₀ (Fab.count _ _)).refreshMap.crossTo
    · exact h.crossTo
theorem SameLanes.l2Evict : SameLanes f₀ (f.l2Evict ctl line) := h.of_cores (f.l2Evict_cores ctl line)
theorem SameLanes.l2Take : SameLanes f₀ (f.l2Take ctl slice key line stamp).2 := by
  unfold Fab.l2Take
  dsimp only
  split
  · exact h
  · split
    · exact h
    · split
      · exact h.of_cores rfl
      · exact h.l2Evict
theorem SameLanes.l2Open : SameLanes f₀ (f.l2Open ctl core ctx key home pa).2 := by
  unfold Fab.l2Open
  have hr : SameLanes f₀ { (f.route ctl core ctx home pa).2 with nextId := (f.route ctl core ctx home pa).2.nextId + 1 } :=
    h.route.of_cores rfl
  dsimp only
  split
  · split
    · exact hr
    · dsimp only
      split
      · exact hr.l2Evict.l2Take.of_cores rfl
      · exact hr.l2Evict.l2Take
  · exact hr.l2Take
theorem SameLanes.l2ReadLine : SameLanes f₀ (f.l2ReadLine ctl core ctx key home pa n).2 := by
  unfold Fab.l2ReadLine
  split
  · next e => exact .of_eq e h.l2Open
  · next e => exact (SameLanes.of_eq e h.l2Open).of_cores rfl
theorem SameLanes.l2WriteLine : SameLanes f₀ (f.l2WriteLine ctl core ctx key home pa bs) := by
  unfold Fab.l2WriteLine
  split
  · next e => exact (SameLanes.of_eq e h.l2Open).of_cores (Fab.memPutBytes_cores ..)
  · next e => exact (SameLanes.of_eq e h.l2Open).of_cores rfl
/-- A `swait` lane that a write releases stays parked. -/
theorem SameLanes.wakeWatchers : SameLanes f₀ (f.wakeWatchers ctl pa n) := by
  refine h.mapLanes fun _ _ _ _ x => ?_
  split
  · dsimp only
    split <;> rfl
  · rfl
theorem SameLanes.shootdown : SameLanes f₀ (f.shootdown line) := by
  unfold Fab.shootdown
  split
  · exact h.mapCores fun _ => ⟨rfl, rfl⟩
  · exact h
theorem SameLanes.written : SameLanes f₀ (f.written ctl core pa n) := by
  have hs := foldl_keeps (P := SameLanes f₀) (g := fun f p => f.shootdown (p.1 / 256)) (parts pa n) h fun _ _ hg => hg.shootdown
  refine (hs.mapCores fun p => ?_).wakeWatchers
  dsimp only
  split <;> exact ⟨rfl, rfl⟩
theorem SameLanes.l2Read : SameLanes f₀ (f.l2Read ctl core ctx key home pa n).2 :=
  foldl_keeps (P := fun r : List Byte × Fab => SameLanes f₀ r.2) _ h fun _ _ hr => hr.l2ReadLine
theorem SameLanes.l2Put : SameLanes f₀ (f.l2Put ctl core owner ctx key home pa bs) :=
  (foldl_keeps (P := fun r : Fab × Nat => SameLanes f₀ r.1) _ h fun _ _ hr => hr.l2WriteLine).written
theorem SameLanes.evictLines : SameLanes f₀ ((parts pa n).foldl (fun f p => f.l2Evict ctl (p.1 / 256)) f) :=
  foldl_keeps _ h fun _ _ hg => hg.l2Evict
theorem SameLanes.routeLines : SameLanes f₀ (f.routeLines ctl core ctx home pa n) := foldl_keeps _ h fun _ _ hg => hg.route
theorem SameLanes.pastRead : SameLanes f₀ (f.pastRead ctl core ctx key home pa n).2 := h.routeLines.evictLines
theorem SameLanes.pastWrite : SameLanes f₀ (f.pastWrite ctl core ctx key home pa bs) :=
  (h.routeLines.evictLines.of_cores (Fab.memPutBytes_cores ..)).written
theorem SameLanes.sliceRead : SameLanes f₀ (f.sliceRead ctl core ctx loc n).2 := by
  dsimp only [Fab.sliceRead]
  split
  · exact h.pastRead
  · exact h.l2Read
theorem SameLanes.sliceWrite : SameLanes f₀ (f.sliceWrite ctl core ctx loc bs) := by
  dsimp only [Fab.sliceWrite]
  split
  · exact h.pastWrite
  · exact h.l2Put
theorem SameLanes.queuePut {q : QDesc} : SameLanes f₀ (f.queuePut ctl core ctx loc q) :=
  (SameLanes.sliceWrite (loc := loc.plus 16) h).of_cores rfl
/-- A lane that withdraws from its queue changes no lane. -/
theorem SameLanes.waiterDrop {s l : Nat} : SameLanes f₀ (f.waiterDrop ctl ctx loc c s l) := by
  dsimp only [Fab.waiterDrop]
  have hg : SameLanes f₀ (({ f with waiters := f.waiters.filter (fun w => !w.is loc c s l) } : Fab).queueGet ctl (some c) ctx loc).2 :=
    SameLanes.sliceRead (h.of_cores rfl)
  split
  · split
    · next e => exact (SameLanes.of_eq e hg).queuePut
    · next e => exact .of_eq e hg
  · exact h

end

theorem SameLanes.group? {g : Fab} {s : Nat} {x : Group} (h : SameLanes f g) (hx : f.group? c s = some x) :
    ∃ y, g.group? c s = some y ∧ y.lanes.map Lane.kept = x.lanes.map Lane.kept := by
  have hc : (g.core c).kept.bind (fun t => t[s]?) = (f.core c).kept.bind (fun t => t[s]?) := by rw [h c]
  have view (k : Fab) : (k.core c).kept.bind (fun t => t[s]?) = (k.group? c s).map (fun g => g.lanes.map Lane.kept) := by
    unfold Fab.group? Core.kept
    cases (k.core c).team <;> simp
  rw [view, view, hx] at hc
  simpa using hc

end
end Sys2Proof.Machine
namespace Sys2Proof.Machine

/-! ## GROUP_STOP (R108) -/

section
variable {f : Fab} {ctl : Ctl} {c slot : Nat} {tm : Team} {g : Group}

theorem Lane.kept_stopped (x : Lane) (e : Nat) : (x.stopped e).kept = x.kept := by
  unfold Lane.stopped
  split <;> rfl
theorem Lane.stopped_live {x : Lane} (e : Nat) (h : x.status = .live) :
    (x.stopped e).pc = x.ck.head ∧ (x.stopped e).prio = x.ck.prio ∧ (x.stopped e).regs = x.ck.table ∧ (x.stopped e).park = none := by
  unfold Lane.stopped
  rw [if_neg (by simp [h])]
  exact ⟨rfl, rfl, rfl, rfl⟩

/-- What a group holds once a stop has discarded its registers and counters (R108 step 4), its live lanes at their region heads. -/
def Group.Discarded (g g' : Group) : Prop :=
  g'.hold = none ∧ g'.storeQ = [] ∧ g'.loads = [] ∧ g'.rem = [] ∧ g'.ringCount = 0 ∧
    ∀ (l : Nat) (x : Lane), g.lanes[l]? = some x → ∃ x' : Lane, g'.lanes[l]? = some x' ∧ x'.status = x.status ∧ x'.ck = x.ck ∧
      x'.task = x.task ∧ (x.status = .live → x'.pc = x.ck.head ∧ x'.prio = x.ck.prio ∧ x'.regs = x.ck.table ∧ x'.park = none)

/-- A lane that stands as `x` does, stopped. -/
theorem Lane.stopped_of_kept {x y : Lane} (h : y.kept = x.kept) (e : Nat) :
    (y.stopped e).status = x.status ∧ (y.stopped e).ck = x.ck ∧ (y.stopped e).task = x.task ∧
      (x.status = .live → (y.stopped e).pc = x.ck.head ∧ (y.stopped e).prio = x.ck.prio ∧ (y.stopped e).regs = x.ck.table ∧
        (y.stopped e).park = none) := by
  have hk : (y.stopped e).kept = x.kept := (y.kept_stopped e).trans h
  simp only [Lane.kept, Prod.mk.injEq] at h hk
  obtain ⟨hs, hck, -⟩ := h
  obtain ⟨hs', hck', ht'⟩ := hk
  refine ⟨hs', hck', ht', fun hx => ?_⟩
  rw [← hck]
  exact y.stopped_live e (hs.trans hx)

/-- A group whose lanes are those of another, stopped, discards that group. -/
theorem Group.Discarded.of_lanes {ls : List Lane} {g' : Group} {e : Nat} (hk : ls.map Lane.kept = g.lanes.map Lane.kept)
    (hl : g'.lanes = ls.map (·.stopped e)) (hh : g'.hold = none) (hq : g'.storeQ = []) (hd : g'.loads = []) (hr : g'.rem = [])
    (hn : g'.ringCount = 0) : g.Discarded g' := by
  refine ⟨hh, hq, hd, hr, hn, fun l x hx => ?_⟩
  have hkl : (ls.map Lane.kept)[l]? = (g.lanes.map Lane.kept)[l]? := congrArg (·[l]?) hk
  rw [List.getElem?_map, List.getElem?_map, hx, Option.map_some, Option.map_eq_some_iff] at hkl
  obtain ⟨y, hy, hyx⟩ := hkl
  refine ⟨y.stopped e, ?_, Lane.stopped_of_kept hyx e⟩
  rw [hl, List.getElem?_map, hy, Option.map_some]

theorem Fab.group?_setCore (f : Fab) (c slot : Nat) (k : Core) :
    (f.setCore c k).group? c slot = k.team.bind (fun t => t.groups[slot]?) := by
  rw [Fab.group?, Fab.core_setCore_self]
/-- Discarding a group: the withdrawals of its lanes change no lane, and each of them then stands stopped. -/
theorem Fab.discardGroup_group? (ht : (f.core c).team = some tm) (hg : f.group? c slot = some g) :
    ∃ g', (f.discardGroup ctl c slot).group? c slot = some g' ∧ g.Discarded g' := by
  unfold Fab.discardGroup
  rw [ht, hg]
  dsimp only
  generalize hf : g.numbered.foldl _ f = f1
  have h1 : SameLanes f f1 := by
    rw [← hf]
    refine foldl_keeps (P := SameLanes f) _ .refl fun h p hh => ?_
    split
    · exact hh.waiterDrop
    · exact hh.waiterDrop
    · exact hh
  obtain ⟨y, hy, hyg⟩ := h1.group? hg
  rw [Fab.group?_modGroup_self]
  have hset (k : Core) (hk : k.team = (f1.core c).team) : (f1.setCore c k).group? c slot = some y := by
    rw [Fab.group?_setCore, hk]
    exact hy
  refine ⟨_, congrArg (Option.map _) (hset _ ?_), ?_⟩
  · rfl
  · exact .of_lanes hyg rfl rfl rfl rfl rfl rfl

theorem Fab.team_modGroup (f : Fab) (c s : Nat) (h : Group → Group) :
    ((f.modGroup c s h).core c).team = (f.core c).team.map (fun t => { t with groups := modAt t.groups s h }) := by
  rw [Fab.core_modGroup_self]

theorem exec_groupStop (c slot : Nat) (s : State) :
    exec (.groupStop c slot) s = .next { s with fab := s.fab.groupStop s.ctl c slot } := rfl

section
variable (ht : (f.core c).team = some tm) (hg : f.group? c slot = some g)
include ht hg

theorem Fab.groupStop_over (h : g.stopped = true ∨ g.ended = true) : f.groupStop ctl c slot = f.saveHitch c := by
  unfold Fab.groupStop
  rw [ht, hg]
  exact if_pos (by simpa using h)
variable (hs : g.stopped = false) (he : g.ended = false)
include hs he

theorem Fab.groupStop_unasked (h : g.stop = none) : f.groupStop ctl c slot = f := by
  unfold Fab.groupStop
  rw [ht, hg]
  simp [hs, he, h]
theorem Fab.groupStop_waits (h : f.quiet c g = false ∨ (g.ringOwed = true ∧ g.roused.frontier.isSome = true)) :
    f.groupStop ctl c slot = f := by
  unfold Fab.groupStop
  rw [ht, hg]
  cases hw : g.stop with
  | none => simp [hs, he, hw]
  | some why =>
    have hc : !f.quiet c g ∨ (g.ringOwed ∧ g.roused.frontier.isSome) := by simpa using h
    simp only [hs, he, hw, if_pos hc]
    rfl
/-- A completion not yet delivered is delivered first. -/
theorem Fab.groupStop_delivers (hw : g.stop ≠ none) (hq : f.quiet c g = true) (ho : g.ringOwed = false) {u : Undel} {ls : List Nat}
    {pc : Addr} (hu : g.undelivered = some u) (hfr : g.roused.frontier = some (ls, pc)) :
    f.groupStop ctl c slot = ((f.modGroup c slot (fun g => { g.roused with undel := g.undel.erase u, hold := none })).takeTrap ctl c slot
      (u.trap.pend ls pc)).flushHeld ctl c slot := by
  unfold Fab.groupStop
  rw [ht, hg]
  obtain ⟨why, hw⟩ := Option.ne_none_iff_exists'.mp hw
  simp [hs, he, hw, hq, ho, hu, hfr]
/-- A quiet group that owes no completion is discarded, and its hitch saved. -/
theorem Fab.groupStop_preempts (hw : g.stop = some .preempt) (hq : f.quiet c g = true) (hu : g.undel = []) :
    ∃ (h : Fab) (g' : Group), f.groupStop ctl c slot = h.saveHitch c ∧ h.group? c slot = some g' ∧ g'.stopped = true ∧ g.Discarded g' := by
  have ho : g.ringOwed = false := by simp [Group.ringOwed, hu]
  have hn : g.undelivered = none := by simp [Group.undelivered, hu]
  have hpost : f.postUndelivered ctl c slot = f.modGroup c slot (fun g => { g with undel := [] }) := by
    simp [Fab.postUndelivered, ht, hg, hu]
  have hgo : f.groupStop ctl c slot = (((f.postUndelivered ctl c slot).discardGroup ctl c slot).modGroup c slot
      (fun g => { g with stopped := true })).saveHitch c := by
    unfold Fab.groupStop
    rw [ht, hg]
    simp [hs, he, hw, hq, ho, hn]
  rw [hpost] at hgo
  have ht' := (f.team_modGroup c slot (fun g => { g with undel := [] })).trans (congrArg _ ht)
  have hg' := (f.group?_modGroup_self c slot (fun g => { g with undel := [] })).trans (congrArg _ hg)
  obtain ⟨g', hd, hk⟩ := Fab.discardGroup_group? (ctl := ctl) ht' hg'
  refine ⟨_, { g' with stopped := true }, hgo, ?_, rfl, hk⟩
  rw [Fab.group?_modGroup_self, hd, Option.map_some]
end
end
end Sys2Proof.Machine
namespace Sys2Proof.Machine

/-! ## The cycles that pass (R97, R107) -/

section
variable {f : Fab} {c m acs : Nat} {t : Team} {g : Group}

/-- A table whose entries are changed one by one, read at a key. -/
theorem Table.getD_map_keyed {α : Type} {tb : Table α} {h : Nat → α → α} {d : α} {n : Nat} (hd : h n d = d) :
    Table.getD (tb.map (fun p => (p.1, h p.1 p.2))) n d = h n (Table.getD tb n d) := by
  induction tb with
  | nil => exact hd.symm
  | cons p tb ih =>
    simp only [List.map_cons, Table.getD, Table.get?]
    split
    · next e => simp [e]
    · exact ih
/-- A core that holds a team is listed. -/
theorem Fab.mem_cores_of_team (h : (f.core c).team = some t) : (c, f.core c) ∈ f.cores := by
  cases e : Table.get? f.cores c with
  | none => simp [Fab.core, Table.getD, e, Core.empty] at h
  | some k =>
    have hk : f.core c = k := by simp [Fab.core, Table.getD, e]
    rw [hk]
    exact Table.mem_of_get? e

/-- A group of a core with the time since which it has been eligible. -/
def Fab.marked (f : Fab) (since c : Nat) (t : Team) (g : Group) : Group :=
  { g with eligSince := if f.eligible c t g then some (g.eligSince.getD (max since g.gapUntil)) else none }
/-- A team with those times. -/
def Fab.markedTeam (f : Fab) (since c : Nat) (t : Team) : Team := { t with groups := t.groups.map (f.marked since c t) }
theorem Fab.core_markEligible (f : Fab) (m c : Nat) :
    (f.markEligible m).core c = { f.core c with team := (f.core c).team.map (f.markedTeam m c) } :=
  Table.getD_map_keyed (h := fun c (k : Core) => { k with team := k.team.map (f.markedTeam m c) }) rfl

/-- The times change nothing that decides whether a group may issue, or how long it waits. -/
theorem Fab.eligible_marked (f : Fab) (m c : Nat) (t : Team) (g : Group) :
    (f.markEligible m).eligible c (f.markedTeam m c t) (f.marked m c t g) = f.eligible c t g := rfl
theorem Fab.groupRoom_marked (f : Fab) (m c : Nat) (t : Team) (g : Group) (n : Nat) :
    (f.markEligible m).groupRoom c (f.markedTeam m c t) (f.marked m c t g) n = f.groupRoom c t g n := rfl
theorem Fab.slotsUsed_marked (f : Fab) (m c : Nat) (t : Team) :
    (f.markEligible m).slotsUsed (f.markedTeam m c t) = f.slotsUsed t := by
  simp only [Fab.slotsUsed, Fab.markedTeam, List.filter_map, List.length_map]
  rfl

theorem Fab.pickOn_isSome (ht : (f.core c).team = some t) :
    (f.pickOn c).isSome = (!decide (f.issueSlots ≤ f.slotsUsed t) && t.groups.any (f.eligible c t)) := by
  have hany : t.groups.any (f.eligible c t) =
      !((t.groups.mapIdx (fun i g => (i, g))).filter (fun p => f.eligible c t p.2)).isEmpty := by
    rw [Bool.eq_iff_iff]
    simp only [List.any_eq_true, Bool.not_eq_true', List.isEmpty_eq_false_iff_exists_mem, List.mem_filter, List.mem_mapIdx]
    constructor
    · rintro ⟨g, hg, he⟩
      obtain ⟨i, hi, rfl⟩ := List.getElem_of_mem hg
      exact ⟨_, ⟨i, hi, rfl⟩, he⟩
    · rintro ⟨_, ⟨i, hi, rfl⟩, he⟩
      exact ⟨_, List.getElem_mem hi, he⟩
  rw [hany]
  unfold Fab.pickOn
  rw [ht]
  dsimp only
  generalize List.filter _ _ = ready
  by_cases h : f.issueSlots ≤ f.slotsUsed t
  · simp [h]
  · cases ready <;> simp [h]
theorem Fab.pickOn_markEligible (f : Fab) (m c : Nat) : ((f.markEligible m).pickOn c).isSome = (f.pickOn c).isSome := by
  have hk := congrArg Core.team (f.core_markEligible m c)
  cases ht : (f.core c).team with
  | none =>
    have hk' : ((f.markEligible m).core c).team = none := by rw [hk, ht]; rfl
    simp [Fab.pickOn, ht, hk']
  | some t =>
    have hk' : ((f.markEligible m).core c).team = some (f.markedTeam m c t) := by rw [hk, ht]; rfl
    rw [Fab.pickOn_isSome hk', Fab.pickOn_isSome ht, Fab.slotsUsed_marked]
    congr 1
    exact List.any_map
theorem Fab.pick_markEligible (h : f.pick ≠ none) : (f.markEligible m).pick.isSome = true := by
  have hkeys : (f.markEligible m).cores.map (·.1) = f.cores.map (·.1) := by
    show (f.cores.map _).map _ = _
    rw [List.map_map]
    rfl
  obtain ⟨p, hp⟩ := Option.ne_none_iff_exists'.mp h
  obtain ⟨c, hc, hs⟩ := List.exists_of_findSome?_eq_some hp
  rw [Fab.pick, hkeys, List.findSome?_isSome_iff]
  exact ⟨c, hc, by rw [Fab.pickOn_markEligible, hs]; rfl⟩

/-! ### What one group allows -/

/-- A fold that never rises is bounded by what one of its steps gives. -/
theorem foldl_le_of_mem {α : Type} {step : Nat → α → Nat} (hle : ∀ n a, step n a ≤ n) {l : List α} {a : α} (ha : a ∈ l) {b : Nat}
    (hb : ∀ n, step n a ≤ b) (n : Nat) : l.foldl step n ≤ b := by
  induction l generalizing n with
  | nil => exact absurd ha List.not_mem_nil
  | cons x l ih =>
    rw [List.foldl_cons]
    rcases List.mem_cons.mp ha with rfl | ha
    · exact foldl_keeps (P := (· ≤ b)) l (hb n) fun k y hk => (hle k y).trans hk
    · exact ih ha _
theorem Fab.room_le_of_group (ht : (f.core c).team = some t) (hg : g ∈ t.groups) {b : Nat} (hb : ∀ n, f.groupRoom c t g n ≤ b) :
    f.room acs ≤ b := by
  unfold Fab.room
  split
  · exact Nat.zero_le b
  · refine foldl_le_of_mem (fun n k => ?_) (f.mem_cores_of_team ht) (fun n => ?_) acs
    · split
      · exact le_rfl
      · exact foldl_keeps (P := (· ≤ n)) _ le_rfl fun k g hk => (f.groupRoom_le ..).trans hk
    · simp only [ht]
      exact foldl_le_of_mem (step := fun n g => f.groupRoom c t g n) (fun n g => f.groupRoom_le ..) hg hb n
/-- The room of the cycles that pass, by what one group allows. -/
theorem Fab.room_markEligible_le (ht : (f.core c).team = some t) (hg : g ∈ t.groups) {b : Nat} (hb : ∀ n, f.groupRoom c t g n ≤ b) :
    (f.markEligible m).room acs ≤ b := by
  refine Fab.room_le_of_group (c := c) (t := f.markedTeam m c t) (g := f.marked m c t g) ?_ ?_ fun n => ?_
  · rw [Fab.core_markEligible, ht]
    rfl
  · exact List.mem_map_of_mem hg
  · rw [Fab.groupRoom_marked]
    exact hb n
theorem Fab.groupRoom_of_ready (h : f.ready c t g = true) (n : Nat) : f.groupRoom c t g n ≤ max 1 (g.gapUntil - f.ac) := by
  have hh : g.hold = none := by
    simp only [Fab.ready, Bool.and_eq_true, Option.isNone_iff_eq_none] at h
    simp_all
  unfold Fab.groupRoom
  simp only [h, hh, Bool.not_true, Bool.false_eq_true, if_false]
  split <;> omega
theorem Fab.groupRoom_of_sleep {entry : BitVec 64} {pc : Addr} {target : Nat} (h : g.hold = some (.sleep entry pc target)) (n : Nat) :
    f.groupRoom c t g n ≤ cyclesIn f.ac (target + 1000 - f.time.toNat) := by
  unfold Fab.groupRoom
  rw [h]
  exact min_le_right _ _

/-! ### Cycles and TIME -/

theorem Fab.elapse_ac (f : Fab) (acs : Nat) : (f.elapse acs).ac = f.ac + (f.markEligible f.ac).room acs := rfl
theorem Fab.elapse_time_le_of_room {ns : Nat} (h : (f.markEligible f.ac).room acs ≤ cyclesIn f.ac ns) :
    (f.elapse acs).time.toNat ≤ f.time.toNat + ns := by
  have hns := nsOf_add_cyclesIn_le h
  show (f.time + BitVec.ofNat 64 (nsOf (f.ac + (f.markEligible f.ac).room acs) - nsOf f.ac)).toNat ≤ _
  rw [BitVec.toNat_add, BitVec.toNat_ofNat]
  omega
/-- No cycle passes while a picker has a slot and a group for it. -/
theorem Fab.elapse_of_pick (h : f.pick ≠ none) (acs : Nat) : (f.elapse acs).ac = f.ac ∧ (f.elapse acs).time = f.time := by
  have hr : (f.markEligible f.ac).room acs = 0 := if_pos (Fab.pick_markEligible h)
  refine ⟨by rw [Fab.elapse_ac, hr, Nat.add_zero], ?_⟩
  show f.time + BitVec.ofNat 64 (nsOf (f.ac + (f.markEligible f.ac).room acs) - nsOf f.ac) = f.time
  simp [hr]
section
variable (ht : (f.core c).team = some t) (hg : g ∈ t.groups)
include ht hg
/-- No more than one cycle passes while a group could issue, or its GAP. -/
theorem Fab.elapse_ac_of_ready (h : f.ready c t g = true) (acs : Nat) : (f.elapse acs).ac ≤ max (f.ac + 1) g.gapUntil := by
  have hr := Fab.room_markEligible_le (m := f.ac) (acs := acs) ht hg (Fab.groupRoom_of_ready h)
  rw [Fab.elapse_ac]
  omega
/-- TIME passes the target of a `sleep` by no more than 1,000 ns. -/
theorem Fab.elapse_time_of_sleep {entry : BitVec 64} {pc : Addr} {target : Nat} (h : g.hold = some (.sleep entry pc target))
    (hn : f.time.toNat ≤ target + 1000) (acs : Nat) : (f.elapse acs).time.toNat ≤ target + 1000 := by
  have hr := Fab.elapse_time_le_of_room (Fab.room_markEligible_le (m := f.ac) (acs := acs) ht hg (Fab.groupRoom_of_sleep h))
  omega
end
end
end Sys2Proof.Machine
namespace Sys2Proof.Machine
open Sys2Proof.Safety

/-! ## Groups that sleep, that hold malformed records, and the ring (R97, R129, R195) -/

section
variable {s : State} {c slot : Nat} {tm : Team} {g : Group}

theorem exec_sleepWake (hg : groupAt s c slot = some g) {entry : BitVec 64} {pc : Addr} {target : Nat}
    (hh : g.hold = some (.sleep entry pc target)) : ∃ t, exec (.sleepWake c slot) s = .next t ∧
      ∀ c' n, groupAt t c' n = if c' = c ∧ n = slot ∧ target ≤ s.fab.time.toNat then some { g with hold := none } else groupAt s c' n := by
  refine ⟨_, rfl, fun c' n => ?_⟩
  dsimp only [groupAt] at hg ⊢
  by_cases hk : c' = c ∧ n = slot
  · obtain ⟨rfl, rfl⟩ := hk
    rw [Fab.group?_modGroup_self, hg, Option.map_some, hh]
    dsimp only
    split
    · next h => simp [h]
    · next h => simp [h]
  · rw [Fab.group?_modGroup_other _ _ (by tauto), if_neg (by tauto)]

theorem exec_malformedTaskTrap_none (hg : groupAt s c slot = some g) (h : g.malformed = 0) :
    exec (.malformedTaskTrap c slot) s = .next s := by
  show Host.Outcome.next (match s.fab.group? c slot with | none => s | some g => _) = _
  rw [show s.fab.group? c slot = some g from hg]
  exact congrArg Host.Outcome.next (if_pos (.inl h))
theorem exec_malformedTaskTrap_due (hg : groupAt s c slot = some g) (h : g.malformed ≠ 0) (hp : g.pendTrap = none) (hi : g.atIssue = true) :
    exec (.malformedTaskTrap c slot) s = .next { s with fab :=
      ((s.fab.modGroup c slot (fun g => { g with malformed := 0, malformedWords := [] })).takeTrap s.ctl c slot
        ⟨0x02, 1, g.malformed, g.malformed, g.malformedWord, 0,
          match (g.numbered.filter (fun p => inMask g.malformed p.1)).head? with | some p => p.2.pc | none => 0⟩) } := by
  show Host.Outcome.next (match s.fab.group? c slot with | none => s | some g => _) = _
  rw [show s.fab.group? c slot = some g from hg]
  exact congrArg Host.Outcome.next (if_neg (by simpa [hp, hi] using h))
/-- The holds at which a group takes a trap that waits. -/
theorem Group.atIssue_of_hold (h : g.hold = none ∨ g.hold = some .retry ∨ ∃ e pc x, g.hold = some (.wait e pc x)) : g.atIssue = true := by
  unfold Group.atIssue
  rcases h with h | h | ⟨e, pc, x, h⟩ <;> rw [h]

theorem exec_escapeChannel {n : Nat} {p : RingPacket} (hp : s.fab.ring[n]? = some p) : exec (.escapeChannel n) s =
    .next (if p.stop ≠ p.dst ∧ p.since + 64 ≤ s.fab.ac then
      { s with fab := { s.fab with ring := s.fab.ring.set n { p with escape := true } } } else s) := by
  have hring : modAt s.fab.ring n (fun p => p.escapes s.fab.ac) = s.fab.ring.set n (p.escapes s.fab.ac) :=
    modify_eq_set _ _ _ _ hp
  show Host.Outcome.next ({ s with fab := { s.fab with ring := modAt s.fab.ring n (fun p => p.escapes s.fab.ac) } } : State) = _
  rw [hring]
  unfold RingPacket.escapes
  split
  · rfl
  · obtain ⟨hn, rfl⟩ := List.getElem?_eq_some_iff.mp hp
    rw [List.set_getElem_self]
end

/-! ## Requests of `syscall` that wait to be posted (R94) -/

section
variable {f h : Fab} {ctl : Ctl} {c slot ctx l : Nat} {sysQ : DWord} {ls : List Nat} {x : Lane} {b : List Byte}

/-- A lane without a request to post is passed over. -/
theorem Fab.postRequests_skip (hl : ∀ x, f.lane? c slot l = some x → ∀ b, x.park ≠ some (.syscall none b)) :
    f.postRequests ctl c slot sysQ ctx (l :: ls) = f.postRequests ctl c slot sysQ ctx ls := by
  rw [Fab.postRequests]
  split
  · next x hx =>
    split
    · next b hb => exact absurd hb (hl x hx b)
    · rfl
  · rfl
theorem Fab.postRequests_none (hl : ∀ l ∈ ls, ∀ x, f.lane? c slot l = some x → ∀ b, x.park ≠ some (.syscall none b)) :
    f.postRequests ctl c slot sysQ ctx ls = (true, false, f) := by
  induction ls with
  | nil => rfl
  | cons l ls ih =>
    rw [Fab.postRequests_skip (hl l List.mem_cons_self)]
    exact ih fun k hk => hl k (List.mem_cons_of_mem _ hk)
/-- The lane's token stands in its park once its request has been posted. -/
def Fab.tokenTaken (h : Fab) (c slot l : Nat) (b : List Byte) : Fab :=
  h.modLane c slot l (fun z => { z with park := some (.syscall (some (requestToken b)) b) })

section
variable (hx : f.lane? c slot l = some x) (hp : x.park = some (.syscall none b))
  (ho : ∀ n ∈ ls, n ≠ l → ∀ z, f.lane? c slot n = some z → ∀ b', z.park ≠ some (.syscall none b')) (hm : l ∈ ls)
include hx hp ho hm

theorem Fab.postRequests_full (he : f.enqueueVa ctl ctx sysQ.toNat b = (.full, h)) :
    f.postRequests ctl c slot sysQ ctx ls = (false, false, h) := by
  induction ls with
  | nil => exact absurd hm List.not_mem_nil
  | cons n ls ih =>
    by_cases hn : n = l
    · subst hn
      simp only [Fab.postRequests, hx, hp, he]
    · rw [Fab.postRequests_skip (ho n List.mem_cons_self hn)]
      exact ih (fun k hk => ho k (List.mem_cons_of_mem _ hk)) ((List.mem_cons.mp hm).resolve_left (Ne.symm hn))
theorem Fab.postRequests_ok (hnd : ls.Nodup) (he : f.enqueueVa ctl ctx sysQ.toNat b = (.ok, h)) (hc : h.cores = f.cores) :
    f.postRequests ctl c slot sysQ ctx ls = (true, true, h.tokenTaken c slot l b) := by
  induction ls with
  | nil => exact absurd hm List.not_mem_nil
  | cons n ls ih =>
    obtain ⟨hnls, hnd⟩ := List.nodup_cons.mp hnd
    by_cases hn : n = l
    · subst hn
      have hne {k : Nat} (hk : k ∈ ls) : k ≠ n := ne_of_mem_of_not_mem hk hnls
      have hnone : (h.tokenTaken c slot n b).postRequests ctl c slot sysQ ctx ls = (true, false, h.tokenTaken c slot n b) := by
        refine Fab.postRequests_none fun k hk z hz => ho k (List.mem_cons_of_mem _ hk) (hne hk) z ?_
        rw [Fab.tokenTaken, Fab.lane?_modLane_other _ _ (.inr (.inr (hne hk)))] at hz
        simpa only [Fab.lane?, Fab.group?, Fab.core_congr hc] using hz
      simp only [Fab.postRequests, hx, hp, he]
      rw [← Fab.tokenTaken, hnone]
    · rw [Fab.postRequests_skip (ho n List.mem_cons_self hn)]
      exact ih (fun k hk => ho k (List.mem_cons_of_mem _ hk)) ((List.mem_cons.mp hm).resolve_left (Ne.symm hn)) hnd
end
end

section
variable {s : State} {c slot : Nat} {tm : Team} {g : Group} (ht : teamAt s c = some tm) (hg : groupAt s c slot = some g)
include hg

theorem lane?_of_groupAt (l : Nat) : s.fab.lane? c slot l = g.lanes[l]? := by
  rw [Fab.lane?, show s.fab.group? c slot = some g from hg]
  rfl
include ht
theorem exec_syscallRequestPost {y : Ctx} (hy : s.fab.ctx? tm.ctx = some y) {all any : Bool} {f : Fab}
    (hp : s.fab.postRequests s.ctl c slot y.sysQ y.id (List.range g.lanes.length) = (all, any, f)) :
    exec (.syscallRequestPost c slot) s = .next { s with fab := if any then f.msi y.sysHart y.sysId else f } := by
  have hb : (s.fab.core c).team.bind (fun t => s.fab.ctx? t.ctx) = some y := by
    rw [show (s.fab.core c).team = some tm from ht]
    exact hy
  show Host.Outcome.next (match (s.fab.core c).team.bind (fun t => s.fab.ctx? t.ctx), s.fab.group? c slot with
    | some x, some g => _ | _, _ => s) = _
  rw [hb, show s.fab.group? c slot = some g from hg]
  simp only [hp]
theorem exec_syscallRequestPost_none (h : ∀ x ∈ g.lanes, ∀ b, x.park ≠ some (.syscall none b)) :
    exec (.syscallRequestPost c slot) s = .next s := by
  cases hy : s.fab.ctx? tm.ctx with
  | none =>
    show Host.Outcome.next (match (s.fab.core c).team.bind (fun t => s.fab.ctx? t.ctx), s.fab.group? c slot with
      | some x, some g => _ | _, _ => s) = _
    rw [show (s.fab.core c).team = some tm from ht, Option.bind_some, hy]
  | some y =>
    refine exec_syscallRequestPost ht hg hy (any := false) (Fab.postRequests_none fun l _ x hx => h x ?_)
    rw [lane?_of_groupAt hg] at hx
    exact List.mem_of_getElem? hx
section
variable {l : Nat} {x : Lane} {b : List Byte} {y : Ctx} {h : Fab} (hx : g.lanes[l]? = some x) (hp : x.park = some (.syscall none b))
  (ho : ∀ n z b', n ≠ l → g.lanes[n]? = some z → z.park ≠ some (.syscall none b')) (hy : s.fab.ctx? tm.ctx = some y)
include hx hp ho hy
theorem exec_syscallRequestPost_ok (he : s.fab.enqueueVa s.ctl y.id y.sysQ.toNat b = (.ok, h)) (hc : h.cores = s.fab.cores) :
    exec (.syscallRequestPost c slot) s = .next { s with fab := (h.tokenTaken c slot l b).msi y.sysHart y.sysId } :=
  exec_syscallRequestPost ht hg hy (any := true) (Fab.postRequests_ok ((lane?_of_groupAt hg l).trans hx) hp
    (fun n _ hn z hz b' => ho n z b' hn ((lane?_of_groupAt hg n).symm.trans hz))
    (List.mem_range.mpr (List.getElem?_eq_some_iff.mp hx).1) List.nodup_range he hc)
theorem exec_syscallRequestPost_full (he : s.fab.enqueueVa s.ctl y.id y.sysQ.toNat b = (.full, h)) :
    exec (.syscallRequestPost c slot) s = .next { s with fab := h } :=
  exec_syscallRequestPost ht hg hy (any := false) (Fab.postRequests_full ((lane?_of_groupAt hg l).trans hx) hp
    (fun n _ hn z hz b' => ho n z b' hn ((lane?_of_groupAt hg n).symm.trans hz))
    (List.mem_range.mpr (List.getElem?_eq_some_iff.mp hx).1) he)
end
end
end Sys2Proof.Machine
namespace Sys2Proof.Machine
open Sys2Proof.Safety

/-! ## The register queue (R103, R106) -/

section
variable {f : Fab} {ctl : Ctl} {c slot : Nat} {g : Group}

/-- The rule of R106 asks one group to stop, or does nothing. -/
theorem Fab.registerDeadlock_cases (f : Fab) (c : Nat) : f.registerDeadlock c = f ∨
    ∃ k, f.registerDeadlock c = f.modGroup c k (fun g => { g with stop := some (g.stop.getD .registers) }) := by
  unfold Fab.registerDeadlock
  split
  · dsimp only
    split
    · split
      · exact .inr ⟨_, rfl⟩
      · exact .inl rfl
    · exact .inl rfl
  · exact .inl rfl
theorem Fab.regQueue_registerDeadlock (f : Fab) (c : Nat) : ((f.registerDeadlock c).core c).regQueue = (f.core c).regQueue := by
  obtain h | ⟨k, h⟩ := f.registerDeadlock_cases c
  · rw [h]
  · rw [h, Fab.core_modGroup_self]
theorem Fab.group?_registerDeadlock (hg : f.group? c slot = some g) :
    ∃ w, (f.registerDeadlock c).group? c slot = some { g with stop := w } := by
  obtain h | ⟨k, h⟩ := f.registerDeadlock_cases c
  · exact ⟨g.stop, by rw [h, hg]⟩
  · by_cases hk : slot = k
    · subst hk
      exact ⟨_, by rw [h, Fab.group?_modGroup_self, hg]; rfl⟩
    · exact ⟨g.stop, by rw [h, Fab.group?_modGroup_other _ _ (.inr hk), hg]⟩
/-- A `grow` at the head of the queue that fits is granted. -/
theorem Fab.registerGrant_grow {q : RegReq} {qs : List RegReq} (hq : (f.core c).regQueue = q :: qs) (hr : q.readmit = false)
    (hfree : q.regs ≤ f.freeRegs c) (hg : f.group? c q.slot = some g) {entry active : BitVec 64} {pc : Addr} {r : Nat}
    (hh : g.hold = some (.grow entry active pc r)) :
    ((f.registerGrant ctl c).core c).regQueue = qs ∧
      ∃ g', (f.registerGrant ctl c).group? c q.slot = some g' ∧ g'.hold = none ∧ g'.r = r := by
  unfold Fab.registerGrant
  rw [hq]
  dsimp only
  rw [if_neg (by omega), hr]
  simp only [Bool.false_eq_true, if_false]
  refine ⟨?_, ?_⟩
  · rw [Fab.regQueue_registerDeadlock, Fab.core_modGroup_self, Fab.core_setCore_self]
  · have hg0 : (f.setCore c { f.core c with regQueue := qs }).group? c q.slot = some g := by
      rw [Fab.group?_setCore]
      exact hg
    have hg1 := (Fab.group?_modGroup_self _ c q.slot (fun g => match g.hold with
      | some (.grow _ active _ r) =>
        let g := { g.setRegs r with hold := none }
        { g with lanes := g.lanes.mapIdx (fun i l => if l.status = .live ∧ !l.idle ∧ inMask active i ∧ g.trap.isNone then l.openWindow else l) }
      | _ => g)).trans (congrArg _ hg0)
    rw [Option.map_some, hh] at hg1
    obtain ⟨w, hw⟩ := Fab.group?_registerDeadlock hg1
    exact ⟨_, hw, rfl, rfl⟩
end

/-! ## The save of a hitch (R108) -/

section
variable {f : Fab} {c d : Nat} {tm : Team}

/-- A team as its grid keeps it: off its cores, its groups asked nothing. -/
def Team.apart (x : Team) : Team :=
  { x with
    mates := []
    started := false
    shared := x.shared.map (fun r => ⟨r.last, []⟩)
    groups := x.groups.map (fun g => { g with stopped := false, stop := none }) }
/-- Saves one team of a hitch and frees its core. -/
def Fab.saveMate (gid : Nat) (f : Fab) (m : Nat) : Fab :=
  match (f.core m).team with
  | some x => (f.modGrid gid (fun g => { g with saved := insertTeam (x.index, x.apart) g.saved })).freeCore m
  | none => f

theorem Fab.saveHitch_waits (ht : (f.core c).team = some tm) (h : f.hitchStopped tm = false ∨ f.upFree (c / 8) = false) :
    f.saveHitch c = f := by
  unfold Fab.saveHitch
  rw [ht]
  exact if_pos (by simpa using h)
theorem Fab.saveHitch_due (ht : (f.core c).team = some tm) (hs : f.hitchStopped tm = true) (hu : f.upFree (c / 8) = true) :
    f.saveHitch c = (tm.mates.foldl (Fab.saveMate tm.grid) f).sendUp (c / 8)
      ⟨0x05, 0, tm.ctx, (tm.mates.foldl (Fab.saveMate tm.grid) f).gridSeq tm.grid, tm.grid, tm.index - tm.j, 0, 0, 0, false⟩ := by
  unfold Fab.saveHitch
  rw [ht]
  exact if_neg (by simp [hs, hu])

/-- A grid looked up after a change of the grids of one identifier. -/
theorem Fab.grid?_modGrid (f : Fab) (gid id : Nat) {h : Grid → Grid} (hid : ∀ g, (h g).id = g.id) :
    (f.modGrid gid h).grid? id = (f.grid? id).map (fun g => if g.id == gid then h g else g) := by
  have hp : ((fun g : Grid => g.id == id) ∘ fun g => if (g.id == gid) = true then h g else g) = fun g => g.id == id := by
    funext g
    dsimp only [Function.comp]
    split
    · rw [hid]
    · rfl
  unfold Fab.grid? Fab.modGrid
  dsimp only
  rw [List.find?_map, hp]
theorem Fab.gridSeq_modGrid (f : Fab) (gid id : Nat) {h : Grid → Grid} (hid : ∀ g, (h g).id = g.id) (hseq : ∀ g, (h g).seq = g.seq) :
    (f.modGrid gid h).gridSeq id = f.gridSeq id := by
  have look (k : Fab) : k.gridSeq id = ((k.grid? id).map Grid.seq).getD 0 := by
    unfold Fab.gridSeq Fab.grid?
    cases k.grids.find? (fun g => g.id == id) <;> rfl
  have hs : Grid.seq ∘ (fun g => if (g.id == gid) = true then h g else g) = Grid.seq := by
    funext g
    dsimp only [Function.comp]
    split
    · exact hseq g
    · rfl
  rw [look, look, f.grid?_modGrid gid id hid, Option.map_map, hs]
theorem Fab.core_freeCore_self (f : Fab) (c : Nat) : ((f.freeCore c).core c).team = none := by
  rw [Fab.freeCore, Fab.core_setCore_self]
theorem Fab.core_freeCore_other (f : Fab) (h : d ≠ c) : (f.freeCore c).core d = f.core d := by
  rw [Fab.freeCore, Fab.core_setCore_other _ _ h]
  rfl

theorem Fab.saveMate_links (gid : Nat) (f : Fab) (m : Nat) : (f.saveMate gid m).links = f.links := by
  unfold Fab.saveMate
  split <;> rfl
theorem Fab.saveMate_gridSeq (gid : Nat) (f : Fab) (m id : Nat) : (f.saveMate gid m).gridSeq id = f.gridSeq id := by
  unfold Fab.saveMate
  split
  · exact f.gridSeq_modGrid gid id (fun _ => rfl) (fun _ => rfl)
  · rfl
theorem Fab.saveMate_team_self (gid : Nat) (f : Fab) (m : Nat) : ((f.saveMate gid m).core m).team = none := by
  unfold Fab.saveMate
  split
  · exact Fab.core_freeCore_self ..
  · next h => exact h
/-- A core that holds no team holds none after a save. -/
theorem Fab.saveMate_team_none (gid m : Nat) (h : (f.core d).team = none) : ((f.saveMate gid m).core d).team = none := by
  by_cases hd : d = m
  · rw [hd, Fab.saveMate_team_self]
  · unfold Fab.saveMate
    split
    · rw [Fab.core_freeCore_other _ hd]
      exact h
    · exact h
theorem Fab.foldl_saveMate_team {gid : Nat} {ms : List Nat} (hd : d ∈ ms) (f : Fab) :
    ((ms.foldl (Fab.saveMate gid) f).core d).team = none := by
  induction ms generalizing f with
  | nil => exact absurd hd List.not_mem_nil
  | cons m ms ih =>
    rw [List.foldl_cons]
    rcases List.mem_cons.mp hd with rfl | hd
    · exact foldl_keeps (P := fun g : Fab => (g.core d).team = none) ms (f.saveMate_team_self gid d)
        fun g m hg => Fab.saveMate_team_none gid m hg
    · exact ih hd _
theorem mem_insertTeam (x : Nat × Team) (l : List (Nat × Team)) : x ∈ insertTeam x l := by
  induction l with
  | nil => exact List.mem_singleton.mpr rfl
  | cons y l ih =>
    unfold insertTeam
    split
    · exact List.mem_cons_self
    · split
      · exact List.mem_cons_self
      · exact List.mem_cons_of_mem _ ih
/-- The grid of a team that has been saved keeps it. -/
theorem Fab.saved_saveMate (ht : (f.core c).team = some tm) {gid : Nat} {g : Grid} (hg : g ∈ (f.saveMate gid c).grids) (hid : g.id = gid) :
    (tm.index, tm.apart) ∈ g.saved := by
  unfold Fab.saveMate at hg
  rw [ht] at hg
  obtain ⟨x, -, rfl⟩ := List.mem_map.mp (hg : g ∈ f.grids.map _)
  by_cases h : (x.id == gid) = true
  · rw [if_pos h]
    exact mem_insertTeam ..
  · rw [if_neg h] at hid
    exact absurd (beq_iff_eq.mpr hid) h

section
variable (ht : (f.core c).team = some tm) (hs : f.hitchStopped tm = true) (hu : f.upFree (c / 8) = true)
include ht hs hu
/-- A hitch that is saved frees its cores. -/
theorem Fab.saveHitch_frees (hd : d ∈ tm.mates) : ((f.saveHitch c).core d).team = none := by
  rw [Fab.saveHitch_due ht hs hu]
  exact Fab.foldl_saveMate_team hd f
/-- One SAVED for the whole hitch. -/
theorem Fab.saveHitch_links : (f.saveHitch c).links = f.links.modify (c / 8)
    (fun y => y.sendUp ⟨0x05, 0, tm.ctx, f.gridSeq tm.grid, tm.grid, tm.index - tm.j, 0, 0, 0, false⟩) := by
  have hl : (tm.mates.foldl (Fab.saveMate tm.grid) f).links = f.links :=
    foldl_keeps (P := fun g : Fab => g.links = f.links) _ rfl fun g m hg => (g.saveMate_links _ m).trans hg
  have hq : (tm.mates.foldl (Fab.saveMate tm.grid) f).gridSeq tm.grid = f.gridSeq tm.grid :=
    foldl_keeps (P := fun g : Fab => g.gridSeq tm.grid = f.gridSeq tm.grid) _ rfl fun g m hg => (g.saveMate_gridSeq _ m _).trans hg
  rw [Fab.saveHitch_due ht hs hu, Fab.sendUp, hq, hl]
  rfl
theorem Fab.saveHitch_keeps (hm : tm.mates = [c]) {g : Grid} (hg : g ∈ (f.saveHitch c).grids) (hid : g.id = tm.grid) :
    (tm.index, tm.apart) ∈ g.saved := by
  rw [Fab.saveHitch_due ht hs hu, hm] at hg
  exact Fab.saved_saveMate ht hg hid
end
theorem Team.apart_groups (x : Team) : x.apart.groups.map (fun g => (g.lanes, g.gcw)) = x.groups.map (fun g => (g.lanes, g.gcw)) := by
  simp [Team.apart]
end
end Sys2Proof.Machine
namespace Sys2Proof.Machine
open Sys2Proof.Safety

/-! ## Replicas of incumbents (R115-R117, Table 6.2) -/

section
variable {f : Fab} {ctl : Ctl} {ctx i a b c : Nat} {x : Ctx} {v : DWord}

@[simp] theorem Fab.offerReplica_ctxs (f : Fab) (a ctx i : Nat) (v : DWord) : (f.offerReplica a ctx i v).ctxs = f.ctxs := by
  unfold Fab.offerReplica
  split
  · rfl
  · split <;> rfl
theorem Fab.ctx?_congr {f g : Fab} (h : g.ctxs = f.ctxs) (n : Nat) : g.ctx? n = f.ctx? n := by rw [Fab.ctx?, h, Fab.ctx?]
/-- The replica offered to takes a value that improves it. -/
theorem Fab.replica_offerReplica_self (hx : f.ctx? ctx = some x) :
    (f.offerReplica a ctx i v).replica a ctx i = x.better i v (f.replica a ctx i) := by
  unfold Fab.offerReplica Ctx.better
  rw [hx]
  dsimp only
  split
  · rw [Fab.replica]
    simp only [Table.get?_set_self, Option.bind_some]
  · rfl
/-- An offer leaves the replicas of the other clusters and dies. -/
theorem Fab.replica_offerReplica_other (h : b ≠ a) : (f.offerReplica a ctx i v).replica b ctx i = f.replica b ctx i := by
  unfold Fab.offerReplica
  split
  · rfl
  · split
    · unfold Fab.replica
      rw [Table.get?_set_other _ _ _ _ h]
      rfl
    · rfl
/-- Offers of one source, which they do not change, to one replica after another. -/
theorem Fab.replica_foldl_offerReplica {src : Fab → DWord} {ds : List Nat} (hx : f.ctx? ctx = some x) (hnd : ds.Nodup)
    (hsrc : ∀ f, ∀ d ∈ ds, src (f.offerReplica d ctx i (src f)) = src f) :
    (ds.foldl (fun f d => f.offerReplica d ctx i (src f)) f).replica b ctx i =
      if b ∈ ds then x.better i (src f) (f.replica b ctx i) else f.replica b ctx i := by
  induction ds generalizing f with
  | nil => rfl
  | cons d ds ih =>
    obtain ⟨hd, hnd⟩ := List.nodup_cons.mp hnd
    rw [List.foldl_cons, ih ((Fab.ctx?_congr (f.offerReplica_ctxs ..) ctx).trans hx) hnd fun f e he => hsrc f e (List.mem_cons_of_mem _ he),
      hsrc f d List.mem_cons_self]
    by_cases hb : b = d
    · subst hb
      rw [if_neg hd, if_pos List.mem_cons_self, Fab.replica_offerReplica_self hx]
    · rw [Fab.replica_offerReplica_other hb]
      simp only [List.mem_cons, hb, false_or]
theorem Fab.foldl_offerReplica_ctxs {src : Fab → DWord} (ds : List Nat) :
    (ds.foldl (fun f d => f.offerReplica d ctx i (src f)) f).ctxs = f.ctxs :=
  foldl_keeps (P := fun g : Fab => g.ctxs = f.ctxs) _ rfl fun g _ hg => (g.offerReplica_ctxs ..).trans hg

/-! ### The module value -/

theorem set_getD_self {α : Type} (l : List α) (i : Nat) (d : α) : l.set i (l.getD i d) = l := by
  by_cases h : i < l.length
  · rw [List.getD_eq_getElem _ _ h, List.set_getElem_self]
  · exact List.set_eq_of_length_le (by omega)
/-- A value offered at the module: its incumbent takes one that improves it, and no replica changes. -/
theorem Fab.offerModule_spec (hx : f.ctx? ctx = some x) (i : Nat) (v : DWord) :
    (∃ y, (f.offerModule ctx i v).ctx? ctx = some y ∧ y.incMod = x.incMod.set i (x.better i v (x.incMod.getD i 0))) ∧
      ∀ b j, (f.offerModule ctx i v).replica b ctx j = f.replica b ctx j := by
  unfold Fab.offerModule Ctx.better
  rw [hx]
  dsimp only
  split
  · have hy := ctx?_modCtx_self (h := fun c => { c with
      incMod := setAt c.incMod i v, offerDue := if c.linked i then setAt c.offerDue i true else c.offerDue }) hx fun _ => rfl
    refine ⟨⟨_, hy, rfl⟩, fun b j => ?_⟩
    unfold Fab.replica
    rw [hy, hx]
    rfl
  · exact ⟨⟨x, hx, (set_getD_self ..).symm⟩, fun _ _ => rfl⟩

/-! ### Cores -/

/-- No lane of a core has a bound. -/
def Fab.Unbound (f : Fab) (c : Nat) : Prop := ∀ tm, (f.core c).team = some tm → ∀ g ∈ tm.groups, ∀ y ∈ g.lanes, y.bound = none
/-- A core without bounds has no lane to cancel. -/
theorem Fab.cancelCore_unbound (h : f.Unbound c) : f.cancelCore ctl c = f := by
  unfold Fab.cancelCore
  split
  · rfl
  · next t ht =>
    refine foldl_keeps (P := fun g : Fab => g = f) _ rfl fun g s hg => ?_
    subst hg
    split
    · rfl
    · next gr hgr =>
      have hmem : gr ∈ t.groups := by
        rw [Fab.group?, ht, Option.bind_some] at hgr
        exact List.mem_of_getElem? hgr
      split
      · rfl
      · refine foldl_keeps (P := fun k : Fab => k = g) _ rfl fun k l hk => ?_
        subst hk
        split
        · next y hy =>
          have hb : y.bound = none := by
            rw [Fab.lane?, hgr, Option.bind_some] at hy
            exact h t ht gr hmem y (List.mem_of_getElem? hy)
          rw [Fab.laneDominated, hb]
          exact if_neg Bool.false_ne_true
        · rfl
theorem Fab.coreInc_setCoreInc_self (f : Fab) (c ctx i : Nat) (v : DWord) : (f.setCoreInc c ctx i v).coreInc c ctx i = v := by
  rw [Fab.coreInc, Fab.setCoreInc, Fab.core_setCore_self, Table.get?_set_self]
theorem Fab.coreInc_setCoreInc_other (h : b ≠ c) : (f.setCoreInc c ctx i v).coreInc b ctx i = f.coreInc b ctx i := by
  rw [Fab.coreInc, Fab.setCoreInc, Fab.core_setCore_other _ _ h]
  rfl
theorem Fab.team_setCoreInc (f : Fab) (c ctx i : Nat) (v : DWord) (d : Nat) : ((f.setCoreInc c ctx i v).core d).team = (f.core d).team := by
  by_cases h : d = c
  · rw [h, Fab.setCoreInc, Fab.core_setCore_self]
  · rw [Fab.setCoreInc, Fab.core_setCore_other _ _ h]
/-- A value offered to a core without bounds. -/
theorem Fab.offer_unbound (h : f.Unbound c) (hx : f.ctx? ctx = some x) (i : Nat) (v : DWord) :
    f.offer ctl c ctx i v = if x.improves i v (f.coreInc c ctx i) then f.setCoreInc c ctx i v else f := by
  unfold Fab.offer
  rw [hx]
  dsimp only
  rw [Fab.cancelCore_unbound fun tm ht => h tm (by rw [← ht, Fab.team_setCoreInc])]
/-- Offers of a cluster's replica to one core without bounds after another. -/
theorem Fab.coreInc_foldl_offer {n : Nat} {ks : List Nat} (hx : f.ctx? ctx = some x) (hnd : ks.Nodup) (hk : ∀ k ∈ ks, f.Unbound k) :
    (ks.foldl (fun h k => h.offer ctl k ctx i (h.replica n ctx i)) f).coreInc c ctx i =
      if c ∈ ks then x.better i (f.replica n ctx i) (f.coreInc c ctx i) else f.coreInc c ctx i := by
  induction ks generalizing f with
  | nil => rfl
  | cons k ks ih =>
    obtain ⟨hd, hnd⟩ := List.nodup_cons.mp hnd
    have hks : ∀ j ∈ ks, f.Unbound j := fun j hj => hk j (List.mem_cons_of_mem _ hj)
    rw [List.foldl_cons, Fab.offer_unbound (hk k List.mem_cons_self) hx]
    split
    · next hi =>
      rw [ih (f := f.setCoreInc ..) hx hnd fun j hj tm ht => hks j hj tm (by rw [← ht, Fab.team_setCoreInc])]
      have hr : (f.setCoreInc k ctx i (f.replica n ctx i)).replica n ctx i = f.replica n ctx i := rfl
      rw [hr]
      by_cases hc : c = k
      · subst hc
        rw [if_neg hd, if_pos List.mem_cons_self, Fab.coreInc_setCoreInc_self, Ctx.better, if_pos hi]
      · rw [Fab.coreInc_setCoreInc_other hc]
        simp only [List.mem_cons, hc, false_or]
    · next hi =>
      rw [ih hx hnd hks]
      by_cases hc : c = k
      · subst hc
        rw [if_neg hd, if_pos List.mem_cons_self, Ctx.better, if_neg hi]
      · simp only [List.mem_cons, hc, false_or]
end
end Sys2Proof.Machine
namespace Sys2Proof.Machine
open Sys2Proof.Safety

/-! ### The stages of Table 6.2 -/

section
variable {s : State} {ctx i n : Nat} {x : Ctx}

theorem exec_incumbentPropagate (hi : i < 16) (ctx k n : Nat) :
    exec (.incumbentPropagate ctx i k n) s = .next { s with fab := s.fab.propagate s.ctl ctx i k n } :=
  congrArg (fun f => Host.Outcome.next ({ s with fab := f } : State)) (if_pos hi)
theorem exec_incumbentPropagate_of (hi : i < 16) {k : Nat} {f : Fab} (h : s.fab.propagate s.ctl ctx i k n = f) :
    exec (.incumbentPropagate ctx i k n) s = .next { s with fab := f } := by
  rw [exec_incumbentPropagate hi, h]

section
variable (hx : s.fab.ctx? ctx = some x) (hi : i < 16)
include hx hi

theorem propagate_cores (hn : n < 384) : ∃ t, exec (.incumbentPropagate ctx i 2 n) s = .next t ∧
    t.fab.replica (n / 8) ctx i = x.better i (s.fab.coreInc n ctx i) (s.fab.replica (n / 8) ctx i) :=
  ⟨_, exec_incumbentPropagate_of hi (if_pos hn), Fab.replica_offerReplica_self hx⟩
theorem propagate_clusters (hn : n < 48) : ∃ t, exec (.incumbentPropagate ctx i 3 n) s = .next t ∧
    t.fab.replica (48 + n / 6) ctx i = x.better i (s.fab.replica n ctx i) (s.fab.replica (48 + n / 6) ctx i) :=
  ⟨_, exec_incumbentPropagate_of hi (if_pos hn), Fab.replica_offerReplica_self hx⟩
theorem propagate_die (hn : n < 8) : ∃ t y, exec (.incumbentPropagate ctx i 4 n) s = .next t ∧
    (∀ d, d < 8 → d ≠ n → t.fab.replica (48 + d) ctx i = x.better i (s.fab.replica (48 + n) ctx i) (s.fab.replica (48 + d) ctx i)) ∧
    t.fab.ctx? ctx = some y ∧ y.incMod = x.incMod.set i (x.better i (s.fab.replica (48 + n) ctx i) (x.incMod.getD i 0)) := by
  have hfold : s.fab.propagate s.ctl ctx i 4 n =
      ((((List.range 8).filter (· ≠ n)).map (48 + ·)).foldl (fun f d => f.offerReplica d ctx i (s.fab.replica (48 + n) ctx i))
        s.fab).offerModule ctx i (s.fab.replica (48 + n) ctx i) := by
    rw [List.foldl_map, List.foldl_filter]
    refine (if_pos hn).trans (congrArg (fun f : Fab => f.offerModule ctx i _) (congrArg (fun op => List.foldl op s.fab (List.range 8)) ?_))
    funext f d
    by_cases hd : d = n <;> simp [hd]
  have hnd : (((List.range 8).filter (· ≠ n)).map (48 + ·)).Nodup :=
    (List.nodup_range.filter _).map fun a b h => by simpa using h
  obtain ⟨⟨y, hy, hinc⟩, hrep⟩ := Fab.offerModule_spec
    ((Fab.ctx?_congr (Fab.foldl_offerReplica_ctxs (f := s.fab) (ctx := ctx) (i := i) (src := fun _ => s.fab.replica (48 + n) ctx i)
      (((List.range 8).filter (· ≠ n)).map (48 + ·))) ctx).trans hx) i (s.fab.replica (48 + n) ctx i)
  refine ⟨_, y, exec_incumbentPropagate_of hi hfold, fun d hd hdn => ?_,
    hy, hinc⟩
  refine (hrep (48 + d) i).trans ?_
  rw [Fab.replica_foldl_offerReplica hx hnd fun _ _ _ => rfl, if_pos]
  simpa using ⟨hd, hdn⟩
theorem propagate_to_clusters (hn : n < 8) : ∃ t, exec (.incumbentPropagate ctx i 5 n) s = .next t ∧
    ∀ k, k < 48 → k / 6 = n → t.fab.replica k ctx i = x.better i (s.fab.replica (48 + n) ctx i) (s.fab.replica k ctx i) := by
  have hfold : (List.range 6).foldl (fun f j => f.offerReplica (6 * n + j) ctx i (f.replica (48 + n) ctx i)) s.fab =
      ((List.range 6).map (6 * n + ·)).foldl (fun f d => f.offerReplica d ctx i (f.replica (48 + n) ctx i)) s.fab := by
    rw [List.foldl_map]
  have hnd : ((List.range 6).map (6 * n + ·)).Nodup := List.nodup_range.map fun a b h => by simpa using h
  refine ⟨_, exec_incumbentPropagate_of hi ((if_pos hn).trans hfold), fun k _ hkn => ?_⟩
  have hmem {d : Nat} : d ∈ (List.range 6).map (6 * n + ·) ↔ d / 6 = n := by
    simp only [List.mem_map, List.mem_range]
    exact ⟨fun ⟨a, ha, e⟩ => by omega, fun e => ⟨d - 6 * n, by omega, by omega⟩⟩
  dsimp only
  rw [Fab.replica_foldl_offerReplica hx hnd fun f d hd => Fab.replica_offerReplica_other (by have := hmem.mp hd; omega),
    if_pos (hmem.mpr hkn)]
theorem propagate_to_cores (hn : n < 48)
    (hb : ∀ c, c / 8 = n → s.fab.Unbound c) : ∃ t, exec (.incumbentPropagate ctx i 6 n) s = .next t ∧
      ∀ c, c / 8 = n → t.fab.coreInc c ctx i = x.better i (s.fab.replica n ctx i) (s.fab.coreInc c ctx i) := by
  have hfold : (List.range 8).foldl (fun h j => h.offer s.ctl (8 * n + j) ctx i (h.replica n ctx i)) s.fab =
      ((List.range 8).map (8 * n + ·)).foldl (fun h k => h.offer s.ctl k ctx i (h.replica n ctx i)) s.fab := by
    rw [List.foldl_map]
  have hnd : ((List.range 8).map (8 * n + ·)).Nodup := List.nodup_range.map fun a b h => by simpa using h
  have hmem {d : Nat} : d ∈ (List.range 8).map (8 * n + ·) ↔ d / 8 = n := by
    simp only [List.mem_map, List.mem_range]
    exact ⟨fun ⟨a, ha, e⟩ => by omega, fun e => ⟨d - 8 * n, by omega, by omega⟩⟩
  refine ⟨_, exec_incumbentPropagate_of hi ((if_pos hn).trans hfold), fun c hc => ?_⟩
  dsimp only
  rw [Fab.coreInc_foldl_offer hx hnd fun k hk => hb k (hmem.mp hk), if_pos (hmem.mpr hc)]
theorem propagate_to_dies (n : Nat) : ∃ t, exec (.incumbentPropagate ctx i 7 n) s = .next t ∧
    ∀ d, d < 8 → t.fab.replica (48 + d) ctx i = x.better i (x.incMod.getD i 0) (s.fab.replica (48 + d) ctx i) := by
  have hfold : s.fab.propagate s.ctl ctx i 7 n =
      ((List.range 8).map (48 + ·)).foldl (fun f d => f.offerReplica d ctx i (x.incMod.getD i 0)) s.fab := by
    rw [Fab.propagate, hx, List.foldl_map]
  have hnd : ((List.range 8).map (48 + ·)).Nodup := List.nodup_range.map fun a b h => by simpa using h
  refine ⟨_, exec_incumbentPropagate_of hi hfold, fun d hd => ?_⟩
  dsimp only
  rw [Fab.replica_foldl_offerReplica hx hnd fun _ _ _ => rfl, if_pos]
  simpa using hd
end
end

end Sys2Proof.Machine

namespace Sys2Proof.Safety
open Sys2Proof.Machine

/-- Settles O59, event by event. -/
theorem groupEvents : Obligations.GroupEvents := by
  unfold Obligations.GroupEvents
  refine ⟨fun s => ⟨fun c slot g tm ht hg => ?_, fun h c tm ht => ⟨Fab.saveHitch_waits ht, fun hs hu =>
      ⟨fun d hd => Fab.saveHitch_frees ht hs hu hd, Fab.saveHitch_links ht hs hu, fun hm g hg hid =>
        ⟨tm.apart, Fab.saveHitch_keeps ht hs hu hm hg hid, rfl, rfl, rfl, tm.apart_groups⟩⟩⟩,
      fun n p hp => exec_escapeChannel hp⟩,
    fun s ctx i n x hx hi => ⟨propagate_cores hx hi, propagate_clusters hx hi, propagate_die hx hi, propagate_to_clusters hx hi,
      fun hn => ⟨exec_incumbentPropagate_of hi (if_pos hn), propagate_to_cores hx hi hn⟩, propagate_to_dies hx hi n⟩⟩
  have hmem : g ∈ tm.groups := by
    have hb : (s.fab.core c).team.bind (fun t => t.groups[slot]?) = some g := hg
    rw [show (s.fab.core c).team = some tm from ht] at hb
    exact List.mem_of_getElem? hb
  refine ⟨fun hn hs he => ?_, fun hs he hq => ?_, fun h => ?_, fun hs he hq hheld hroom hfr => ?_,
    fun hs he hw hq ho u ls pc hu hfr => ?_, fun hs he hw hq hu => ?_,
    fun entry pc target acs hh hn => Fab.elapse_time_of_sleep ht hmem hh hn acs, fun acs hp => Fab.elapse_of_pick hp acs,
    fun acs hr => Fab.elapse_ac_of_ready ht hmem hr acs, fun entry pc target hh => exec_sleepWake hg hh,
    exec_malformedTaskTrap_none hg, fun hm hp hh => exec_malformedTaskTrap_due hg hm hp (Group.atIssue_of_hold hh),
    exec_syscallRequestPost_none ht hg, fun l x b y h hx hp ho hy =>
      ⟨exec_syscallRequestPost_ok ht hg hx hp ho hy, exec_syscallRequestPost_full ht hg hx hp ho hy⟩,
    fun q qs hq hslot hr hfree entry active pc r hh => ?_⟩
  · rw [exec_groupStop, Fab.groupStop_unasked ht hg hs he hn]
  · rw [exec_groupStop, Fab.groupStop_waits ht hg hs he (.inl hq)]
  · rw [exec_groupStop, Fab.groupStop_over ht hg h]
  · have ho : g.ringOwed = true := by simp [Group.ringOwed, hheld, hroom]
    rw [exec_groupStop, Fab.groupStop_waits ht hg hs he (.inr ⟨ho, Option.isSome_iff_ne_none.mpr hfr⟩)]
  · rw [exec_groupStop, Fab.groupStop_delivers ht hg hs he hw hq ho hu hfr]
  · obtain ⟨h, g', hgo, hg', hst, hd⟩ := Fab.groupStop_preempts (ctl := s.ctl) ht hg hs he hw hq hu
    rw [exec_groupStop, hgo]
    obtain ⟨hh, hsq, hld, hrm, hrc, hl⟩ := hd
    exact ⟨h, g', rfl, hg', hst, hh, hsq, hld, hrm, hrc, hl⟩
  · subst hslot
    obtain ⟨hqs, g', hg', hh', hr'⟩ := Fab.registerGrant_grow (ctl := s.ctl) hq hr hfree hg hh
    exact ⟨_, g', rfl, hqs, hg', hh', hr'⟩

end Sys2Proof.Safety
end

section
set_option Elab.async false

/-! # Commands and event queues (O57) -/

namespace Sys2Proof.Machine

/-! ## What a write of the device to memory leaves alone -/

section
variable {f₀ f : Fab} {ctl : Ctl} {line pa n : Nat} {key : BitVec 12} {bs : List Byte}

/-- A fabric differs from another in memory, in what slices, TLBs and cores hold of it, and in register writes that follow: no context, grid,
command, event or queue of it has changed. -/
def MemWritten (f g : Fab) : Prop := ∃ mem memKeys l2 waiters marks dieTlb cores regWrites,
  g = { f with mem, memKeys, l2, waiters, marks, dieTlb, cores, regWrites }

theorem MemWritten.refl : MemWritten f f := ⟨_, _, _, _, _, _, _, _, rfl⟩
theorem MemWritten.trans {g h : Fab} : MemWritten f g → MemWritten g h → MemWritten f h := by
  rintro ⟨_, _, _, _, _, _, _, _, rfl⟩ ⟨_, _, _, _, _, _, _, _, rfl⟩
  exact ⟨_, _, _, _, _, _, _, _, rfl⟩
theorem MemWritten.ctxs {g : Fab} : MemWritten f g → g.ctxs = f.ctxs := by rintro ⟨_, _, _, _, _, _, _, _, rfl⟩; rfl
theorem MemWritten.grids {g : Fab} : MemWritten f g → g.grids = f.grids := by rintro ⟨_, _, _, _, _, _, _, _, rfl⟩; rfl
theorem MemWritten.msis {g : Fab} : MemWritten f g → g.msis = f.msis := by rintro ⟨_, _, _, _, _, _, _, _, rfl⟩; rfl
theorem MemWritten.memPut (f : Fab) (km : BitVec 512) (pa : Nat) (b : Byte) : MemWritten f (f.memPut km pa b) := by
  obtain ⟨m, ks, e⟩ := f.memPut_eq km pa b
  exact ⟨m, ks, _, _, _, _, _, _, e⟩
theorem MemWritten.memPutBytes (f : Fab) (km : BitVec 512) (pa : Nat) (bs : List Byte) : MemWritten f (f.memPutBytes km pa bs) := by
  induction bs generalizing f pa with
  | nil => exact .refl
  | cons b bs ih => exact (MemWritten.memPut f km pa b).trans (ih ..)
theorem MemWritten.l2Evict (ctl : Ctl) (f : Fab) (line : Nat) : MemWritten f (f.l2Evict ctl line) := by
  obtain ⟨m, ks, ws, e⟩ := f.l2Evict_eq ctl line
  exact ⟨m, ks, _, ws, _, _, _, _, e⟩
theorem MemWritten.shootdown (f : Fab) (line : Nat) : MemWritten f (f.shootdown line) := by
  unfold Fab.shootdown
  split
  · exact ⟨_, _, _, _, _, _, _, _, rfl⟩
  · exact .refl
theorem MemWritten.written (ctl : Ctl) (f : Fab) (core : Option Nat) (pa n : Nat) : MemWritten f (f.written ctl core pa n) := by
  have hs := foldl_keeps (P := MemWritten f) (g := fun f p => f.shootdown (p.1 / 256)) (parts pa n) .refl
    fun g p hg => hg.trans (.shootdown g _)
  exact hs.trans ⟨_, _, _, _, _, _, _, _, rfl⟩
theorem MemWritten.agentWrite (ctl : Ctl) (f : Fab) (key : BitVec 12) (pa : Nat) (bs : List Byte) :
    MemWritten f (f.agentWrite ctl key pa bs) := by
  have hs := foldl_keeps (P := MemWritten f) (g := fun f p => f.l2Evict ctl (p.1 / 256)) (parts pa bs.length) .refl
    fun g p hg => hg.trans (.l2Evict ctl g _)
  exact (hs.trans (.memPutBytes ..)).trans (.written ..)
theorem MemWritten.paWrite (ctl : Ctl) (f : Fab) (key : BitVec 12) (who : Writer) (pa : Nat) (bs : List Byte) :
    MemWritten f (f.paWrite ctl key who pa bs).2 := by
  unfold Fab.paWrite
  split
  · exact .agentWrite ..
  · split
    · exact ⟨_, _, _, _, _, _, _, _, rfl⟩
    · exact .refl
end

/-! ## Events and completions -/

section
variable {f : Fab} {ctl : Ctl} {q : Nat}

/-- An event record: its queue counts it, and the contexts and grids stand. -/
theorem Fab.writeEvent_spec (ctl : Ctl) (f : Fab) (d : UzQueue) (p : EventPost) :
    (f.writeEvent ctl d p).ctxs = f.ctxs ∧ (f.writeEvent ctl d p).grids = f.grids ∧
      (p.irq = none → (f.writeEvent ctl d p).msis = (f.msi d.hart d.msiid).msis ∧
        Table.get? (f.writeEvent ctl d p).queues p.queue = some { d with last := d.last + 1 }) := by
  unfold Fab.writeEvent
  extract_lets n at_ f₁ f₂ f₃
  have hw : MemWritten f f₂ := (MemWritten.paWrite ctl f ..).trans (.paWrite ctl f₁ ..)
  split
  · next h =>
    refine ⟨hw.ctxs, hw.grids, fun _ => ⟨?_, Table.get?_set_self ..⟩⟩
    show (if _ then f₂.msis.filter _ ++ _ else f₂.msis) = _
    rw [hw.msis]
    rfl
  · next h =>
    refine ⟨?_, ?_, fun hn => by simp [hn] at h⟩
    · rw [Fab.irqRetire, Fab.modGroup_ctxs]
      exact hw.ctxs
    · rw [Fab.irqRetire, Fab.modGroup_grids]
      exact hw.grids

/-- A fabric has the contexts and grids of another. -/
def SameCtxs (f g : Fab) : Prop := g.ctxs = f.ctxs ∧ g.grids = f.grids
theorem SameCtxs.refl : SameCtxs f f := ⟨rfl, rfl⟩
theorem SameCtxs.trans {g h : Fab} (a : SameCtxs f g) (b : SameCtxs g h) : SameCtxs f h := ⟨b.1.trans a.1, b.2.trans a.2⟩
theorem SameCtxs.flushQueue (ctl : Ctl) (f : Fab) (q : Nat) : SameCtxs f (f.flushQueue ctl q) := by
  refine foldl_keeps (P := SameCtxs f) _ .refl fun g p hg => ?_
  split
  · exact hg
  · split
    · obtain ⟨hc, hgr, -⟩ := g.writeEvent_spec ctl ‹_› p
      exact hg.trans ⟨hc, hgr⟩
    · exact hg
theorem SameCtxs.post (ctl : Ctl) (f : Fab) (p : EventPost) : SameCtxs f (f.post ctl p) := by
  unfold Fab.post
  split
  · split
    · exact SameCtxs.flushQueue ctl { f with posts := f.posts ++ [p] } p.queue
    · exact .refl
  · exact .refl
theorem SameCtxs.failUp (status fuel : Nat) (p : Option Nat) (ix : List Nat) (f : Fab) : SameCtxs f (Fab.failUp status fuel p ix f) := by
  induction fuel generalizing p ix f with
  | zero => exact .refl
  | succ fuel ih =>
    cases p with
    | none => exact .refl
    | some p =>
      unfold Fab.failUp
      split
      · exact .refl
      · exact ih ..
/-- A completion without its store leaves the contexts and grids. -/
theorem SameCtxs.complete (ctl : Ctl) (f : Fab) (id st : Nat) (data : List Byte) : SameCtxs f (f.complete ctl id st false data) := by
  unfold Fab.complete
  split
  · exact .refl
  · simp only [Bool.false_and, Bool.false_eq_true, if_false, if_true]
    have hlast {g : Fab} (hg : SameCtxs f g) (p : Option Nat) (ix : List Nat) :
        SameCtxs f (if st = 0 then g else Fab.failUp st 5 p ix g) := by
      split
      · exact hg
      · exact hg.trans (.failUp ..)
    refine hlast ?_ _ _
    split
    · split
      · exact SameCtxs.post ctl { f with cmds := _ } _
      · exact ⟨rfl, rfl⟩
    · exact ⟨rfl, rfl⟩
end
end Sys2Proof.Machine
namespace Sys2Proof.Machine

/-! ## Starting a command (R80-R84) -/

section
variable {s : State} {id : Nat} {c : Cmd} {f : Fab}

theorem Fab.cmd?_id (h : f.cmd? id = some c) : c.id = id :=
  beq_iff_eq.mp (List.find?_some (p := fun c : Cmd => c.id == id) h)
section
variable {op : Nat} (hu : s.ctl.uzRuns = true) (hc : s.fab.cmd? id = some c) (hs : s.fab.startable c = true) (ho : c.rec_.op.toNat = op)
include hu hc hs ho
theorem State.runCmd_eq (h : Cmd → Fab → Fab) : s.runCmd id op h =
    if s.fab.verdict c.rec_ ≠ 0 then { s with fab := s.fab.complete s.ctl id (s.fab.verdict c.rec_) false [] }
    else { s with fab := h c (s.fab.modCmd id (fun x => { x with started := true })) } := by
  have hstart : s.fab.startCmd? id op = some c := by
    unfold Fab.startCmd?
    rw [hc]
    exact if_pos ⟨ho, hs⟩
  unfold State.runCmd
  rw [hu, hstart]
/-- A command that fails its checks completes with its status, without effect or signal. -/
theorem State.runCmd_fails (hv : s.fab.verdict c.rec_ ≠ 0) (h : Cmd → Fab → Fab) :
    s.runCmd id op h = { s with fab := s.fab.complete s.ctl id (s.fab.verdict c.rec_) false [] } :=
  (State.runCmd_eq hu hc hs ho h).trans (if_pos hv)
/-- Another starts, and does what its row says. -/
theorem State.runCmd_starts (hv : s.fab.verdict c.rec_ = 0) (h : Cmd → Fab → Fab) :
    s.runCmd id op h = { s with fab := h c (s.fab.modCmd id (fun x => { x with started := true })) } :=
  (State.runCmd_eq hu hc hs ho h).trans (if_neg (not_not_intro hv))
end

/-! ### Semaphores and the buffers of failed CALLs (R84, R86) -/

theorem Fab.semStart_eq {ctl : Ctl} (hc : f.cmd? id = some c) (ho : f.inOrder c = true) (hv : f.verdict c.rec_ = 0)
    (hw : c.rec_.flags.getLsbD 1 = true) (hk : c.semOk = false) : f.semStart ctl id = match f.semRead ctl c.rec_ with
      | (none, f) => f.complete ctl id 2 true []
      | (some v, f) => if c.rec_.wval.toNat ≤ v then f.modCmd id (fun x => { x with semOk := true }) else f := by
  unfold Fab.semStart
  rw [hc]
  exact if_neg (by simp [ho, hv, hw, hk])
theorem exec_commandSemaphoreStart (hu : s.ctl.uzRuns = true) :
    exec (.commandSemaphoreStart id) s = .next { s with fab := s.fab.semStart s.ctl id } :=
  congrArg Host.Outcome.next (if_pos hu)
theorem Fab.startable_skipped {p : Nat} {y : Cmd} (hp : c.parent = some p) (hy : f.cmd? p = some y) (hf : y.failed.isSome = true) :
    f.startable c = false := by
  have hskip : f.skipped c = true := by simp [Fab.skipped, hp, hy, hf]
  simp [Fab.startable, Fab.inOrder, hskip]
end

/-! ## CREATE and DESTROY (R82, R88, R89) -/

section
variable {f : Fab} {ctl : Ctl} {c : Cmd}

theorem Fab.cmdCreate_exists (h : ∃ x, f.ctx? c.rec_.ctxId = some x) : f.cmdCreate ctl c = f.complete ctl c.id 4 true [] := by
  obtain ⟨x, hx⟩ := h
  exact if_pos (by rw [hx]; rfl)
theorem Fab.cmdCreate_unmapped (h : f.ctx? c.rec_.ctxId = none) (hm : memRange (c.rec_.operand 0) 512 = false) :
    f.cmdCreate ctl c = f.complete ctl c.id 2 true [] := by
  simp [Fab.cmdCreate, h, hm]
theorem Fab.cmdCreate_makes (h : f.ctx? c.rec_.ctxId = none) (hm : memRange (c.rec_.operand 0) 512 = true) {b : List Byte} {f1 : Fab}
    (hb : f.agentRead ctl 0 (c.rec_.operand 0) 512 = (b, f1)) (ha : (Ctx.ofBytes c.rec_.ctxId b).acceptable = true)
    (hq : (f1.readDesc ctl (Ctx.ofBytes c.rec_.ctxId b).evq).eventQueue (Ctx.ofBytes c.rec_.ctxId b).evq = true) :
    f.cmdCreate ctl c = ({ (f1.readDesc ctl (Ctx.ofBytes c.rec_.ctxId b).evq).forgetCtx c.rec_.ctxId with
      ctxs := (f1.readDesc ctl (Ctx.ofBytes c.rec_.ctxId b).evq).ctxs ++ [Ctx.ofBytes c.rec_.ctxId b] } : Fab).complete ctl c.id 0 true [] := by
  simp only [Fab.cmdCreate, h, hm, hb, ha, hq]
  rfl
/-- DESTROY removes its context, and every grid of it. -/
theorem Fab.cmdDestroy_spec (ctl : Ctl) (f : Fab) (c : Cmd) : (f.cmdDestroy ctl c).ctx? c.rec_.ctxId = none ∧
    ∀ g ∈ (f.cmdDestroy ctl c).grids, g.ctx ≠ c.rec_.ctxId := by
  unfold Fab.cmdDestroy
  extract_lets ctx f₁
  split
  next ok f₂ _ =>
  extract_lets f₃ f₄
  obtain ⟨hc, hg⟩ := SameCtxs.complete ctl f₄ c.id (if ok then 0 else 2) []
  refine ⟨?_, fun g h => ?_⟩
  · rw [Fab.ctx?, hc]
    exact List.find?_eq_none.mpr fun x hx => by simpa using (List.mem_filter.mp hx).2
  · rw [hg] at h
    simpa using (List.mem_filter.mp h).2

/-! ## RESUME (R90, R91) -/

/-- A valid image has a team. -/
theorem ImgHead.nteams_pos {h : ImgHead} {b : List Byte} (hk : h.ok b = true) : 1 ≤ h.nteams := by
  by_contra hn
  simp [ImgHead.ok, hn] at hk

section
variable {f1 : Fab}
theorem Fab.cmdResume_unread (hr : f.ctxRead ctl c.rec_.ctxId (c.rec_.operand 0) 256 = (none, f1)) :
    f.cmdResume ctl c = f1.complete ctl c.id 2 true (leBytes 16 0) := by
  simp only [Fab.cmdResume, hr]
variable {b : List Byte} (hr : f.ctxRead ctl c.rec_.ctxId (c.rec_.operand 0) 256 = (some b, f1))
include hr
theorem Fab.cmdResume_invalid (hk : (ImgHead.parse b).ok b = false) : f.cmdResume ctl c = f1.complete ctl c.id 5 true (leBytes 16 0) := by
  simp [Fab.cmdResume, hr, hk]
theorem Fab.cmdResume_starts (hk : (ImgHead.parse b).ok b = true) (hf : (ImgHead.parse b).full = false) :
    f.cmdResume ctl c = ({ f1 with
      nextId := f1.nextId + 1
      grids := f1.grids ++ [{ (ImgHead.parse b).grid f1.nextId c [] with exitedTeams := 0 }] } : Fab).enterHitch ⟨f1.nextId, 0, true⟩ := by
  have hn : ¬((ImgHead.parse b).grid f1.nextId c []).nteams ≤ 0 := Nat.not_le.mpr (ImgHead.nteams_pos hk)
  simp only [Fab.cmdResume, hr, hk, Fab.readTeams, hf, Bool.not_true, Bool.not_false, Bool.false_eq_true, if_true, if_false,
    List.foldl_nil, List.filter_nil, List.length_nil]
  exact if_neg hn
end
end
end Sys2Proof.Machine
namespace Sys2Proof.Machine
open Sys2Proof.Safety

/-! ## PREEMPT (R82, R109) -/

section
variable {f : Fab} {ctl : Ctl} {c y : Cmd}

theorem Fab.cmdPreempt_unnamed (h : f.named c = none) : f.cmdPreempt ctl c = f.complete ctl c.id 2 true [] := by
  rw [Fab.cmdPreempt, h]
theorem op_eq_four : y.rec_.op = 4 ↔ y.rec_.op.toNat = 4 := by
  rw [← BitVec.toNat_inj]
  rfl
section
variable (h : f.named c = some y)
include h
theorem Fab.cmdPreempt_other (ho : y.rec_.op.toNat ≠ 4) : f.cmdPreempt ctl c = f.complete ctl c.id 2 true [] := by
  rw [Fab.cmdPreempt, h]
  exact if_pos fun e => ho (op_eq_four.mp e)
variable (ho : y.rec_.op.toNat = 4)
include ho
theorem Fab.cmdPreempt_unstarted (hs : y.started = false) : f.cmdPreempt ctl c = f.preemptUnstarted ctl c y := by
  unfold Fab.cmdPreempt
  rw [h]
  dsimp only
  rw [if_neg (not_not_intro (op_eq_four.mpr ho)), if_pos (by rw [hs]; rfl)]
variable (hs : y.started = true)
include hs
theorem Fab.cmdPreempt_over (hg : ∀ g ∈ f.grids, g.cmd = y.id → g.ended = true) : f.cmdPreempt ctl c = f.complete ctl c.id 2 true [] := by
  have hnone : f.grids.find? (fun g => g.cmd == y.id && !g.ended) = none :=
    List.find?_eq_none.mpr fun g hm => by simpa using hg g hm
  unfold Fab.cmdPreempt
  rw [h]
  dsimp only
  rw [if_neg (not_not_intro (op_eq_four.mpr ho)), if_neg (by simp [hs]), hnone]
/-- A grid whose PREEMPT starts: its hitches leave the placement queue, and the clusters are asked. -/
def Fab.asksStop (f : Fab) (c : Cmd) (g : Grid) : Fab :=
  (f.clustersOf g.id).foldl (fun (h : Fab) cl => h.sendDown cl ⟨0x04, 0, g.ctx, g.seq, g.id, 0, 0, 0, 0, false⟩)
    (({ f with placement := f.placement.filter (fun x => x.grid != g.id) } : Fab).modGrid g.id
      (fun x => { x with preempt := some (c.id, BitVec.ofNat 64 (c.rec_.operand 8), f.clustersOf g.id), preempted := true }))
variable {g : Grid} (hg : f.grids.find? (fun g => g.cmd == y.id && !g.ended) = some g) (hp : g.preempt = none)
include hg hp
theorem Fab.cmdPreempt_waits (hfree : (f.clustersOf g.id).all f.downFree = false) :
    f.cmdPreempt ctl c = f.modCmd c.id (fun x => { x with started := false }) := by
  unfold Fab.cmdPreempt
  rw [h]
  dsimp only
  rw [if_neg (not_not_intro (op_eq_four.mpr ho)), if_neg (by simp [hs]), hg]
  dsimp only
  rw [if_neg (by simp [hp]), if_pos (by simp [hfree])]
theorem Fab.cmdPreempt_asks (hfree : (f.clustersOf g.id).all f.downFree = true) :
    f.cmdPreempt ctl c = (f.asksStop c g).preemptFinish ctl g.id := by
  unfold Fab.cmdPreempt
  rw [h]
  dsimp only
  rw [if_neg (not_not_intro (op_eq_four.mpr ho)), if_neg (by simp [hs]), hg]
  dsimp only
  rw [if_neg (by simp [hp]), if_neg (by simp [hfree])]
  rfl
end
/-- A PREEMPT that waits for the answer of a cluster does not finish. -/
theorem Fab.preemptFinish_asked {gid cmd : Nat} {image : DWord} {asked : List Nat} {x : Grid} (hx : f.grid? gid = some x)
    (hp : x.preempt = some (cmd, image, asked)) (ha : asked ≠ []) : f.preemptFinish ctl gid = f := by
  unfold Fab.preemptFinish
  rw [hx]
  dsimp only
  rw [hp]
  exact if_pos (.inl (by simpa using ha))
theorem Fab.asksStop_waits {g : Grid} (hg : g ∈ f.grids) (ha : f.clustersOf g.id ≠ []) :
    (f.asksStop c g).preemptFinish ctl g.id = f.asksStop c g := by
  have hgrids : (f.asksStop c g).grids = (f.modGrid g.id (fun x => { x with
      preempt := some (c.id, BitVec.ofNat 64 (c.rec_.operand 8), f.clustersOf g.id), preempted := true })).grids :=
    foldl_keeps (P := fun h : Fab => h.grids = _) _ rfl fun _ _ hh => hh
  obtain ⟨x, hx⟩ : ∃ x, f.grid? g.id = some x := Option.isSome_iff_exists.mp (List.find?_isSome.mpr ⟨g, hg, beq_self_eq_true g.id⟩)
  have hid : (x.id == g.id) = true := List.find?_some (p := fun k : Grid => k.id == g.id) hx
  have hlook := f.grid?_modGrid g.id g.id (h := fun x => { x with
    preempt := some (c.id, BitVec.ofNat 64 (c.rec_.operand 8), f.clustersOf g.id), preempted := true }) fun _ => rfl
  rw [hx, Option.map_some, if_pos hid, Fab.grid?, ← hgrids] at hlook
  exact Fab.preemptFinish_asked hlook rfl ha
/-- An unstarted RESUME of a full image completes with the counts that the image holds (log 31). -/
theorem Fab.preemptUnstarted_full {b : List Byte} {f1 f2 : Fab} {ok : Bool}
    (hr : f.ctxRead ctl y.rec_.ctxId (y.rec_.operand 0) 256 = (some b, f1)) (hf : (ImgHead.parse b).full = true)
    (hw : ({ f1 with grids := f1.grids ++ [{ (ImgHead.parse b).grid f1.nextId y [] with ended := true, preempted := true }], nextId := f1.nextId + 1 } :
      Fab).ctxWrite ctl c.rec_.ctxId (c.rec_.operand 8) b = (ok, f2)) :
    f.preemptUnstarted ctl c y =
      (f2.complete ctl y.id 7 true (sliceBytes b 0xB8 16)).complete ctl c.id (if ok then 0 else 2) true [] := by
  simp only [Fab.preemptUnstarted, hr, hf, if_true, hw]
end

/-! ## CALL, REPLY and STAMP (R85, R95) -/

section
variable {f : Fab} {ctl : Ctl} {c : Cmd}

theorem Fab.cmdCall_bad (h : c.rec_.operand 0 % 64 ≠ 0 ∨ fieldAt c.rec_.opnd 8 2 = 0 ∨ 4096 < fieldAt c.rec_.opnd 8 2) :
    f.cmdCall ctl c = f.complete ctl c.id 2 true [] := by
  unfold Fab.cmdCall
  rw [if_pos h]
theorem any_rangesMeet {rs : List (Nat × Nat)} {a n : Nat} :
    rs.any (fun r => rangesMeet r (a, n)) = true ↔ ∃ r ∈ rs, r.1 < a + n ∧ a < r.1 + r.2 := by
  simp [rangesMeet]
section
variable (ha : c.rec_.operand 0 % 64 = 0) (hn : fieldAt c.rec_.opnd 8 2 ≠ 0) (hm : fieldAt c.rec_.opnd 8 2 ≤ 4096)
include ha hn hm
theorem Fab.cmdCall_refused (h : 4 ≤ c.depth ∨ ∃ r ∈ c.chain, r.1 < c.rec_.operand 0 + 64 * fieldAt c.rec_.opnd 8 2 ∧
    c.rec_.operand 0 < r.1 + r.2) : f.cmdCall ctl c = f.complete ctl c.id 3 true [] := by
  unfold Fab.cmdCall
  rw [if_neg (by omega), if_pos (h.imp_right any_rangesMeet.mpr)]
theorem Fab.cmdCall_starts (hd : c.depth < 4) (h : ∀ r ∈ c.chain, ¬(r.1 < c.rec_.operand 0 + 64 * fieldAt c.rec_.opnd 8 2 ∧
    c.rec_.operand 0 < r.1 + r.2)) : f.cmdCall ctl c = f.modCmd c.id (fun x => { x with
      count := fieldAt c.rec_.opnd 8 2, chain := x.chain ++ [(c.rec_.operand 0, 64 * fieldAt c.rec_.opnd 8 2)] }) := by
  have hok : ¬(4 ≤ c.depth ∨ c.chain.any (fun r => rangesMeet r (c.rec_.operand 0, 64 * fieldAt c.rec_.opnd 8 2)) = true) := by
    rintro (h4 | hmeet)
    · omega
    · obtain ⟨r, hr, hov⟩ := any_rangesMeet.mp hmeet
      exact h r hr hov
  unfold Fab.cmdCall
  rw [if_neg (by omega), if_neg hok]
end

/-- A lane opens its window where it runs no handler. -/
theorem Fab.group?_openWindow {k sl l : Nat} {g : Group} (hg : f.group? k sl = some g) [Decidable (∃ x, g.trap = some x ∧ x.handlers.getLsbD l)] :
    (f.openWindow k sl l).group? k sl = some (if ∃ x, g.trap = some x ∧ x.handlers.getLsbD l then g
      else { g with lanes := g.lanes.modify l (fun x => if x.window = none then { x with window := some 0 } else x) }) := by
  have hopens : g.opens l = true ↔ ¬∃ x, g.trap = some x ∧ x.handlers.getLsbD l := by
    unfold Group.opens
    cases g.trap <;> simp [inMask]
  rw [Fab.openWindow, Fab.group?_modGroup_self, hg, Option.map_some]
  congr 1
  by_cases ho : g.opens l = true
  · rw [if_pos ho, if_neg (hopens.mp ho)]
    have hw : Lane.openWindow = fun x => if x.window = none then { x with window := some 0 } else x := by
      funext x
      simp [Lane.openWindow]
    rw [modAt, hw]
  · rw [if_neg ho, if_pos (not_not.mp (mt hopens.mpr ho))]
theorem Fab.cmdReply_lane {k sl l : Nat} (h : f.tokenLane c.rec_.ctxId (BitVec.ofNat 32 (fieldAt c.rec_.opnd 0 4)) = some (k, sl, l)) :
    f.cmdReply ctl c = (((f.writeReg k sl 0 [(l, ⟨BitVec.ofNat 32 (fieldAt c.rec_.opnd 4 4), .raw⟩)]).modLane k sl l
      (fun x => { x with park := none, pc := x.parkNext })).openWindow k sl l).complete ctl c.id 0 true [] := by
  simp only [Fab.cmdReply, h]
  rfl
section
variable {x : Ctx} (h : f.tokenLane c.rec_.ctxId (BitVec.ofNat 32 (fieldAt c.rec_.opnd 0 4)) = none)
  (hx : f.ctx? c.rec_.ctxId = some x)
include h hx
theorem Fab.cmdReply_unknown (ht : BitVec.ofNat 32 (fieldAt c.rec_.opnd 0 4) ∉ x.stale) :
    f.cmdReply ctl c = f.complete ctl c.id 2 true [] := by
  simp [Fab.cmdReply, h, hx, ht]
theorem Fab.cmdReply_stale (ht : BitVec.ofNat 32 (fieldAt c.rec_.opnd 0 4) ∈ x.stale) : f.cmdReply ctl c =
    (f.modCtx c.rec_.ctxId (fun x => { x with stale := x.stale.erase (BitVec.ofNat 32 (fieldAt c.rec_.opnd 0 4)) })).complete ctl c.id 9 true [] := by
  simp [Fab.cmdReply, h, hx, ht]
end
theorem Fab.cmdStamp_eq {ok : Bool} {f1 : Fab} (hw : f.ctxWrite ctl c.rec_.ctxId (c.rec_.operand 0) (leBytes 8 f.time.toNat) = (ok, f1)) :
    f.cmdStamp ctl c = f1.complete ctl c.id (if ok then 0 else 2) true [] := by
  simp only [Fab.cmdStamp, hw]
end

/-! ## Event queues (R78) -/

section
variable {s : State} {q : Nat}

theorem exec_eventQueueRecheck (hu : s.ctl.uzRuns = true) : exec (.eventQueueRecheck q) s = .next { s with fab := s.fab.flushQueue s.ctl q } :=
  congrArg Host.Outcome.next (if_pos hu)
theorem Fab.flushQueue_nothing {ctl : Ctl} {f : Fab} (h : ∀ p ∈ f.posts, p.queue ≠ q) : f.flushQueue ctl q = f := by
  have hf : f.posts.filter (fun p => p.queue == q) = [] := List.filter_eq_nil_iff.mpr fun p hp => by simpa using h p hp
  rw [Fab.flushQueue, hf, List.foldl_nil]
/-- One event that waits for a queue is posted where there is room. -/
theorem Fab.flushQueue_one {ctl : Ctl} {f : Fab} {d : UzQueue} {p : EventPost} {ps : List EventPost} (hd : Table.get? f.queues q = some d)
    (hp : f.posts = p :: ps) (hq : p.queue = q) (hps : ∀ p ∈ ps, p.queue ≠ q) :
    f.flushQueue ctl q = if f.queueRoom ctl d then { f.writeEvent ctl d p with posts := ps } else f := by
  have hf : (p :: ps).filter (fun p => p.queue == q) = [p] := by
    rw [List.filter_cons_of_pos (by simpa using hq)]
    congr 1
    exact List.filter_eq_nil_iff.mpr fun p hp => by simpa using hps p hp
  unfold Fab.flushQueue
  rw [hp, hf]
  simp only [hf, List.foldl_cons, List.foldl_nil, hd, List.head?_cons, hp, Option.isSome_some, true_and, List.erase_cons_head]
end
end Sys2Proof.Machine
namespace Sys2Proof.Safety
open Sys2Proof.Machine

/-- Settles O57, command by command. -/
theorem commandEvents : Obligations.CommandEvents := by
  unfold Obligations.CommandEvents
  intro id s c hu hc
  obtain rfl := Fab.cmd?_id hc
  intro f put op ctx o v ends
  refine ⟨fun hs => ⟨fun hv j hj => ?_, fun hv => ?_⟩, fun ho hv hw hk x f1 hx => ?_, fun ho hv hw hk f1 hx => ?_,
    fun ⟨p, y, hp, hy, hf⟩ => Fab.startable_skipped hp hy hf, fun q hq => ?_, fun q d p ps hd hposts hq hps hirq => ?_⟩
  · have fails {n : Nat} (hn : op = n) (h : Cmd → Fab → Fab) :
        (Host.Outcome.next (s.runCmd c.id n h) : Out) = .next (put (s.fab.complete s.ctl c.id v false [])) :=
      congrArg Host.Outcome.next (State.runCmd_fails hu hc hs hn hv h)
    simp only [List.mem_cons, List.not_mem_nil, or_false, Prod.mk.injEq] at hj
    rcases hj with ⟨rfl, hn⟩ | ⟨rfl, hn⟩ | ⟨rfl, hn⟩ | ⟨rfl, hn⟩ | ⟨rfl, hn⟩ | ⟨rfl, hn⟩ | ⟨rfl, hn⟩ | ⟨rfl, hn⟩ <;> exact fails hn _
  · have run {n : Nat} {h : Cmd → Fab → Fab} (hn : op = n) {g : Fab} (e : h c f = g) :
        (Host.Outcome.next (s.runCmd c.id n h) : Out) = .next (put g) :=
      congrArg Host.Outcome.next ((State.runCmd_starts hu hc hs hn hv h).trans (congrArg put e))
    refine ⟨fun hn => run hn rfl, fun hn => ?create, fun hn => ?destroy, fun hn r f1 hr => ?resume, fun hn => ?preempt,
      fun hn => ?call, fun hn => ?reply, fun hn ok f1 hw => run hn (Fab.cmdStamp_eq hw)⟩
    case create =>
      exact ⟨fun hx => run hn (Fab.cmdCreate_exists hx), fun hx hm => run hn (Fab.cmdCreate_unmapped hx hm),
        fun hx hm b f1 hb ha hq => run hn (Fab.cmdCreate_makes (f := f) hx hm hb ha hq)⟩
    case destroy =>
      obtain ⟨hctx, hgrids⟩ := Fab.cmdDestroy_spec s.ctl f c
      exact ⟨_, run hn rfl, hctx, hgrids⟩
    case resume =>
      refine ⟨?_, ?_, ?_⟩
      · rintro rfl
        exact run hn (Fab.cmdResume_unread hr)
      · rintro b rfl hk
        exact run hn (Fab.cmdResume_invalid hr hk)
      · rintro b rfl hk hf
        exact ⟨_, run hn (Fab.cmdResume_starts hr hk hf), rfl, rfl, rfl, rfl, if_neg (by simp [hf]), rfl, rfl⟩
    case preempt =>
      refine ⟨fun hx => run hn (Fab.cmdPreempt_unnamed hx), fun y hy => ⟨fun h4 => run hn (Fab.cmdPreempt_other hy h4),
        fun h4 hst => ⟨fun hg => run hn (Fab.cmdPreempt_over hy h4 hst hg), fun g hg hp => ⟨fun hfree => ?_, fun hfree => ?_⟩⟩,
        fun h4 hst b f1 hr hf ok f2 hw => ?_⟩⟩
      · exact run hn (Fab.cmdPreempt_waits hy h4 hst hg hp hfree)
      · have hasks := Fab.cmdPreempt_asks (ctl := s.ctl) hy h4 hst hg hp hfree
        exact ⟨run hn hasks, fun ha => run hn (hasks.trans (Fab.asksStop_waits (List.mem_of_find?_eq_some hg) ha))⟩
      · exact run hn ((Fab.cmdPreempt_unstarted hy h4 hst).trans (Fab.preemptUnstarted_full hr hf hw))
    case call =>
      exact ⟨fun h => run hn (Fab.cmdCall_bad h), fun ha h0 hm h => run hn (Fab.cmdCall_refused ha h0 hm h),
        fun ha h0 hm hd h => run hn (Fab.cmdCall_starts ha h0 hm hd h)⟩
    case reply =>
      exact ⟨fun k sl l hl => ⟨run hn (Fab.cmdReply_lane hl), fun g hg => Fab.group?_openWindow hg⟩,
        fun x hl hx ht => run hn (Fab.cmdReply_unknown hl hx ht), fun x hl hx ht => run hn (Fab.cmdReply_stale hl hx ht)⟩
  · rw [exec_commandSemaphoreStart hu, Fab.semStart_eq hc ho hv hw hk, hx]
  · rw [exec_commandSemaphoreStart hu, Fab.semStart_eq hc ho hv hw hk, hx]
  · rw [exec_eventQueueRecheck hu, Fab.flushQueue_nothing hq]
  · rw [exec_eventQueueRecheck hu, Fab.flushQueue_one hd hposts hq hps]
    refine ⟨fun hr => by rw [hr]; rfl, fun hr => ?_⟩
    obtain ⟨-, -, hevent⟩ := Fab.writeEvent_spec s.ctl s.fab d p
    obtain ⟨hmsis, hqueue⟩ := hevent hirq
    rw [if_pos hr]
    refine ⟨_, rfl, rfl, hmsis, ?_⟩
    rw [← hq]
    exact congrArg (Option.map UzQueue.last) hqueue

end Sys2Proof.Safety
end

section
set_option Elab.async false

/-! # Placement, pre-emption and lanyard messages (O58) -/

namespace Sys2Proof.Machine

/-! ## What the device's accesses to a context's memory leave of hitches -/

section
variable {f₀ f g : Fab} {ctl : Ctl} {ctx pa n line slice stamp : Nat} {key : BitVec 12} {home : BitVec 4} {bs : List Byte}

/-- A fabric has the grids of another, and its cores the same lanes, but for what a stop may change. -/
def SameHitches (f g : Fab) : Prop := SameLanes f g ∧ g.grids = f.grids

theorem SameHitches.refl : SameHitches f f := ⟨.refl, rfl⟩
theorem SameHitches.lanes (h : SameHitches f g) : SameLanes f g := h.1
theorem SameHitches.grids (h : SameHitches f g) : g.grids = f.grids := h.2
theorem SameHitches.ite {p : Prop} {_ : Decidable p} (hf : SameHitches f₀ f) (hg : SameHitches f₀ g) : SameHitches f₀ (if p then f else g) := by
  split <;> assumption
theorem SameHitches.ite_snd {α : Type} {p : Prop} {_ : Decidable p} {x y : α × Fab} (hx : SameHitches f₀ x.2) (hy : SameHitches f₀ y.2) :
    SameHitches f₀ (if p then x else y).2 := by
  split <;> assumption
/-- The fabric of a pair that a branch has named. -/
theorem SameHitches.of_eq {α : Type} {p : α × Fab} {a : α} (e : p = (a, f)) (h : SameHitches f₀ p.2) : SameHitches f₀ f := by
  subst e
  exact h

section
variable (h : SameHitches f₀ f)
include h

theorem SameHitches.update (hc : g.cores = f.cores) (hg : g.grids = f.grids) : SameHitches f₀ g := ⟨h.lanes.of_cores hc, hg.trans h.grids⟩
theorem SameHitches.memWritten (hw : MemWritten f g) (hl : SameLanes f₀ g) : SameHitches f₀ g := ⟨hl, hw.grids.trans h.grids⟩

theorem SameHitches.l2Evict : SameHitches f₀ (f.l2Evict ctl line) := h.memWritten (.l2Evict ctl f line) h.lanes.l2Evict
theorem SameHitches.memPutBytes {km : BitVec 512} : SameHitches f₀ (f.memPutBytes km pa bs) :=
  h.memWritten (.memPutBytes ..) (h.lanes.of_cores (Fab.memPutBytes_cores ..))
theorem SameHitches.written {core : Option Nat} : SameHitches f₀ (f.written ctl core pa n) := h.memWritten (.written ..) h.lanes.written
theorem SameHitches.l2Take : SameHitches f₀ (f.l2Take ctl slice key line stamp).2 := by
  unfold Fab.l2Take
  dsimp only
  split
  · exact h
  · split
    · exact h
    · split
      · exact h.update rfl rfl
      · exact h.l2Evict
theorem SameHitches.l2Open : SameHitches f₀ (f.l2Open ctl none ctx key home pa).2 := by
  unfold Fab.l2Open
  have hr : SameHitches f₀ { f with nextId := f.nextId + 1 } := h.update rfl rfl
  dsimp only [Fab.route]
  split
  · split
    · exact hr
    · exact .ite (hr.l2Evict.l2Take.update rfl rfl) hr.l2Evict.l2Take
  · exact hr.l2Take
theorem SameHitches.l2ReadLine : SameHitches f₀ (f.l2ReadLine ctl none ctx key home pa n).2 := by
  unfold Fab.l2ReadLine
  split
  · next e => exact .of_eq e h.l2Open
  · next e => exact (SameHitches.of_eq e h.l2Open).update rfl rfl
theorem SameHitches.l2WriteLine : SameHitches f₀ (f.l2WriteLine ctl none ctx key home pa bs) := by
  unfold Fab.l2WriteLine
  split
  · next e => exact (SameHitches.of_eq e h.l2Open).memPutBytes
  · next e => exact (SameHitches.of_eq e h.l2Open).update rfl rfl
theorem SameHitches.l2Read : SameHitches f₀ (f.l2Read ctl none ctx key home pa n).2 :=
  foldl_keeps (P := fun r : List Byte × Fab => SameHitches f₀ r.2) _ h fun _ _ hr => hr.l2ReadLine
theorem SameHitches.l2Write : SameHitches f₀ (f.l2Write ctl none ctx key home pa bs) :=
  (foldl_keeps (P := fun r : Fab × Nat => SameHitches f₀ r.1) _ h fun _ _ hr => hr.l2WriteLine).written
omit h in
theorem SameHitches.walkFrom {va fuel level table : Nat} {lines : List Nat} (h : SameHitches f₀ f) :
    SameHitches f₀ (f.walkFrom ctl ctx va fuel level table lines).2 := by
  induction fuel generalizing f level table lines with
  | zero => exact h
  | succ fuel ih =>
    have hr : SameHitches f₀ (f.l2Read ctl none ctx 0 0 (table + 8 * levelIndex level va) 8).2 := h.l2Read
    exact .ite_snd h (.ite_snd hr (.ite_snd hr (.ite_snd (ih hr) hr)))
theorem SameHitches.setAD {pte at_ : Nat} {w : Bool} : SameHitches f₀ (f.setAD ctl ctx pte at_ w).2 := by
  have hm : SameHitches f₀ { f with marks := f.marks.filter (fun x => x != at_ / 256) } := h.update rfl rfl
  have hw := hm.l2Write (ctl := ctl) (ctx := ctx) (key := 0) (home := 0) (pa := at_)
    (bs := leBytes 8 (if w then pte ||| 0x30 else pte ||| 0x10))
  exact .ite_snd h ⟨hw.lanes.mapCores fun _ => ⟨rfl, rfl⟩, hw.grids⟩
theorem SameHitches.translate {va : Nat} {acc : Access} : SameHitches f₀ (f.translate ctl none ctx va acc).2 := by
  unfold Fab.translate
  split
  · exact h
  · next x _ =>
    have hw : SameHitches f₀ (f.lookup ctl none x va).2 := h.walkFrom
    split
    · next e => exact .of_eq e hw
    · next e => exact .of_eq e hw
    · next e =>
      have hg := SameHitches.of_eq e hw
      exact .ite_snd hg (.ite_snd hg.setAD hg.setAD)
theorem SameHitches.paWrite {who : Writer} : SameHitches f₀ (f.paWrite ctl key who pa bs).2 := by
  unfold Fab.paWrite
  exact .ite_snd (((foldl_keeps (P := SameHitches f₀) _ h fun _ _ hg => hg.l2Evict).memPutBytes).written)
    (.ite_snd (h.update rfl rfl) h)
theorem SameHitches.ctxParts {vs : List (Nat × Nat)} {acc : Access} : SameHitches f₀ (f.ctxParts ctl ctx vs acc).2 := by
  refine foldl_keeps (P := fun r : Option (List PaPart) × Fab => SameHitches f₀ r.2) _ h fun r p hr => ?_
  split
  · exact hr
  · refine .ite_snd hr ?_
    split
    · next e => exact .of_eq e hr.translate
    · next e => exact .of_eq e hr.translate
theorem SameHitches.ctxWrite {va : Nat} : SameHitches f₀ (f.ctxWrite ctl ctx va bs).2 := by
  unfold Fab.ctxWrite Fab.writeParts
  split
  · next e => exact .of_eq e h.ctxParts
  · next e =>
    exact foldl_keeps (P := fun r : Bool × Fab × Nat => SameHitches f₀ r.2.1) _ (SameHitches.of_eq e h.ctxParts) fun _ _ hr => hr.paWrite
theorem SameHitches.writeImage {va : Nat} {x : Grid} : SameHitches f₀ (f.writeImage ctl ctx va x).2 :=
  foldl_keeps (P := fun r : Bool × Fab => SameHitches f₀ r.2) _ h fun _ _ hr => .ite_snd hr.ctxWrite hr

/-! ## What a completion leaves of them -/

theorem SameHitches.semStore {r : CmdRec} : SameHitches f₀ (f.semStore ctl r).2 := .ite_snd h.paWrite h.ctxWrite
theorem SameHitches.modGroup {c slot : Nat} {m : Group → Group} (hm : ∀ g, (m g).lanes.map Lane.kept = g.lanes.map Lane.kept) :
    SameHitches f₀ (f.modGroup c slot m) := by
  refine ⟨fun d => ?_, (Fab.modGroup_grids ..).trans h.grids⟩
  rw [← h.lanes d]
  by_cases hd : d = c
  · have hg (t : Team) : (t.groups.modify slot m).map (fun g => g.lanes.map Lane.kept) = t.groups.map (fun g => g.lanes.map Lane.kept) :=
      List.ext_getElem (by simp) fun i _ _ => by
        rw [List.getElem_map, List.getElem_map, List.getElem_modify]
        split
        · exact hm _
        · rfl
    rw [hd, Fab.core_modGroup_self]
    cases ht : (f.core c).team <;> simp [Core.kept, ht, modAt, hg]
  · rw [Fab.core_modGroup_other _ _ _ hd]
/-- An `irq` that retires opens windows alone. -/
theorem SameHitches.irqRetire {c slot : Nat} : SameHitches f₀ (f.irqRetire c slot) := by
  refine h.modGroup fun g => ?_
  split
  · refine List.ext_getElem (by simp) fun i _ _ => ?_
    simp only [List.getElem_map, List.getElem_mapIdx]
    split
    · unfold Lane.openWindow
      split <;> rfl
    · rfl
  · rfl
theorem SameHitches.writeEvent {q : UzQueue} {p : EventPost} : SameHitches f₀ (f.writeEvent ctl q p) := by
  unfold Fab.writeEvent
  extract_lets n at_ f₁ f₂ f₃
  have hw : SameHitches f₀ f₂ := h.paWrite.paWrite
  split
  · exact hw.update rfl rfl
  · exact (hw.update rfl rfl : SameHitches f₀ (f₃.msi _ _)).irqRetire
theorem SameHitches.flushQueue {qi : Nat} : SameHitches f₀ (f.flushQueue ctl qi) := by
  refine foldl_keeps (P := SameHitches f₀) _ h fun g p hg => ?_
  split
  · exact hg
  · exact .ite (hg.writeEvent.update rfl rfl) hg
theorem SameHitches.post {p : EventPost} : SameHitches f₀ (f.post ctl p) := by
  unfold Fab.post
  split
  · exact .ite (h.update rfl rfl : SameHitches f₀ { f with posts := f.posts ++ [p] }).flushQueue h
  · exact h
omit h in
theorem SameHitches.failUp (h : SameHitches f₀ f) {status fuel : Nat} {p : Option Nat} {ix : List Nat} :
    SameHitches f₀ (Fab.failUp status fuel p ix f) := by
  induction fuel generalizing p ix f with
  | zero => exact h
  | succ fuel ih =>
    cases p with
    | none => exact h
    | some p =>
      unfold Fab.failUp
      split
      · exact h
      · refine ih ?_
        exact h.update rfl rfl
theorem SameHitches.complete {id st : Nat} {ss : Bool} {data : List Byte} : SameHitches f₀ (f.complete ctl id st ss data) := by
  unfold Fab.complete
  split
  · exact h
  · extract_lets f₁
    have h₁ : SameHitches f₀ f₁ := h.update rfl rfl
    split
    next ok f₂ e =>
    have h₂ : SameHitches f₀ f₂ := .of_eq e (.ite_snd h₁.semStore h₁)
    extract_lets status ev f₃
    have h₃ : SameHitches f₀ f₃ := by
      dsimp only [f₃]
      split
      · exact .ite h₂.post h₂
      · exact h₂
    exact .ite h₃ h₃.failUp
theorem SameHitches.endPreempts {x : Grid} {st : Nat} : SameHitches f₀ (f.endPreempts ctl x st) :=
  foldl_keeps (P := SameHitches f₀) _ h fun _ _ hg => hg.complete
end

/-- A core without a team gets none where the lanes stand. -/
theorem SameLanes.vacant {c : Nat} (h : SameLanes f g) (hc : (f.core c).team = none) : (g.core c).team = none := by
  have hk : (g.core c).kept = none := by
    rw [h c, Core.kept, hc]
    rfl
  exact Option.map_eq_none_iff.mp hk
/-- The end of a grid changes the grid alone, of all hitches. -/
theorem Fab.gridEnd_keeps {gid : Nat} {x : Grid} (hx : f.grid? gid = some x) :
    SameHitches (f.modGrid gid (fun x => { x with ended := true, preempt := none, preempted := false, saved := [] })) (f.gridEnd ctl gid) := by
  unfold Fab.gridEnd
  rw [hx]
  exact SameHitches.refl.complete.endPreempts
theorem SameLanes.gridEnd {gid : Nat} : SameLanes f (f.gridEnd ctl gid) := by
  cases hx : f.grid? gid with
  | none =>
    unfold Fab.gridEnd
    rw [hx]
    exact .refl
  | some x => exact fun c => (Fab.gridEnd_keeps hx).lanes c
theorem SameLanes.preemptFinish {gid : Nat} : SameLanes f (f.preemptFinish ctl gid) := by
  unfold Fab.preemptFinish
  split
  · split
    · split
      · exact .refl
      · extract_lets ctx
        split
        next ok f₁ e =>
        have hw : SameHitches f f₁ := .of_eq e SameHitches.refl.writeImage
        extract_lets f₂ f₃
        have h₂ : SameLanes f f₂ := hw.lanes.of_cores rfl
        have h₃ : SameHitches f₂ f₃ := SameHitches.refl.complete
        exact fun c => (h₃.complete.endPreempts.lanes c).trans (h₂ c)
    · exact .refl
  · exact .refl
end
end Sys2Proof.Machine
namespace Sys2Proof.Machine
open Sys2Proof.Safety

/-! ## Links (R98) -/

section
variable {s : State} {f : Fab} {ctl : Ctl} {cl type : Nat} {k : Lanyard} {m : LanyardMsg} {ms : List LanyardMsg}

theorem set_self_of_getElem? {α : Type} {l : List α} {i : Nat} {x : α} (h : l[i]? = some x) : l.set i x = l := by
  obtain ⟨hi, rfl⟩ := List.getElem?_eq_some_iff.mp h
  exact List.set_getElem_self hi

section
variable (hk : f.links[cl]? = some k)
include hk
theorem Fab.upFree_tookDown : (f.tookDown cl m).upFree cl = decide (k.upPermits + m.pret ≠ 0) := by
  simp [Fab.upFree, Fab.tookDown, modAt, hk, Lanyard.takeDown, bne, beq_eq_decide]
theorem Fab.held_tookDown : (f.tookDown cl m).links[cl]?.map Lanyard.held = some k.held := by
  simp [Fab.tookDown, modAt, hk, Lanyard.takeDown]
variable (hd : k.down = m :: ms)
include hd
theorem Fab.headDown_of (ht : m.type.toNat = type) : f.headDown cl type = some m := by
  simp [Fab.headDown, hk, hd, ht]
/-- A message consumed by a cluster: its permits return, and the cluster owes one, but for a PERMIT. -/
theorem Fab.tookDown_eq : f.tookDown cl m = { f with links := f.links.set cl { k with
    down := ms
    upPermits := k.upPermits + m.pret
    owedUp := if m.type = 0x07 then k.owedUp else k.owedUp + 1
    owedUpAt := if k.owedUp = 0 then f.time.toNat else k.owedUpAt } } := by
  rw [Fab.tookDown, modAt, modify_eq_set _ _ _ _ hk]
  simp [Lanyard.takeDown, LanyardMsg.isPermit, hd]
/-- A leaf controller that lacks a permit for its answer, or holds messages already, holds a PLACE or PREEMPT. -/
theorem Fab.leafTake_holds (ht : m.type.toNat = type) (h6 : m.type ≠ 0x06) (hw : k.held ≠ [] ∨ ¬k.upPermits + m.pret ≠ 0) :
    f.leafTake ctl cl type =
      { f.tookDown cl m with links := (f.tookDown cl m).links.modify cl (fun y => { y with held := y.held ++ [m] }) } := by
  obtain ⟨y, hy, hheld⟩ := Option.map_eq_some_iff.mp (Fab.held_tookDown (m := m) hk)
  unfold Fab.leafTake
  rw [Fab.headDown_of hk hd ht]
  dsimp only
  rw [hy, Fab.upFree_tookDown hk]
  refine if_pos ⟨h6, ?_⟩
  simpa [hheld, or_iff_not_imp_left] using hw
theorem Fab.leafTake_acts (ht : m.type.toNat = type) (hf : m.type = 0x06 ∨ (k.held = [] ∧ k.upPermits + m.pret ≠ 0)) :
    f.leafTake ctl cl type = (f.tookDown cl m).leafDo ctl cl m := by
  obtain ⟨y, hy, hheld⟩ := Option.map_eq_some_iff.mp (Fab.held_tookDown (m := m) hk)
  unfold Fab.leafTake
  rw [Fab.headDown_of hk hd ht]
  dsimp only
  rw [hy, Fab.upFree_tookDown hk]
  refine if_neg ?_
  rcases hf with h6 | ⟨hh, hp⟩
  · simp [h6]
  · simpa [hheld, hh] using fun _ => hp
end

section
variable (hk : f.links[cl]? = some k) (hd : k.up = m :: ms)
include hk hd
theorem Fab.headUp_of (ht : m.type.toNat = type) : f.headUp cl type = some m := by
  simp [Fab.headUp, hk, hd, ht]
/-- A message consumed by Uzoman: its permits return, and Uzoman owes one, but for a PERMIT. -/
theorem Fab.tookUp_eq : f.tookUp cl m = { f with links := f.links.set cl { k with
    up := ms
    downPermits := k.downPermits + m.pret
    owedDown := if m.type = 0x07 then k.owedDown else k.owedDown + 1
    owedDownAt := if k.owedDown = 0 then f.time.toNat else k.owedDownAt } } := by
  rw [Fab.tookUp, modAt, modify_eq_set _ _ _ _ hk]
  simp [Lanyard.takeUp, LanyardMsg.isPermit, hd]
end

theorem knownType_eq_false {t : Byte} (h : 7 < t.toNat ∨ t = 0) : knownType t = false := by
  rcases h with h | rfl
  · simp [knownType, h]
  · rfl

section
variable (hk : s.fab.links[cl]? = some k)
include hk

theorem exec_lanyardPermit_down (hd : k.down = m :: ms) (ht : m.type = 0x07) :
    exec (.lanyardPermit cl false) s = .next { s with fab := s.fab.tookDown cl m } := by
  show execLanyardPermit cl false s = _
  have hh : s.fab.headDown cl 0x07 = some m := Fab.headDown_of hk hd (by rw [ht]; rfl)
  simp [execLanyardPermit, hh]
theorem exec_lanyardPermit_up (hu : s.ctl.uzRuns = true) (hd : k.up = m :: ms) (ht : m.type = 0x07) :
    exec (.lanyardPermit cl true) s = .next { s with fab := s.fab.tookUp cl m } := by
  show execLanyardPermit cl true s = _
  have hh : s.fab.headUp cl 0x07 = some m := Fab.headUp_of hk hd (by rw [ht]; rfl)
  simp [execLanyardPermit, hh, hu]
theorem exec_lanyardPlaced (hu : s.ctl.uzRuns = true) (hd : k.up = m :: ms) (ht : m.type = 0x02) :
    exec (.lanyardPlaced cl) s = .next { s with fab := s.fab.tookUp cl m } := by
  show execLanyardPlaced cl s = _
  have hh : s.fab.headUp cl 0x02 = some m := Fab.headUp_of hk hd (by rw [ht]; rfl)
  simp [execLanyardPlaced, hh, hu]
theorem exec_lanyardLinkError_down (hd : k.down = m :: ms) (ht : 7 < m.type.toNat ∨ m.type = 0) :
    exec (.lanyardLinkError cl false) s = .next { s with fab := (counted s.fab 0x760).tookDown cl m } := by
  show execLanyardLinkError cl false s = _
  simp [execLanyardLinkError, hk, hd, knownType_eq_false ht, Fab.count_eq_counted]
theorem exec_lanyardLinkError_up (hd : k.up = m :: ms) (ht : 7 < m.type.toNat ∨ m.type = 0) :
    exec (.lanyardLinkError cl true) s = .next { s with fab := (counted s.fab 0x760).tookUp cl m } := by
  show execLanyardLinkError cl true s = _
  simp [execLanyardLinkError, hk, hd, knownType_eq_false ht, Fab.count_eq_counted]

/-- Permits that a cluster has owed for 1 µs return in a message of their own. -/
theorem exec_permitReturnTimeout_up : exec (.permitReturnTimeout cl true) s = .next (if k.owedUp ≠ 0 ∧ k.owedUpAt + 1000 ≤ s.fab.time.toNat then
    { s with fab := { s.fab with links := s.fab.links.set cl { k with
      up := k.up ++ [⟨0x07, k.owedUp, 0, 0, 0, 0, 0, 0, 0, false⟩]
      owedUp := 0 } } } else s) := by
  show execPermitReturnTimeout cl true s = _
  dsimp only [execPermitReturnTimeout, modAt]
  rw [modify_eq_set _ _ _ _ hk]
  simp only [if_true]
  split
  · rfl
  · rw [set_self_of_getElem? hk]
theorem exec_permitReturnTimeout_down (hu : s.ctl.uzRuns = true) :
    exec (.permitReturnTimeout cl false) s = .next (if k.owedDown ≠ 0 ∧ k.owedDownAt + 1000 ≤ s.fab.time.toNat then
      { s with fab := { s.fab with links := s.fab.links.set cl { k with
        down := k.down ++ [⟨0x07, k.owedDown, 0, 0, 0, 0, 0, 0, 0, false⟩]
        owedDown := 0 } } } else s) := by
  show execPermitReturnTimeout cl false s = _
  dsimp only [execPermitReturnTimeout, modAt]
  rw [modify_eq_set _ _ _ _ hk]
  simp only [hu, and_true, Bool.false_eq_true, if_false]
  split
  · rfl
  · rw [set_self_of_getElem? hk]
end
end

/-! ## The placement queue (R100) -/

section
variable {s : State} {f : Fab} {ctl : Ctl} {h h₂ : Hitch} {hs hs₂ : List Hitch} {g g₂ : Grid} {seen : List Nat} {c : Nat}

/-- What a placement leaves of a queue whose first entry it takes: the later hitches that the entry stands for. -/
def hitchRest (h : Hitch) (g : Grid) (hs : List Hitch) : List Hitch :=
  if h.more = true ∧ h.index < g.nteams / g.hitch - 1 then { h with index := h.index + 1 } :: hs else hs
/-- The PLACE of a hitch. -/
def Hitch.place (h : Hitch) (g : Grid) : LanyardMsg := ⟨0x01, 0, g.ctx, g.seq, g.id, h.index * g.hitch, g.hitch, g.image, 0, false⟩

theorem hitchTaken_head (h : Hitch) (g : Grid) (hs : List Hitch) : hitchTaken h (g.nteams / g.hitch - 1) (h :: hs) = hitchRest h g hs :=
  if_pos rfl
theorem hitchTaken_other (hne : h ≠ h₂) (last : Nat) : hitchTaken h₂ last (h :: hs) = h :: hitchTaken h₂ last hs := if_neg hne

section
variable (hseen : h.grid ∉ seen) (hg : f.grid? h.grid = some g)
include hseen hg
theorem Fab.hitchFor_over (ho : g.hitchOver h.index = true) : f.hitchFor ctl seen (h :: hs) = some (h, g, none) := by
  simp [Fab.hitchFor, hseen, hg, ho]
theorem Fab.hitchFor_fits (ho : g.hitchOver h.index = false) (hp : g.placeable h.index = true) (hc : f.clusterFor ctl g.hitch = some c) :
    f.hitchFor ctl seen (h :: hs) = some (h, g, some c) := by
  simp [Fab.hitchFor, hseen, hg, ho, hp, hc]
/-- A hitch that does not fit is passed over, and with it its grid (log 33). -/
theorem Fab.hitchFor_waits (ho : g.hitchOver h.index = false) (hw : f.clusterFor ctl g.hitch = none ∨ g.placeable h.index = false) :
    f.hitchFor ctl seen (h :: hs) = f.hitchFor ctl (h.grid :: seen) hs := by
  have hn : (if g.placeable h.index = true then f.clusterFor ctl g.hitch else none) = none := by
    rcases hw with hw | hw <;> simp [hw]
  simp [Fab.hitchFor, hseen, hg, ho, hn]
end

theorem exec_hitchPlace (hu : s.ctl.uzRuns = true) : exec .hitchPlace s = .next { s with fab := s.fab.hitchPlace s.ctl } :=
  congrArg Host.Outcome.next (if_pos hu)
theorem Fab.hitchPlace_empty (hq : f.placement = []) : f.hitchPlace ctl = f := by
  simp [Fab.hitchPlace, hq, Fab.hitchFor]
theorem Fab.hitchPlace_over (hf : f.hitchFor ctl [] f.placement = some (h, g, none)) :
    f.hitchPlace ctl = { f with placement := hitchTaken h (g.nteams / g.hitch - 1) f.placement } := by
  simp [Fab.hitchPlace, hf]
theorem Fab.hitchPlace_sends (hf : f.hitchFor ctl [] f.placement = some (h, g, some c)) :
    f.hitchPlace ctl = if f.downFree c then
      ({ f with placement := hitchTaken h (g.nteams / g.hitch - 1) f.placement } : Fab).sendDown c (h.place g) else f := by
  unfold Fab.hitchPlace
  rw [hf]
  dsimp only
  cases f.downFree c <;> rfl
end

/-! ## A leaf controller places a hitch (R101) -/

section
variable {f : Fab} {ctl : Ctl} {cl : Nat} {m : LanyardMsg} {g : Grid}

variable (hm : m.type = 0x01) (hg : f.grid? m.grid = some g) (he : g.ended = false)
include hm hg he
theorem Fab.leafDo_places (hn : g.hitch ≤ ((f.freeCores ctl cl).take g.hitch).length) (hp : g.placeable (m.team / g.hitch) = true) :
    f.leafDo ctl cl m = (f.placeHitch ctl g m.team ((f.freeCores ctl cl).take g.hitch)).sendUp cl
      ⟨0x02, 0, g.ctx, g.seq, g.id, m.team, 0, 0,
        BitVec.ofNat 8 (((f.freeCores ctl cl).take g.hitch).foldl (fun a c => a + 2 ^ (c % 8)) 0), false⟩ := by
  unfold Fab.leafDo Fab.placeNow
  rw [if_pos hm, hg]
  dsimp only
  rw [if_neg (by simp [he]), if_neg (by simp [hp]; simpa using hn)]
/-- A hitch that a retirement has left without cores goes back to the queue (log 56). -/
theorem Fab.leafDo_returns (hn : ((f.freeCores ctl cl).take g.hitch).length < g.hitch ∨ g.placeable (m.team / g.hitch) = false)
    (hp : g.preempt = none) : f.leafDo ctl cl m = f.enterHitch ⟨g.id, m.team / g.hitch, false⟩ := by
  unfold Fab.leafDo Fab.placeNow
  rw [if_pos hm, hg]
  dsimp only
  rw [if_neg (by simp [he]), if_pos (by simpa using hn), if_neg (by simp [hp])]
end

/-! ## A leaf controller asks groups to stop (R108, R111) -/

section
variable {f : Fab} {ctl : Ctl} {c cl slot : Nat} {m : LanyardMsg} {cs : List Nat}

/-- A group that is asked to stop, unless it has ended. -/
def Group.asked (g : Group) : Group := if g.ended then g else { g with stop := some .preempt }
theorem Group.asked_asked (g : Group) : g.asked.asked = g.asked := by
  by_cases he : g.ended = true
  · simp only [Group.asked, he, if_true]
  · have he' : ({ g with stop := some .preempt } : Group).ended = g.ended := rfl
    simp only [Group.asked, he, Bool.false_eq_true, if_false, he']
theorem Fab.group?_askStop (f : Fab) (d c slot : Nat) :
    (f.askStop d).group? c slot = if c = d then (f.group? c slot).map Group.asked else f.group? c slot := by
  unfold Fab.askStop Fab.group?
  split
  · next h =>
    rw [h, Fab.core_modTeam_self]
    cases (f.core d).team with
    | none => rfl
    | some t => exact List.getElem?_map
  · next h => rw [Fab.core_modTeam_other _ _ h]
theorem Fab.group?_foldl_askStop (cs : List Nat) (f : Fab) (c slot : Nat) :
    (cs.foldl (fun f c => f.askStop c) f).group? c slot = if c ∈ cs then (f.group? c slot).map Group.asked else f.group? c slot := by
  induction cs generalizing f with
  | nil => rfl
  | cons d cs ih =>
    rw [List.foldl_cons, ih, Fab.group?_askStop]
    by_cases hd : c = d
    · have hi : Group.asked ∘ Group.asked = Group.asked := funext Group.asked_asked
      simp [hd, hi]
    · simp [hd]

/-- Whether a PREEMPT or RETIRE to a cluster names the team of a core of it, and its hitch has not ended. -/
def Fab.Asked (f : Fab) (cl : Nat) (m : LanyardMsg) (c : Nat) : Prop :=
  8 * cl ≤ c ∧ c < 8 * cl + 8 ∧ ∃ x, (f.core c).team = some x ∧ (m.clusterScope = true ∨ x.grid = m.grid) ∧
    ∃ d ∈ x.mates, ∃ y, (f.core d).team = some y ∧ y.exited = false
/-- Not every core of a list has a team that has exited, of those with a team. -/
theorem Fab.not_all_exited (ds : List Nat) :
    (ds.all fun d => match (f.core d).team with | some y => y.exited | none => true) = false ↔
      ∃ d ∈ ds, ∃ y, (f.core d).team = some y ∧ y.exited = false := by
  rw [List.all_eq_false]
  refine exists_congr fun d => and_congr_right fun _ => ?_
  cases (f.core d).team <;> simp
theorem Fab.mem_toPreempt : c ∈ f.toPreempt cl (fun t => m.clusterScope || t.grid == m.grid) ↔ f.Asked cl m c := by
  have hr : c ∈ (List.range 8).map (8 * cl + ·) ↔ 8 * cl ≤ c ∧ c < 8 * cl + 8 := by
    simp only [List.mem_map, List.mem_range]
    exact ⟨fun ⟨i, _, _⟩ => by omega, fun _ => ⟨c - 8 * cl, by omega, by omega⟩⟩
  unfold Fab.toPreempt Fab.Asked
  rw [List.mem_filter, hr, and_assoc]
  refine and_congr_right fun _ => and_congr_right fun _ => ?_
  cases ht : (f.core c).team with
  | none => simp
  | some x =>
    simp only [Bool.and_eq_true, Bool.not_eq_true', Bool.or_eq_true, beq_iff_eq, Option.some.injEq, exists_eq_left']
    exact and_congr_right fun _ => f.not_all_exited x.mates
variable (hm : m.type ≠ 0x01)
include hm
/-- The groups that a PREEMPT or RETIRE names are asked, and no other. -/
theorem Fab.group?_leafDo (c slot : Nat) : (f.Asked cl m c → (f.leafDo ctl cl m).group? c slot = (f.group? c slot).map Group.asked) ∧
    (¬f.Asked cl m c → (f.leafDo ctl cl m).group? c slot = f.group? c slot) := by
  unfold Fab.leafDo Fab.preemptNow
  rw [if_neg hm, ← Fab.mem_toPreempt]
  dsimp only
  split
  · next h =>
    refine ⟨fun hc => ?_, fun _ => ?_⟩
    · rw [List.isEmpty_iff.mp h] at hc
      exact absurd hc List.not_mem_nil
    · split <;> rfl
  · rw [Fab.group?_foldl_askStop]
    exact ⟨fun hc => if_pos hc, fun hc => if_neg hc⟩
/-- A cluster without a team that is named answers a PREEMPT at once (log 33). -/
theorem Fab.leafDo_answers (h : ∀ c, ¬f.Asked cl m c) :
    f.leafDo ctl cl m = if m.type = 0x04 then f.sendUp cl ⟨0x05, 0, m.ctx, m.seq, m.grid, 0, 0, 0, 0, false⟩ else f := by
  have he : f.toPreempt cl (fun t => m.clusterScope || t.grid == m.grid) = [] :=
    List.eq_nil_iff_forall_not_mem.mpr fun c hc => h c (Fab.mem_toPreempt.mp hc)
  unfold Fab.leafDo Fab.preemptNow
  rw [if_neg hm]
  dsimp only
  rw [he]
  rfl
end

/-! ## The end of a hitch (R102) -/

section
variable {f : Fab} {ctl : Ctl} {c cl : Nat} {m : LanyardMsg} {x : Team} {g : Grid}

/-- The cores of a hitch. -/
def Fab.hitchCores (f : Fab) (gid first : Nat) : List (Nat × Core) :=
  f.cores.filter (fun k => match k.2.team with | some t => t.grid == gid && t.index - t.j == first | none => false)
/-- A grid once a cluster has reported the end of a hitch: its teams count, and the grid keeps them. -/
def Grid.hitchEnded (g : Grid) (cl : Nat) (teams : List Team) : Grid := { g.answered cl with
  exitedTeams := g.exitedTeams + teams.length
  saved := teams.foldl (fun l t => insertTeam (t.index, { t with mates := [], started := false }) l) g.saved }
/-- The fabric once a TEAMEND has freed its hitch's cores. -/
def Fab.hitchEnded (f : Fab) (cl : Nat) (m : LanyardMsg) : Fab :=
  ((f.hitchCores m.grid m.team).foldl (fun f k => f.freeCore k.1) (f.tookUp cl m)).modGrid m.grid
    (fun g => g.hitchEnded cl ((f.hitchCores m.grid m.team).filterMap (fun k => k.2.team)))

theorem Fab.lanyardTeamend_eq (h : f.headUp cl 0x03 = some m) : f.lanyardTeamend ctl cl = match (f.hitchEnded cl m).grid? m.grid with
    | none => f.hitchEnded cl m
    | some g => if g.ended then f.hitchEnded cl m else if g.nteams ≤ g.exitedTeams then (f.hitchEnded cl m).gridEnd ctl g.id
      else (f.hitchEnded cl m).preemptFinish ctl g.id := by
  unfold Fab.lanyardTeamend
  rw [h]
  rfl
theorem Fab.hitchEnded_grid? : (f.hitchEnded cl m).grid? m.grid =
    (f.grid? m.grid).map (fun g => g.hitchEnded cl ((f.hitchCores m.grid m.team).filterMap (fun k => k.2.team))) := by
  have hf : ((f.hitchCores m.grid m.team).foldl (fun f k => f.freeCore k.1) (f.tookUp cl m)).grids = f.grids :=
    foldl_keeps (P := fun h : Fab => h.grids = f.grids) _ rfl fun _ _ hh => hh
  have hlook := ((f.hitchCores m.grid m.team).foldl (fun f k => f.freeCore k.1) (f.tookUp cl m)).grid?_modGrid m.grid m.grid
    (h := fun g => g.hitchEnded cl ((f.hitchCores m.grid m.team).filterMap (fun k => k.2.team))) fun _ => rfl
  rw [Fab.hitchEnded, hlook, Fab.grid?, hf]
  refine Option.map_congr fun g hg => if_pos ?_
  exact List.find?_some (p := fun g : Grid => g.id == m.grid) hg
/-- The teams of a hitch that has ended. -/
theorem Fab.length_hitchTeams (f : Fab) (gid first : Nat) :
    ((f.hitchCores gid first).filterMap (fun k => k.2.team)).length = (f.hitchCores gid first).length := by
  rw [List.length_filterMap_eq_countP, List.countP_eq_length]
  intro k hk
  have := (List.mem_filter.mp hk).2
  cases h : k.2.team with
  | none => simp [h] at this
  | some t => rfl
theorem Fab.freeCore_vacant (d : Nat) (h : (f.core c).team = none) : ((f.freeCore d).core c).team = none := by
  by_cases hc : c = d
  · rw [hc, Fab.core_freeCore_self]
  · rw [Fab.core_freeCore_other _ hc, h]
theorem Fab.foldl_freeCore_vacant {ks : List (Nat × Core)} {k : Core} (hk : (c, k) ∈ ks) (f : Fab) :
    ((ks.foldl (fun f k => f.freeCore k.1) f).core c).team = none := by
  induction ks generalizing f with
  | nil => exact absurd hk List.not_mem_nil
  | cons d ks ih =>
    rw [List.foldl_cons]
    rcases List.mem_cons.mp hk with rfl | hk
    · exact foldl_keeps (P := fun g : Fab => (g.core c).team = none) ks (f.core_freeCore_self c) fun _ d hg => Fab.freeCore_vacant d.1 hg
    · exact ih hk _
theorem Fab.hitchEnded_vacant (hx : (f.core c).team = some x) (hg : x.grid = m.grid) (hi : x.index - x.j = m.team) :
    ((f.hitchEnded cl m).core c).team = none := by
  have hc : (c, f.core c) ∈ f.hitchCores m.grid m.team := List.mem_filter.mpr ⟨Fab.mem_cores_of_team hx, by simp [hx, hg, hi]⟩
  exact Fab.foldl_freeCore_vacant hc (f.tookUp cl m)

variable (h : f.headUp cl 0x03 = some m)
include h
/-- The cores of a hitch that has ended are free. -/
theorem Fab.lanyardTeamend_vacant (hx : (f.core c).team = some x) (hg : x.grid = m.grid) (hi : x.index - x.j = m.team) :
    ((f.lanyardTeamend ctl cl).core c).team = none := by
  have hv : ((f.hitchEnded cl m).core c).team = none := Fab.hitchEnded_vacant hx hg hi
  rw [Fab.lanyardTeamend_eq h]
  split
  · exact hv
  · split
    · exact hv
    · split
      · exact SameLanes.gridEnd.vacant hv
      · exact SameLanes.preemptFinish.vacant hv
/-- The grid counts the teams of the hitch, and ends with its last one. -/
theorem Fab.lanyardTeamend_grid? (hg : f.grid? m.grid = some g) (he : g.ended = false) (hp : g.preempt = none) :
    ∃ y, (f.lanyardTeamend ctl cl).grid? m.grid = some y ∧ y.exitedTeams = g.exitedTeams + (f.hitchCores m.grid m.team).length ∧
      y.ended = decide (g.nteams ≤ g.exitedTeams + (f.hitchCores m.grid m.team).length) := by
  have hid : g.id = m.grid := beq_iff_eq.mp (List.find?_some (p := fun g : Grid => g.id == m.grid) hg)
  have hy := f.hitchEnded_grid? (cl := cl) (m := m)
  rw [hg, Option.map_some] at hy
  rw [Fab.lanyardTeamend_eq h, hy, ← Fab.length_hitchTeams]
  generalize (f.hitchCores m.grid m.team).filterMap (fun k => k.2.team) = ts at hy ⊢
  dsimp only
  have hid' : (g.hitchEnded cl ts).id = m.grid := hid
  have he' : ¬(g.hitchEnded cl ts).ended = true := by
    show ¬g.ended = true
    simp [he]
  rw [if_neg he', hid']
  split
  · next hn =>
    have hlook := (f.hitchEnded cl m).grid?_modGrid m.grid m.grid
      (h := fun x => { x with ended := true, preempt := none, preempted := false, saved := [] }) fun _ => rfl
    rw [hy, Option.map_some, if_pos (beq_iff_eq.mpr hid'), Fab.grid?, ← (Fab.gridEnd_keeps (ctl := ctl) hy).grids] at hlook
    have hn' : g.nteams ≤ g.exitedTeams + ts.length := hn
    exact ⟨_, hlook, rfl, by simp [hn']⟩
  · next hn =>
    have hq : (f.hitchEnded cl m).preemptFinish ctl m.grid = f.hitchEnded cl m := by
      unfold Fab.preemptFinish
      rw [hy]
      simp [Grid.hitchEnded, Grid.answered, hp]
    have hn' : ¬g.nteams ≤ g.exitedTeams + ts.length := hn
    rw [hq]
    exact ⟨_, hy, rfl, by rw [decide_eq_false hn']; exact he⟩
end

/-! ## SAVED (R109, R111) -/

section
variable {f : Fab} {ctl : Ctl} {cl : Nat} {m : LanyardMsg} {g : Grid} (h : f.headUp cl 0x05 = some m)
include h
theorem Fab.lanyardSaved_over (hg : f.grid? m.grid = none ∨ ∃ g, f.grid? m.grid = some g ∧ g.ended = true) :
    f.lanyardSaved ctl cl = f.tookUp cl m := by
  have hg' : (f.tookUp cl m).grid? m.grid = f.grid? m.grid := rfl
  unfold Fab.lanyardSaved
  rw [h]
  dsimp only
  rw [hg']
  rcases hg with hg | ⟨g, hg, he⟩
  · rw [hg]
  · rw [hg]
    exact if_pos he
variable (hg : f.grid? m.grid = some g) (he : g.ended = false)
include hg he
theorem Fab.lanyardSaved_returns (hp : g.preempt = none) :
    f.lanyardSaved ctl cl = (f.tookUp cl m).enterHitch ⟨g.id, m.team / g.hitch, false⟩ := by
  have hg' : (f.tookUp cl m).grid? m.grid = some g := hg
  unfold Fab.lanyardSaved
  rw [h]
  dsimp only
  rw [hg']
  dsimp only
  rw [if_neg (by simp [he]), if_neg (by simp [hp])]
theorem Fab.lanyardSaved_answers (hp : g.preempt.isSome = true) :
    f.lanyardSaved ctl cl = ((f.tookUp cl m).modGrid g.id (fun x => x.answered cl)).preemptFinish ctl g.id := by
  have hg' : (f.tookUp cl m).grid? m.grid = some g := hg
  unfold Fab.lanyardSaved
  rw [h]
  dsimp only
  rw [hg']
  dsimp only
  rw [if_neg (by simp [he]), if_pos hp]
end
/-- A PREEMPT waits for the clusters that have not answered. -/
theorem Fab.preemptFinish_waits {f : Fab} {ctl : Ctl} {cl cmd : Nat} {m : LanyardMsg} {g : Grid} {image : DWord} {asked : List Nat}
    (hg : f.grid? m.grid = some g) (hp : g.preempt = some (cmd, image, asked))
    (ha : ∃ d ∈ asked, d ≠ cl) : ((f.tookUp cl m).modGrid g.id (fun x => x.answered cl)).preemptFinish ctl g.id =
      (f.tookUp cl m).modGrid g.id (fun x => x.answered cl) := by
  have hid : g.id = m.grid := beq_iff_eq.mp (List.find?_some (p := fun g : Grid => g.id == m.grid) hg)
  have hlook := (f.tookUp cl m).grid?_modGrid g.id g.id (h := fun x => x.answered cl) fun _ => rfl
  have hg' : (f.tookUp cl m).grid? g.id = some g := by
    rw [hid]
    exact hg
  rw [hg', Option.map_some, if_pos (beq_self_eq_true g.id)] at hlook
  refine Fab.preemptFinish_asked hlook (cmd := cmd) (image := image) (asked := asked.filter (· != cl)) (by simp [Grid.answered, hp]) ?_
  obtain ⟨d, hd, hne⟩ := ha
  exact List.ne_nil_of_mem (List.mem_filter.mpr ⟨hd, by simpa using hne⟩)
/-- Once every cluster has answered and no team is left, a PREEMPT writes the image and completes, then its RESUME. -/
theorem Fab.preemptFinish_done {f f₁ : Fab} {ctl : Ctl} {gid cmd : Nat} {g : Grid} {image : DWord} {c : Cmd} {ok : Bool}
    (hg : f.grid? gid = some g) (hp : g.preempt = some (cmd, image, [])) (hr : f.anyResident gid = false) (hu : f.underway gid = false)
    (hc : f.cmd? cmd = some c) (hw : f.writeImage ctl c.rec_.ctxId image.toNat { g with nextTeam := g.firstFresh } = (ok, f₁)) :
    f.preemptFinish ctl gid = ((((f₁.modGrid gid (fun x => { x with ended := true, preempt := none, preempted := true, saved := [] })).complete
      ctl cmd (if ok then 0 else 2) true []).complete ctl g.cmd 7 true g.countBytes).endPreempts ctl g 2) := by
  unfold Fab.preemptFinish
  rw [hg]
  dsimp only
  split
  · next _ _ _ e =>
    rw [hp] at e
    cases e
    rw [if_neg (by simp [hr, hu]), hc]
    dsimp only
    rw [hw]
  · next e =>
    rw [hp] at e
    cases e
end Sys2Proof.Machine
namespace Sys2Proof.Machine

/-! ## What a cluster does with its messages -/

section
variable {s : State} {cl : Nat} {m : LanyardMsg} {j : Instr}

/-- The event by which a leaf controller takes a PLACE, PREEMPT or RETIRE. -/
def LeafTakes (cl : Nat) (m : LanyardMsg) (j : Instr) : Prop :=
  (j = .lanyardPlace cl ∧ m.type = 0x01) ∨ (j = .lanyardPreempt cl ∧ m.type = 0x04) ∨ (j = .lanyardRetire cl ∧ m.type = 0x06)
/-- PLACE, PREEMPT and RETIRE are taken alike, each at the head of its cluster's link. -/
theorem exec_leafTake (hj : LeafTakes cl m j) : exec j s = .next { s with fab := s.fab.leafTake s.ctl cl m.type.toNat } := by
  rcases hj with ⟨rfl, ht⟩ | ⟨rfl, ht⟩ | ⟨rfl, ht⟩ <;> rw [ht] <;> rfl
theorem exec_lanyardTeamend (hu : s.ctl.uzRuns = true) :
    exec (.lanyardTeamend cl) s = .next { s with fab := s.fab.lanyardTeamend s.ctl cl } := congrArg Host.Outcome.next (if_pos hu)
theorem exec_lanyardSaved (hu : s.ctl.uzRuns = true) :
    exec (.lanyardSaved cl) s = .next { s with fab := s.fab.lanyardSaved s.ctl cl } := congrArg Host.Outcome.next (if_pos hu)

variable {k : Lanyard} {ms : List LanyardMsg} (hk : s.fab.links[cl]? = some k) (hd : k.down = m :: ms)
include hk hd
theorem exec_leafTake_acts (hj : LeafTakes cl m j) (hf : m.type = 0x06 ∨ (k.held = [] ∧ k.upPermits + m.pret ≠ 0)) :
    exec j s = .next { s with fab := (s.fab.tookDown cl m).leafDo s.ctl cl m } := by
  rw [exec_leafTake hj, Fab.leafTake_acts hk hd rfl hf]
/-- What a PREEMPT or RETIRE asks of the groups of its cluster. -/
theorem exec_leafTake_asks (hj : (j = .lanyardPreempt cl ∧ m.type = 0x04 ∧ k.held = [] ∧ k.upPermits + m.pret ≠ 0) ∨
    (j = .lanyardRetire cl ∧ m.type = 0x06)) :
    (∃ t, exec j s = .next t ∧ t.ctl = s.ctl ∧ ∀ c slot,
      (s.fab.Asked cl m c → t.fab.group? c slot = (s.fab.group? c slot).map Group.asked) ∧
      (¬s.fab.Asked cl m c → t.fab.group? c slot = s.fab.group? c slot)) ∧
    ((∀ c, ¬s.fab.Asked cl m c) → exec j s = .next { s with
      fab := if m.type = 0x04 then (s.fab.tookDown cl m).sendUp cl ⟨0x05, 0, m.ctx, m.seq, m.grid, 0, 0, 0, 0, false⟩ else s.fab.tookDown cl m }) := by
  have hne : m.type ≠ 0x01 := by rcases hj with ⟨-, ht, -⟩ | ⟨-, ht⟩ <;> rw [ht] <;> decide
  have he : exec j s = .next { s with fab := (s.fab.tookDown cl m).leafDo s.ctl cl m } := by
    rcases hj with ⟨rfl, ht, hf⟩ | ⟨rfl, ht⟩
    · exact exec_leafTake_acts hk hd (.inr (.inl ⟨rfl, ht⟩)) (.inr hf)
    · exact exec_leafTake_acts hk hd (.inr (.inr ⟨rfl, ht⟩)) (.inl ht)
  refine ⟨⟨_, he, rfl, fun c slot => ?_⟩, fun ha => ?_⟩
  · exact Fab.group?_leafDo (f := s.fab.tookDown cl m) hne c slot
  · rw [he, Fab.leafDo_answers (f := s.fab.tookDown cl m) hne ha]
end

end Sys2Proof.Machine
namespace Sys2Proof.Safety
open Sys2Proof.Machine

/-- Settles O58: the placement queue, then the messages of a link by direction and type, then the permits that return alone. -/
theorem schedulerEvents : Obligations.SchedulerEvents := by
  unfold Obligations.SchedulerEvents
  intro s cl k hk put link now
  refine ⟨fun hu => ⟨fun hq => ?empty, fun h hs g hq hg => ⟨fun ho => ?ended, fun ho hp c hc => ?fits,
      fun ho hw h₂ hs₂ g₂ c e hne hg₂ ho₂ hp₂ hc hfree => ?passes⟩⟩,
    fun m ms hd => ⟨fun h14 hw j hj => ?holds, fun ht hh hp g hg he => ⟨fun hn hpl => ?places, fun hn hpr => ?returns⟩, fun j hj => ?asks,
      exec_lanyardPermit_down hk hd, exec_lanyardLinkError_down hk hd, Fab.tookDown_eq hk hd⟩,
    fun m ms hd => ⟨Fab.tookUp_eq hk hd, exec_lanyardLinkError_up hk hd, fun hu => ⟨exec_lanyardPlaced hk hu hd, fun ht => ?teamend,
      fun ht => ?saved, exec_lanyardPermit_up hk hu hd⟩⟩,
    fun h gid g cmd image c hg hp hr hun hc ok f1 hw => Fab.preemptFinish_done hg hp hr hun hc hw,
    exec_permitReturnTimeout_up hk, exec_permitReturnTimeout_down hk⟩
  case empty => rw [exec_hitchPlace hu, Fab.hitchPlace_empty hq]
  case ended =>
    have hf : s.fab.hitchFor s.ctl [] s.fab.placement = some (h, g, none) := hq ▸ Fab.hitchFor_over List.not_mem_nil hg ho
    rw [exec_hitchPlace hu, Fab.hitchPlace_over hf, hq, hitchTaken_head]
    rfl
  case fits =>
    have hf : s.fab.hitchFor s.ctl [] s.fab.placement = some (h, g, some c) := hq ▸ Fab.hitchFor_fits List.not_mem_nil hg ho hp hc
    rw [exec_hitchPlace hu, Fab.hitchPlace_sends hf, hq, hitchTaken_head]
    rfl
  case passes =>
    subst e
    have hf : s.fab.hitchFor s.ctl [] s.fab.placement = some (h₂, g₂, some c) := by
      rw [hq, Fab.hitchFor_waits List.not_mem_nil hg ho hw]
      exact Fab.hitchFor_fits (by simpa using hne) hg₂ ho₂ hp₂ hc
    have hother : h ≠ h₂ := fun e => hne (e ▸ rfl)
    rw [exec_hitchPlace hu, Fab.hitchPlace_sends hf, if_pos hfree, hq, hitchTaken_other hother, hitchTaken_head]
    rfl
  case holds =>
    have h6 : m.type ≠ 0x06 := by rcases h14 with ht | ht <;> rw [ht] <;> decide
    rw [exec_leafTake (hj.imp_right .inl), Fab.leafTake_holds hk hd rfl h6 hw]
  case places =>
    rw [exec_leafTake_acts hk hd (.inl ⟨rfl, ht⟩) (.inr ⟨hh, hp⟩)]
    exact congrArg (fun f => Host.Outcome.next (put f)) (Fab.leafDo_places (f := s.fab.tookDown cl m) ht hg he hn hpl)
  case returns =>
    rw [exec_leafTake_acts hk hd (.inl ⟨rfl, ht⟩) (.inr ⟨hh, hp⟩)]
    exact congrArg (fun f => Host.Outcome.next (put f)) (Fab.leafDo_returns (f := s.fab.tookDown cl m) ht hg he hn hpr)
  case asks => exact exec_leafTake_asks hk hd hj
  case teamend =>
    have hh : s.fab.headUp cl 0x03 = some m := Fab.headUp_of hk hd (by rw [ht]; rfl)
    exact ⟨_, exec_lanyardTeamend hu, fun c x hx hg hi => Fab.lanyardTeamend_vacant hh hx hg hi,
      fun g hg he hp => Fab.lanyardTeamend_grid? hh hg he hp⟩
  case saved =>
    have hh : s.fab.headUp cl 0x05 = some m := Fab.headUp_of hk hd (by rw [ht]; rfl)
    rw [exec_lanyardSaved hu]
    refine ⟨fun hg => ?_, fun g hg he => ⟨fun hp => ?_, fun cmd image asked hp => ?_⟩⟩
    · rw [Fab.lanyardSaved_over hh hg]
    · rw [Fab.lanyardSaved_returns hh hg he hp]
    · have hans := Fab.lanyardSaved_answers (ctl := s.ctl) hh hg he (hp ▸ rfl)
      refine ⟨congrArg (fun f => Host.Outcome.next (put f)) hans, fun ha => ?_⟩
      rw [hans, Fab.preemptFinish_waits hg hp ha]
      rfl

end Sys2Proof.Safety
end

section
set_option Elab.async false

/-! # Task records (O36) -/

namespace Sys2Proof.Machine

/-! ## Byte fields -/

theorem leNat_append (a b : List Byte) : leNat (a ++ b) = leNat a + 256 ^ a.length * leNat b := by
  induction a with
  | nil => simp [leNat]
  | cons x a ih => simp only [List.cons_append, leNat, ih, List.length_cons, Nat.pow_succ]; ring

theorem leNat_lt (b : List Byte) : leNat b < 256 ^ b.length := by
  induction b with
  | nil => simp [leNat]
  | cons x b ih =>
    have := x.isLt
    simp only [leNat, List.length_cons, Nat.pow_succ]
    omega

@[simp] theorem leBytes_length (n x : Nat) : (leBytes n x).length = n := by
  induction n generalizing x with
  | zero => rfl
  | succ n ih => simp [leBytes, ih]

@[simp] theorem sliceBytes_length (b : List Byte) (i n : Nat) : (sliceBytes b i n).length = n := by simp [sliceBytes]

theorem fieldAt_lt (b : List Byte) (i n : Nat) : fieldAt b i n < 256 ^ n := by
  simpa [fieldAt] using leNat_lt (sliceBytes b i n)

/-- A field of `m + n` bytes is its low `m` bytes and the `n` that follow. -/
theorem fieldAt_add (b : List Byte) (i m n : Nat) : fieldAt b i (m + n) = fieldAt b i m + 256 ^ m * fieldAt b (i + m) n := by
  have h : sliceBytes b i (m + n) = sliceBytes b i m ++ sliceBytes b (i + m) n := by
    simp [sliceBytes, List.range_add, Nat.add_assoc]
  rw [fieldAt, h, leNat_append, sliceBytes_length]
  rfl

theorem fieldAt_append_left {a b : List Byte} {i n : Nat} (h : i + n ≤ a.length) : fieldAt (a ++ b) i n = fieldAt a i n := by
  refine congrArg leNat (List.map_congr_left fun k hk => ?_)
  exact List.getD_append _ _ _ _ (by have := List.mem_range.mp hk; omega)

theorem fieldAt_append_right {a b : List Byte} {i n : Nat} (h : a.length ≤ i) : fieldAt (a ++ b) i n = fieldAt b (i - a.length) n := by
  refine congrArg leNat (List.map_congr_left fun k _ => ?_)
  rw [List.getD_append_right _ _ _ _ (by omega)]
  congr 1
  omega

/-- A number written in `n` bytes, read back whole. -/
theorem fieldAt_leBytes {n x : Nat} (h : x < 256 ^ n) : fieldAt (leBytes n x) 0 n = x := by
  rw [fieldAt, sliceBytes_take _ _ (leBytes_length n x).ge, List.take_of_length_le (leBytes_length n x).le, leNat_leBytes n x h]

/-- A field within a longer field, by its place in the number that the longer one holds. -/
theorem fieldAt_eq_div_mod (b : List Byte) (i k m n : Nat) :
    fieldAt b (i + k) m = fieldAt b i (k + (m + n)) / 256 ^ k % 256 ^ m := by
  rw [fieldAt_add, fieldAt_add, Nat.add_mul_div_left _ _ (by positivity), Nat.div_eq_of_lt (fieldAt_lt ..), Nat.zero_add,
    Nat.add_mul_mod_self_left, Nat.mod_eq_of_lt (fieldAt_lt ..)]

theorem bitsOf_and (x y h l : Nat) : bitsOf (x &&& y) h l = bitsOf x h l &&& bitsOf y h l := by
  simp only [bitsOf, Nat.and_div_two_pow, Nat.and_mod_two_pow]

theorem bitsOf_or (x y h l : Nat) : bitsOf (x ||| y) h l = bitsOf x h l ||| bitsOf y h l := by
  simp only [bitsOf, Nat.or_div_two_pow, Nat.or_mod_two_pow]

/-! ## The image of a task record (Table 6.4) -/

theorem leBytesList_length (m n : Nat) (arg : Nat → Nat) : ((List.range n).flatMap (fun k => leBytes m (arg k))).length = n * m := by
  simp [List.length_flatMap]

/-- Of numbers of `m` bytes that follow each other, each reads back at its place. -/
theorem fieldAt_leBytesList {m n k : Nat} {arg : Nat → Nat} (hk : k < n) (ha : arg k < 256 ^ m) :
    fieldAt ((List.range n).flatMap (fun k => leBytes m (arg k))) (k * m) m = arg k := by
  induction n with
  | zero => omega
  | succ n ih =>
    rw [List.range_succ, List.flatMap_append]
    rcases Nat.lt_succ_iff_lt_or_eq.mp hk with hlt | rfl
    · have hfit : k * m + m ≤ n * m := by rw [← Nat.succ_mul]; exact Nat.mul_le_mul_right m hlt
      rw [fieldAt_append_left (by rwa [leBytesList_length]), ih hlt]
    · rw [fieldAt_append_right (leBytesList_length ..).le, leBytesList_length, Nat.sub_self, List.flatMap_singleton, fieldAt_leBytes ha]

/-- The bytes of a task record whose first two words, bound and arguments are given. -/
def taskBytes (w0 w1 : Word) (bound : DWord) (arg : Nat → Word) : List Byte :=
  leBytes 4 w0.toNat ++ leBytes 4 w1.toNat ++ leBytes 8 bound.toNat ++ (List.range 12).flatMap (fun k => leBytes 4 (arg k).toNat)

section
variable (w0 w1 : Word) (bound : DWord) (arg : Nat → Word)

theorem taskBytes_length : (taskBytes w0 w1 bound arg).length = 64 := by
  simp [taskBytes]

theorem taskBytes_word0 : fieldAt (taskBytes w0 w1 bound arg) 0 4 = w0.toNat := by
  unfold taskBytes
  rw [fieldAt_append_left (by simp), fieldAt_append_left (by simp), fieldAt_append_left (by simp), fieldAt_leBytes w0.isLt]

theorem taskBytes_word1 : fieldAt (taskBytes w0 w1 bound arg) 4 4 = w1.toNat := by
  unfold taskBytes
  rw [fieldAt_append_left (by simp), fieldAt_append_left (by simp), fieldAt_append_right (by simp), leBytes_length, fieldAt_leBytes w1.isLt]

theorem taskBytes_bound : fieldAt (taskBytes w0 w1 bound arg) 8 8 = bound.toNat := by
  unfold taskBytes
  rw [fieldAt_append_left (by simp), fieldAt_append_right (by simp)]
  simpa using fieldAt_leBytes bound.isLt

theorem taskBytes_arg {k : Nat} (hk : k < 12) : fieldAt (taskBytes w0 w1 bound arg) (16 + 4 * k) 4 = (arg k).toNat := by
  unfold taskBytes
  rw [fieldAt_append_right (by simp)]
  simpa [Nat.mul_comm] using fieldAt_leBytesList (arg := fun k => (arg k).toNat) hk (arg k).isLt

/-! The second word holds the top of the PC, the byte of INCIDX and BOUNDED, and the priority. -/

theorem taskBytes_pc : fieldAt (taskBytes w0 w1 bound arg) 0 6 = w0.toNat + 2 ^ 32 * bitsOf w1.toNat 15 0 := by
  rw [fieldAt_add _ 0 4 2, taskBytes_word0, fieldAt_eq_div_mod _ 4 0 2 2, taskBytes_word1]
  rfl
theorem taskBytes_inc : fieldAt (taskBytes w0 w1 bound arg) 6 1 = bitsOf w1.toNat 23 16 := by
  rw [fieldAt_eq_div_mod _ 4 2 1 1, taskBytes_word1]
  rfl
theorem taskBytes_prio : fieldAt (taskBytes w0 w1 bound arg) 7 1 = bitsOf w1.toNat 31 24 := by
  rw [fieldAt_eq_div_mod _ 4 3 1 0, taskBytes_word1]
  rfl
end

/-! ## The record that a lane builds (R128) -/

theorem ofNat_word_pair (lo hi : Word) : BitVec.ofNat 64 (lo.toNat + 2 ^ 32 * hi.toNat) = hi ++ lo := by
  apply BitVec.eq_of_toNat_eq
  have hlo := lo.isLt
  rw [BitVec.toNat_append, ← Nat.shiftLeft_add_eq_or_of_lt hlo, Nat.shiftLeft_eq, BitVec.toNat_ofNat]
  omega

/-- The second word of an unbounded lane's record: the reserved bits are zero. -/
def recWord1 (w : Word) : Word := w &&& 0xFF1FFFFF#32
/-- The second word of a bounded lane's record: BOUNDED is set, and INCIDX is that of the lane's bound. -/
def recWord1Of (w : Word) (k : BitVec 4) : Word := (recWord1 w &&& 0xFFE0FFFF#32) ||| 0x100000#32 ||| (k.zeroExtend 32 <<< 16)
/-- The worse of a lane's bound of an incumbent and the one that its record names. -/
def Ctx.worse (c : Ctx) (k : BitVec 4) (bd own : DWord) : DWord :=
  if c.incMax k.toNat then (if bd.slt own then bd else own) else (if own.slt bd then bd else own)

theorem recWord1_pc (w : Word) : bitsOf (recWord1 w).toNat 15 0 = w.toNat % 65536 := by
  rw [recWord1, BitVec.toNat_and, bitsOf_and]
  exact (Nat.and_two_pow_sub_one_eq_mod _ 16).trans (by simp [bitsOf])
theorem recWord1_inc (w : Word) : bitsOf (recWord1 w).toNat 23 16 = w.toNat / 2 ^ 16 % 32 := by
  rw [recWord1, BitVec.toNat_and, bitsOf_and]
  exact (Nat.and_two_pow_sub_one_eq_mod _ 5).trans (by simp only [bitsOf]; omega)
theorem recWord1_prio (w : Word) : bitsOf (recWord1 w).toNat 31 24 = w.toNat / 2 ^ 24 := by
  rw [recWord1, BitVec.toNat_and, bitsOf_and]
  exact (Nat.and_two_pow_sub_one_eq_mod _ 8).trans (by simp only [bitsOf]; omega)

theorem bitsOf_recWord1Of (w : Word) (k : BitVec 4) (h l : Nat) : bitsOf (recWord1Of w k).toNat h l =
    (bitsOf (recWord1 w).toNat h l &&& bitsOf 0xFFE0FFFF h l) ||| bitsOf 0x100000 h l ||| bitsOf (k.toNat * 2 ^ 16) h l := by
  have hk : (k.zeroExtend 32 <<< 16).toNat = k.toNat * 2 ^ 16 := by simp [Nat.shiftLeft_eq]; omega
  rw [recWord1Of, BitVec.toNat_or, BitVec.toNat_or, BitVec.toNat_and, hk, bitsOf_or, bitsOf_or, bitsOf_and]
  rfl

theorem recWord1Of_pc (w : Word) (k : BitVec 4) : bitsOf (recWord1Of w k).toNat 15 0 = w.toNat % 65536 := by
  have hk : bitsOf (k.toNat * 2 ^ 16) 15 0 = 0 := by simp only [bitsOf]; omega
  have hm : w.toNat % 65536 &&& bitsOf 0xFFE0FFFF 15 0 = w.toNat % 65536 % 65536 := Nat.and_two_pow_sub_one_eq_mod _ 16
  rw [bitsOf_recWord1Of, recWord1_pc, hk, hm, Nat.mod_mod]
  exact (Nat.or_zero _).trans (Nat.or_zero _)
theorem recWord1Of_inc (w : Word) (k : BitVec 4) : bitsOf (recWord1Of w k).toNat 23 16 = 16 + k.toNat := by
  have hk : bitsOf (k.toNat * 2 ^ 16) 23 16 = k.toNat := by simp only [bitsOf]; omega
  have hm : ∀ n, n < 32 → n &&& bitsOf 0xFFE0FFFF 23 16 = 0 := by decide
  have hor : ∀ k : BitVec 4, 0 ||| bitsOf 0x100000 23 16 ||| k.toNat = 16 + k.toNat := by decide
  rw [bitsOf_recWord1Of, recWord1_inc, hk, hm _ (Nat.mod_lt _ (by decide)), hor]
theorem recWord1Of_prio (w : Word) (k : BitVec 4) : bitsOf (recWord1Of w k).toNat 31 24 = w.toNat / 2 ^ 24 := by
  have hk : bitsOf (k.toNat * 2 ^ 16) 31 24 = 0 := by simp only [bitsOf]; omega
  have hm : w.toNat / 2 ^ 24 &&& bitsOf 0xFFE0FFFF 31 24 = w.toNat / 2 ^ 24 % 256 := Nat.and_two_pow_sub_one_eq_mod _ 8
  rw [bitsOf_recWord1Of, recWord1_prio, hk, hm, Nat.mod_eq_of_lt (by omega)]
  exact (Nat.or_zero _).trans (Nat.or_zero _)

section
variable {f : Fab} {i : Iss} {a l : Nat} {x : Lane} {c : Ctx} (hx : f.lane? i.core i.slot l = some x) (hc : f.ctx? i.ctx = some c)
include hx hc

/-- What the registers of an unbounded lane make of its record. -/
theorem Fab.taskRecord_unbounded (hb : x.bound = none) :
    let w (k : Nat) : Word := (f.reg i.core i.slot l (a + k)).val
    f.taskRecord i a l = taskBytes (w 0) (recWord1 (w 1)) (w 3 ++ w 2) (fun k => w (4 + k)) := by
  simp only [Fab.taskRecord, hx, hc, hb, Iss.reg, ofNat_word_pair, BitVec.ofNat_toNat, BitVec.setWidth_eq]
  rfl

/-- What the registers of a bounded lane make of its record: its incumbent, and the worse of the two bounds (R128). -/
theorem Fab.taskRecord_bounded {bd : DWord} {k : BitVec 4} (hb : x.bound = some (bd, k)) :
    let w (k : Nat) : Word := (f.reg i.core i.slot l (a + k)).val
    f.taskRecord i a l = taskBytes (w 0) (recWord1Of (w 1) k) (c.worse k bd (w 3 ++ w 2)) (fun k => w (4 + k)) := by
  simp only [Fab.taskRecord, hx, hc, hb, Iss.reg, ofNat_word_pair, BitVec.ofNat_toNat, BitVec.setWidth_eq]
  rfl

/-- The fields of a lane's record that its bound does not touch, whether it has one or not. -/
theorem Fab.taskRecord_fields :
    let w (k : Nat) : Word := (f.reg i.core i.slot l (a + k)).val
    let b := f.taskRecord i a l
    b.length = 64 ∧ fieldAt b 0 6 = (w 0).toNat + 2 ^ 32 * ((w 1).toNat % 65536) ∧ fieldAt b 7 1 = (w 1).toNat / 2 ^ 24 ∧
      ∀ k, k < 12 → fieldAt b (16 + 4 * k) 4 = (w (4 + k)).toNat := by
  cases hb : x.bound with
  | none =>
    rw [Fab.taskRecord_unbounded hx hc hb]
    exact ⟨taskBytes_length .., by rw [taskBytes_pc, recWord1_pc], by rw [taskBytes_prio, recWord1_prio], fun k hk => taskBytes_arg _ _ _ _ hk⟩
  | some p =>
    rw [Fab.taskRecord_bounded hx hc hb]
    exact ⟨taskBytes_length .., by rw [taskBytes_pc, recWord1Of_pc], by rw [taskBytes_prio, recWord1Of_prio],
      fun k hk => taskBytes_arg _ _ _ _ hk⟩

/-- INCIDX, BOUNDED and BOUND of an unbounded lane's record are those of its registers, with the reserved bits zero. -/
theorem Fab.taskRecord_own (hb : x.bound = none) :
    let w (k : Nat) : Word := (f.reg i.core i.slot l (a + k)).val
    fieldAt (f.taskRecord i a l) 6 1 = (w 1).toNat / 2 ^ 16 % 32 ∧ fieldAt (f.taskRecord i a l) 8 8 = (w 3 ++ w 2).toNat := by
  rw [Fab.taskRecord_unbounded hx hc hb]
  exact ⟨by rw [taskBytes_inc, recWord1_inc], taskBytes_bound ..⟩

/-- Those of a bounded lane's record are its incumbent, set as bounded, and the worse of the two bounds. -/
theorem Fab.taskRecord_clamped {bd : DWord} {k : BitVec 4} (hb : x.bound = some (bd, k)) :
    let w (k : Nat) : Word := (f.reg i.core i.slot l (a + k)).val
    fieldAt (f.taskRecord i a l) 6 1 = 16 + k.toNat ∧ fieldAt (f.taskRecord i a l) 8 8 = (c.worse k bd (w 3 ++ w 2)).toNat := by
  rw [Fab.taskRecord_bounded hx hc hb]
  exact ⟨by rw [taskBytes_inc, recWord1Of_inc], taskBytes_bound ..⟩

theorem Fab.taskRecord_reserved : fieldAt (f.taskRecord i a l) 6 1 / 32 = 0 := by
  cases hb : x.bound with
  | none => rw [(Fab.taskRecord_own hx hc hb).1]; omega
  | some p => rw [(Fab.taskRecord_clamped hx hc hb).1]; omega
end

end Sys2Proof.Machine
end

section
set_option Elab.async false

/-! # `tspawn` and `tnext` (O36, O37) -/

namespace Sys2Proof.Machine
open Sys2Proof.Safety

/-! ## What an instruction that may trap afterwards ends in -/

/-- A body that performs, and then takes a trap, if any. -/
def Res.doneThen (f : Fab) : Option Trap → Res
  | none => .done f
  | some t => .after f t

theorem run_doneThen {s : State} {e : Enc} {gate : Iss → Fab → Bool} {i : Iss} {body : Iss → Ctl → Fab → Res} {f : Fab} {t : Option Trap}
    (h : Issues s e gate i) (hb : body i s.ctl (moved s e i) = Res.doneThen f t) :
    run e gate body s = .next (thenTrap (retired s i f) i t) := by
  rw [run_of_issues body h, hb]
  cases t <;> rfl

/-- Moving past an instruction leaves the grid of every core. -/
theorem Fab.gridOf_advance (f : Fab) (i : Iss) (hints : Bool × Nat) (c : Nat) : (f.advance i hints).gridOf c = f.gridOf c := by
  rw [Fab.advance_eq]
  have hg (n : Nat) : (f.modGroup i.core i.slot (i.pastGroup f.ac hints)).grid? n = f.grid? n := by rw [Fab.grid?, Fab.modGroup_grids, Fab.grid?]
  simp only [Fab.gridOf, hg]
  by_cases hc : c = i.core
  · subst hc
    rw [Fab.core_modGroup_self]
    cases (f.core i.core).team <;> rfl
  · rw [Fab.core_modGroup_other _ _ _ hc]

/-- The grid that an instruction of a team finds. -/
theorem gridOf_moved {s : State} {i : Iss} {tm : Team} {gr : Grid} (ht : teamAt s i.core = some tm) (hg : s.fab.grid? tm.grid = some gr) (e : Enc) :
    (moved s e i).gridOf i.core = some gr := by
  rw [moved, Fab.gridOf_advance, Fab.gridOf, show (s.fab.core i.core).team = some tm from ht]
  exact hg

/-! ## `tspawn` (R128, R295) -/

theorem recPc_toNat (b : List Byte) : (recPc b).toNat = fieldAt b 0 6 :=
  (BitVec.toNat_ofNat ..).trans (Nat.mod_eq_of_lt (fieldAt_lt b 0 6))

/-- The records whose PC is misaligned, by their first six bytes. -/
theorem filter_recPc_odd (recs : List (Nat × List Byte)) :
    recs.filter (fun p => (recPc p.2).toNat % 4 != 0) = recs.filter (fun p => fieldAt p.2 0 6 % 4 ≠ 0) :=
  List.filter_congr fun p _ => by rw [recPc_toNat, Bool.eq_iff_iff]; simp

section
variable {x : XrForm} {i : Iss} {ctl : Ctl} {f : Fab} {g : Grid} (ha : i.active ≠ []) (hg : f.gridOf i.core = some g)
include ha hg

theorem bodyTspawn_badQueue (hq : g.ntq ≤ x.s) : bodyTspawn x i ctl f = .trap (.plain 0x02 0 i.active) := by
  rw [bodyTspawn, if_neg (by simpa using ha), hg]
  exact if_pos hq

theorem bodyTspawn_oddPc (hq : x.s < g.ntq) {p : Nat × List Byte} {ps : List (Nat × List Byte)} :
    let odd := (i.active.map (fun l => (l, f.taskRecord i x.a.toNat l))).filter (fun p => fieldAt p.2 0 6 % 4 ≠ 0)
    odd = p :: ps → bodyTspawn x i ctl f = .trap (.addr 0x0B (odd.map (·.1)) (fieldAt p.2 0 6)) := by
  dsimp only
  intro ho
  rw [bodyTspawn, if_neg (by simpa using ha), hg]
  dsimp only
  rw [if_neg (Nat.not_le.mpr hq), filter_recPc_odd, ho, ← recPc_toNat]

theorem bodyTspawn_spawns (hq : x.s < g.ntq) {desc : Loc} {f1 : Fab}
    (ho : (i.active.map (fun l => (l, f.taskRecord i x.a.toNat l))).filter (fun p => fieldAt p.2 0 6 % 4 ≠ 0) = [])
    (hd : i.queueAt ctl (f.l1Release ctl i.core 4) (g.tqs.getD x.s 0).toNat 2 true i.active.length = .at_ desc f1) :
    let r := f1.spawn ctl i desc (i.active.map (fun l => (l, f.taskRecord i x.a.toNat l)))
    bodyTspawn x i ctl f = Res.doneThen (r.2.commit i i.active) (if r.1 = [] then none else some (.plain 0x14 0 r.1)) := by
  rw [bodyTspawn, if_neg (by simpa using ha), hg]
  dsimp only
  rw [if_neg (Nat.not_le.mpr hq), filter_recPc_odd, ho]
  dsimp only
  rw [hd]
  simp only [List.isEmpty_iff]
  split <;> rfl

end

/-! ## `tnext` (R129, R296) -/

/-- The trap of the lanes that were handed malformed records, with the first record's first eight bytes (log 72). -/
def malformedTrap : List (Nat × DWord) → Option Trap
  | [] => none
  | b :: bs => some ⟨0x02, 1, maskOf ((b :: bs).map (·.1)), b.2, 0⟩

section
variable {x : XrForm} {i : Iss} {ctl : Ctl} {f : Fab} {g : Grid} (ha : i.active ≠ []) (hg : f.gridOf i.core = some g)
include ha hg

theorem bodyTnext_badQueue (hq : g.ntq ≤ x.s) : bodyTnext x i ctl f = .trap (.plain 0x02 0 i.active) := by
  rw [bodyTnext, if_neg (by simpa using ha), hg]
  exact if_pos hq

/-- Each active lane takes its turn: without the queue where no task is left, else at the queue that the group has reached. -/
theorem bodyTnext_turns (hq : x.s < g.ntq) {desc : Loc} {f1 : Fab}
    (hd : let left := g.tasks.toNat - (if f.holdsTask i i.lowest then 1 else 0)
      if left = 0 then desc = .scr 0 0 ∧ f1 = f else i.queueAt ctl f (g.tqs.getD x.s 0).toNat 2 false (2 ^ 20) = .at_ desc f1) :
    let r := i.active.foldl (Fab.tnextLane ctl i x.s desc) ([], f1)
    bodyTnext x i ctl f = Res.doneThen r.2 (malformedTrap r.1) := by
  rw [bodyTnext, if_neg (by simpa using ha), hg]
  dsimp only at hd ⊢
  rw [if_neg (Nat.not_le.mpr hq)]
  have hend (r : List (Nat × DWord) × Fab) : (match r.1 with
      | [] => .done r.2
      | b :: bs => .after r.2 ⟨0x02, 1, maskOf ((b :: bs).map (·.1)), b.2, 0⟩) = Res.doneThen r.2 (malformedTrap r.1) := by
    cases r.1 <;> rfl
  by_cases h0 : g.tasks.toNat - (if f.holdsTask i i.lowest then 1 else 0) = 0
  · rw [if_pos h0] at hd ⊢
    obtain ⟨rfl, rfl⟩ := hd
    exact hend _
  · rw [if_neg h0] at hd ⊢
    rw [hd]
    exact hend _

end

/-! ## One lane's turn (R129, R130) -/

section
variable {ctl : Ctl} {f : Fab} {ctx gid c s l q n : Nat} {tpc : Addr} {desc : Loc} {gr : Grid} (hg : f.grid? gid = some gr)
include hg

/-- Where no task is outstanding, `tnext` completes with the done status (R130). -/
theorem Fab.takeTask_done (h0 : gr.tasks = 0) :
    f.takeTask ctl ctx gid c s l tpc q desc (n + 1) = (.done, f.modLane c s l (fun x => x.tnextDone tpc q)) := by
  rw [Fab.takeTask, hg]
  exact if_pos (by simp [h0])

/-- Where the queue holds no entry, the lane parks and is added to the queue's waiters. -/
theorem Fab.takeTask_parks (h0 : gr.tasks ≠ 0) {qd : QDesc} {f1 : Fab} (hd : f.dequeue ctl (some c) ctx desc = (.empty qd, f1)) :
    f.takeTask ctl ctx gid c s l tpc q desc (n + 1) =
      (.parked, (f1.modLane c s l (fun x => x.tnextPark tpc q desc)).waiterAdd ctl ctx desc qd c s l) := by
  have hleft : ¬gr.tasks.toNat = 0 := fun h => h0 (BitVec.eq_of_toNat_eq h)
  rw [Fab.takeTask, hg]
  dsimp only
  rw [if_neg hleft, hd]

/-- An entry whose bound is not dominated is installed, a malformed one too. -/
theorem Fab.takeTask_installs (h0 : gr.tasks ≠ 0) {b : List Byte} {f1 : Fab} (hd : f.dequeue ctl (some c) ctx desc = (.entry b, f1))
    (hdom : ∀ bd k y, recBound b = some (bd, k) → f1.ctx? ctx = some y → y.dominated k.toNat bd (f1.coreInc c ctx k.toNat) = false) :
    f.takeTask ctl ctx gid c s l tpc q desc (n + 1) =
      (if recMalformed b then .malformed (BitVec.ofNat 64 (fieldAt b 0 8)) else .installed, f1.modLane c s l (fun x => x.install tpc q b)) := by
  have hleft : ¬gr.tasks.toNat = 0 := fun h => h0 (BitVec.eq_of_toNat_eq h)
  rw [Fab.takeTask, hg]
  dsimp only
  rw [if_neg hleft, hd]
  refine (if_neg ?undominated).trans ?_
  case undominated =>
    split
    next bd k y hb hy => simp [hdom bd k y hb hy]
    next => exact Bool.false_ne_true
  cases recMalformed b <;> rfl

end

/-! ## A record that is installed (Table 6.4) -/

/-- The first eight bytes of a record: the PC, the byte of INCIDX and BOUNDED, and the priority. -/
theorem recWord_eq (b : List Byte) : fieldAt b 0 8 = fieldAt b 0 6 + 2 ^ 48 * (fieldAt b 6 1 + 2 ^ 8 * fieldAt b 7 1) := by
  rw [fieldAt_add b 0 6 2, fieldAt_add b _ 1 1]
  rfl

theorem recPrio_eq (b : List Byte) : bitsOf (fieldAt b 0 8) 63 56 = fieldAt b 7 1 := (fieldAt_eq_div_mod b 0 7 1 0).symm

theorem recBound_eq (b : List Byte) : recBound b =
    if fieldAt b 6 1 / 16 % 2 = 1 then some (BitVec.ofNat 64 (fieldAt b 8 8), BitVec.ofNat 4 (fieldAt b 6 1)) else none := by
  have hlo : fieldAt b 0 6 < 2 ^ 48 := fieldAt_lt b 0 6
  have hbit : bitAt (fieldAt b 0 8) 52 = decide (fieldAt b 6 1 / 16 % 2 = 1) := by
    have : fieldAt b 0 8 / 2 ^ 52 % 2 = fieldAt b 6 1 / 16 % 2 := by rw [recWord_eq]; omega
    rw [bitAt, this]
    rfl
  have hinc : BitVec.ofNat 4 (bitsOf (fieldAt b 0 8) 51 48) = BitVec.ofNat 4 (fieldAt b 6 1) := by
    refine BitVec.eq_of_toNat_eq ?_
    rw [BitVec.toNat_ofNat, BitVec.toNat_ofNat, bitsOf, recWord_eq]
    omega
  simp only [recBound, hbit, hinc, decide_eq_true_eq]

/-- The arguments of a record, in the first registers of a lane. -/
def Lane.setArgs (x : Lane) (b : List Byte) (n : Nat) : Lane :=
  (List.range n).foldl (fun x i => x.setReg i ⟨BitVec.ofNat 32 (fieldAt b (16 + 4 * i) 4), .raw⟩) x

theorem Lane.get?_setArgs (x : Lane) (b : List Byte) {n k : Nat} (hk : k < n) :
    Table.get? (x.setArgs b n).regs k = some ⟨BitVec.ofNat 32 (fieldAt b (16 + 4 * k) 4), .raw⟩ := by
  induction n with
  | zero => omega
  | succ n ih =>
    have hset : x.setArgs b (n + 1) = (x.setArgs b n).setReg n ⟨BitVec.ofNat 32 (fieldAt b (16 + 4 * n) 4), .raw⟩ := by
      simp [Lane.setArgs, List.range_succ]
    rw [hset, Lane.setReg]
    rcases Nat.lt_succ_iff_lt_or_eq.mp hk with hlt | rfl
    · rw [Table.get?_set_other _ _ _ _ hlt.ne, ih hlt]
    · exact Table.get?_set_self ..

/-- The registers of a lane that takes a record: its twelve arguments, raw (R129). -/
theorem Lane.get?_install_regs (x : Lane) (tpc : Addr) (q : Nat) (b : List Byte) {k : Nat} (hk : k < 12) :
    Table.get? (x.install tpc q b).regs k = some ⟨BitVec.ofNat 32 (fieldAt b (16 + 4 * k) 4), .raw⟩ :=
  Lane.get?_setArgs (if x.idle then { x with regs := [], epoch := none } else x) b hk

end Sys2Proof.Machine

namespace Sys2Proof.Safety
open Sys2Proof.Machine

/-- Settles O36: the three ends of `tspawn`, then the record of a lane with and without a bound. -/
theorem taskSpawn : Obligations.TaskSpawn := by
  unfold Obligations.TaskSpawn
  refine ⟨fun f s i tm gr h ha ht hg => ?ends, fun f i a l x c hx hc => ?record⟩
  case ends =>
    have hgr := gridOf_moved ht hg (.xr 0x74 f)
    exact ⟨fun hq => run_trap h (bodyTspawn_badQueue ha hgr hq), fun hq p ps ho => run_trap h (bodyTspawn_oddPc ha hgr hq ho),
      fun hq ho desc f1 hd => run_doneThen h (bodyTspawn_spawns ha hgr hq ho hd)⟩
  case record =>
    obtain ⟨hlen, hpc, hprio, hargs⟩ := Fab.taskRecord_fields (a := a) hx hc
    exact ⟨hlen, hpc, hprio, Fab.taskRecord_reserved hx hc, hargs, Fab.taskRecord_own hx hc, fun bd k => Fab.taskRecord_clamped hx hc⟩

/-- Settles O37: the ends of one lane's turn, then those of `tnext`. -/
theorem taskNext : Obligations.TaskNext := by
  unfold Obligations.TaskNext
  refine ⟨fun ctl f ctx gid c s l tpc q n desc gr x hg hx => ⟨fun h0 => ?done, fun h0 qd f1 hd => Fab.takeTask_parks hg h0 hd,
    fun h0 b f1 x1 hd hx1 hdom => ?installed⟩, fun f s i tm gr h ha ht hg => ⟨fun hq => ?badQueue, fun hq desc f1 hd => ?turns⟩⟩
  case done =>
    refine ⟨_, x.tnextDone tpc q, Fab.takeTask_done hg h0, ?_, rfl, rfl, rfl, rfl, rfl, rfl⟩
    rw [Fab.lane?_modLane_self, hx]
    rfl
  case installed =>
    refine ⟨_, _, x1.install tpc q b, Fab.takeTask_installs hg h0 hd hdom, ?_, rfl, rfl, ?_, recBound_eq b, rfl, rfl, rfl,
      fun k hk => Lane.get?_install_regs x1 tpc q b hk⟩
    · rw [Fab.lane?_modLane_self, hx1]
      rfl
    · exact congrArg (BitVec.ofNat 8) (recPrio_eq b)
  case badQueue => exact run_trap h (bodyTnext_badQueue ha (gridOf_moved ht hg _) hq)
  case turns =>
    have htrap (bad : List (Nat × DWord)) : malformedTrap bad = (match bad with
        | [] => none
        | b :: bs => some ⟨0x02, 1, maskOf ((b :: bs).map (·.1)), b.2, 0⟩) := by cases bad <;> rfl
    exact (run_doneThen h (bodyTnext_turns ha (gridOf_moved ht hg _) hq hd)).trans
      (congrArg (fun t => Host.Outcome.next (thenTrap _ i t)) (htrap _))

end Sys2Proof.Safety
end


section
set_option Elab.async false

/-! # The frontier and its merging (O23) -/

namespace Sys2Proof.Machine
open Sys2Proof.Safety

/-- A fold whose steps keep what they have or take the value of the element at hand, and never fall behind either, ends in its start or the
value of an element, and behind none of them. -/
theorem foldl_pick {α β : Type} {step : β → α → β} {le : β → β → Prop} {val : α → β} {cond : α → Prop}
    (hrefl : ∀ b, le b b) (htrans : ∀ a b c, le a b → le b c → le a c) (hkeep : ∀ b a, step b a = b ∨ (cond a ∧ step b a = val a))
    (hle : ∀ b a, le b (step b a)) (hval : ∀ b a, cond a → le (val a) (step b a)) (l : List α) (b : β) :
    (l.foldl step b = b ∨ ∃ a ∈ l, cond a ∧ l.foldl step b = val a) ∧ le b (l.foldl step b) ∧
      ∀ a ∈ l, cond a → le (val a) (l.foldl step b) := by
  induction l generalizing b with
  | nil => exact ⟨.inl rfl, hrefl b, by simp⟩
  | cons x l ih =>
    obtain ⟨hfrom, hstart, hall⟩ := ih (step b x)
    refine ⟨?_, htrans _ _ _ (hle b x) hstart, ?_⟩
    · rcases hfrom with heq | ⟨a, ha, hca, heq⟩
      · rcases hkeep b x with hb | ⟨hcx, hx⟩
        · exact .inl (heq.trans hb)
        · exact .inr ⟨x, by simp, hcx, heq.trans hx⟩
      · exact .inr ⟨a, by simp [ha], hca, heq⟩
    · rintro a ha hca
      rcases List.mem_cons.mp ha with rfl | ha
      · exact htrans _ _ _ (hval b a hca) hstart
      · exact hall a ha hca

theorem Group.mem_numbered {g : Group} {l : Nat} {x : Lane} : (l, x) ∈ g.numbered ↔ g.lanes[l]? = some x := by
  simp only [Group.numbered, List.mem_mapIdx, Prod.mk.injEq]
  constructor
  · rintro ⟨k, hk, rfl, rfl⟩
    exact List.getElem?_eq_getElem hk
  · intro h
    obtain ⟨hl, hx⟩ := List.getElem?_eq_some_iff.mp h
    exact ⟨l, hl, rfl, hx⟩

/-! ## The entry that issues next (R145) -/

/-- The entry of a lane issues no later than that of another: its priority is higher, or the same with a PC that is no higher. -/
def Lane.Leads (y x : Lane) : Prop := x.prio < y.prio ∨ (x.prio = y.prio ∧ y.pc ≤ x.pc)

theorem Lane.Leads.refl (x : Lane) : x.Leads x := .inr ⟨rfl, BitVec.le_refl _⟩
theorem Lane.Leads.trans {x y z : Lane} (hxy : x.Leads y) (hyz : y.Leads z) : x.Leads z := by
  unfold Lane.Leads at *
  bv_omega

/-- An entry that issues holds the lanes that may issue at the PC of one of them that leads every other. -/
theorem Group.entry_spec {g : Group} (h : g.entry ≠ []) : ∃ m y, g.lanes[m]? = some y ∧ g.mayIssue m y = true ∧
    (∀ l x, g.lanes[l]? = some x → g.mayIssue l x = true → y.Leads x) ∧
    ∀ l, l ∈ g.entry ↔ ∃ x, g.lanes[l]? = some x ∧ g.mayIssue l x = true ∧ x.pc = y.pc := by
  have hmem {l : Nat} {x : Lane} : (l, x) ∈ g.numbered.filter (fun p => g.mayIssue p.1 p.2) ↔
      g.lanes[l]? = some x ∧ g.mayIssue l x = true := by
    rw [List.mem_filter, Group.mem_numbered]
  unfold Group.entry at h ⊢
  dsimp only at h ⊢
  generalize g.numbered.filter (fun p => g.mayIssue p.1 p.2) = rs at h hmem ⊢
  cases rs with
  | nil => exact absurd rfl h
  | cons r rs =>
    dsimp only
    have hpick := foldl_pick (val := id) (cond := fun _ => True) (le := fun a b : Nat × Lane => b.2.Leads a.2)
      (step := fun b p => if b.2.prio.toNat < p.2.prio.toNat ∨ (b.2.prio = p.2.prio ∧ p.2.pc.toNat < b.2.pc.toNat) then p else b)
      (fun b => .refl b.2) (fun a b c hab hbc => hbc.trans hab)
      (fun b a => by split <;> simp)
      (fun b a => by
        split
        · unfold Lane.Leads; bv_omega
        · exact .refl b.2)
      (fun b a _ => by
        split
        · exact .refl a.2
        · simp only [id]; unfold Lane.Leads; bv_omega) (r :: rs) r
    generalize (r :: rs).foldl _ r = best at hpick ⊢
    obtain ⟨hfrom, -, hall⟩ := hpick
    have hbest : best ∈ r :: rs := by
      rcases hfrom with rfl | ⟨a, ha, -, rfl⟩
      · exact List.mem_cons_self
      · exact ha
    obtain ⟨m, y⟩ := best
    obtain ⟨hy, hmay⟩ := hmem.mp hbest
    refine ⟨m, y, hy, hmay, fun l x hx hl => hall (l, x) (hmem.mpr ⟨hx, hl⟩) trivial, fun l => ?_⟩
    simp only [List.mem_map, List.mem_filter, beq_iff_eq]
    constructor
    · rintro ⟨⟨k, x⟩, ⟨hk, hpc⟩, rfl⟩
      obtain ⟨hx, hl⟩ := hmem.mp hk
      exact ⟨x, hx, hl, hpc⟩
    · rintro ⟨x, hx, hl, hpc⟩
      exact ⟨(l, x), ⟨hmem.mpr ⟨hx, hl⟩, hpc⟩, rfl⟩

/-- The entry of the issuing instruction is its group's. -/
theorem Fab.iss_entry {f : Fab} {p : Pred} {len : Nat} {i : Iss} {g : Group} (h : f.iss p len = some i)
    (hg : f.group? i.core i.slot = some g) : i.entry = g.entry := by
  unfold Fab.iss at h
  split at h
  · cases h
  · split at h
    · next t k ht hk =>
      split at h
      · cases h
      · next l ls he =>
        cases h
        rw [hk] at hg
        cases hg
        exact he.symm
    · cases h

/-! ## Merging (R145) -/

/-- The lanes of a group that merge with a lane: in trap mode handler lanes and the others merge among themselves. -/
def Group.side (g : Group) (l : Nat) : Bool := match g.trap with | none => true | some t => inMask t.handlers l
/-- The priority that a waiting lane takes when the frontier merges. -/
def Group.mergedPrio (g : Group) (l : Nat) (x : Lane) : Byte :=
  g.numbered.foldl (fun m p => if p.2.ready ∧ p.2.pc = x.pc ∧ g.side p.1 = g.side l ∧ m.toNat < p.2.prio.toNat then p.2.prio else m) x.prio

/-- A lane of a merged group. -/
theorem Group.getElem?_merge_lanes (g : Group) (l : Nat) :
    g.merge.lanes[l]? = (g.lanes[l]?).map (fun x => if x.ready then { x with prio := g.mergedPrio l x } else x) := by
  simp only [Group.merge, List.getElem?_mapIdx]
  rfl

/-- The priority that a waiting lane takes is the largest of those that wait at its PC on its side. -/
theorem Group.mergedPrio_spec {g : Group} {l : Nat} {x : Lane} (hx : g.lanes[l]? = some x) (hr : x.ready = true) :
    (∃ m y, g.lanes[m]? = some y ∧ y.ready = true ∧ y.pc = x.pc ∧ g.side m = g.side l ∧ g.mergedPrio l x = y.prio) ∧
      ∀ m y, g.lanes[m]? = some y → y.ready = true → y.pc = x.pc → g.side m = g.side l → y.prio ≤ g.mergedPrio l x := by
  obtain ⟨hfrom, -, hall⟩ := foldl_pick (val := fun p : Nat × Lane => p.2.prio) (le := fun a b : Byte => a ≤ b)
    (cond := fun p : Nat × Lane => p.2.ready ∧ p.2.pc = x.pc ∧ g.side p.1 = g.side l)
    (step := fun (m : Byte) (p : Nat × Lane) => if p.2.ready ∧ p.2.pc = x.pc ∧ g.side p.1 = g.side l ∧ m.toNat < p.2.prio.toNat then p.2.prio else m)
    (fun b => BitVec.le_refl b) (fun a b c => BitVec.le_trans)
    (fun b a => by split <;> simp_all)
    (fun b a => by split <;> bv_omega)
    (fun b a hc => by
      obtain ⟨hready, hpc, hside⟩ := hc
      simp only [hready, hpc, hside, true_and]
      split <;> bv_omega) g.numbered x.prio
  refine ⟨?_, fun m y hy hready hpc hside => hall (m, y) (Group.mem_numbered.mpr hy) ⟨hready, hpc, hside⟩⟩
  rcases hfrom with heq | ⟨⟨m, y⟩, hmem, ⟨hready, hpc, hside⟩, heq⟩
  · exact ⟨l, x, hx, hr, rfl, rfl, heq⟩
  · exact ⟨m, y, Group.mem_numbered.mp hmem, hready, hpc, hside, heq⟩

end Sys2Proof.Machine

namespace Sys2Proof.Safety
open Sys2Proof.Machine

/-- Settles O23: the entry of the group (`Group.entry_spec`), then a lane of the merged group by whether it waits. -/
theorem frontierAndMerge : Obligations.FrontierAndMerge := by
  unfold Obligations.FrontierAndMerge
  refine ⟨fun f p len i g h hg => ?issues, fun f i g hg => ⟨g.merge, ?_, rfl, fun l x hx => ?merges⟩⟩
  case issues =>
    have hentry := Fab.iss_entry h hg
    obtain ⟨t, k, ht, hk, -, -, -, -, -, -, -, hactive, hne, hpc⟩ := Fab.iss_spec h
    have hkg : k = g := by
      rw [Fab.group?, ht, Option.bind_some, hk] at hg
      exact Option.some.inj hg
    subst hkg
    obtain ⟨m, y, hy, hmay, hleads, hmem⟩ := Group.entry_spec (hentry ▸ hne)
    have hypc : y.pc = i.pc := by
      obtain ⟨x, hx, -, -, hxpc⟩ := hpc m (hentry ▸ (hmem m).mpr ⟨y, hy, hmay, rfl⟩)
      rw [hy] at hx
      exact Option.some.inj hx ▸ hxpc
    refine ⟨fun l => ?_, ⟨m, y, hy, hmay, hypc, fun l x hx hl => hypc ▸ hleads l x hx hl⟩, hactive⟩
    rw [hentry, hmem, hypc]
  case merges =>
    refine ⟨_, by rw [Group.getElem?_merge_lanes, hx]; rfl, ?_⟩
    by_cases hr : x.ready = true
    · simp only [hr, if_true]
      exact ⟨trivial, by simp, fun _ => Group.mergedPrio_spec hx hr⟩
    · simp [hr]
  · rw [Fab.mergeHere, Fab.group?_modGroup_self, hg]
    rfl

end Sys2Proof.Safety
end

section
set_option Elab.async false

/-! # Instructions that compute lane by lane (O10, O11) -/

namespace Sys2Proof.Machine
open Sys2Proof.Safety

/-- R262: an instruction of chapter 13 that works lane by lane, in any form, runs its operation in every active lane. -/
theorem exec_of_laneInstr {j : Instr} {e : Enc} {o : BitVec 8} {f : XrForm} {op : LaneOp} (hj : j.enc? = some e)
    (he : asXr e = some (o, f)) (hop : laneInstr o.toNat = some op) (s : State) :
    exec j s = run e noGate (elementwise o.toNat f op) s := by
  cases j
  -- Events have no encoding, the other formats no extended form, and the other opcodes no lane operation.
  all_goals cases hj
  all_goals cases he
  all_goals cases hop
  all_goals rfl

/-! ## An operation writes as many registers as its destination names (R139, R263) -/

theorem tyRegs_eq (s : Nat) : tyRegs s = (Use.int s).regs := by
  unfold tyRegs Use.int
  split <;> rfl

theorem fltRegs_eq (s : Nat) : fltRegs s = (Use.flt s).regs := by
  unfold fltRegs Use.flt
  have hlt : s % 4 < 4 := Nat.mod_lt _ (by decide)
  generalize s % 4 = k at hlt
  interval_cases k <;> rfl

/-- The use of an opcode that has one for the values of SUB that a test admits. -/
theorem use_of_only {p : Prop} [Decidable p] {v u : XrUse} (h : (if p then some v else none) = some u) : u = v := by
  split at h
  · exact (Option.some.inj h).symm
  · cases h

/-- The use of an opcode whose SUB is 0 for 32 bits or 2 for 64. -/
theorem use_of_even02 {f : XrForm} {v₁ v₂ u : XrUse}
    (h : (if f.sub.toNat = 0 then some v₁ else if f.sub.toNat = 2 then some v₂ else none) = some u) :
    (f.s = 0 ∧ f.rn = 1 ∧ u = v₁) ∨ (f.s = 2 ∧ f.rn = 2 ∧ u = v₂) := by
  unfold XrForm.rn XrForm.s
  split at h
  · next h0 => exact .inl ⟨h0, if_neg (by omega), (Option.some.inj h).symm⟩
  · split at h
    · next h2 => exact .inr ⟨h2, if_pos h2, (Option.some.inj h).symm⟩
    · cases h

theorem opCvt_length (f : XrForm) (a b c d : List Reg) : (opCvt f a b c d).1.length = (Use.cvt (f.b.extractLsb' 0 4).toNat).regs := by
  unfold opCvt
  dsimp only
  generalize (f.b.extractLsb' 0 4).toNat = df
  split
  case isTrue h =>
    obtain ⟨n, rfl⟩ := Nat.exists_eq_add_of_le' h
    cases n <;> exact natRegs_length ..
  case isFalse h =>
    rw [natRegs_length]
    interval_cases df <;> rfl

theorem opOrdf_length (f : XrForm) (a b c d : List Reg) : (opOrdf f a b c d).1.length = if f.s = 1 then 1 else 2 := by
  unfold opOrdf
  dsimp only
  split
  case h_1 h => rw [h]; rfl
  case h_2 h => rw [h]; rfl
  case h_3 h => rw [h]; rfl
  case h_4 h0 h1 h2 => rw [if_neg h1]; rfl

section
variable {o : Nat} {f : XrForm} {op : LaneOp} {u : XrUse} (hu : xrUse o f = some u) (w : Nat) (a b c d : List Reg)
  (ha : a.length = (match u.a with | some x => x.regs | none => 0))
  (hb : u.b.isSome → b.length = (match u.b with | some x => x.regs | none => 0))
include hu ha hb

theorem laneOp_length (hop : laneOp o = some op) : (op f a b c d).1.length = dstRegs w u.d := by
  unfold laneOp at hop
  split at hop
  all_goals cases hop
  -- `add`, `sub`, `mul`, `mulh`, `mad`, `div`, `rem`, `min` and `max` write the type of SUB.
  case h_1 | h_2 | h_3 | h_4 | h_5 | h_6 | h_7 | h_8 | h_9 =>
    obtain rfl := use_of_only hu
    exact (natRegs_length ..).trans (tyRegs_eq f.s)
  -- `abs` and `neg` too, and their SUB names 32 or 64 bits.
  case h_10 | h_11 =>
    obtain ⟨hs, -, rfl⟩ | ⟨hs, -, rfl⟩ := use_of_even02 hu
    all_goals exact (natRegs_length ..).trans ((tyRegs_eq f.s).trans (by rw [hs]; rfl))
  -- `cmp` and `fcmp` write a word.
  case h_12 | h_37 => cases hu; rfl
  -- `sel` writes one of two sources.
  case h_13 =>
    obtain ⟨-, -, rfl⟩ | ⟨-, -, rfl⟩ := use_of_even02 hu
    all_goals
      unfold opSel
      split
      · exact ha
      · exact hb rfl
  -- `lop3`, the funnel shifts, `bfi`, `prmt` and `fcls` write a word.
  case h_14 | h_18 | h_19 | h_25 | h_28 | h_44 => obtain rfl := use_of_only hu; rfl
  -- The shifts and `brev` write 32 or 64 bits.
  case h_15 | h_16 | h_17 | h_23 =>
    obtain ⟨-, hrn, rfl⟩ | ⟨-, hrn, rfl⟩ := use_of_even02 hu
    all_goals exact (natRegs_length ..).trans hrn
  -- The counts of bits are words.
  case h_20 | h_21 | h_22 =>
    obtain ⟨-, -, rfl⟩ | ⟨-, -, rfl⟩ := use_of_even02 hu
    all_goals rfl
  -- `bfe` writes a word, whichever its sign.
  case h_24 =>
    obtain rfl := use_of_only hu
    unfold opBfe
    dsimp only
    split <;> exact natRegs_length ..
  -- `mov` writes its source.
  case h_26 =>
    obtain ⟨-, -, rfl⟩ | ⟨-, -, rfl⟩ := use_of_even02 hu
    all_goals exact hb rfl
  -- `lea` writes a pair.
  case h_27 => obtain rfl := use_of_only hu; rfl
  -- The float operations of Table 13.3 and Table 13.4 write the format of SUB.
  case h_29 | h_30 | h_31 | h_32 | h_33 | h_34 | h_35 | h_36 | h_38 | h_39 | h_40 | h_41 | h_42 | h_43 =>
    obtain rfl := use_of_only hu
    exact (natRegs_length ..).trans (fltRegs_eq f.s)
  -- `frnd` writes the format of SUB[1:0].
  case h_45 =>
    cases hu
    refine (natRegs_length ..).trans ((fltRegs_eq _).trans ?_)
    unfold Use.flt
    rw [Nat.mod_mod]
    rfl
  -- `cvt` writes the type of its selector.
  case h_46 =>
    obtain rfl := use_of_only hu
    exact opCvt_length ..

theorem laneInstr_length (hop : laneInstr o = some op) : (op f a b c d).1.length = dstRegs w u.d := by
  unfold laneInstr at hop
  split at hop
  -- `ordf`, then `tagset` and `tagq`, which write one register for the one they read; the rest also run in routines.
  case h_1 =>
    cases hop
    obtain rfl := use_of_only hu
    exact opOrdf_length ..
  case h_2 | h_3 =>
    cases hop
    obtain rfl := use_of_only hu
    exact (List.length_map _).trans ha
  case h_4 => exact laneOp_length hu w a b c d ha hb hop

end

/-- What an instruction of chapter 13 that works lane by lane ends in. -/
theorem exec_lanewise {j : Instr} {e : Enc} {o : BitVec 8} {f : XrForm} {op : LaneOp} {u : XrUse} {s : State} {i : Iss} (hj : j.enc? = some e)
    (he : asXr e = some (o, f)) (hop : laneInstr o.toNat = some op) (hu : xrUse o.toNat f = some u) (h : Issues s e noGate i) :
    let res (l : Nat) : List Reg × Conds := let (a, b, c, d) := i.operands s.fab u f l; op f a b c d
    let cs := i.active.map (fun l => (l, (res l).2))
    ∃ t, exec j s = .next (thenTrap t i (arithTrap i.gcw cs)) ∧ RegFrame s t i f.d.toNat (dstRegs i.w u.d) ∧
      Wrote s t i f.d.toNat (fun l => (res l).1) ∧ gcwOf t i = some (i.gcw ||| stickyOf cs) := by
  rw [exec_of_laneInstr hj he hop]
  exact run_elementwise h hu fun a b c d ha hb => laneInstr_length hu i.w a b c d ha hb hop

end Sys2Proof.Machine

namespace Sys2Proof.Safety
open Sys2Proof.Machine

/-- Settles O10: what `exec_lanewise` says of the results, the flags and the trap. -/
theorem lanewiseResult : Obligations.LanewiseResult := by
  unfold Obligations.LanewiseResult
  intro j e o f op u s i hj he hop hu h
  obtain ⟨t, hexec, -, hwrote, hgcw⟩ := exec_lanewise hj he hop hu h
  exact ⟨t, hexec, hwrote, hgcw⟩

/-- Settles O11: what `exec_lanewise` says of the frame. -/
theorem lanewiseFrame : Obligations.LanewiseFrame := by
  unfold Obligations.LanewiseFrame
  intro j e o f op u s i hj he hop hu h
  obtain ⟨t, hexec, hframe, -⟩ := exec_lanewise hj he hop hu h
  exact ⟨t, _, hexec, hframe⟩

end Sys2Proof.Safety
end

section
set_option Elab.async false

/-! # What a change of the issuing group leaves (R134, R242) -/

namespace Sys2Proof.Machine
open Sys2Proof.Safety

/-! ## A lane past its instruction -/

section
variable (i : Iss) (l : Nat) (x : Lane)

/-- Moving past an instruction changes a lane's PC and the count of its window. -/
theorem Iss.pastLane_eq : i.pastLane l x = { x with pc := past i l x, window := (i.pastLane l x).window } := by
  unfold Iss.pastLane past
  by_cases h : l ∈ i.entry <;> simp [h]

@[simp] theorem Iss.pastLane_pc : (i.pastLane l x).pc = past i l x := by rw [Iss.pastLane_eq]
@[simp] theorem Iss.pastLane_status : (i.pastLane l x).status = x.status := by rw [Iss.pastLane_eq]
@[simp] theorem Iss.pastLane_park : (i.pastLane l x).park = x.park := by rw [Iss.pastLane_eq]
@[simp] theorem Iss.pastLane_parkNext : (i.pastLane l x).parkNext = x.parkNext := by rw [Iss.pastLane_eq]
@[simp] theorem Iss.pastLane_prio : (i.pastLane l x).prio = x.prio := by rw [Iss.pastLane_eq]
@[simp] theorem Iss.pastLane_regs : (i.pastLane l x).regs = x.regs := by rw [Iss.pastLane_eq]
@[simp] theorem Iss.pastLane_epoch : (i.pastLane l x).epoch = x.epoch := by rw [Iss.pastLane_eq]
@[simp] theorem Iss.pastLane_bound : (i.pastLane l x).bound = x.bound := by rw [Iss.pastLane_eq]
@[simp] theorem Iss.pastLane_task : (i.pastLane l x).task = x.task := by rw [Iss.pastLane_eq]
@[simp] theorem Iss.pastLane_enrolled : (i.pastLane l x).enrolled = x.enrolled := by rw [Iss.pastLane_eq]
@[simp] theorem Iss.pastLane_arrived : (i.pastLane l x).arrived = x.arrived := by rw [Iss.pastLane_eq]
@[simp] theorem Iss.pastLane_ck : (i.pastLane l x).ck = x.ck := by rw [Iss.pastLane_eq]

theorem past_of_mem {i : Iss} {l : Nat} (h : l ∈ i.entry) (x : Lane) : past i l x = i.pc + BitVec.ofNat 48 i.len := if_pos h

/-- The registers of a lane depend on its table and on the default of what that does not list. -/
theorem Lane.priv_congr {x y : Lane} {m : Nat} (hregs : Table.get? y.regs m = Table.get? x.regs m) (hepoch : y.epoch = x.epoch) (c s l : Nat) :
    y.priv c s l m = x.priv c s l m := by
  simp only [Lane.priv, hregs, hepoch]

@[simp] theorem Iss.pastLane_priv (c s m : Nat) : (i.pastLane l x).priv c s l m = x.priv c s l m :=
  Lane.priv_congr (by simp) (by simp) c s l
end

section
variable {s : State} {i : Iss} {g : Group}

/-- The lanes of a group past its instruction. -/
theorem Iss.getElem?_pastGroup_lanes (i : Iss) (ac : Nat) (hints : Bool × Nat) (g : Group) (l : Nat) :
    (i.pastGroup ac hints g).lanes[l]? = (g.lanes[l]?).map (i.pastLane l) := by
  simp [Iss.pastGroup]

/-- A change of the issuing group after it has moved past its instruction. -/
theorem mod_moved (s : State) (e : Enc) (i : Iss) (k : Group → Group) :
    i.mod (moved s e i) k = s.fab.modGroup i.core i.slot (fun g => k (i.pastGroup s.fab.ac e.hints g)) := by
  rw [Iss.mod, moved, Fab.advance_eq, Fab.modGroup_modGroup]

/-- A change of the issuing group that changes nothing. -/
theorem mod_moved_self (s : State) (e : Enc) (i : Iss) : i.mod (moved s e i) (fun g => g) = moved s e i := mod_moved ..

/-- The issuing group after it has moved past its instruction. -/
theorem group?_moved (hg : groupAt s i.core i.slot = some g) (e : Enc) :
    (moved s e i).group? i.core i.slot = some (i.pastGroup s.fab.ac e.hints g) := by
  rw [moved, Fab.advance_eq, Fab.group?_modGroup_self, show s.fab.group? i.core i.slot = some g from hg]
  rfl

/-- A lane of the issuing group after it has moved past its instruction. -/
theorem lane?_moved (hg : groupAt s i.core i.slot = some g) (e : Enc) (l : Nat) :
    (moved s e i).lane? i.core i.slot l = (g.lanes[l]?).map (i.pastLane l) := by
  rw [Fab.lane?, group?_moved hg, Option.bind_some, Iss.getElem?_pastGroup_lanes]

/-- The issuing group is the one that the entry has been read from. -/
theorem Fab.iss_group {p : Pred} {len : Nat} (h : s.fab.iss p len = some i) (hg : groupAt s i.core i.slot = some g) :
    i.w = g.lanes.length ∧ i.r = g.r ∧ i.gcw = g.gcw ∧ i.trapMode = g.trap.isSome ∧ (∀ l, l ∈ i.active → l ∈ i.entry) ∧
      ∀ l, l ∈ i.entry → ∃ x, g.lanes[l]? = some x ∧ x.status = .live ∧ x.park = none ∧ x.pc = i.pc := by
  obtain ⟨t, k, ht, hk, hw, hr, hgcw, -, -, htrap, -, hactive, -, hlanes⟩ := Fab.iss_spec h
  obtain rfl : k = g := by
    rw [groupAt, Fab.group?, ht, Option.bind_some, hk] at hg
    exact Option.some.inj hg
  exact ⟨hw, hr, hgcw, htrap, fun l hl => (List.mem_filter.mp (hactive ▸ hl)).1, hlanes⟩

theorem mem_entry_of_mem_active {f : Fab} {p : Pred} {len : Nat} (h : f.iss p len = some i) {l : Nat} (hl : l ∈ i.active) : l ∈ i.entry := by
  obtain ⟨-, -, -, -, -, -, -, -, -, -, -, hactive, -⟩ := Fab.iss_spec h
  exact (List.mem_filter.mp (hactive ▸ hl)).1

/-- A change of the issuing group changes nothing outside it. -/
theorem groupFrame_modGroup (hg : groupAt s i.core i.slot = some g) (k : Group → Group) :
    GroupFrame s { s with fab := s.fab.modGroup i.core i.slot k } i g (k g) := by
  obtain ⟨tm, htm, hgr⟩ := Option.bind_eq_some_iff.mp (show (s.fab.core i.core).team.bind _ = _ from hg)
  have houtside := Fab.modTeam_sameButCore s.fab i.core (fun t => { t with groups := modAt t.groups i.slot k })
  refine ⟨rfl, rfl, houtside.1, houtside.2, tm, { tm with groups := modAt tm.groups i.slot k }, htm, ?_, rfl, rfl, hgr, ?_, fun n hn => ?_⟩
  · rw [teamAt, Fab.core_modGroup_self, htm]
    rfl
  · simp [modAt, hgr]
  · simp [modAt, Ne.symm hn]

/-- A change of the issuing group past its instruction changes nothing outside it. -/
theorem groupFrame_mod_moved (hg : groupAt s i.core i.slot = some g) (e : Enc) (k : Group → Group) :
    GroupFrame s { s with fab := i.mod (moved s e i) k } i g (k (i.pastGroup s.fab.ac e.hints g)) := by
  rw [mod_moved]
  exact groupFrame_modGroup hg fun g => k (i.pastGroup s.fab.ac e.hints g)

/-- What an instruction that writes no register keeps of each lane, whatever else it changes. -/
def Lane.Keeps (x x' : Lane) : Prop :=
  x'.status = x.status ∧ x'.bound = x.bound ∧ x'.task = x.task ∧ x'.ck = x.ck ∧ x'.regs = x.regs ∧ x'.epoch = x.epoch

theorem Lane.Keeps.trans {x y z : Lane} (hxy : x.Keeps y) (hyz : y.Keeps z) : x.Keeps z := by
  obtain ⟨h1, h2, h3, h4, h5, h6⟩ := hxy
  obtain ⟨k1, k2, k3, k4, k5, k6⟩ := hyz
  exact ⟨k1.trans h1, k2.trans h2, k3.trans h3, k4.trans h4, k5.trans h5, k6.trans h6⟩

theorem Iss.keeps_pastLane (i : Iss) (l : Nat) (x : Lane) : x.Keeps (i.pastLane l x) := by simp [Lane.Keeps]

/-- An instruction that changes nothing but the lanes of its group, and of these no register. -/
theorem frameBut_of_lanes {R : Nat → Lane → Lane → Prop} {hints : Bool × Nat} {k : Group → Group} (hg : groupAt s i.core i.slot = some g)
    {ls : List Lane} (hk : k g = { i.pastGroup s.fab.ac hints g with lanes := ls })
    (hls : ∀ l x, g.lanes[l]? = some x → ∃ x', ls[l]? = some x' ∧ x.Keeps x' ∧ R l x x') :
    FrameBut s { s with fab := s.fab.modGroup i.core i.slot k } i 0 0 R := by
  obtain ⟨hctl, hagenda, hcore, hunits, tm, tm', htm, htm', hstore, hshared, hgr, hgr', hothers⟩ := groupFrame_modGroup hg k
  rw [hk] at hgr'
  refine ⟨hctl, hagenda, hcore, hunits, tm, tm', g, _, htm, htm', hstore, hgr, hgr', hothers, fun m _ _ => by rw [hshared],
    ⟨rfl, rfl, rfl, rfl, rfl, rfl, rfl, rfl, rfl, rfl, rfl⟩, rfl, rfl, rfl, ?_, fun l x hx => ?_⟩
  · show (g.trap.map _).map _ = _
    cases g.trap <;> rfl
  · obtain ⟨x', hx', ⟨hstatus, hbound, htask, hck, hregs, hepoch⟩, hR⟩ := hls l x hx
    exact ⟨x', hx', hstatus, hbound, htask, hck, hR, fun m _ _ => Lane.priv_congr (by rw [hregs]) hepoch _ _ _⟩
end

/-! ## Instructions that change their active lanes -/

section
variable (i : Iss) (h : Lane → Lane)

/-- A lane past an instruction that changes the active lanes by `h`. -/
def Iss.stepLane (l : Nat) (x : Lane) : Lane := if l ∈ i.active then h (i.pastLane l x) else i.pastLane l x
/-- The group past such an instruction. -/
def Iss.stepGroup (ac : Nat) (hints : Bool × Nat) (g : Group) : Group :=
  { i.pastGroup ac hints g with lanes := g.lanes.mapIdx (i.stepLane h) }

variable {i h} in
theorem Iss.stepLane_of_mem {l : Nat} (hl : l ∈ i.active) (x : Lane) : i.stepLane h l x = h (i.pastLane l x) := if_pos hl
variable {i h} in
theorem Iss.stepLane_of_not_mem {l : Nat} (hl : l ∉ i.active) (x : Lane) : i.stepLane h l x = i.pastLane l x := if_neg hl

theorem Iss.getElem?_stepGroup_lanes (ac : Nat) (hints : Bool × Nat) (g : Group) (l : Nat) :
    (i.stepGroup h ac hints g).lanes[l]? = (g.lanes[l]?).map (i.stepLane h l) := by
  simp [Iss.stepGroup]

theorem eachActive_moved (s : State) (e : Enc) :
    i.eachActive (moved s e i) h = s.fab.modGroup i.core i.slot (i.stepGroup h s.fab.ac e.hints) := by
  have hstep (g : Group) : (i.pastGroup s.fab.ac e.hints g).lanes.mapIdx (fun l x => if i.active.contains l then h x else x) =
      g.lanes.mapIdx (i.stepLane h) := by
    refine List.ext_getElem? fun l => ?_
    rw [List.getElem?_mapIdx, Iss.getElem?_pastGroup_lanes, List.getElem?_mapIdx, Option.map_map]
    simp only [Function.comp_def, List.contains_iff_mem]
    rfl
  rw [Iss.eachActive, mod_moved]
  simp only [hstep]
  rfl
end

end Sys2Proof.Machine
end

section
set_option Elab.async false

/-! # Rejoin masks (O26) -/

namespace Sys2Proof.Machine
open Sys2Proof.Safety

/-! ## The bits of a lane in a mask (R147) -/

section
variable {j : Nat} (m : BitVec 16) (hj : j < 16)
include hj

theorem jbit_setJ_true : jbit (setJ m j true) j = true := by simp [jbit, setJ, hj]
theorem jbit_setJ_false : jbit (setJ m j false) j = false := by simp [jbit, setJ, hj]
end

/-- Clearing a bit that has just been set. -/
theorem setJ_setJ_false (m : BitVec 16) (j : Nat) : setJ (setJ m j true) j false = setJ m j false := by
  ext k hk
  simp only [setJ, if_true, Bool.false_eq_true, if_false, BitVec.getElem_and, BitVec.getElem_or, BitVec.getElem_not]
  cases (1#16 <<< j)[k] <;> simp

theorem s_lt (f : XrForm) : f.s < 16 := f.sub.isLt

/-! ## The release of a mask (R147) -/

/-- Whether a mask releases. -/
def Group.releases (g : Group) (j : Nat) : Bool :=
  let live := g.lanes.filter (fun l => l.status == .live)
  live.any (fun l => jbit l.arrived j) && live.all (fun l => !jbit l.enrolled j || jbit l.arrived j)

/-- A lane that a mask releases, if it has arrived there. -/
def Lane.freed (j : Nat) (x : Lane) : Lane :=
  if jbit x.arrived j then
    (let x := { x with arrived := setJ x.arrived j false }
     if x.park = some (.jwait (BitVec.ofNat 4 j)) then x.unpark else x)
  else x
/-- A lane after a mask has released, or not. -/
def Lane.freedIf (released : Bool) (j : Nat) (x : Lane) : Lane := if released then x.freed j else x

/-- A mask releases where a live lane has arrived and every live lane that is enrolled has. -/
theorem Group.releases_iff (g : Group) (j : Nat) : g.releases j = true ↔
    (∃ (l : Nat) (x : Lane), g.lanes[l]? = some x ∧ x.status = .live ∧ jbit x.arrived j = true) ∧
      ∀ (l : Nat) (x : Lane), g.lanes[l]? = some x → x.status = .live → jbit x.enrolled j = true → jbit x.arrived j = true := by
  simp only [Group.releases, Bool.and_eq_true, List.any_eq_true, List.all_eq_true, List.mem_filter, beq_iff_eq, Bool.or_eq_true,
    Bool.not_eq_true']
  simp only [List.mem_iff_getElem?, and_imp, forall_exists_index]
  constructor
  · rintro ⟨⟨x, ⟨⟨l, hl⟩, hlive⟩, harr⟩, hall⟩
    refine ⟨⟨l, x, hl, hlive, harr⟩, fun k y hk hy henr => ?_⟩
    rcases hall y k hk hy with h | h
    · rw [henr] at h; cases h
    · exact h
  · rintro ⟨⟨l, x, hl, hlive, harr⟩, hall⟩
    refine ⟨⟨x, ⟨⟨l, hl⟩, hlive⟩, harr⟩, fun y k hk hy => ?_⟩
    cases henr : jbit y.enrolled j
    · exact .inl rfl
    · exact .inr (hall k y hk hy henr)

theorem Group.releaseMask_eq (g : Group) (j : Nat) :
    g.releaseMask j = { g with lanes := g.lanes.map (Lane.freedIf (g.releases j) j) } := by
  unfold Group.releaseMask
  simp only [← Bool.and_eq_true]
  split
  case isTrue h => rw [show g.releases j = true from h]; rfl
  case isFalse h =>
    rw [show g.releases j = false from Bool.eq_false_iff.mpr h, show Lane.freedIf false j = id from rfl, List.map_id]

section
variable {j : Nat} {x : Lane}

theorem Lane.freed_of_not_arrived (h : jbit x.arrived j = false) : x.freed j = x := by
  rw [Lane.freed, if_neg (by simp [h])]
/-- A lane that has arrived and waits at the mask goes on. -/
theorem Lane.freed_of_parked (h : jbit x.arrived j = true) (hp : x.park = some (.jwait (BitVec.ofNat 4 j))) :
    x.freed j = { x with arrived := setJ x.arrived j false, park := none, pc := x.parkNext } := by
  rw [Lane.freed, if_pos h]
  exact if_pos hp
/-- A lane that has arrived and waits elsewhere keeps its place. -/
theorem Lane.freed_of_elsewhere (h : jbit x.arrived j = true) (hp : x.park ≠ some (.jwait (BitVec.ofNat 4 j))) :
    x.freed j = { x with arrived := setJ x.arrived j false } := by
  rw [Lane.freed, if_pos h]
  exact if_neg hp

/-- Release changes a lane's arrived bits, its park and its PC only. -/
theorem Lane.freedIf_eq (released : Bool) (j : Nat) (x : Lane) : x.freedIf released j = { x with
    arrived := (x.freedIf released j).arrived, park := (x.freedIf released j).park, pc := (x.freedIf released j).pc } := by
  unfold Lane.freedIf Lane.freed Lane.unpark
  dsimp only
  repeat' split
  all_goals rfl

theorem Lane.keeps_freedIf (released : Bool) (j : Nat) (x : Lane) : x.Keeps (x.freedIf released j) := by
  rw [Lane.freedIf_eq]
  exact ⟨rfl, rfl, rfl, rfl, rfl, rfl⟩
end

/-! ## The instructions (R289) -/

/-- The group past an instruction that changes its active lanes by `h` and then lets a mask release. -/
def Iss.rejoinGroup (i : Iss) (h : Lane → Lane) (j ac : Nat) (hints : Bool × Nat) (g : Group) : Group :=
  { i.pastGroup ac hints g with
    lanes := g.lanes.mapIdx (fun l x => (i.stepLane h l x).freedIf ((i.stepGroup h ac hints g).releases j) j) }

theorem releaseMask_stepGroup (i : Iss) (h : Lane → Lane) (j ac : Nat) (hints : Bool × Nat) (g : Group) :
    (i.stepGroup h ac hints g).releaseMask j = i.rejoinGroup h j ac hints g := by
  have hlanes : (i.stepGroup h ac hints g).lanes.map (Lane.freedIf ((i.stepGroup h ac hints g).releases j) j) =
      (i.rejoinGroup h j ac hints g).lanes := by
    refine List.ext_getElem? fun l => ?_
    rw [List.getElem?_map, Iss.getElem?_stepGroup_lanes, Option.map_map, Iss.rejoinGroup, List.getElem?_mapIdx]
    rfl
  rw [Group.releaseMask_eq, hlanes]
  rfl

theorem release_eachActive_moved (s : State) (e : Enc) (i : Iss) (h : Lane → Lane) (j : Nat) :
    i.mod (i.eachActive (moved s e i) h) (fun g => g.releaseMask j) =
      s.fab.modGroup i.core i.slot (i.rejoinGroup h j s.fab.ac e.hints) := by
  rw [Iss.mod, eachActive_moved, Fab.modGroup_modGroup]
  simp only [releaseMask_stepGroup]

theorem Iss.keeps_stepLane {h : Lane → Lane} (hh : ∀ x : Lane, x.Keeps (h x)) (i : Iss) (l : Nat) (x : Lane) : x.Keeps (i.stepLane h l x) := by
  unfold Iss.stepLane
  split
  · exact (i.keeps_pastLane l x).trans (hh _)
  · exact i.keeps_pastLane l x

section
variable {s : State} {i : Iss} {g : Group} {h : Lane → Lane} {R : Nat → Lane → Lane → Prop} {hints : Bool × Nat} {j : Nat}
  (hg : groupAt s i.core i.slot = some g) (hh : ∀ x : Lane, x.Keeps (h x))
include hg hh

/-- The frame of an instruction that changes its active lanes by `h`. -/
theorem frameBut_stepGroup (hR : ∀ l x, g.lanes[l]? = some x → R l x (i.stepLane h l x)) :
    FrameBut s { s with fab := s.fab.modGroup i.core i.slot (i.stepGroup h s.fab.ac hints) } i 0 0 R :=
  frameBut_of_lanes hg rfl fun l x hx => ⟨i.stepLane h l x, by rw [List.getElem?_mapIdx, hx]; rfl, i.keeps_stepLane hh l x, hR l x hx⟩

/-- The frame of an instruction that changes its active lanes by `h` and then lets a mask release. -/
theorem frameBut_rejoinGroup
    (hR : ∀ l x, g.lanes[l]? = some x → R l x ((i.stepLane h l x).freedIf ((i.stepGroup h s.fab.ac hints g).releases j) j)) :
    FrameBut s { s with fab := s.fab.modGroup i.core i.slot (i.rejoinGroup h j s.fab.ac hints) } i 0 0 R :=
  frameBut_of_lanes hg rfl fun l x hx => ⟨_, by rw [List.getElem?_mapIdx, hx]; rfl,
    (i.keeps_stepLane hh l x).trans (Lane.keeps_freedIf ..), hR l x hx⟩
end

/-- What a mask's release does to a lane that the instruction does not act on: one that has arrived leaves the mask, and goes on if it waits
there; else, and without a release, the lane only passes. -/
theorem freedIf_passing {i : Iss} {h : Lane → Lane} {l : Nat} (hl : l ∉ i.active) (x : Lane) (released : Bool) (f : XrForm) :
    let x' := (i.stepLane h l x).freedIf released f.s
    x'.enrolled = x.enrolled ∧ x'.prio = x.prio ∧
    (released = true → x.arrived.getLsbD f.s = true → x'.arrived = x.arrived &&& ~~~(1#16 <<< f.s) ∧
      (x.park = some (.jwait f.sub) → x'.park = none ∧ x'.pc = x.parkNext) ∧
      (x.park ≠ some (.jwait f.sub) → x'.park = x.park ∧ x'.pc = past i l x)) ∧
    ((¬released = true ∨ x.arrived.getLsbD f.s = false) → x'.arrived = x.arrived ∧ x'.park = x.park ∧ x'.pc = past i l x) := by
  have hsub : BitVec.ofNat 4 f.s = f.sub := by simp [XrForm.s]
  rw [Iss.stepLane_of_not_mem hl]
  refine ⟨by rw [Lane.freedIf_eq]; simp, by rw [Lane.freedIf_eq]; simp, fun hr harr => ?_, fun hr => ?_⟩
  · have harr' : jbit (i.pastLane l x).arrived f.s = true := by rwa [Iss.pastLane_arrived]
    rw [Lane.freedIf, if_pos hr]
    by_cases hp : x.park = some (.jwait f.sub)
    · rw [Lane.freed_of_parked harr' (by rwa [hsub, Iss.pastLane_park])]
      exact ⟨by simp [setJ], by simp, fun hn => absurd hp hn⟩
    · rw [Lane.freed_of_elsewhere harr' (by rwa [hsub, Iss.pastLane_park])]
      exact ⟨by simp [setJ], fun hn => absurd hn hp, by simp⟩
  · have hstays : (i.pastLane l x).freedIf released f.s = i.pastLane l x := by
      rcases hr with hr | harr
      · rw [Lane.freedIf, if_neg hr]
      · rw [Lane.freedIf, Lane.freed_of_not_arrived (by rwa [Iss.pastLane_arrived]), ite_self]
    rw [hstays]
    simp

/-! ### `jenr` -/

/-- A lane that enrols in a mask. -/
def Lane.enrol (j : Nat) (x : Lane) : Lane := { x with enrolled := setJ x.enrolled j true }

theorem bodyJenr_moved (f : XrForm) (i : Iss) (s : State) (ctl : Ctl) (e : Enc) : bodyJenr f i ctl (moved s e i) =
    .done (s.fab.modGroup i.core i.slot (i.stepGroup (Lane.enrol f.s) s.fab.ac e.hints)) :=
  congrArg Res.done (eachActive_moved i (Lane.enrol f.s) s e)

/-! ### `jwait` -/

/-- A lane that arrives at a mask and parks there. -/
def Lane.arrive (f : XrForm) (x : Lane) : Lane :=
  { x with arrived := setJ x.arrived f.s true, park := some (.jwait f.sub), parkNext := x.pc }

/-- Whether a lane of a group is enrolled in a mask. -/
def Group.enrols (g : Group) (j l : Nat) : Bool := match g.lanes[l]? with | some x => jbit x.enrolled j | none => false

/-- Whether a lane is there and not enrolled in a mask. -/
def Fab.unenrolled (f : Fab) (i : Iss) (j l : Nat) : Bool :=
  match f.lane? i.core i.slot l with | some y => !jbit y.enrolled j | none => false

theorem bodyJwait_eq (f : XrForm) (i : Iss) (ctl : Ctl) (fab : Fab) : bodyJwait f i ctl fab =
    if i.active.isEmpty then .done fab
    else if !(i.active.filter (fab.unenrolled i f.s)).isEmpty then .trap (.plain 0x15 0 (i.active.filter (fab.unenrolled i f.s)))
    else .done (i.mod (i.eachActive fab (Lane.arrive f)) (fun g => g.releaseMask f.s)) := rfl

section
variable {s : State} {i : Iss} {g : Group} {p : Pred} {len : Nat} (hi : s.fab.iss p len = some i) (hg : groupAt s i.core i.slot = some g)
  {f : XrForm} (ctl : Ctl) (e : Enc)
include hi hg

/-- The active lanes that `jwait` finds not enrolled. -/
theorem filter_unenrolled : i.active.filter ((moved s e i).unenrolled i f.s) = i.active.filter (fun l => !g.enrols f.s l) := by
  obtain ⟨-, -, -, -, hactive, hlanes⟩ := Fab.iss_group hi hg
  refine List.filter_congr fun l hl => ?_
  obtain ⟨x, hx, -⟩ := hlanes l (hactive l hl)
  simp [Fab.unenrolled, lane?_moved hg, Group.enrols, hx]

theorem bodyJwait_unenrolled (hbad : i.active.filter (fun l => !g.enrols f.s l) ≠ []) :
    bodyJwait f i ctl (moved s e i) = .trap (.plain 0x15 0 (i.active.filter (fun l => !g.enrols f.s l))) := by
  have hne : i.active ≠ [] := fun h => hbad (by rw [h]; rfl)
  rw [bodyJwait_eq, filter_unenrolled hi hg, if_neg (by simpa using hne), if_pos (by simpa using hbad)]

theorem bodyJwait_arrives (hne : i.active ≠ []) (hbad : i.active.filter (fun l => !g.enrols f.s l) = []) :
    bodyJwait f i ctl (moved s e i) = .done (s.fab.modGroup i.core i.slot (i.rejoinGroup (Lane.arrive f) f.s s.fab.ac e.hints)) := by
  rw [bodyJwait_eq, filter_unenrolled hi hg, if_neg (by simpa using hne), hbad, if_neg (by simp), release_eachActive_moved]
end

/-- With the active lanes arrived, the mask of `jwait` releases where every enrolled lane has arrived. -/
theorem releases_arrive {s : State} {i : Iss} {g : Group} {p : Pred} {len : Nat} (hi : s.fab.iss p len = some i)
    (hg : groupAt s i.core i.slot = some g) (hne : i.active ≠ []) (f : XrForm) (ac : Nat) (hints : Bool × Nat) :
    (i.stepGroup (Lane.arrive f) ac hints g).releases f.s = true ↔ ∀ (l : Nat) (x : Lane), g.lanes[l]? = some x → x.status = .live →
      x.enrolled.getLsbD f.s = true → x.arrived.getLsbD f.s = true ∨ l ∈ i.active := by
  obtain ⟨-, -, -, -, hactive, hlanes⟩ := Fab.iss_group hi hg
  have hstep {l : Nat} {x : Lane} (hx : g.lanes[l]? = some x) :
      (i.stepGroup (Lane.arrive f) ac hints g).lanes[l]? = some (i.stepLane (Lane.arrive f) l x) := by
    rw [Iss.getElem?_stepGroup_lanes, hx]; rfl
  have hstatus (l : Nat) (x : Lane) : (i.stepLane (Lane.arrive f) l x).status = x.status := by
    unfold Iss.stepLane Lane.arrive; split <;> simp
  have henrolled (l : Nat) (x : Lane) : (i.stepLane (Lane.arrive f) l x).enrolled = x.enrolled := by
    unfold Iss.stepLane Lane.arrive; split <;> simp
  have harrived (l : Nat) (x : Lane) : jbit (i.stepLane (Lane.arrive f) l x).arrived f.s = true ↔
      x.arrived.getLsbD f.s = true ∨ l ∈ i.active := by
    unfold Iss.stepLane
    split
    · next h => simp [Lane.arrive, jbit_setJ_true _ (s_lt f), h]
    · next h => simp [jbit, h]
  rw [Group.releases_iff]
  constructor
  · rintro ⟨-, hall⟩ l x hx hlive henr
    exact (harrived l x).mp (hall l _ (hstep hx) ((hstatus l x).trans hlive) (by rwa [henrolled]))
  · intro hfull
    obtain ⟨a, ha⟩ := List.exists_mem_of_ne_nil _ hne
    obtain ⟨x, hx, hlive, -⟩ := hlanes a (hactive a ha)
    refine ⟨⟨a, _, hstep hx, (hstatus a x).trans hlive, (harrived a x).mpr (.inr ha)⟩, fun l y hy hylive henr => ?_⟩
    obtain ⟨z, hz, rfl⟩ := Option.map_eq_some_iff.mp ((Iss.getElem?_stepGroup_lanes ..).symm.trans hy)
    exact (harrived l z).mpr (hfull l z hz ((hstatus l z).symm.trans hylive) (by rwa [henrolled] at henr))

/-- An active lane of `jwait`: it has arrived and parks, or, where the mask releases, goes on. -/
theorem freedIf_arrive {i : Iss} {l : Nat} (hl : l ∈ i.active) (x : Lane) (released : Bool) (f : XrForm) :
    let x' := (i.stepLane (Lane.arrive f) l x).freedIf released f.s
    x'.enrolled = x.enrolled ∧ x'.prio = x.prio ∧
    (released = true → x'.arrived = x.arrived &&& ~~~(1#16 <<< f.s) ∧ x'.park = none ∧ x'.pc = past i l x) ∧
    (¬released = true → x'.arrived = x.arrived ||| 1#16 <<< f.s ∧ x'.park = some (.jwait f.sub) ∧ x'.parkNext = past i l x) := by
  have hsub : BitVec.ofNat 4 f.s = f.sub := by simp [XrForm.s]
  rw [Iss.stepLane_of_mem hl]
  refine ⟨by rw [Lane.freedIf_eq]; simp [Lane.arrive], by rw [Lane.freedIf_eq]; simp [Lane.arrive], fun hr => ?_, fun hr => ?_⟩
  · rw [Lane.freedIf, if_pos hr, Lane.freed_of_parked (jbit_setJ_true _ (s_lt f)) (by rw [hsub]; rfl)]
    refine ⟨?_, rfl, by simp [Lane.arrive]⟩
    simp only [Lane.arrive, setJ_setJ_false, Iss.pastLane_arrived]
    rfl
  · rw [Lane.freedIf, if_neg hr]
    exact ⟨by simp [Lane.arrive, setJ], rfl, by simp [Lane.arrive]⟩

/-! ### `jstr` -/

/-- A lane that leaves a mask. -/
def Lane.leave (j : Nat) (x : Lane) : Lane := { x with enrolled := setJ x.enrolled j false, arrived := setJ x.arrived j false }

theorem bodyJstr_moved {i : Iss} (hne : i.active ≠ []) (f : XrForm) (s : State) (ctl : Ctl) (e : Enc) : bodyJstr f i ctl (moved s e i) =
    .done (s.fab.modGroup i.core i.slot (i.rejoinGroup (Lane.leave f.s) f.s s.fab.ac e.hints)) := by
  unfold bodyJstr
  rw [if_neg (by simpa using hne)]
  exact congrArg Res.done (release_eachActive_moved s e i (Lane.leave f.s) f.s)

/-- With the active lanes gone, the mask of `jstr` releases where one of the others has arrived and every enrolled one has. -/
theorem releases_leave (i : Iss) (f : XrForm) (ac : Nat) (hints : Bool × Nat) (g : Group) :
    (i.stepGroup (Lane.leave f.s) ac hints g).releases f.s = true ↔
      (∃ (l : Nat) (x : Lane), g.lanes[l]? = some x ∧ x.status = .live ∧ l ∉ i.active ∧ x.arrived.getLsbD f.s = true) ∧
        ∀ (l : Nat) (x : Lane), g.lanes[l]? = some x → x.status = .live → l ∉ i.active → x.enrolled.getLsbD f.s = true →
          x.arrived.getLsbD f.s = true := by
  have hstatus (l : Nat) (x : Lane) : (i.stepLane (Lane.leave f.s) l x).status = x.status := by
    unfold Iss.stepLane Lane.leave; split <;> simp
  have henrolled (l : Nat) (x : Lane) : jbit (i.stepLane (Lane.leave f.s) l x).enrolled f.s = true ↔
      l ∉ i.active ∧ x.enrolled.getLsbD f.s = true := by
    unfold Iss.stepLane
    split
    · next h => simp [Lane.leave, jbit_setJ_false _ (s_lt f), h]
    · next h => simp [jbit, h]
  have harrived (l : Nat) (x : Lane) : jbit (i.stepLane (Lane.leave f.s) l x).arrived f.s = true ↔
      l ∉ i.active ∧ x.arrived.getLsbD f.s = true := by
    unfold Iss.stepLane
    split
    · next h => simp [Lane.leave, jbit_setJ_false _ (s_lt f), h]
    · next h => simp [jbit, h]
  rw [Group.releases_iff]
  simp only [Iss.getElem?_stepGroup_lanes, Option.map_eq_some_iff]
  constructor
  · rintro ⟨⟨l, _, ⟨x, hx, rfl⟩, hlive, harr⟩, hall⟩
    obtain ⟨hl, harr⟩ := (harrived l x).mp harr
    refine ⟨⟨l, x, hx, (hstatus l x).symm.trans hlive, hl, harr⟩, fun k y hy hylive hk henr => ?_⟩
    exact ((harrived k y).mp (hall k _ ⟨y, hy, rfl⟩ ((hstatus k y).trans hylive) ((henrolled k y).mpr ⟨hk, henr⟩))).2
  · rintro ⟨⟨l, x, hx, hlive, hl, harr⟩, hall⟩
    refine ⟨⟨l, _, ⟨x, hx, rfl⟩, (hstatus l x).trans hlive, (harrived l x).mpr ⟨hl, harr⟩⟩, ?_⟩
    rintro k _ ⟨y, hy, rfl⟩ hylive henr
    obtain ⟨hk, henr⟩ := (henrolled k y).mp henr
    exact (harrived k y).mpr ⟨hk, hall k y hy ((hstatus k y).symm.trans hylive) hk henr⟩

/-- An active lane of `jstr` leaves the mask and passes, whether the mask releases or not. -/
theorem freedIf_leave {i : Iss} {l : Nat} (hl : l ∈ i.active) (x : Lane) (released : Bool) (f : XrForm) :
    let x' := (i.stepLane (Lane.leave f.s) l x).freedIf released f.s
    x'.prio = x.prio ∧ x'.enrolled = x.enrolled &&& ~~~(1#16 <<< f.s) ∧ x'.arrived = x.arrived &&& ~~~(1#16 <<< f.s) ∧ x'.park = x.park ∧
      x'.pc = past i l x := by
  rw [Iss.stepLane_of_mem hl, Lane.freedIf, Lane.freed_of_not_arrived (jbit_setJ_false _ (s_lt f)), ite_self]
  simp [Lane.leave, setJ]

/-! ### `jmov` -/

/-- The lanes of a mask. -/
theorem getLsbD_maskOf (ls : List Nat) (b : Nat) : (maskOf ls).getLsbD b = decide (b ∈ ls ∧ b < 64) := by
  have hfold (m : BitVec 64) : (ls.foldl (fun m i => m ||| (BitVec.ofNat 64 1 <<< i)) m).getLsbD b =
      (m.getLsbD b || decide (b ∈ ls ∧ b < 64)) := by
    induction ls generalizing m with
    | nil => simp
    | cons a ls ih =>
      have hone : (BitVec.ofNat 64 1 <<< a).getLsbD b = decide (b = a ∧ b < 64) := by
        rw [← BitVec.twoPow_eq, BitVec.getLsbD_twoPow, Bool.eq_iff_iff]
        simp
        omega
      rw [List.foldl_cons, ih, BitVec.getLsbD_or, hone, Bool.eq_iff_iff]
      simp only [Bool.or_eq_true, decide_eq_true_eq, List.mem_cons]
      tauto
  exact (hfold 0).trans (by simp)

/-- A number held by registers reads back modulo what they hold. -/
theorem regsNat_natRegs (tag : Tag) (n x : Nat) : regsNat (natRegs tag n x) = x % 2 ^ (32 * n) := by
  induction n generalizing x with
  | zero => simp [natRegs, regsNat, Nat.mod_one]
  | succ n ih =>
    rw [natRegs, regsNat, ih, Nat.mul_succ, Nat.add_comm (32 * n), Nat.pow_add, Nat.mod_mul]
    rfl

theorem tag_of_mem_natRegs {tag : Tag} {n x : Nat} {r : Reg} (h : r ∈ natRegs tag n x) : r.tag = tag := by
  induction n generalizing x with
  | zero => cases h
  | succ n ih =>
    rcases List.mem_cons.mp h with rfl | h
    · rfl
    · exact ih h

/-- The lanes of a group that are enrolled in a mask, as a lane mask. -/
def Group.enrolledMask (g : Group) (j : Nat) : BitVec 64 := maskOf ((List.range g.lanes.length).filter (g.enrols j))

theorem Group.getLsbD_enrolledMask (g : Group) (j : Nat) {b : Nat} (hb : b < 64) : (g.enrolledMask j).getLsbD b = g.enrols j b := by
  rw [Group.enrolledMask, getLsbD_maskOf, Bool.eq_iff_iff]
  simp only [List.mem_filter, List.mem_range, hb, and_true, decide_eq_true_eq, and_iff_right_iff_imp]
  intro h
  by_contra hlt
  rw [Group.enrols, List.getElem?_eq_none (Nat.le_of_not_lt hlt)] at h
  cases h

theorem bodyJmov_moved {s : State} {i : Iss} {g : Group} {p : Pred} {len : Nat} (hi : s.fab.iss p len = some i)
    (hg : groupAt s i.core i.slot = some g) (f : XrForm) (ctl : Ctl) (e : Enc) : bodyJmov f i ctl (moved s e i) =
      i.pure (moved s e i) f.d.toNat (fun _ => natRegs .bits (if i.w = 64 then 2 else 1) (g.enrolledMask f.s).toNat) := by
  have henrols : (i.pastGroup s.fab.ac e.hints g).enrols f.s = g.enrols f.s := by
    funext l
    rw [Group.enrols, Iss.getElem?_pastGroup_lanes, Group.enrols]
    cases g.lanes[l]? with
    | none => rfl
    | some x => simp
  have hmask : maskOf ((List.range i.w).filter ((i.pastGroup s.fab.ac e.hints g).enrols f.s)) = g.enrolledMask f.s := by
    rw [henrols, (Fab.iss_group hi hg).1]
    rfl
  unfold bodyJmov
  rw [group?_moved hg, ← hmask]
  rfl

end Sys2Proof.Machine

namespace Sys2Proof.Safety
open Sys2Proof.Machine

/-- Settles O26, instruction by instruction: what becomes of an active lane, and of one that only passes. -/
theorem rejoinMasks : Obligations.RejoinMasks := by
  unfold Obligations.RejoinMasks
  intro f s i g hg hne
  dsimp only
  refine ⟨fun h => ?jenr, fun h => ⟨fun hbad => ?unenrolled, fun hbad => ?jwait⟩, fun h => ?jstr, fun h => ?jmov⟩
  case jenr =>
    refine ⟨_, run_done h (bodyJenr_moved ..), frameBut_stepGroup hg (fun _ => ⟨rfl, rfl, rfl, rfl, rfl, rfl⟩) fun l x _ => ?_⟩
    unfold Iss.stepLane
    split
    · simp [Lane.enrol, setJ]
    · simp
  case unenrolled => exact run_trap h (bodyJwait_unenrolled h.1 hg s.ctl _ hbad)
  case jwait =>
    have hentry {l : Nat} : l ∈ i.active → l ∈ i.entry := mem_entry_of_mem_active h.1
    refine ⟨_, run_done h (bodyJwait_arrives h.1 hg s.ctl _ hne hbad),
      frameBut_rejoinGroup hg (fun _ => ⟨rfl, rfl, rfl, rfl, rfl, rfl⟩) fun l x _ => ?_⟩
    rw [← releases_arrive h.1 hg hne f s.fab.ac (Enc.xr 0x6F f).hints]
    generalize (i.stepGroup (Lane.arrive f) s.fab.ac (Enc.xr 0x6F f).hints g).releases f.s = released
    by_cases hl : l ∈ i.active
    · obtain ⟨henr, hprio, hgo, hpark⟩ := freedIf_arrive hl x released f
      rw [past_of_mem (hentry hl)] at hgo hpark
      exact ⟨henr, hprio, fun hr _ => hgo hr, fun _ hn => absurd hl hn, fun hr _ => hpark hr, fun hn => absurd hl hn⟩
    · obtain ⟨henr, hprio, hgo, hstay⟩ := freedIf_passing (h := Lane.arrive f) hl x released f
      exact ⟨henr, hprio, fun _ hn => absurd hn hl, fun hr _ => hgo hr, fun _ hn => absurd hn hl, fun _ => hstay⟩
  case jstr =>
    have hentry {l : Nat} : l ∈ i.active → l ∈ i.entry := mem_entry_of_mem_active h.1
    refine ⟨_, run_done h (bodyJstr_moved hne ..), frameBut_rejoinGroup hg (fun _ => ⟨rfl, rfl, rfl, rfl, rfl, rfl⟩) fun l x _ => ?_⟩
    rw [← releases_leave i f s.fab.ac (Enc.xr 0x70 f).hints g]
    generalize (i.stepGroup (Lane.leave f.s) s.fab.ac (Enc.xr 0x70 f).hints g).releases f.s = released
    by_cases hl : l ∈ i.active
    · obtain ⟨hprio, henr, harr, hpark, hpc⟩ := freedIf_leave hl x released f
      rw [past_of_mem (hentry hl)] at hpc
      exact ⟨hprio, fun _ => ⟨henr, harr, hpark, hpc⟩, fun hn => absurd hl hn, fun _ hn => absurd hl hn, fun hn => absurd hl hn⟩
    · obtain ⟨henr, hprio, hgo, hstay⟩ := freedIf_passing (h := Lane.leave f.s) hl x released f
      exact ⟨hprio, fun hn => absurd hn hl, fun _ => henr, fun hr _ => hgo hr, fun _ => hstay⟩
  case jmov =>
    obtain ⟨t, hexec, -, hwrote, hgcw⟩ := run_pure f.d.toNat (if i.w = 64 then 2 else 1) _ h (bodyJmov_moved h.1 hg f s.ctl _)
      fun _ _ => natRegs_length ..
    refine ⟨t, _, hexec, hgcw, hwrote, natRegs_length .., fun r hr => tag_of_mem_natRegs hr, fun b hb => ?_⟩
    rw [natRegs_length] at hb
    have hb64 : b < 64 := by split at hb <;> omega
    rw [regsNat_natRegs, Nat.testBit_mod_two_pow, decide_eq_true hb, Bool.true_and]
    exact g.getLsbD_enrolledMask f.s hb64

end Sys2Proof.Safety
end

section
set_option Elab.async false

/-! # Taking an exception (O33) -/

namespace Sys2Proof.Machine
open Sys2Proof.Safety

/-! ## The entry (R153, R154) -/

/-- The lanes that a trap takes as handler lanes: those of its mask that wait. -/
def Group.takes (g : Group) (p : PendTrap) : List (Nat × Lane) := g.numbered.filter (fun x => x.2.ready && inMask p.handlers x.1)

theorem Group.mem_takes {g : Group} {p : PendTrap} {l : Nat} {x : Lane} :
    (l, x) ∈ g.takes p ↔ inMask p.handlers l = true ∧ g.lanes[l]? = some x ∧ x.ready = true := by
  rw [Group.takes, List.mem_filter, Group.mem_numbered, Bool.and_eq_true]
  tauto

/-- The group whose trap has been entered at a PC, with its frame at an address. -/
def Group.enterTrap (g : Group) (p : PendTrap) (pc frame : Addr) : Group :=
  let g' : Group := { g with pendTrap := none, hold := none, absentSince := none }
  if (g.takes p).isEmpty then g'
  else ({ g' with
    trap := some ⟨maskOf ((g.takes p).map (·.1)), 0, frame⟩
    lanes := g.lanes.mapIdx (fun i l => if (g.takes p).any (fun h => h.1 == i) then
      { l with pc := pc, window := if p.cause = 0x0F ∧ l.window.isSome then some 0 else l.window } else l) } : Group).merge

/-- Whether a lane becomes a handler lane. -/
def Group.Handles (g : Group) (p : PendTrap) (l : Nat) : Prop := inMask p.handlers l = true ∧ ∃ y, g.lanes[l]? = some y ∧ y.ready = true

theorem Group.exists_mem_takes {g : Group} {p : PendTrap} {l : Nat} : (∃ h ∈ g.takes p, h.1 = l) ↔ g.Handles p l := by
  constructor
  · rintro ⟨⟨k, x⟩, hmem, rfl⟩
    obtain ⟨hin, hx, hr⟩ := Group.mem_takes.mp hmem
    exact ⟨hin, x, hx, hr⟩
  · rintro ⟨hin, x, hx, hr⟩
    exact ⟨(l, x), Group.mem_takes.mpr ⟨hin, hx, hr⟩, rfl⟩

/-- A group that a trap takes handler lanes of: they stand at the entry's PC in trap mode, and every lane is as before but for its PC, its
window and its priority. -/
theorem Group.enterTrap_spec {g : Group} {p : PendTrap} (h : ∃ l, g.Handles p l) (pc frame : Addr) :
    let g' := g.enterTrap p pc frame
    ∃ m : BitVec 64, g'.trap = some ⟨m, 0, frame⟩ ∧ (∀ l, l < 64 → (m.getLsbD l = true ↔ g.Handles p l)) ∧
      g'.pendTrap = none ∧ g'.hold = none ∧ g'.gcw = g.gcw ∧ g'.r = g.r ∧ SameQueues g' g ∧
      ∀ l y, g.lanes[l]? = some y → ∃ y', g'.lanes[l]? = some y' ∧ y'.regs = y.regs ∧ y'.ck = y.ck ∧ y'.park = y.park ∧ y'.status = y.status ∧
        (g.Handles p l → y'.pc = pc) ∧ (¬g.Handles p l → y'.pc = y.pc) := by
  have hsome : ¬(g.takes p).isEmpty = true := by
    obtain ⟨l, hl⟩ := h
    obtain ⟨x, hx, -⟩ := Group.exists_mem_takes.mpr hl
    rw [List.isEmpty_iff]
    exact List.ne_nil_of_mem hx
  intro g'
  have hg' : g' = _ := if_neg hsome
  clear_value g'
  subst hg'
  refine ⟨_, rfl, fun l hl => ?mask, rfl, rfl, rfl, rfl, ⟨rfl, rfl, rfl, rfl, rfl, rfl, rfl, rfl, rfl, rfl, rfl⟩, fun l y hy => ?lane⟩
  case mask =>
    rw [getLsbD_maskOf, decide_eq_true_eq, List.mem_map, and_iff_left hl]
    exact Group.exists_mem_takes
  case lane =>
    obtain ⟨prio, hlanes⟩ := (Group.merge_spec _).2 l
    rw [hlanes, List.getElem?_mapIdx, hy]
    have hany : (g.takes p).any (fun h => h.1 == l) = true ↔ g.Handles p l := by
      simp only [List.any_eq_true, beq_iff_eq]
      exact Group.exists_mem_takes
    refine ⟨_, rfl, ?_⟩
    dsimp only
    split
    · next h => exact ⟨rfl, rfl, rfl, rfl, fun _ => rfl, fun hn => absurd (hany.mp h) hn⟩
    · next h => exact ⟨rfl, rfl, rfl, rfl, fun hn => absurd (hany.mpr hn) h, fun _ => rfl⟩

section
variable {ctl : Ctl} {f f0 f1 f2 : Fab} {c s : Nat} {p : PendTrap} {t : Team} {g : Group} {x : Ctx} {b0 b1 w : List Byte}
  (ht : (f.core c).team = some t) (hg : f.group? c s = some g)
include ht hg

/-- R157: a trap in trap mode ends the context. -/
theorem Fab.takeTrap_inTrapMode (htrap : g.trap ≠ none) : f.takeTrap ctl c s p = f.fatal ctl t.ctx (f.grid? t.grid) p.cause p.pc := by
  unfold Fab.takeTrap
  rw [ht, hg]
  exact if_pos (Option.isSome_iff_ne_none.mpr htrap)

variable (htrap : g.trap = none) (hx : f.ctx? t.ctx = some x)
  (h0 : f.coreRead ctl c t.ctx x.trapTab.toNat 8 .load = (.ok b0, f0))
  (h1 : f0.coreRead ctl c t.ctx (x.trapTab.toNat + 16 * p.cause) 8 .load = (.ok b1, f1))
include htrap hx h0 h1

/-- R153: a trap whose entry is zero ends the context. -/
theorem Fab.takeTrap_zeroEntry (hpc : BitVec.ofNat 48 (leNat b1) = 0#48) :
    f.takeTrap ctl c s p = f1.fatal ctl t.ctx (f1.grid? t.grid) p.cause p.pc := by
  unfold Fab.takeTrap
  rw [ht, hg]
  dsimp only
  rw [if_neg (by simp [htrap]), hx]
  dsimp only
  rw [h0]
  dsimp only
  rw [h1]
  exact if_pos hpc

/-- A trap whose entry and FRAMES are read and whose frame is written is entered. -/
theorem Fab.takeTrap_enters (hpc : BitVec.ofNat 48 (leNat b1) ≠ 0#48)
    (hw : f1.coreWrite ctl c t.ctx (frameAddr (leNat b0 % 2 ^ 48) c s) 1 (f1.frameBytes c s g
      (if p.erec = 0 then p else { p with erec := BitVec.ofNat 64 (frameAddr (leNat b0 % 2 ^ 48) c s) + p.erec })) = (.ok w, f2)) :
    f.takeTrap ctl c s p = f2.modGroup c s (fun g => g.enterTrap p (BitVec.ofNat 48 (leNat b1))
      (BitVec.ofNat 48 (frameAddr (leNat b0 % 2 ^ 48) c s))) := by
  unfold Fab.takeTrap
  rw [ht, hg]
  dsimp only
  rw [if_neg (by simp [htrap]), hx]
  dsimp only
  rw [h0]
  dsimp only
  rw [h1]
  refine (if_neg hpc).trans ?_
  rw [hw]
  rfl
end

/-! ## The frame (Table 7.5) -/

/-- A field within one of a row of blocks of the same length. -/
theorem fieldAt_flatMap {n len k o m : Nat} {blk : Nat → List Byte} (hlen : ∀ k, (blk k).length = len) (hk : k < n) (hfit : o + m ≤ len) :
    fieldAt ((List.range n).flatMap blk) (k * len + o) m = fieldAt (blk k) o m := by
  induction n with
  | zero => omega
  | succ n ih =>
    have hall : ((List.range n).flatMap blk).length = n * len := by simp [List.length_flatMap, hlen]
    rw [List.range_succ, List.flatMap_append]
    rcases Nat.lt_succ_iff_lt_or_eq.mp hk with hlt | rfl
    · have : (k + 1) * len ≤ n * len := Nat.mul_le_mul_right len hlt
      rw [fieldAt_append_left (by rw [hall]; rw [Nat.succ_mul] at this; omega), ih hlt]
    · rw [fieldAt_append_right (by rw [hall]; omega), hall, Nat.add_sub_cancel_left, List.flatMap_singleton]

/-- A number that is written digit by digit in base 16, and its digits. -/
theorem foldl_digits {code : Nat → Nat} (hcode : ∀ i, code i < 16) (n : Nat) :
    let x := (List.range n).foldl (fun a i => a + code i * 2 ^ (4 * i)) 0
    x < 2 ^ (4 * n) ∧ ∀ i, i < n → x / 2 ^ (4 * i) % 16 = code i := by
  induction n with
  | zero => simp
  | succ n ih =>
    simp only [List.range_succ, List.foldl_append, List.foldl_cons, List.foldl_nil] at ih ⊢
    generalize (List.range n).foldl (fun a i => a + code i * 2 ^ (4 * i)) 0 = x at ih
    obtain ⟨hx, hdigits⟩ := ih
    have hpos : 0 < 2 ^ (4 * n) := by positivity
    have hn := hcode n
    refine ⟨?_, fun i hi => ?_⟩
    · rw [show 4 * (n + 1) = 4 * n + 4 by ring, Nat.pow_add]
      nlinarith
    · rcases Nat.lt_succ_iff_lt_or_eq.mp hi with hlt | rfl
      · obtain ⟨k, rfl⟩ : ∃ k, n = i + 1 + k := ⟨n - (i + 1), by omega⟩
        have hsplit : code (i + 1 + k) * 2 ^ (4 * (i + 1 + k)) = 2 ^ (4 * i) * (16 * (code (i + 1 + k) * 2 ^ (4 * k))) := by
          rw [show 4 * (i + 1 + k) = 4 * i + 4 + 4 * k by ring, Nat.pow_add, Nat.pow_add]
          ring
        rw [hsplit, Nat.add_mul_div_left _ _ (by positivity), Nat.add_mul_mod_self_left, hdigits i (by omega)]
      · rw [Nat.add_mul_div_right _ _ hpos, Nat.div_eq_of_lt hx, Nat.zero_add, Nat.mod_eq_of_lt hn]

theorem Tag.code_lt (t : Tag) : t.code < 16 := by cases t <;> decide

/-- The first 64 bytes of a trap frame: what the trap is, and the control word. -/
def frameHeader (p : PendTrap) (gcw : Word) : List Byte :=
  leBytes 8 p.pc.toNat ++ leBytes 1 p.cause ++ leBytes 1 p.sub.toNat ++ leBytes 6 0 ++ leBytes 8 p.lanes.toNat ++
    leBytes 8 p.faddr.toNat ++ leBytes 8 p.erec.toNat ++ leBytes 4 gcw.toNat ++ leBytes 20 0

theorem frameHeader_length (p : PendTrap) (gcw : Word) : (frameHeader p gcw).length = 64 := by simp [frameHeader]

/-- The registers of a trap frame. -/
def frameRegs (w : Nat) (reg : Nat → Nat → Reg) : List Byte :=
  (List.range 16).flatMap (fun i => (List.range w).flatMap (fun l => leBytes 4 (reg l i).val.toNat))
/-- The tags of a trap frame. -/
def frameTags (w : Nat) (reg : Nat → Nat → Reg) : List Byte :=
  (List.range w).flatMap (fun l => leBytes 8 ((List.range 16).foldl (fun a i => a + (reg l i).tag.code * 2 ^ (4 * i)) 0))

theorem Fab.frameBytes_eq (f : Fab) (c s : Nat) (g : Group) (p : PendTrap) : f.frameBytes c s g p =
    frameHeader p g.gcw ++ frameRegs g.lanes.length (f.frameReg c s g.r) ++ frameTags g.lanes.length (f.frameReg c s g.r) := rfl

section
variable (w : Nat) (reg : Nat → Nat → Reg)

theorem frameRegs_length : (frameRegs w reg).length = 64 * w := by
  simp [frameRegs, List.length_flatMap]
  ring
theorem frameTags_length : (frameTags w reg).length = 8 * w := by
  simp [frameTags, List.length_flatMap]
  ring

theorem frameRegs_field {i l : Nat} (hi : i < 16) (hl : l < w) : fieldAt (frameRegs w reg) (4 * (w * i + l)) 4 = (reg l i).val.toNat := by
  rw [frameRegs, show 4 * (w * i + l) = i * (4 * w) + (l * 4 + 0) by ring,
    fieldAt_flatMap (fun _ => by simp [List.length_flatMap, Nat.mul_comm]) hi (by omega),
    fieldAt_flatMap (fun _ => by simp) hl (by omega), fieldAt_leBytes (reg l i).val.isLt]

theorem frameTags_field {i l : Nat} (hi : i < 16) (hl : l < w) :
    fieldAt (frameTags w reg) (8 * l) 8 / 2 ^ (4 * i) % 16 = (reg l i).tag.code := by
  obtain ⟨hlt, hdigits⟩ := foldl_digits (fun i => Tag.code_lt (reg l i).tag) 16
  rw [frameTags, show 8 * l = l * 8 + 0 by ring, fieldAt_flatMap (fun _ => by simp) hl (by omega), fieldAt_leBytes hlt, hdigits i hi]
end

theorem fieldAt_leBytes_toNat {k n : Nat} (h : 2 ^ k ≤ 256 ^ n) (x : BitVec k) : fieldAt (leBytes n x.toNat) 0 n = x.toNat :=
  fieldAt_leBytes (x.isLt.trans_le h)

/-- The fields of a frame's header. -/
theorem frameHeader_fields (p : PendTrap) (gcw : Word) (hcause : p.cause < 256) :
    let b := frameHeader p gcw
    fieldAt b 0 8 = p.pc.toNat ∧ fieldAt b 8 1 = p.cause ∧ fieldAt b 9 1 = p.sub.toNat ∧ fieldAt b 10 6 = 0 ∧
      fieldAt b 16 8 = p.lanes.toNat ∧ fieldAt b 24 8 = p.faddr.toNat ∧ fieldAt b 32 8 = p.erec.toNat ∧ fieldAt b 40 4 = gcw.toNat ∧
      fieldAt b 44 20 = 0 := by
  simp [frameHeader, fieldAt_append_left, fieldAt_append_right, fieldAt_leBytes, fieldAt_leBytes_toNat, hcause]

/-- A register of a trap frame that the group has. -/
theorem Fab.frameReg_of_lt {f : Fab} {c s r l n : Nat} (hn : n < r) {x : Lane} (hx : f.lane? c s l = some x) :
    f.frameReg c s r l n = if x.status = .live then x.priv c s l n else .zero := by
  unfold Fab.frameReg
  rw [hx]
  by_cases hlive : x.status = .live
  · simp [hlive, hn]
  · simp [hlive]

end Sys2Proof.Machine

namespace Sys2Proof.Safety
open Sys2Proof.Machine

/-- Settles O33: the entry, the two fatal cases, then the frame by its header, its registers and its tags. -/
theorem exceptionEntry : Obligations.ExceptionEntry := by
  unfold Obligations.ExceptionEntry
  refine ⟨?entry, fun ctl f c s p t g x ht hg => ⟨fun htrap => Fab.takeTrap_inTrapMode ht hg htrap,
    fun f0 f1 b0 b1 htrap hx h0 h1 hpc => Fab.takeTrap_zeroEntry ht hg htrap hx h0 h1 hpc⟩, fun f c s g p hcause => ?frame⟩
  case entry =>
    intro ctl f f0 f1 f2 c s p t g g2 x b0 b1 w ht hg htrap hx h0 h1 hpc frame hw hg2 handler hsome _
    obtain ⟨m, hm⟩ := Group.enterTrap_spec hsome (BitVec.ofNat 48 (leNat b1)) (BitVec.ofNat 48 frame)
    refine ⟨_, m, ?_, hm⟩
    rw [Fab.takeTrap_enters ht hg htrap hx h0 h1 hpc hw, Fab.group?_modGroup_self, hg2]
    rfl
  case frame =>
    have hheader := frameHeader_length p g.gcw
    have hregs := frameRegs_length g.lanes.length (f.frameReg c s g.r)
    have htags := frameTags_length g.lanes.length (f.frameReg c s g.r)
    have hfields := frameHeader_fields p g.gcw hcause
    have hlow {k n : Nat} (h : k + n ≤ 64) : fieldAt (f.frameBytes c s g p) k n = fieldAt (frameHeader p g.gcw) k n := by
      rw [Fab.frameBytes_eq, fieldAt_append_left (by rw [List.length_append]; omega), fieldAt_append_left (by omega)]
    dsimp only at hfields ⊢
    simp (disch := decide) only [hlow]
    obtain ⟨hpc, hcause', hsub, hzero, hlanes, hfaddr, herec, hgcw, hzero'⟩ := hfields
    refine ⟨?_, hpc, hcause', hsub, hzero, hlanes, hfaddr, herec, hgcw, hzero', fun i l hi hl => ?_, fun i l hi hl => ?_,
      fun i l x _ hr hx => Fab.frameReg_of_lt hr hx⟩
    · rw [Fab.frameBytes_eq, List.length_append, List.length_append]
      omega
    · have hfit : 4 * (g.lanes.length * i + l) + 4 ≤ 64 * g.lanes.length := by nlinarith
      rw [Fab.frameBytes_eq, fieldAt_append_left (by rw [List.length_append]; omega), fieldAt_append_right (by omega), hheader,
        Nat.add_sub_cancel_left, frameRegs_field _ _ hi hl]
    · rw [Fab.frameBytes_eq, fieldAt_append_right (by rw [List.length_append]; omega), List.length_append, hheader, hregs,
        Nat.add_sub_cancel_left, frameTags_field _ _ hi hl]

end Sys2Proof.Safety
end

section
set_option Elab.async false

/-! # Returning from an exception (O34) -/

namespace Sys2Proof.Machine
open Sys2Proof.Safety

/-- Lanes that leave trap mode (R156). -/
theorem Group.leaveTrap_of_trap {g : Group} {t : TrapMode} (h : g.trap = some t) (ls : List Nat) : g.leaveTrap ls =
    { g with trap := if t.handlers &&& ~~~maskOf ls = 0 then none else some { t with handlers := t.handlers &&& ~~~maskOf ls } } := by
  unfold Group.leaveTrap
  rw [h]

/-! ## A lane that reloads from its frame -/

/-- The registers of a lane below a number set one after another. -/
theorem Lane.foldl_setReg (x : Lane) (r : Nat → Reg) (n : Nat) :
    let x' := (List.range n).foldl (fun x i => x.setReg i (r i)) x
    { x' with regs := [] } = { x with regs := [] } ∧ ∀ m, Table.get? x'.regs m = if m < n then some (r m) else Table.get? x.regs m := by
  induction n with
  | zero => simp
  | succ n ih =>
    simp only [List.range_succ, List.foldl_append, List.foldl_cons, List.foldl_nil] at ih ⊢
    generalize (List.range n).foldl (fun x i => x.setReg i (r i)) x = y at ih
    obtain ⟨hsame, hregs⟩ := ih
    refine ⟨hsame, fun m => ?_⟩
    by_cases hm : m = n
    · subst hm
      rw [Lane.setReg, Table.get?_set_self, if_pos (by omega)]
    · rw [Lane.setReg, Table.get?_set_other _ _ _ _ hm, hregs]
      by_cases hlt : m < n
      · rw [if_pos hlt, if_pos (by omega)]
      · rw [if_neg hlt, if_neg (by omega)]

/-- Register `n` of a lane in the image of a trap frame of a group of `w` lanes (Table 7.5). -/
def frameField (w : Nat) (b : List Byte) (l n : Nat) : Reg :=
  ⟨BitVec.ofNat 32 (fieldAt b (64 + 4 * (w * n + l)) 4), Tag.ofCode (fieldAt b (64 + 64 * w + 8 * l) 8 / 2 ^ (4 * n) % 16)⟩

/-- A lane that returns: its first sixteen registers are the frame's, and it stands at the PC. -/
theorem Lane.reload_spec (x : Lane) (w r l : Nat) (b : List Byte) (pc : Addr) :
    let x' := x.reload w r l b pc
    x'.pc = pc ∧ x'.prio = x.prio ∧ x'.ck = x.ck ∧ ∀ c s n,
      x'.priv c s l n = if n < 16 ∧ n < r then frameField w b l n else x.priv c s l n := by
  have hfield (n : Nat) : (⟨BitVec.ofNat 32 (fieldAt b (0x40 + 4 * (w * n + l)) 4),
      Tag.ofCode (bitsOf (fieldAt b (0x40 + 64 * w + 8 * l) 8) (4 * n + 3) (4 * n))⟩ : Reg) = frameField w b l n := by
    rw [bitsOf, show 4 * n + 3 + 1 - 4 * n = 4 by omega]
    rfl
  have hreload : x.reload w r l b pc =
      { (List.range (min 16 r)).foldl (fun x i => x.setReg i (frameField w b l i)) x with pc := pc } := by
    unfold Lane.reload
    simp only [hfield]
  obtain ⟨hsame, hregs⟩ := x.foldl_setReg (frameField w b l) (min 16 r)
  rw [hreload]
  generalize (List.range (min 16 r)).foldl (fun x i => x.setReg i (frameField w b l i)) x = y at hsame hregs
  refine ⟨rfl, (congrArg Lane.prio hsame :), (congrArg Lane.ck hsame :), fun c s n => ?_⟩
  have hepoch : y.epoch = x.epoch := (congrArg Lane.epoch hsame :)
  by_cases hn : n < 16 ∧ n < r
  · simp only [Lane.priv, hregs, Nat.lt_min, hn, and_self, if_true]
  · rw [if_neg hn]
    exact Lane.priv_congr ((hregs n).trans (if_neg (by rwa [Nat.lt_min]))) hepoch c s l

/-! ## `rti` and `rti.next` (R156, R299) -/

/-- A lane of a group whose active lanes return to a PC. -/
def Iss.returnLane (i : Iss) (b : List Byte) (pc : Addr) (l : Nat) (x : Lane) : Lane :=
  if i.active.contains l ∧ x.status = .live then x.reload i.w i.r l b pc else x
/-- The group whose active lanes have returned to a PC. -/
def Group.trapReturns (g : Group) (i : Iss) (b : List Byte) (pc : Addr) : Group :=
  ({ g with lanes := g.lanes.mapIdx (i.returnLane b pc) } : Group).leaveTrap i.active

/-- The length of the instruction whose first word is `w` (R241). -/
theorem wordLength_eq (w : Word) : wordLength w = (match w.toNat % 4 with | 0 => 4 | 3 => 20 | _ => 12) := by
  have hlen : (w.extractLsb' 0 2).toNat = w.toNat % 4 := by simp
  exact congrArg (fun n : Nat => match n with | 0 => 4 | 3 => 20 | _ => 12) hlen

section
variable {ctl : Ctl} {f f1 : Fab} {i : Iss} {next : Bool} {t : TrapMode} {b : List Byte} (hne : i.active ≠ [])
  (ht : (f.group? i.core i.slot).bind (fun g => g.trap) = some t)
  (hb : f.coreRead ctl i.core i.ctx t.frame.toNat (64 + 72 * i.w) .load = (.ok b, f1))
include hne ht hb

theorem bodyRti_wide (hpc : 2 ^ 48 ≤ fieldAt b 0 8) : bodyRti next i ctl f = .trap (.addr 0x0A i.active (fieldAt b 0 8)) := by
  rw [bodyRti, if_neg (by simpa using hne), Fab.trapReturn, ht]
  dsimp only
  rw [hb]
  exact if_pos hpc

theorem bodyRti_misaligned (hpc : fieldAt b 0 8 < 2 ^ 48) (hodd : fieldAt b 0 8 % 4 ≠ 0) :
    bodyRti next i ctl f = .trap (.addr 0x0B i.active (fieldAt b 0 8)) := by
  rw [bodyRti, if_neg (by simpa using hne), Fab.trapReturn, ht]
  dsimp only
  rw [hb]
  exact (if_neg (by omega)).trans (if_pos hodd)

/-- The lanes return to the frame's PC, or to that of the instruction after the one there. -/
theorem bodyRti_returns (hpc : fieldAt b 0 8 < 2 ^ 48) (hodd : fieldAt b 0 8 % 4 = 0) {f2 : Fab} {w : Word}
    (hf : if next then f1.fetchWord ctl i.core i.ctx (fieldAt b 0 8) = (.ok w, f2) else f2 = f1) :
    bodyRti next i ctl f = .done (f2.modGroup i.core i.slot (fun g =>
      g.trapReturns i b (BitVec.ofNat 48 (fieldAt b 0 8 + if next then wordLength w else 0)))) := by
  have hnarrow : ¬2 ^ 48 ≤ fieldAt b 0 8 := Nat.not_le.mpr hpc
  have haligned : ¬fieldAt b 0 8 % 4 ≠ 0 := not_not.mpr hodd
  rw [bodyRti, if_neg (by simpa using hne), Fab.trapReturn, ht]
  dsimp only
  rw [hb]
  dsimp only
  rw [if_neg hnarrow, if_neg haligned]
  cases next with
  | false =>
    obtain rfl : f2 = f1 := hf
    rw [if_pos (show (!false) = true from rfl), if_neg Bool.false_ne_true, Nat.add_zero]
    rfl
  | true =>
    rw [show f1.fetchWord ctl i.core i.ctx (fieldAt b 0 8) = (.ok w, f2) from hf]
    rw [if_neg (show ¬(!true) = true by decide), if_pos rfl]
    rfl
end

/-- The trap mode that an instruction of a handler finds. -/
theorem trap_moved {s : State} {i : Iss} {g : Group} {t : TrapMode} (hg : groupAt s i.core i.slot = some g) (ht : g.trap = some t) (e : Enc) :
    ((moved s e i).group? i.core i.slot).bind (fun g => g.trap) = some { t with issued := t.issued + 1 } := by
  rw [group?_moved hg, Option.bind_some, Iss.pastGroup, ht]
  rfl

/-- What returning leaves of a group and its lanes. -/
theorem Group.trapReturns_spec {g : Group} {t : TrapMode} (ht : g.trap = some t) (i : Iss) (b : List Byte) (pc : Addr) :
    let g' := g.trapReturns i b pc
    (g'.trap = none ↔ t.handlers &&& ~~~maskOf i.active = 0#64) ∧ (∀ t', g'.trap = some t' → t'.handlers = t.handlers &&& ~~~maskOf i.active) ∧
      ∀ l x, g.lanes[l]? = some x → ∃ x', g'.lanes[l]? = some x' ∧ x'.prio = x.prio ∧ x'.ck = x.ck ∧
        (l ∉ i.active → x'.pc = x.pc ∧ x'.regs = x.regs) ∧
        (l ∈ i.active → x.status = .live → x'.pc = pc ∧
          (∀ n, n < 16 → n < i.r → x'.priv i.core i.slot l n = frameField i.w b l n) ∧
          ∀ n, (16 ≤ n ∨ i.r ≤ n) → x'.priv i.core i.slot l n = x.priv i.core i.slot l n) := by
  rw [show g.trapReturns i b pc = _ from Group.leaveTrap_of_trap (g := { g with lanes := g.lanes.mapIdx (i.returnLane b pc) }) ht i.active]
  refine ⟨by simp, fun t' h => ?_, fun l x hx => ?_⟩
  · split at h
    · cases h
    · cases h; rfl
  · refine ⟨_, by rw [List.getElem?_mapIdx, hx]; rfl, ?_⟩
    obtain ⟨hpc, hprio, hck, hpriv⟩ := x.reload_spec i.w i.r l b pc
    unfold Iss.returnLane
    split
    case isTrue h =>
      obtain ⟨hl, -⟩ := h
      rw [List.contains_iff_mem] at hl
      exact ⟨hprio, hck, fun hn => absurd hl hn, fun _ _ => ⟨hpc, fun n h16 hr => (hpriv ..).trans (if_pos ⟨h16, hr⟩),
        fun n hn => (hpriv ..).trans (if_neg (by omega))⟩⟩
    case isFalse h =>
      rw [List.contains_iff_mem] at h
      exact ⟨rfl, rfl, fun _ => ⟨rfl, rfl⟩, fun hl hlive => absurd ⟨hl, hlive⟩ h⟩

/-- `rti` and `rti.next` run one body under one gate. -/
theorem exec_rti {j : Instr} {e : Enc} {next : Bool}
    (h : (next = false ∧ ((j = .rtiSz ∧ e = .sz 0x09) ∨ ∃ f, j = .rtiXr f ∧ e = .xr 0x09 f)) ∨ (next = true ∧ ∃ f, j = .rtiNextXr f ∧ e = .xr 0x09 f))
    (s : State) : exec j s = run e gateRti (bodyRti next) s := by
  obtain ⟨rfl, ⟨rfl, rfl⟩ | ⟨f, rfl, rfl⟩⟩ | ⟨rfl, f, rfl, rfl⟩ := h <;> rfl

/-! ## `rti.rgn` (R150, R156, R299) -/

/-- A lane that waits for nothing has no queue request to take back before it restarts. -/
theorem Fab.unqueue_of_unparked {f : Fab} {c s l : Nat} {x : Lane} (hx : f.lane? c s l = some x) (hpark : x.park = none) (ctl : Ctl) :
    f.unqueue ctl c s l = f := by
  unfold Fab.unqueue
  rw [hx]
  cases (f.core c).team with
  | none => rfl
  | some t => simp only [hpark]

theorem Fab.foldl_unqueue_of_unparked {f : Fab} {c s : Nat} {ls : List Nat}
    (hls : ∀ l ∈ ls, ∃ x, f.lane? c s l = some x ∧ x.park = none) (ctl : Ctl) : ls.foldl (fun f l => f.unqueue ctl c s l) f = f := by
  induction ls with
  | nil => rfl
  | cons l ls ih =>
    obtain ⟨x, hx, hpark⟩ := hls l (by simp)
    rw [List.foldl_cons, Fab.unqueue_of_unparked hx hpark]
    exact ih fun m hm => hls m (by simp [hm])

/-- Dropping loads of lanes keeps the operations and their counts, and the rest of the group. -/
theorem Group.foldl_dropLoads (g : Group) (ls : List Nat) :
    let g' := ls.foldl (fun g l => g.dropLoads l) g
    g' = { g with loads := g'.loads } ∧
      g'.loads.map (fun o => (o.seq, o.pieces.length)) = g.loads.map (fun o => (o.seq, o.pieces.length)) := by
  induction ls generalizing g with
  | nil => exact ⟨rfl, rfl⟩
  | cons l ls ih =>
    obtain ⟨hsame, hloads⟩ := ih (g.dropLoads l)
    exact ⟨hsame, hloads.trans (by simp [Group.dropLoads])⟩

/-- A lane that waits for nothing restarts at its region head. -/
theorem Lane.restart_of_unparked {x : Lane} (h : x.park = none) (e : Nat) : x.restart e =
    { x with park := none, pc := x.ck.head, prio := x.ck.prio, regs := x.ck.table, epoch := some e, enrolled := x.ck.enrolled, arrived := x.ck.arrived } := by
  unfold Lane.restart
  rw [h]


/-- A lane of a group whose active lanes restart. -/
def Iss.restartLane (i : Iss) (n : Nat) (l : Nat) (x : Lane) : Lane := if i.active.contains l ∧ x.status = .live then x.restart n else x
/-- The group whose active lanes have left trap mode and restarted. -/
def Group.trapRestarts (g : Group) (i : Iss) (n : Nat) : Group :=
  let g := i.active.foldl (fun g l => g.dropLoads l) g
  ({ g with lanes := g.lanes.mapIdx (i.restartLane n) } : Group).leaveTrap i.active

/-- Leaving trap mode changes nothing else of a group. -/
theorem Group.leaveTrap_eq (g : Group) (ls : List Nat) : g.leaveTrap ls = { g with trap := (g.leaveTrap ls).trap } := by
  unfold Group.leaveTrap
  split <;> rfl

/-- The handler lanes left in trap mode, which ends with the last of them (R156). -/
theorem Group.leaveTrap_handlers {g : Group} {t : TrapMode} (h : g.trap = some t) (ls : List Nat) : (g.leaveTrap ls).trap.map (·.handlers) =
    if t.handlers &&& ~~~maskOf ls = 0#64 then none else some (t.handlers &&& ~~~maskOf ls) := by
  rw [Group.leaveTrap_of_trap h]
  exact apply_ite (Option.map fun t : TrapMode => t.handlers) ..

section
variable {s : State} {i : Iss} {g : Group} {e : Enc} {p : Pred} {len : Nat} (hi : s.fab.iss p len = some i) (hg : groupAt s i.core i.slot = some g)
include hi hg

theorem bodyRtiRgn_moved (hne : i.active ≠ []) : bodyRtiRgn i s.ctl (moved s e i) = .done
    (({ moved s e i with epoch := (moved s e i).epoch + 1 } : Fab).modGroup i.core i.slot (fun g => g.trapRestarts i (moved s e i).epoch)) := by
  obtain ⟨-, -, -, -, hactive, hentry⟩ := Fab.iss_group hi hg
  have hunparked : ∀ l ∈ i.active, ∃ x, (moved s e i).lane? i.core i.slot l = some x ∧ x.park = none := fun l hl => by
    obtain ⟨x, hx, -, hpark, -⟩ := hentry l (hactive l hl)
    exact ⟨_, by rw [lane?_moved hg, hx]; rfl, by rw [Iss.pastLane_park, hpark]⟩
  rw [bodyRtiRgn, if_neg (by simpa using hne), Fab.trapRestart, Fab.restartLanes, Fab.foldl_unqueue_of_unparked hunparked]
  dsimp only
  rw [Fab.modGroup_modGroup]
  rfl

theorem trapRestarts_spec (ac : Nat) (hints : Bool × Nat) (n : Nat) :
    let g' := (i.pastGroup ac hints g).trapRestarts i n
    (∀ t, g.trap = some t → g'.trap.map (·.handlers) =
      if t.handlers &&& ~~~maskOf i.active = 0#64 then none else some (t.handlers &&& ~~~maskOf i.active)) ∧
    g'.loads.map (fun o => (o.seq, o.pieces.length)) = g.loads.map (fun o => (o.seq, o.pieces.length)) ∧ g'.storeQ = g.storeQ ∧
    g'.batches = g.batches ∧ g'.rem = g.rem ∧ g'.countFrom = g.countFrom ∧
    ∀ l x, g.lanes[l]? = some x → ∃ x', g'.lanes[l]? = some x' ∧ x'.ck = x.ck ∧ x'.status = x.status ∧
      (l ∉ i.active → x'.pc = past i l x ∧ x'.regs = x.regs ∧ x'.prio = x.prio) ∧
      (l ∈ i.active → x'.pc = x.ck.head ∧ x'.prio = x.ck.prio ∧ x'.park = none ∧ x'.enrolled = x.ck.enrolled ∧ x'.arrived = x.ck.arrived ∧
        ∀ m r, Table.get? x.ck.table m = some r → x'.priv i.core i.slot l m = r) := by
  obtain ⟨-, -, -, -, hactive, hentry⟩ := Fab.iss_group hi hg
  unfold Group.trapRestarts
  dsimp only
  rw [Group.leaveTrap_eq]
  obtain ⟨hsame, hloads⟩ := (i.pastGroup ac hints g).foldl_dropLoads i.active
  generalize i.active.foldl (fun g l => g.dropLoads l) (i.pastGroup ac hints g) = d at hsame hloads
  rw [hsame]
  refine ⟨fun t ht => ?_, hloads, rfl, rfl, rfl, rfl, fun l x hx => ?_⟩
  · exact Group.leaveTrap_handlers (t := { t with issued := t.issued + 1 }) (show Option.map _ g.trap = _ by rw [ht]; rfl) i.active
  · refine ⟨i.restartLane n l (i.pastLane l x), by rw [List.getElem?_mapIdx, Iss.getElem?_pastGroup_lanes, hx]; rfl, ?_⟩
    by_cases hl : l ∈ i.active
    · obtain ⟨y, hy, hlive, hpark, -⟩ := hentry l (hactive l hl)
      obtain rfl : y = x := Option.some.inj (hy.symm.trans hx)
      rw [Iss.restartLane, if_pos ⟨List.contains_iff_mem.mpr hl, (i.pastLane_status l y).trans hlive⟩,
        Lane.restart_of_unparked ((i.pastLane_park l y).trans hpark)]
      simp +contextual [hl, Lane.priv]
    · rw [Iss.restartLane, if_neg (by simp [hl])]
      simp [hl]
end


end Sys2Proof.Machine

namespace Sys2Proof.Safety
open Sys2Proof.Machine

/-- Settles O34: `rti` and `rti.next` reload the active lanes from the frame, and `rti.rgn` restarts them, which are not parked. -/
theorem returnFromTrap : Obligations.ReturnFromTrap := by
  unfold Obligations.ReturnFromTrap
  refine ⟨fun j e next s i g0 t b f1 hj h hne hg ht hb => ?_, fun f s i g h hne hg => ?_⟩
  · have htrap := trap_moved hg ht e
    simp only [exec_rti hj]
    refine ⟨fun hwide => run_trap h (bodyRti_wide hne htrap hb hwide), fun hpc hodd => run_trap h (bodyRti_misaligned hne htrap hb hpc hodd),
      fun hpc hodd f2 w g hf hgroup t2 ht2 => ?_⟩
    refine ⟨_, _, run_done h (bodyRti_returns hne htrap hb hpc hodd hf), by rw [Fab.group?_modGroup_self, hgroup]; rfl, ?_⟩
    rw [wordLength_eq]
    exact Group.trapReturns_spec ht2 i b _
  · obtain ⟨htrap, hloads, hrest⟩ := trapRestarts_spec h.1 hg s.fab.ac (Enc.xr 0x09 f).hints (moved s (.xr 0x09 f) i).epoch
    have hgroup : ({ moved s (.xr 0x09 f) i with epoch := (moved s (.xr 0x09 f) i).epoch + 1 } : Fab).group? i.core i.slot = _ := group?_moved hg _
    refine ⟨_, _, run_done h (bodyRtiRgn_moved h.1 hg hne), by rw [Fab.group?_modGroup_self, hgroup]; rfl, ?_, ?_, htrap, hloads, hrest⟩
    · rw [Fab.modGroup_ctxs]
      simp [moved, Fab.advance_eq]
    · rw [Fab.modGroup_mem]
      simp [moved, Fab.advance_eq]

end Sys2Proof.Safety
end

section
set_option Elab.async false

/-! # Regions and register counts (O30) -/

namespace Sys2Proof.Machine
open Sys2Proof.Safety

/-! ## What counting registers finds past an instruction -/

/-- What a change of one group leaves of a number that each group gives. -/
theorem map_modAt_of_eq {β : Type} {k : Group → Group} {m : Group → β} (h : ∀ g, m (k g) = m g) (gs : List Group) (n : Nat) :
    (modAt gs n k).map m = gs.map m := by
  refine List.ext_getElem? fun l => ?_
  rw [modAt, List.getElem?_map, List.getElem?_modify, List.getElem?_map]
  cases gs[l]? with
  | none => rfl
  | some g => by_cases hl : n = l <;> simp [hl, h]

section
variable (s : State) (e : Enc) (i : Iss)

theorem Iss.pastGroup_ended (ac : Nat) (hints : Bool × Nat) (g : Group) : (i.pastGroup ac hints g).ended = g.ended := by
  have hstatus : (i.pastGroup ac hints g).lanes.map (·.status) = g.lanes.map (·.status) := by
    refine List.ext_getElem? fun l => ?_
    rw [List.getElem?_map, Iss.getElem?_pastGroup_lanes, List.getElem?_map, Option.map_map]
    exact congrArg (fun k => Option.map k g.lanes[l]?) (funext (i.pastLane_status l))
  have hended (g : Group) : g.ended = (g.lanes.map (·.status)).all (· != .live) := by
    rw [List.all_map]
    rfl
  rw [hended, hended, hstatus]

theorem freeRegs_moved : (moved s e i).freeRegs i.core = s.fab.freeRegs i.core := by
  rw [moved, Fab.advance_eq]
  unfold Fab.freeRegs
  rw [Fab.core_modGroup_self]
  cases (s.fab.core i.core).team with
  | none => rfl
  | some t =>
    dsimp only [Option.map_some]
    rw [map_modAt_of_eq fun g => by rw [Group.holds, Iss.pastGroup_ended]; simp [Group.holds, Iss.pastGroup]]

theorem growFits_moved (r : Nat) : (moved s e i).growFits i r = s.fab.growFits i r := by
  unfold Fab.growFits
  rw [moved, Fab.gridOf_advance, Fab.advance_eq, Fab.core_modGroup_self]
  cases (s.fab.core i.core).team with
  | none => rfl
  | some t =>
    dsimp only [Option.map_some]
    cases s.fab.gridOf i.core with
    | none => rfl
    | some gr =>
      dsimp only
      rw [map_modAt_of_eq fun g => by rw [Iss.pastGroup_ended]; simp [Iss.pastGroup]]

theorem regQueue_moved : ((moved s e i).core i.core).regQueue = (s.fab.core i.core).regQueue := by
  rw [moved, Fab.advance_eq, Fab.core_modGroup_self]

theorem Iss.pastLane_window (l : Nat) (x : Lane) : (i.pastLane l x).window =
    if l ∈ i.entry ∧ i.trapMode = false then x.window.map (· + 1) else x.window := by
  unfold Iss.pastLane
  by_cases hl : l ∈ i.entry <;> cases i.trapMode <;> simp [hl]

variable {s i} in
/-- Whether a deferral window of the issuing group is open. -/
theorem windowOpen_moved {g : Group} (hg : groupAt s i.core i.slot = some g) : (moved s e i).windowOpen i.core i.slot = true ↔
    ∃ (l : Nat) (x : Lane), g.lanes[l]? = some x ∧ x.status = .live ∧ x.window ≠ none := by
  have hlane (l : Nat) (x : Lane) : ((i.pastLane l x).status == .live && (i.pastLane l x).window.isSome) = true ↔ x.status = .live ∧ x.window ≠ none := by
    rw [Iss.pastLane_window, Iss.pastLane_status]
    split <;> simp [Option.isSome_iff_ne_none]
  unfold Fab.windowOpen
  rw [group?_moved hg]
  dsimp only
  rw [List.any_eq_true]
  simp only [List.mem_iff_getElem?, Iss.getElem?_pastGroup_lanes, Option.map_eq_some_iff]
  constructor
  · rintro ⟨-, ⟨l, x, hx, rfl⟩, h⟩
    exact ⟨l, x, hx, (hlane l x).mp h⟩
  · rintro ⟨l, x, hx, h⟩
    exact ⟨_, ⟨l, x, hx, rfl⟩, (hlane l x).mpr h⟩
end

/-! ## A group with another count of registers (R103, R294) -/

theorem Table.get?_erase {α : Type} (t : Table α) (n m : Nat) : Table.get? (Table.erase t n) m = if m = n then none else Table.get? t m := by
  induction t with
  | nil => simp [Table.erase, Table.get?]
  | cons p t ih =>
    obtain ⟨k, v⟩ := p
    by_cases hk : k = n
    · subst hk
      rw [Table.erase, if_pos rfl, ih]
      by_cases hm : m = k
      · simp [hm]
      · simp [hm, Table.get?, Ne.symm hm]
    · rw [Table.erase, if_neg hk]
      by_cases hm : k = m
      · subst hm
        simp [Table.get?, hk]
      · simp [Table.get?, hm, ih]

theorem Table.get?_filter_key {α : Type} (t : Table α) (r m : Nat) (hm : m < r) : Table.get? (t.filter (fun p => p.1 < r)) m = Table.get? t m := by
  induction t with
  | nil => rfl
  | cons p t ih =>
    obtain ⟨k, v⟩ := p
    by_cases hk : k < r
    · rw [List.filter_cons_of_pos (by simpa using hk), Table.get?, Table.get?, ih]
    · rw [List.filter_cons_of_neg (by simpa using hk), ih, Table.get?, if_neg (by omega)]

/-- The registers of a lane of a group that grows from `r` registers by `n`. -/
def Lane.grownRegs (x : Lane) (r n : Nat) : Table Reg :=
  (List.range n).foldl (fun t k => if x.epoch.isNone then Table.erase t (r + k) else Table.set t (r + k) Reg.zero) x.regs

/-- The registers below the old count stand, and the new ones are zero, whether the table or the default says so. -/
theorem Lane.priv_grownRegs (x : Lane) (r n c s l m : Nat) (hm : m < r + n) :
    ({ x with regs := x.grownRegs r n } : Lane).priv c s l m = if m < r then x.priv c s l m else .zero := by
  have hget : Table.get? (x.grownRegs r n) m =
      if m < r then Table.get? x.regs m else if x.epoch.isNone then none else some .zero := by
    induction n with
    | zero => exact (if_pos hm).symm
    | succ n ih =>
      have hstep : Table.get? (x.grownRegs r (n + 1)) m =
          if m = r + n then (if x.epoch.isNone then none else some .zero) else Table.get? (x.grownRegs r n) m := by
        rw [Lane.grownRegs, List.range_succ, List.foldl_append, ← Lane.grownRegs, List.foldl_cons, List.foldl_nil]
        split
        · rw [Table.get?_erase]
        · split
          case isTrue hlast => rw [hlast, Table.get?_set_self]
          case isFalse hlast => rw [Table.get?_set_other _ _ _ _ hlast]
      by_cases hlast : m = r + n
      · rw [hstep, if_pos hlast, if_neg (show ¬m < r by omega)]
      · rw [hstep, if_neg hlast, ih (by omega)]
  by_cases hold : m < r
  · rw [if_pos hold]
    exact Lane.priv_congr (x := x) (y := { x with regs := x.grownRegs r n }) (hget.trans (if_pos hold)) rfl c s l
  · unfold Lane.priv
    dsimp only
    rw [hget, if_neg hold, if_neg hold]
    cases x.epoch <;> rfl

/-- A lane of a group whose count changes from `old` to `r`. -/
def Lane.resized (x : Lane) (old r : Nat) : Lane :=
  if x.status != .live then x
  else if old < r then { x with regs := x.grownRegs old (r - old) }
  else { x with regs := x.regs.filter (fun e => e.1 < r) }

/-- Only its registers change, and only if it is live: below both counts they stand, and new ones are zero. -/
theorem Lane.resized_spec (x : Lane) (old r : Nat) : x.resized old r = { x with regs := (x.resized old r).regs } ∧
    ∀ c s l m, x.status = .live → m < r → (x.resized old r).priv c s l m = if m < old then x.priv c s l m else .zero := by
  by_cases hlive : x.status = .live
  · unfold Lane.resized
    rw [if_neg (by simp [hlive])]
    split
    case isTrue hgrow => exact ⟨rfl, fun c s l m _ hm => x.priv_grownRegs old (r - old) c s l m (by omega)⟩
    case isFalse hshrink =>
      refine ⟨rfl, fun c s l m _ hm => ?_⟩
      rw [if_pos (by omega)]
      exact Lane.priv_congr (x := x) (y := { x with regs := x.regs.filter (fun e => e.1 < r) }) (Table.get?_filter_key x.regs r m hm) rfl c s l
  · rw [Lane.resized, if_pos (by simp [hlive])]
    exact ⟨rfl, fun c s l m h => absurd h hlive⟩

/-- A group with another count; with its count as it is, it stands. -/
def Group.resized (g : Group) (r : Nat) : Group := if r = g.r then g else g.setRegs r

/-- Resizing a group changes nothing but its count and its lanes' registers. -/
theorem Group.resized_spec (g : Group) (r : Nat) : g.resized r = { g with r := r, lanes := (g.resized r).lanes } ∧
    ∀ (l : Nat) (x : Lane), g.lanes[l]? = some x → ∃ x', (g.resized r).lanes[l]? = some x' ∧ x' = { x with regs := x'.regs } ∧
      ∀ c s m, x.status = .live → m < r → x'.priv c s l m = if m < g.r then x.priv c s l m else .zero := by
  unfold Group.resized
  split
  case isTrue h =>
    subst h
    exact ⟨rfl, fun l x hx => ⟨x, hx, rfl, fun c s m _ hm => (if_pos hm).symm⟩⟩
  case isFalse h =>
    refine ⟨rfl, fun l x hx => ⟨x.resized g.r r, ?_, (x.resized_spec g.r r).1, fun c s m => (x.resized_spec g.r r).2 c s l m⟩⟩
    show (g.lanes.map fun x => x.resized g.r r)[l]? = _
    rw [List.getElem?_map, hx]
    rfl

/-! ## Deferral windows that open (R151) -/

/-- A lane of an issue whose active lanes have committed. -/
def Iss.commitLane (i : Iss) (l : Nat) (x : Lane) : Lane := if i.active.contains l ∧ x.status = .live then x.openWindow else x
/-- The group of an issue whose active lanes have committed. -/
def Group.committed (g : Group) (i : Iss) : Group := if i.trapMode then g else { g with lanes := g.lanes.mapIdx i.commitLane }

theorem commit_mod (f : Fab) (i : Iss) (k : Group → Group) : (i.mod f k).commit i i.active = i.mod f (fun g => (k g).committed i) := by
  unfold Fab.commit Group.committed
  cases i.trapMode with
  | true => rfl
  | false => exact Fab.modGroup_modGroup ..

/-- Committing changes nothing but the windows of the active lanes. -/
theorem Group.committed_spec (g : Group) (i : Iss) : g.committed i = { g with lanes := (g.committed i).lanes } ∧
    ∀ (l : Nat) (x : Lane), g.lanes[l]? = some x → ∃ x', (g.committed i).lanes[l]? = some x' ∧ x' = { x with window := x'.window } ∧
      (l ∈ i.active → i.trapMode = false → x.status = .live → x'.window = some (x.window.getD 0)) := by
  unfold Group.committed
  split
  case isTrue h => exact ⟨rfl, fun l x hx => ⟨x, hx, rfl, fun _ hf => by simp [h] at hf⟩⟩
  case isFalse =>
    refine ⟨rfl, fun l x hx => ⟨i.commitLane l x, by rw [List.getElem?_mapIdx, hx]; rfl, ?_⟩⟩
    unfold Iss.commitLane Lane.openWindow
    split
    · cases hw : x.window with
      | none => exact ⟨rfl, fun _ _ _ => rfl⟩
      | some n => exact ⟨rfl, fun _ _ _ => hw⟩
    next h => exact ⟨rfl, fun hl _ hlive => absurd ⟨List.contains_iff_mem.mpr hl, hlive⟩ h⟩

/-! ## `grow` and `shrink` (R103, R104, R294) -/

section
variable {s : State} {i : Iss} {g : Group} {e : Enc} {p : Pred} {len : Nat} (hi : s.fab.iss p len = some i) (hg : groupAt s i.core i.slot = some g)
include hi hg

/-- The group of a `grow` or `shrink` that is granted. -/
theorem grants_spec (ac : Nat) (hints : Bool × Nat) (r : Nat) :
    let g' := ((i.pastGroup ac hints g).resized r).committed i
    SameQueues g' g ∧ g'.r = r ∧ g'.hold = g.hold ∧ ∀ (l : Nat) (x : Lane), g.lanes[l]? = some x → ∃ x', g'.lanes[l]? = some x' ∧
      x'.status = x.status ∧ x'.pc = past i l x ∧ x'.ck = x.ck ∧
      (if l ∈ i.active ∧ i.trapMode = false then x'.window = some (match x.window with | some n => n + 1 | none => 0) else True) ∧
      (x.status = .live → ∀ m, m < r → x'.priv i.core i.slot l m = if m < i.r then x.priv i.core i.slot l m else .zero) := by
  obtain ⟨-, hr, -, -, hactive, hentry⟩ := Fab.iss_group hi hg
  obtain ⟨hresized, hlanes⟩ := (i.pastGroup ac hints g).resized_spec r
  obtain ⟨hcommitted, hwindows⟩ := ((i.pastGroup ac hints g).resized r).committed_spec i
  dsimp only
  refine ⟨?_, ?_, ?_, fun l x hx => ?_⟩
  · rw [hcommitted, hresized]
    exact ⟨rfl, rfl, rfl, rfl, rfl, rfl, rfl, rfl, rfl, rfl, rfl⟩
  · rw [hcommitted, hresized]
  · rw [hcommitted, hresized]
    rfl
  · obtain ⟨y, hy, hsame, hpriv⟩ := hlanes l (i.pastLane l x) (by rw [Iss.getElem?_pastGroup_lanes, hx]; rfl)
    obtain ⟨z, hz, hsame', hopen⟩ := hwindows l y hy
    refine ⟨z, hz, by rw [hsame', hsame, Iss.pastLane_status], by rw [hsame', hsame, Iss.pastLane_pc], by rw [hsame', hsame, Iss.pastLane_ck], ?_,
      fun hlive m hm => ?_⟩
    · split
      next h =>
        obtain ⟨hl, htrap⟩ := h
        obtain ⟨w, hw, hlive, -⟩ := hentry l (hactive l hl)
        obtain rfl : w = x := Option.some.inj (hw.symm.trans hx)
        rw [hopen hl htrap (by rw [hsame, Iss.pastLane_status, hlive]), hsame, Iss.pastLane_window, if_pos ⟨hactive l hl, htrap⟩]
        cases w.window <;> rfl
      next => trivial
    · have hzy : z.priv i.core i.slot l m = y.priv i.core i.slot l m := by
        rw [hsame']
        rfl
      rw [hzy, hpriv _ _ _ (by rw [Iss.pastLane_status, hlive]) hm, Iss.pastLane_priv, hr]
      rfl
end

section
variable {x : XrForm} {i : Iss} {ctl : Ctl} {f : Fab} (hne : i.active ≠ [])
include hne

theorem Iss.withValue_of_range {opc : Nat} {go : Nat → Res} (h : siRange opc (i.srcB f x 1 i.lowest) = true) :
    i.withValue f opc x go = go (i.srcB f x 1 i.lowest) := by
  rw [Iss.withValue, if_neg (by simpa using hne)]
  exact if_pos h

theorem Iss.withValue_of_not_range {opc : Nat} {go : Nat → Res} (h : siRange opc (i.srcB f x 1 i.lowest) = false) :
    i.withValue f opc x go = .trap (.plain 0x02 0 i.active) := by
  rw [Iss.withValue, if_neg (by simpa using hne)]
  exact if_neg (by simp [h])

end

section
variable {x : XrForm} {i : Iss} {ctl : Ctl} {f : Fab} {v : Nat} (hne : i.active ≠ []) (hv : i.srcB f x 1 i.lowest = v)
include hne hv

theorem bodyGrow_of_not_range (h : v = 0 ∨ 127 < v) : bodyGrow x i ctl f = .trap (.plain 0x02 0 i.active) :=
  Iss.withValue_of_not_range hne (by subst hv; simp [siRange]; omega)
theorem bodyShrink_of_not_range (h : v = 0 ∨ 127 < v) : bodyShrink x i ctl f = .trap (.plain 0x02 0 i.active) :=
  Iss.withValue_of_not_range hne (by subst hv; simp [siRange]; omega)

variable (hrange : 1 ≤ v ∧ v ≤ 127)
include hrange

theorem bodyShrink_up (h : i.r < 8 * v) : bodyShrink x i ctl f = .trap (.plain 0x02 0 i.active) := by
  subst hv
  rw [bodyShrink, Iss.withValue_of_range hne (by simpa [siRange] using hrange)]
  exact if_pos h
theorem bodyShrink_grants (h : 8 * v ≤ i.r) : bodyShrink x i ctl f = .done ((i.mod f (fun g => g.resized (8 * v))).commit i i.active) := by
  subst hv
  rw [bodyShrink, Iss.withValue_of_range hne (by simpa [siRange] using hrange)]
  exact if_neg (by omega)

theorem bodyGrow_down (h : 8 * v < i.r) : bodyGrow x i ctl f = .trap (.plain 0x02 0 i.active) := by
  subst hv
  rw [bodyGrow, Iss.withValue_of_range hne (by simpa [siRange] using hrange)]
  exact if_pos h
theorem bodyGrow_same (h : 8 * v = i.r) : bodyGrow x i ctl f = .done (f.commit i i.active) := by
  subst hv
  rw [bodyGrow, Iss.withValue_of_range hne (by simpa [siRange] using hrange)]
  dsimp only
  rw [if_neg (by omega), if_pos h]

variable (hup : i.r < 8 * v)
include hup

theorem bodyGrow_too_big (h : f.growFits i (8 * v) = false) : bodyGrow x i ctl f = .trap (.plain 0x12 0 i.active) := by
  subst hv
  rw [bodyGrow, Iss.withValue_of_range hne (by simpa [siRange] using hrange)]
  dsimp only
  rw [if_neg (by omega), if_neg (by omega), if_pos (by simp [h])]

variable (hfits : f.growFits i (8 * v) = true)
include hfits

theorem bodyGrow_grants (h : (f.core i.core).regQueue = [] ∧ (8 * v - i.r) * i.w ≤ f.freeRegs i.core) :
    bodyGrow x i ctl f = .done ((i.mod f (fun g => g.setRegs (8 * v))).commit i i.active) := by
  subst hv
  rw [bodyGrow, Iss.withValue_of_range hne (by simpa [siRange] using hrange)]
  dsimp only
  rw [if_neg (by omega), if_neg (by omega), if_neg (by simp [hfits]), if_pos (by simpa using h)]

variable (hwaits : ¬((f.core i.core).regQueue = [] ∧ (8 * v - i.r) * i.w ≤ f.freeRegs i.core))
include hwaits

theorem bodyGrow_uncommitted (h : f.windowOpen i.core i.slot = true) : bodyGrow x i ctl f = .trap (.plain 0x12 0 i.active) := by
  subst hv
  rw [bodyGrow, Iss.withValue_of_range hne (by simpa [siRange] using hrange)]
  dsimp only
  rw [if_neg (by omega), if_neg (by omega), if_neg (by simp [hfits]), if_neg (by simpa using hwaits), if_pos h]

/-- The group is held, and its request stands in the core's register queue, which R106 may then find locked. -/
theorem bodyGrow_queues (h : f.windowOpen i.core i.slot = false) : bodyGrow x i ctl f = .done
    ((i.mod (f.setCore i.core { f.core i.core with regQueue := insertReq ⟨i.slot, (8 * v - i.r) * i.w, false⟩ (f.core i.core).regQueue })
      (fun g => { g with hold := some (.grow (maskOf i.entry) (maskOf i.active) i.pc (8 * v)) })).registerDeadlock i.core) := by
  subst hv
  rw [bodyGrow, Iss.withValue_of_range hne (by simpa [siRange] using hrange)]
  dsimp only
  rw [if_neg (by omega), if_neg (by omega), if_neg (by simp [hfits]), if_neg (by simpa using hwaits), if_neg (by simp [h])]
end

theorem mem_insertReq (q : RegReq) (qs : List RegReq) : q ∈ insertReq q qs := by
  induction qs with
  | nil => simp [insertReq]
  | cons x t ih =>
    rw [insertReq]
    split
    · simp
    · simp [ih]

theorem exec_shrink {j : Instr} {e : Enc} {f : XrForm} (he : asXr e = some (0x06, f)) (hj : j.enc? = some e) (s : State) :
    exec j s = run e noGate (bodyShrink f) s := by
  cases j
  all_goals cases hj
  all_goals cases he
  all_goals rfl

theorem exec_grow {j : Instr} {e : Enc} {f : XrForm} (he : asXr e = some (0x05, f)) (hj : j.enc? = some e) (s : State) :
    exec j s = run e noGate (bodyGrow f) s := by
  cases j
  all_goals cases hj
  all_goals cases he
  all_goals rfl

/-! ## `rgn` (R149, R293) -/

/-- A lane of an issue whose active lanes take a new region head. -/
def Iss.regionLane (i : Iss) (lit : DWord) (l : Nat) (x : Lane) : Lane :=
  if i.active.contains l then { x with ck := x.checkpoint i.core i.slot l lit i.pc, window := none } else x

theorem bodyRgn_trapMode {i : Iss} (h : i.trapMode = true) (lit : DWord) (ctl : Ctl) (f : Fab) : bodyRgn lit i ctl f = .done f := if_pos h
theorem bodyRgn_heads {i : Iss} (h : i.trapMode = false) (lit : DWord) (ctl : Ctl) (f : Fab) :
    bodyRgn lit i ctl f = .done (i.mod f (fun g => { g with lanes := g.lanes.mapIdx (i.regionLane lit) })) := if_neg (by simp [h])

/-- A lane past a `rgn`: nothing but its PC, its window and its checkpoint has changed. -/
theorem Iss.regionLane_spec (i : Iss) (lit : DWord) (l : Nat) (x : Lane) :
    let x' := i.regionLane lit l (i.pastLane l x)
    ({ x' with pc := 0, window := none, ck := x.ck } : Lane) = { x with pc := 0, window := none } ∧ x'.pc = past i l x ∧
      (l ∉ i.active → x'.ck = x.ck) ∧
      (l ∈ i.active → x'.window = none ∧ x'.ck =
        ⟨lit, (liveIns lit).map (fun n => x.priv i.core i.slot l n), i.pc, x.prio, x.enrolled, x.arrived, none⟩) := by
  by_cases hl : l ∈ i.active
  · rw [Iss.regionLane, if_pos (List.contains_iff_mem.mpr hl)]
    refine ⟨by rw [Iss.pastLane_eq], i.pastLane_pc l x, fun h => absurd hl h, fun _ => ⟨rfl, ?_⟩⟩
    simp [Lane.checkpoint]
  · rw [Iss.regionLane, if_neg (by simpa using hl)]
    exact ⟨by rw [Iss.pastLane_eq], i.pastLane_pc l x, fun _ => i.pastLane_ck l x, fun h => absurd h hl⟩

/-- An instruction that only retires writes no register. -/
theorem Iss.pure_nil (i : Iss) (f : Fab) : i.pure f 0 (fun _ => []) = .done f := by
  rw [Iss.pure, Iss.put]
  cases i.active <;> rfl

end Sys2Proof.Machine

namespace Sys2Proof.Safety
open Sys2Proof.Machine

/-- Settles O30: `rgn` in and out of trap mode, then the ends of `grow` and `shrink`, a grant being one change of the group. -/
theorem regionsAndRegisterCounts : Obligations.RegionsAndRegisterCounts := by
  unfold Obligations.RegionsAndRegisterCounts
  refine ⟨fun lit s i g h hg => ⟨fun htrap => ?_, fun htrap => ?_⟩, fun j e f grow s i g hj h hne hg => ?_⟩
  · obtain ⟨t, ht, hframe, -⟩ := run_pure 0 0 (fun _ => []) h ((bodyRgn_trapMode htrap lit _ _).trans (i.pure_nil _).symm) (fun _ _ => rfl)
    exact ⟨t, ht, hframe⟩
  · refine ⟨_, _, run_done h (bodyRgn_heads htrap lit _ _), groupFrame_mod_moved hg _ _,
      ⟨rfl, rfl, rfl, rfl, rfl, rfl, rfl, rfl, rfl, rfl, rfl⟩, rfl, rfl, fun l x hx => ?_⟩
    exact ⟨_, by rw [List.getElem?_mapIdx, Iss.getElem?_pastGroup_lanes, hx]; rfl, i.regionLane_spec lit l x⟩
  · intro v r opens granted
    obtain ⟨he, hj⟩ := hj
    obtain ⟨-, hr, -⟩ := Fab.iss_group h.1 hg
    have hv : i.srcB (moved s e i) f 1 i.lowest = v := Iss.srcB_advance ..
    have hgrants (k : Group → Group) (hk : k (i.pastGroup s.fab.ac e.hints g) = (i.pastGroup s.fab.ac e.hints g).resized r)
        (hrun : exec j s = .next (retired s i ((i.mod (moved s e i) k).commit i i.active))) : granted := by
      rw [commit_mod] at hrun
      refine ⟨_, _, hrun, groupFrame_mod_moved hg e _, ?_⟩
      rw [hk]
      exact grants_spec h.1 hg s.fab.ac e.hints r
    cases grow with
    | false =>
      rw [exec_shrink he hj] at hgrants ⊢
      refine ⟨fun hv' => run_trap h (bodyShrink_of_not_range hne hv hv'), fun hrange => ⟨fun hup => run_trap h (bodyShrink_up hne hv hrange hup),
        fun hsame => ?_, fun _ hdown => ?_, nofun, nofun⟩⟩
      · exact hgrants _ rfl (run_done h (bodyShrink_grants hne hv hrange hsame.le))
      · exact hgrants _ rfl (run_done h (bodyShrink_grants hne hv hrange hdown.le))
    | true =>
      rw [exec_grow he hj] at hgrants ⊢
      have hqueue := regQueue_moved s e i
      have hfree := freeRegs_moved s e i
      refine ⟨fun hv' => run_trap h (bodyGrow_of_not_range hne hv hv'), fun hrange => ⟨fun hdown => run_trap h (bodyGrow_down hne hv hrange hdown),
        fun hsame => ?same, nofun, fun _ hup hbig => run_trap h (bodyGrow_too_big hne hv hrange hup ((growFits_moved ..).trans hbig)),
        fun _ hup hfits => ?_⟩⟩
      case same =>
        refine hgrants (fun g => g) (if_pos (hsame.trans hr)).symm (run_done h ?_)
        rw [bodyGrow_same hne hv hrange hsame, mod_moved_self]
      rw [← growFits_moved s e] at hfits
      rw [← hqueue, ← hfree]
      refine ⟨fun hroom => hgrants _ (if_neg ?_).symm (run_done h (bodyGrow_grants hne hv hrange hup hfits hroom)), fun hwaits => ⟨fun hopen => ?_,
        fun hclosed => ⟨_, run_done h (bodyGrow_queues hne hv hrange hup hfits hwaits ?_), ⟨⟨i.slot, (r - i.r) * i.w, false⟩, ?_, rfl, rfl⟩, ?_⟩⟩⟩
      · exact fun heq => hup.ne' (heq.trans hr.symm)
      · exact run_trap h (bodyGrow_uncommitted hne hv hrange hup hfits hwaits ((windowOpen_moved e hg).mpr hopen))
      · rw [Bool.eq_false_iff, Ne, windowOpen_moved e hg]
        rintro ⟨l, x, hx, hlive, hwindow⟩
        exact hwindow (hclosed l x hx hlive)
      · rw [Fab.regQueue_registerDeadlock, Iss.mod, Fab.core_modGroup_self, Fab.core_setCore_self]
        exact mem_insertReq ..
      · generalize hk : ({ (moved s e i).core i.core with regQueue := _ } : Core) = k
        have hteam : k.team = ((moved s e i).core i.core).team := by rw [← hk]
        have hgroup : ((moved s e i).setCore i.core k).group? i.core i.slot = some (i.pastGroup s.fab.ac e.hints g) := by
          rw [Fab.group?_setCore, hteam]
          exact group?_moved hg e
        obtain ⟨w, hw⟩ := Fab.group?_registerDeadlock ((Fab.group?_modGroup_self ..).trans (congrArg _ hgroup))
        exact congrArg _ hw

end Sys2Proof.Safety
end

section
set_option Elab.async false

/-! # Instructions with no active lane (O24) -/

namespace Sys2Proof.Machine
open Sys2Proof.Safety

/-! ## Bodies that only pass -/

/-- An instruction that no counter holds back and whose body leaves the fabric alone, wherever it issues with no active lane. -/
def Idles (e : Enc) (gate : Iss → Fab → Bool) (body : Iss → Ctl → Fab → Res) : Prop :=
  ∀ (s : State) (i : Iss), Issues s e noGate i → i.active = [] → gate i s.fab = false ∧ body i s.ctl (moved s e i) = .done (moved s e i)

/-- Such an instruction does nothing but that its lanes pass it. -/
theorem run_of_idles {e : Enc} {gate : Iss → Fab → Bool} {body : Iss → Ctl → Fab → Res} {s : State} {i : Iss} (hidle : Idles e gate body)
    (h : Issues s e noGate i) (hnone : i.active = []) : ∃ t, run e gate body s = .next t ∧ RegFrame s t i 0 0 ∧ gcwOf t i = some i.gcw := by
  obtain ⟨hgate, hbody⟩ := hidle s i h hnone
  have hissues : Issues s e gate i := by
    obtain ⟨h1, h2, h3, h4, h5, h6, -, h7⟩ := h
    exact ⟨h1, h2, h3, h4, h5, h6, hgate, h7⟩
  obtain ⟨t, ht, hframe, -, hgcw⟩ := run_pure 0 0 (fun _ => []) hissues (hbody.trans (i.pure_nil _).symm) (fun _ _ => rfl)
  exact ⟨t, ht, hframe, hgcw⟩

/-- An encoding without a predicate has an active lane wherever it issues. -/
theorem Idles.of_no_pred {e : Enc} (h : e.pred = Pred.none_) (gate : Iss → Fab → Bool) (body : Iss → Ctl → Fab → Res) : Idles e gate body := by
  intro s i hi hnone
  obtain ⟨hiss, -⟩ := hi
  obtain ⟨-, -, -, -, -, -, -, -, -, -, -, hactive, hne, -⟩ := Fab.iss_spec hiss
  rw [h, List.filter_eq_self.mpr fun l _ => by simp [Fab.predicate, Pred.none_]] at hactive
  exact absurd (hactive.symm.trans hnone) hne

section
variable {e : Enc} {gate : Iss → Fab → Bool} {body : Iss → Ctl → Fab → Res}

/-- A body that leaves every fabric alone, under a gate that holds nothing back, where no lane is active. -/
theorem Idles.of_body (hgate : ∀ i f, i.active = [] → gate i f = false) (hbody : ∀ i ctl f, i.active = [] → body i ctl f = .done f) :
    Idles e gate body := fun s i _ hnone => ⟨hgate i s.fab hnone, hbody i s.ctl (moved s e i) hnone⟩

/-- A body that begins with the test whether a lane is active. -/
theorem Idles.of_guard (hgate : ∀ i f, i.active = [] → gate i f = false) (hbody : ∀ i ctl f, i.active.isEmpty = true → body i ctl f = .done f) :
    Idles e gate body := .of_body hgate fun i ctl f hnone => hbody i ctl f (by rw [hnone]; rfl)

/-- A body that no counter holds back and that changes its group in the lanes that act, of which there are none. -/
theorem Idles.of_mod (hbody : ∀ i ctl f, i.active = [] → body i ctl f = .done (i.mod f (fun g => g))) : Idles e noGate body :=
  fun s i _ hnone => ⟨rfl, (hbody i s.ctl (moved s e i) hnone).trans (congrArg _ (mod_moved_self s e i))⟩
end

/-! ## Gates -/

section
variable (i : Iss) (f : Fab) (h : i.active = [])
include h

theorem gateSeal_of_none : gateSeal i f = false := by simp [gateSeal, h]
theorem gateMem_of_none : gateMem i f = false := by simp [gateMem, h]
theorem gateRti_of_none : gateRti i f = false := by simp [gateRti, h]
theorem gateIncx_of_none (x : XrForm) : gateIncx x i f = false := by simp [gateIncx, gateMem_of_none i f h]
theorem gateLd_of_none : gateLd i f = false := by simp [gateLd, h]
theorem gateSt_of_none : gateSt i f = false := by simp [gateSt, h]
theorem gateLdSt_of_none : gateLdSt i f = false := by simp [gateLdSt, gateLd_of_none i f h, gateSt_of_none i f h]
theorem gateAtom_of_none (x : XmForm) : gateAtom x i f = false := by simp [gateAtom, gateLd_of_none i f h, gateSt_of_none i f h]
theorem gateQpoll_of_none : gateQpoll i f = false := by simp [gateQpoll, gateLd_of_none i f h, gateMem_of_none i f h]
theorem gatePres_of_none (x : XmForm) : gatePres x i f = false := by simp [gatePres, gateLd_of_none i f h, gateSt_of_none i f h]
theorem gateCopy_of_none : gateCopy i f = false := by simp [gateCopy, gateMem_of_none i f h, h]
theorem gateMx_of_none : gateMx i f = false := by simp [gateMx, gateMem_of_none i f h, h]
theorem gateSend_of_none : gateSend i f = false := by simp [gateSend, gateMem_of_none i f h, h]
theorem gateRrd_of_none : gateRrd i f = false := by simp [gateRrd, gateSend_of_none i f h, gateLd_of_none i f h]
end

/-! ## Bodies that range over the active lanes -/

/-- No condition is no cause. -/
theorem Conds.none_has (c : Nat) : Conds.none_.has c = false := by
  unfold Conds.has
  split <;> rfl

section
variable {i : Iss} (h : i.active = [])
include h

theorem Iss.pure_of_none (f : Fab) (d : Nat) (v : Nat → List Reg) : i.pure f d v = .done f := by
  rw [Iss.pure, h]
  rfl

theorem Iss.lanewise_of_none (f : Fab) (d : Nat) (v : Nat → List Reg × Conds) : i.lanewise f d v = .done (i.mod f (fun g => g)) := by
  have hzero (g : Group) : ({ g with gcw := g.gcw ||| Conds.none_.sticky } : Group) = g := by
    rw [show Conds.none_.sticky = 0#32 by decide, BitVec.or_zero]
  rw [Iss.lanewise, h, Iss.finish]
  simp only [List.map_nil, List.foldl_nil, Conds.none_has, Bool.and_false, List.find?_eq_none.mpr fun _ _ => Bool.false_ne_true, hzero]
  rfl

theorem Iss.indirect_of_none (f : Fab) (value : Nat → Nat) (prio : Option Byte) : i.indirect f value prio = .done (i.mod f (fun g => g)) := by
  rw [Iss.indirect, h]
  rfl

theorem Iss.segFails_of_none (f : Fab) (x : XrForm) (fam : Fam) (n : Nat) : i.segFails f x fam n = [] := by
  rw [Iss.segFails, h]
  rfl

theorem Iss.eachActive_of_none (f : Fab) (k : Lane → Lane) : i.eachActive f k = i.mod f (fun g => g) := by
  have hsame (g : Group) : g.lanes.mapIdx (fun l x => if ([] : List Nat).contains l then k x else x) = g.lanes := by
    refine List.ext_getElem? fun l => ?_
    rw [List.getElem?_mapIdx]
    simp
  rw [Iss.eachActive, h]
  simp only [hsame]
end

/-- An operation of chapter 13 has uses for every value of SUB that passes the encoding checks. -/
theorem Idles.of_elementwise {o : BitVec 8} {f : XrForm} {op : LaneOp} : Idles (.xr o f) noGate (elementwise o.toNat f op) := by
  intro s i hi hnone
  obtain ⟨-, -, -, herror, -⟩ := hi
  refine ⟨rfl, ?_⟩
  unfold elementwise
  split
  next hu =>
    refine absurd herror ?_
    show xrError o.toNat f ≠ none
    unfold xrError
    rw [hu]
    split
    · simp
    · split <;> simp
  next => rw [Iss.lanewise_of_none hnone, mod_moved_self]

/-! ## Every core instruction -/

theorem exec_idles {j : Instr} {e : Enc} (hj : j.enc? = some e) (hassigned : e.opc ∉ [0xC8, 0xC9]) (hgood : ∀ o, e ≠ .bad o) :
    ∃ gate body, (∀ s, exec j s = run e gate body s) ∧ Idles e gate body := by
  cases j
  all_goals cases hj
  case rendXr | rdropXr => simp [Enc.opc] at hassigned
  case illegalOpcode o => exact absurd rfl (hgood o)
  case nopSz | waitSw | sealSz | rgnSz | growSi | shrinkSi | fenceSi | trapSz | rtiSz | syscallSi | irqSi | brkSz | sidSi | exitSz | sleepSi | jmpSb
      | addS3 | subS3 | mulS3 | minS3 | maxS3 | movS3 | faddS3 | fsubS3 | fmulS3 | fminS3 | fmaxS3 | shlSi | shrSi | sarSi =>
    exact ⟨_, _, fun _ => rfl, .of_no_pred rfl _ _⟩
  case growXr | shrinkXr | trapXr | rtiRgnXr | syscallXr | irqXr | brkXr | sidXr | gctlXr | sleepXr | tnextXr | bndXr | cinvXm | barwXm | rdelXr
      | jwaitXr | jstrXr =>
    exact ⟨_, _, fun _ => rfl, .of_guard (fun _ _ _ => rfl) fun _ _ _ h => if_pos h⟩
  case fenceXr | tspawnXr | rdefXr | swaitXm => exact ⟨_, _, fun _ => rfl, .of_guard gateMem_of_none fun _ _ _ h => if_pos h⟩
  case rtiXr | rtiNextXr => exact ⟨_, _, fun _ => rfl, .of_guard gateRti_of_none fun _ _ _ h => if_pos h⟩
  case ldXm | pinXm => exact ⟨_, _, fun _ => rfl, .of_guard gateLd_of_none fun _ _ _ h => if_pos h⟩
  case stXm | unpinXm | cflXm | bariXm | barvXm | barxXm | qenqXm | qdeqXm =>
    exact ⟨_, _, fun _ => rfl, .of_guard gateSt_of_none fun _ _ _ h => if_pos h⟩
  case atomXm f => exact ⟨_, _, fun _ => rfl, .of_guard (fun i fab h => gateAtom_of_none i fab h f) fun _ _ _ h => if_pos h⟩
  case casXm => exact ⟨_, _, fun _ => rfl, .of_guard gateLdSt_of_none fun _ _ _ h => if_pos h⟩
  case qpollXm => exact ⟨_, _, fun _ => rfl, .of_guard gateQpoll_of_none fun _ _ _ h => if_pos h⟩
  case presXm f => exact ⟨_, _, fun _ => rfl, .of_guard (fun i fab h => gatePres_of_none i fab h f) fun _ _ _ h => if_pos h⟩
  case cplXm | cptXt => exact ⟨_, _, fun _ => rfl, .of_guard gateCopy_of_none fun _ _ _ h => if_pos h⟩
  case bldXt | mmaXt | mbinXt | mretXt | mclrXt | foldXt | scanXt | zipXt | zipMergeXt | outrXt =>
    exact ⟨_, _, fun _ => rfl, .of_guard gateMx_of_none fun _ _ _ h => if_pos h⟩
  case rwrXm | raddXm | rsigXm | rmcXm | raccXm | mretSendXt =>
    exact ⟨_, _, fun _ => rfl, .of_guard gateSend_of_none fun _ _ _ h => if_pos h⟩
  case rrdXm => exact ⟨_, _, fun _ => rfl, .of_guard gateRrd_of_none fun _ _ _ h => if_pos h⟩
  case nopXr => exact ⟨_, _, fun _ => rfl, .of_body (fun _ _ _ => rfl) fun _ _ _ _ => rfl⟩
  case sealXr => exact ⟨_, _, fun _ => rfl, .of_guard gateSeal_of_none fun _ _ _ h => congrArg Res.done (if_pos h)⟩
  case exitXr => exact ⟨_, _, fun _ => rfl, .of_body (fun _ _ _ => rfl) fun _ _ _ h => by rw [bodyExit, h]; rfl⟩
  case pfXm => exact ⟨_, _, fun _ => rfl, .of_body (fun _ _ _ => rfl) fun _ _ _ h => by rw [bodyPf, h]; rfl⟩
  case lscanXr => exact ⟨_, _, fun _ => rfl, .of_body (fun _ _ _ => rfl) fun _ _ _ h => by rw [bodyLscan, h]; rfl⟩
  case incxXr f => exact ⟨_, _, fun _ => rfl, .of_body (fun i fab h => gateIncx_of_none i fab h f) fun _ _ _ h => by rw [bodyIncx, h]; rfl⟩
  case incrXr =>
    refine ⟨_, _, fun _ => rfl, .of_body (fun _ _ _ => rfl) fun i ctl fab h => ?_⟩
    rw [bodyIncr, if_neg (by simp [h])]
    exact Iss.pure_of_none h ..
  case jmovXr | voteXr | balXr | matchXr =>
    exact ⟨_, _, fun _ => rfl, .of_body (fun _ _ _ => rfl) fun _ _ _ h => Iss.pure_of_none h ..⟩
  case kpackXr =>
    refine ⟨_, _, fun _ => rfl, .of_body (fun _ _ _ => rfl) fun i ctl fab h => ?_⟩
    rw [bodyKpack, Iss.segFails_of_none h]
    exact Iss.pure_of_none h ..
  case kunpXr =>
    refine ⟨_, _, fun _ => rfl, .of_body (fun _ _ _ => rfl) fun i ctl fab h => ?_⟩
    rw [bodyKunp, Iss.segFails_of_none h]
    exact Iss.pure_of_none h ..
  case lredXr => exact ⟨_, _, fun _ => rfl, .of_mod fun _ _ _ h => Iss.lanewise_of_none h ..⟩
  case retXr | brxXb => exact ⟨_, _, fun _ => rfl, .of_mod fun _ _ _ h => Iss.indirect_of_none h ..⟩
  case jenrXr => exact ⟨_, _, fun _ => rfl, .of_mod fun _ _ _ h => congrArg Res.done (Iss.eachActive_of_none h ..)⟩
  case jmpXb => exact ⟨_, _, fun _ => rfl, .of_mod fun _ _ _ h => by rw [bodyJmp, h]; rfl⟩
  case callXb => exact ⟨_, _, fun _ => rfl, .of_mod fun _ _ _ h => by rw [bodyCall, h]; rfl⟩
  case bnzXb | bzXb => exact ⟨_, _, fun _ => rfl, .of_mod fun _ _ _ h => by rw [bodyBcond, h]; rfl⟩
  -- What is left works lane by lane.
  all_goals exact ⟨_, _, fun _ => rfl, .of_elementwise⟩

end Sys2Proof.Machine

namespace Sys2Proof.Safety
open Sys2Proof.Machine

/-- Settles O24: every core instruction runs a body that leaves the fabric alone where no lane is active. -/
theorem noActiveLane : Obligations.NoActiveLane := by
  unfold Obligations.NoActiveLane
  intro j e s i hj hassigned hgood h hnone
  obtain ⟨gate, body, hrun, hidle⟩ := exec_idles hj hassigned hgood
  rw [hrun]
  exact run_of_idles hidle h hnone

end Sys2Proof.Safety
end
